-- ==== Sys2Proof/Word.lean ====
section
/-! DEFINITION. Word types and the sparse map type every storage of the model uses. -/

namespace Sys2Proof

abbrev Byte := BitVec 8
abbrev Half := BitVec 16
abbrev Word := BitVec 32
abbrev DWord := BitVec 64
/-- A general-register number (R163). -/
abbrev Reg := BitVec 5

/-- Sparse storage: (key, value) pairs with strictly rising keys; an unlisted key reads as the default its reader names. -/
abbrev SMap (α : Type) := List (Nat × α)

end Sys2Proof
end

