-- ==== Sys2Proof/Syntax.lean ====
section
/-! DEFINITION. The steps of the part, one constructor per row of the opcode table: 224 instruction words and 155 events
that the hardware performs between instructions (95_what_each_step_holds.md). -/

namespace Sys2Proof

/-- A source register with its 2-bit mode (R164). -/
structure Src where
  r : Reg
  m : BitVec 2
  deriving DecidableEq, Repr

/-- A descriptor written to a descriptor window, at most 64 bytes (R348); bit 0 is bit 0 of its first byte. -/
abbrev Desc := BitVec 512

/-- The header cell of a message with its data (R120, R121). The kind is the event's constructor. -/
structure Msg where
  src  : Nat
  dst  : Nat
  slot : Nat
  asid : Nat
  memd : Bool
  adaptive : Bool
  tag  : Nat
  pa   : Nat
  len  : Nat
  attr : BitVec 32
  aux0 : DWord
  aux1 : DWord
  aux2 : DWord
  aux3 : DWord
  aux4 : DWord
  data : List Byte
  deriving DecidableEq, Repr


/-- What the boot of R357 finds outside the package's state: the firmware check, the package number of the straps, the dies that
answer, their enabled tiles where not 256, and the firmware image's digest. -/
structure BootInput where
  signatureGood : Bool
  pkg : Nat
  present : List Nat
  tiles : List (Nat × Nat)
  imageDigest : BitVec 512
  deriving DecidableEq, Repr

/-- An event's constructor takes no argument: its operands are the State's field `arg` (log entry 10). -/
inductive Instr where
  /-- ADD (R211): Writes (a + b) mod 2^32 to rd. -/
  | add (d : Reg) (a : Src) (b : Src)
  /-- SUB (R211): Writes (a - b) mod 2^32 to rd. -/
  | sub (d : Reg) (a : Src) (b : Src)
  /-- AND (R211): Writes the bitwise and of a and b to rd. -/
  | and (d : Reg) (a : Src) (b : Src)
  /-- OR (R211): Writes the bitwise or of a and b to rd. -/
  | or (d : Reg) (a : Src) (b : Src)
  /-- XOR (R211): Writes the bitwise xor of a and b to rd. -/
  | xor (d : Reg) (a : Src) (b : Src)
  /-- ANDN (R211): Writes a and not b to rd. -/
  | andn (d : Reg) (a : Src) (b : Src)
  /-- SLL (R211): Shifts a left by b[4:0] with zero fill. -/
  | sll (d : Reg) (a : Src) (b : Src)
  /-- SRL (R211): Shifts a right by b[4:0] with zero fill. -/
  | srl (d : Reg) (a : Src) (b : Src)
  /-- SRA (R211): Shifts a right by b[4:0] with sign fill. -/
  | sra (d : Reg) (a : Src) (b : Src)
  /-- ROL (R211): Rotates a left by b[4:0]. -/
  | rol (d : Reg) (a : Src) (b : Src)
  /-- ROR (R211): Rotates a right by b[4:0]. -/
  | ror (d : Reg) (a : Src) (b : Src)
  /-- MUL (R211): Writes the low 32 bits of the signed product. -/
  | mul (d : Reg) (a : Src) (b : Src)
  /-- MULH (R211): Writes bits [63:32] of the signed product. -/
  | mulh (d : Reg) (a : Src) (b : Src)
  /-- MULHU (R211): Writes bits [63:32] of the unsigned product. -/
  | mulhu (d : Reg) (a : Src) (b : Src)
  /-- DIV (R212): Starts a signed divide on the tile divider, saturating without trapping. -/
  | div (d : Reg) (a : Src) (b : Src)
  /-- DIVU (R212): Starts an unsigned divide on the tile divider. -/
  | divu (d : Reg) (a : Src) (b : Src)
  /-- REM (R212): Starts a signed remainder on the tile divider. -/
  | rem (d : Reg) (a : Src) (b : Src)
  /-- REMU (R212): Starts an unsigned remainder on the tile divider. -/
  | remu (d : Reg) (a : Src) (b : Src)
  /-- MIN (R211): Writes the signed minimum. -/
  | min (d : Reg) (a : Src) (b : Src)
  /-- MAX (R211): Writes the signed maximum. -/
  | max (d : Reg) (a : Src) (b : Src)
  /-- MINU (R211): Writes the unsigned minimum. -/
  | minu (d : Reg) (a : Src) (b : Src)
  /-- MAXU (R211): Writes the unsigned maximum. -/
  | maxu (d : Reg) (a : Src) (b : Src)
  /-- ADDS (R211): Writes the saturated signed sum. -/
  | adds (d : Reg) (a : Src) (b : Src)
  /-- SUBS (R211): Writes the saturated signed difference. -/
  | subs (d : Reg) (a : Src) (b : Src)
  /-- DIVIDER_DONE (R210): The iterative divider finishes, the divide commits, and the divider reserves itself for the next waiting slot. -/
  | dividerDone
  /-- ADDI (R213): Adds a sign-extended 13-bit immediate to rs1. -/
  | addi (d : Reg) (a : Src) (imm : BitVec 13)
  /-- SLLI (R214): Shifts left by an immediate amount. -/
  | slli (d : Reg) (a : Src) (c : BitVec 5)
  /-- SRLI (R214): Shifts right by an immediate amount with zero fill. -/
  | srli (d : Reg) (a : Src) (c : BitVec 5)
  /-- SRAI (R214): Shifts right by an immediate amount with sign fill. -/
  | srai (d : Reg) (a : Src) (c : BitVec 5)
  /-- RORI (R214): Rotates right by an immediate amount. -/
  | rori (d : Reg) (a : Src) (c : BitVec 5)
  /-- LUI (R215): Writes imm20 << 12 to rd. -/
  | lui (d : Reg) (imm : BitVec 20)
  /-- ADDPC (R215): Writes PC plus a signed word offset to rd. -/
  | addpc (d : Reg) (imm : BitVec 20)
  /-- SEQ (R216): Writes 1 if a equals b. -/
  | seq (d : Reg) (a : Src) (b : Src)
  /-- SNE (R216): Writes 1 if a differs from b. -/
  | sne (d : Reg) (a : Src) (b : Src)
  /-- SLT (R216): Writes 1 if a < b signed. -/
  | slt (d : Reg) (a : Src) (b : Src)
  /-- SLTU (R216): Writes 1 if a < b unsigned. -/
  | sltu (d : Reg) (a : Src) (b : Src)
  /-- SEQI (R216): Writes 1 if a equals the immediate. -/
  | seqi (d : Reg) (a : Src) (imm : BitVec 10)
  /-- SNEI (R216): Writes 1 if a differs from the immediate. -/
  | snei (d : Reg) (a : Src) (imm : BitVec 10)
  /-- SLTI (R216): Writes 1 if a is below the immediate, signed. -/
  | slti (d : Reg) (a : Src) (imm : BitVec 10)
  /-- SLTUI (R216): Writes 1 if a is below the immediate, unsigned. -/
  | sltui (d : Reg) (a : Src) (imm : BitVec 10)
  /-- SGTI (R216): Writes 1 if a is above the immediate, signed. -/
  | sgti (d : Reg) (a : Src) (imm : BitVec 10)
  /-- SGTUI (R216): Writes 1 if a is above the immediate, unsigned. -/
  | sgtui (d : Reg) (a : Src) (imm : BitVec 10)
  /-- SELNZ (R217): Selects rs1 if gc is nonzero, otherwise rs2. -/
  | selnz (d : Reg) (a : Src) (b : Src) (c : Reg)
  /-- SELEQZ (R217): Selects rs1 if gc is zero, otherwise rs2. -/
  | seleqz (d : Reg) (a : Src) (b : Src) (c : Reg)
  /-- CLZ (R218): Counts leading zero bits. -/
  | clz (d : Reg) (a : Src)
  /-- CTZ (R218): Counts trailing zero bits. -/
  | ctz (d : Reg) (a : Src)
  /-- POPC (R218): Counts one bits. -/
  | popc (d : Reg) (a : Src)
  /-- BREV (R218): Reverses the bit order. -/
  | brev (d : Reg) (a : Src)
  /-- BSWAP (R218): Reverses the byte order. -/
  | bswap (d : Reg) (a : Src)
  /-- SEXTB (R218): Sign-extends the low byte. -/
  | sextb (d : Reg) (a : Src)
  /-- SEXTH (R218): Sign-extends the low half. -/
  | sexth (d : Reg) (a : Src)
  /-- ZEXTH (R218): Zero-extends the low half. -/
  | zexth (d : Reg) (a : Src)
  /-- EXTU (R219): Extracts an unsigned bit field. -/
  | extu (d : Reg) (a : Src) (p : BitVec 5) (w : BitVec 5)
  /-- EXTS (R219): Extracts a signed bit field. -/
  | exts (d : Reg) (a : Src) (p : BitVec 5) (w : BitVec 5)
  /-- INS (R219): Inserts low bits of rs1 into a field of rd. -/
  | ins (d : Reg) (a : Src) (p : BitVec 5) (w : BitVec 5)
  /-- BEQZ (R220): Branches if rs1 is zero. -/
  | beqz (a : Src) (imm : BitVec 14) (p : BitVec 1)
  /-- BNEZ (R220): Branches if rs1 is nonzero. -/
  | bnez (a : Src) (imm : BitVec 14) (p : BitVec 1)
  /-- BLTZ (R220): Branches if rs1 is negative. -/
  | bltz (a : Src) (imm : BitVec 14) (p : BitVec 1)
  /-- BGEZ (R220): Branches if rs1 is not negative. -/
  | bgez (a : Src) (imm : BitVec 14) (p : BitVec 1)
  /-- BGTZ (R220): Branches if rs1 is positive. -/
  | bgtz (a : Src) (imm : BitVec 14) (p : BitVec 1)
  /-- BLEZ (R220): Branches if rs1 is zero or negative. -/
  | blez (a : Src) (imm : BitVec 14) (p : BitVec 1)
  /-- BFULL (R220): Branches if rs1 is full, without reading it. -/
  | bfull (a : Reg) (imm : BitVec 14) (p : BitVec 1)
  /-- BEMPTY (R220): Branches if rs1 is empty, without reading it. -/
  | bempty (a : Reg) (imm : BitVec 14) (p : BitVec 1)
  /-- JAL (R222): Writes PC + 4 to rd and jumps by a word offset. -/
  | jal (d : Reg) (imm : BitVec 20)
  /-- JALR (R222): Writes PC + 4 to rd and jumps to rs1 plus an offset. -/
  | jalr (d : Reg) (a : Src) (imm : BitVec 13)
  /-- FADD (R224): FP32 addition rounded under ST.RM. -/
  | fadd (d : Reg) (a : Src) (b : Src)
  /-- FSUB (R224): FP32 subtraction. -/
  | fsub (d : Reg) (a : Src) (b : Src)
  /-- FMUL (R224): FP32 multiplication. -/
  | fmul (d : Reg) (a : Src) (b : Src)
  /-- FDIV (R224): Starts an FP32 division on the tile divider. -/
  | fdiv (d : Reg) (a : Src) (b : Src)
  /-- FSQRT (R224): Starts an FP32 square root on the tile divider. -/
  | fsqrt (d : Reg) (a : Src)
  /-- FMIN (R224): minimumNumber of two FP32 values. -/
  | fmin (d : Reg) (a : Src) (b : Src)
  /-- FMAX (R224): maximumNumber of two FP32 values. -/
  | fmax (d : Reg) (a : Src) (b : Src)
  /-- FCPYS (R224): Magnitude of a with the sign of b. -/
  | fcpys (d : Reg) (a : Src) (b : Src)
  /-- FNEG (R224): Negates an FP32 value. -/
  | fneg (d : Reg) (a : Src)
  /-- FABS (R224): Absolute value of an FP32 value. -/
  | fabs (d : Reg) (a : Src)
  /-- FXSGN (R224): Magnitude of a with the xor of both signs. -/
  | fxsgn (d : Reg) (a : Src) (b : Src)
  /-- FMINP (R224): IEEE minimum, propagating NaN. -/
  | fminp (d : Reg) (a : Src) (b : Src)
  /-- FMAXP (R224): IEEE maximum, propagating NaN. -/
  | fmaxp (d : Reg) (a : Src) (b : Src)
  /-- FMADD (R225): Fused a*b + c with one rounding. -/
  | fmadd (d : Reg) (a : Src) (b : Src) (c : Reg)
  /-- FMSUB (R225): Fused a*b - c with one rounding. -/
  | fmsub (d : Reg) (a : Src) (b : Src) (c : Reg)
  /-- FCMPEQ (R226): FP32 equality compare. -/
  | fcmpeq (d : Reg) (a : Src) (b : Src)
  /-- FCMPLT (R226): FP32 less-than compare. -/
  | fcmplt (d : Reg) (a : Src) (b : Src)
  /-- FCMPLE (R226): FP32 less-or-equal compare. -/
  | fcmple (d : Reg) (a : Src) (b : Src)
  /-- FCLASS (R226): Classifies the raw FP32 bits. -/
  | fclass (d : Reg) (a : Src)
  /-- FTOI (R226): Converts FP32 to signed 32-bit integer. -/
  | ftoi (d : Reg) (a : Src)
  /-- FTOU (R226): Converts FP32 to unsigned 32-bit integer. -/
  | ftou (d : Reg) (a : Src)
  /-- ITOF (R226): Converts a signed integer to FP32. -/
  | itof (d : Reg) (a : Src)
  /-- UTOF (R226): Converts an unsigned integer to FP32. -/
  | utof (d : Reg) (a : Src)
  /-- FTOBF (R226): Rounds FP32 to BF16. -/
  | ftobf (d : Reg) (a : Src)
  /-- FTOH (R226): Rounds FP32 to FP16. -/
  | ftoh (d : Reg) (a : Src)
  /-- BFTOF (R226): Widens BF16 to FP32 exactly. -/
  | bftof (d : Reg) (a : Src)
  /-- HTOF (R226): Widens FP16 to FP32 exactly. -/
  | htof (d : Reg) (a : Src)
  /-- LEA (R232): Checks and writes the offset of a memory operand without touching memory. -/
  | lea (d : Reg) (sg : BitVec 3) (a : Src) (c : BitVec 2) (imm : BitVec 8)
  /-- SEGLD (R233): Loads a 16-byte segment descriptor, applying the narrowing rule at arrival. -/
  | segld (d : BitVec 3) (sg : BitVec 3) (a : Src) (imm : BitVec 8)
  /-- SEGRD (R233): Reads one word of a segment register. -/
  | segrd (d : Reg) (sg : BitVec 3) (p : BitVec 2)
  /-- LDW (R230): Loads a 32-bit word, possibly moving the thread to the data. -/
  | ldw (d : Reg) (sg : BitVec 3) (a : Src) (imm : BitVec 8)
  /-- LDH (R230): Loads a sign-extended half. -/
  | ldh (d : Reg) (sg : BitVec 3) (a : Src) (imm : BitVec 8)
  /-- LDHU (R230): Loads a zero-extended half. -/
  | ldhu (d : Reg) (sg : BitVec 3) (a : Src) (imm : BitVec 8)
  /-- LDB (R230): Loads a sign-extended byte. -/
  | ldb (d : Reg) (sg : BitVec 3) (a : Src) (imm : BitVec 8)
  /-- LDBU (R230): Loads a zero-extended byte. -/
  | ldbu (d : Reg) (sg : BitVec 3) (a : Src) (imm : BitVec 8)
  /-- LDP (R230): Loads 8 bytes into a register pair. -/
  | ldp (d : Reg) (sg : BitVec 3) (a : Src) (imm : BitVec 8)
  /-- STW (R230): Posts a 32-bit store. -/
  | stw (t : Src) (sg : BitVec 3) (a : Src) (imm : BitVec 8)
  /-- STH (R230): Posts a 16-bit store. -/
  | sth (t : Src) (sg : BitVec 3) (a : Src) (imm : BitVec 8)
  /-- STB (R230): Posts an 8-bit store. -/
  | stb (t : Src) (sg : BitVec 3) (a : Src) (imm : BitVec 8)
  /-- STP (R230): Posts an 8-byte store from a register pair. -/
  | stp (t : Src) (sg : BitVec 3) (a : Src) (imm : BitVec 8)
  /-- AADD (R234): Ordered atomic add at the word's home. -/
  | aadd (d : Reg) (sg : BitVec 3) (a : Src) (b : Src)
  /-- AAND (R234): Ordered atomic and. -/
  | aand (d : Reg) (sg : BitVec 3) (a : Src) (b : Src)
  /-- AOR (R234): Ordered atomic or. -/
  | aor (d : Reg) (sg : BitVec 3) (a : Src) (b : Src)
  /-- AXOR (R234): Ordered atomic xor. -/
  | axor (d : Reg) (sg : BitVec 3) (a : Src) (b : Src)
  /-- AMIN (R234): Ordered atomic signed minimum. -/
  | amin (d : Reg) (sg : BitVec 3) (a : Src) (b : Src)
  /-- AMAX (R234): Ordered atomic signed maximum. -/
  | amax (d : Reg) (sg : BitVec 3) (a : Src) (b : Src)
  /-- AMINU (R234): Ordered atomic unsigned minimum. -/
  | aminu (d : Reg) (sg : BitVec 3) (a : Src) (b : Src)
  /-- AMAXU (R234): Ordered atomic unsigned maximum. -/
  | amaxu (d : Reg) (sg : BitVec 3) (a : Src) (b : Src)
  /-- AADD_C (R100): Combinable atomic add that may be reordered and merged. -/
  | aaddC (d : Reg) (sg : BitVec 3) (a : Src) (b : Src)
  /-- AAND_C (R100): Combinable atomic and. -/
  | aandC (d : Reg) (sg : BitVec 3) (a : Src) (b : Src)
  /-- AOR_C (R100): Combinable atomic or. -/
  | aorC (d : Reg) (sg : BitVec 3) (a : Src) (b : Src)
  /-- AXOR_C (R100): Combinable atomic xor. -/
  | axorC (d : Reg) (sg : BitVec 3) (a : Src) (b : Src)
  /-- AMIN_C (R100): Combinable atomic signed minimum. -/
  | aminC (d : Reg) (sg : BitVec 3) (a : Src) (b : Src)
  /-- AMAX_C (R100): Combinable atomic signed maximum. -/
  | amaxC (d : Reg) (sg : BitVec 3) (a : Src) (b : Src)
  /-- AMINU_C (R100): Combinable atomic unsigned minimum. -/
  | aminuC (d : Reg) (sg : BitVec 3) (a : Src) (b : Src)
  /-- AMAXU_C (R100): Combinable atomic unsigned maximum. -/
  | amaxuC (d : Reg) (sg : BitVec 3) (a : Src) (b : Src)
  /-- SWAP (R234): Atomically replaces the word and returns its old value. -/
  | swap (d : Reg) (sg : BitVec 3) (a : Src) (b : Src)
  /-- CAS (R234): Atomic compare-and-swap against rd. -/
  | cas (d : Reg) (sg : BitVec 3) (a : Src) (b : Src)
  /-- FENCE (R95): Waits until earlier accesses on the masked paths within the scope are performed, then commits. -/
  | fence (c : BitVec 3) (p : BitVec 8)
  /-- BINIT (R62): Initialises a guard record and its stamp array at the manager. -/
  | binit (d : Reg) (sg : BitVec 3) (a : Src) (b : Src)
  /-- BIND (R63): Walks a region and binds it to a guard, installing filter pieces. -/
  | bind (d : Reg) (sg : BitVec 3) (a : Src) (b : Src)
  /-- UNBIND (R64): Unbinds a free guard, optionally retiring the record. -/
  | unbind (d : Reg) (sg : BitVec 3) (a : Src) (b : Src)
  /-- ACQ_X (R67): Requests an exclusive hold after reading the binding and making a PENDING entry. -/
  | acqX (d : Reg) (sg : BitVec 3) (a : Src) (b : Src)
  /-- ACQ_S (R67): Requests a shared hold. -/
  | acqS (d : Reg) (sg : BitVec 3) (a : Src) (b : Src)
  /-- GTRY_X (R73): Tries for an exclusive hold without queueing. -/
  | gtryX (d : Reg) (sg : BitVec 3) (a : Src) (b : Src)
  /-- GTRY_S (R73): Tries for a shared hold without queueing. -/
  | gtryS (d : Reg) (sg : BitVec 3) (a : Src) (b : Src)
  /-- REL (R76): Releases a hold after all writes to the copy are performed, sending the dirty map. -/
  | rel (d : Reg) (sg : BitVec 3) (a : Src)
  /-- JOIN (R151): Joins a group, creating it if not live. -/
  | join (d : Reg) (sg : BitVec 3) (a : Src) (b : Src)
  /-- LEAVE (R151): Leaves a group. -/
  | leave (d : Reg) (sg : BitVec 3) (a : Src)
  /-- ARRIVE (R152): Fences at SPAN and posts an arrival at the group's barrier. -/
  | arrive (d : Reg) (sg : BitVec 3) (a : Src)
  /-- BWAIT (R152): Parks BARRIER while the thread's arrival awaits release. -/
  | bwait (d : Reg) (sg : BitVec 3) (a : Src)
  /-- BARW (R241): Arrives and then parks until the release. -/
  | barw (d : Reg) (sg : BitVec 3) (a : Src)
  /-- WAITC (R242): Installs a watch on a completion word that fills rd when satisfied. -/
  | waitc (d : Reg) (sg : BitVec 3) (a : Src) (b : Src)
  /-- POSTC (R243): Posts an add to a completion word. -/
  | postc (d : Reg) (sg : BitVec 3) (a : Src) (b : Src)
  /-- POSTCE (R243): Posts an add with the error bit set. -/
  | postce (d : Reg) (sg : BitVec 3) (a : Src) (b : Src)
  /-- SEND (R245): Sends a word to a tile's channel, role recast or message queue. -/
  | send (a : Src) (b : Src) (k : BitVec 3)
  /-- CHON (R244): Sets a channel peer and enables a channel register. -/
  | chon (a : Src) (k : BitVec 2)
  /-- CHOFF (R244): Disables a channel register. -/
  | choff (k : BitVec 2)
  /-- MCST (R247): Sends a multicast store of scratchpad data to a group through the relay. -/
  | mcst (d : Reg) (sg : BitVec 3) (a : Src) (b : Src)
  /-- MCSTC (R248): Sends a conditional multicast store decided at each member. -/
  | mcstc (d : Reg) (sg : BitVec 3) (a : Src) (b : Src)
  /-- MCSEQ (R249): Reads or waits on the group's applied sequence on this package. -/
  | mcseq (d : Reg) (a : Src) (b : Src)
  /-- MZERO (R262): Zeroes the accumulator banks named in a mask. -/
  | mzero (a : Src)
  /-- MMA (R261): Accumulates A times B into an accumulator bank. -/
  | mma (a : Src) (b : Src)
  /-- MMAG (R263): Runs a ganged MMA on member cluster tiles and posts engine arrivals. -/
  | mmag (a : Src) (b : Src)
  /-- MSTORE (R264): Converts and writes accumulator elements to memory. -/
  | mstore (a : Src)
  /-- MREDUCE (R265): Merges logical-slice partials into a bank. -/
  | mreduce (a : Src)
  /-- MQPUT (R266): Copies a tile-task record into the cluster task queue. -/
  | mqput (a : Src) (b : Src)
  /-- VCVT (R269): Vector conversion of x. -/
  | vcvt (a : Src) (b : Src)
  /-- VADD (R269): Vector x + y. -/
  | vadd (a : Src) (b : Src)
  /-- VSUB (R269): Vector x - y. -/
  | vsub (a : Src) (b : Src)
  /-- VMUL (R269): Vector x * y. -/
  | vmul (a : Src) (b : Src)
  /-- VDIV (R269): Vector x / y. -/
  | vdiv (a : Src) (b : Src)
  /-- VMIN (R269): Vector minimum propagating NaN. -/
  | vmin (a : Src) (b : Src)
  /-- VMAX (R269): Vector maximum propagating NaN. -/
  | vmax (a : Src) (b : Src)
  /-- VFMA (R269): Vector x*y + w. -/
  | vfma (a : Src) (b : Src)
  /-- VFMS (R269): Vector x*y - w. -/
  | vfms (a : Src) (b : Src)
  /-- VADDS (R269): Vector x + scalar. -/
  | vadds (a : Src) (b : Src)
  /-- VMULS (R269): Vector x * scalar. -/
  | vmuls (a : Src) (b : Src)
  /-- VFMAS (R269): Vector x * scalar + y. -/
  | vfmas (a : Src) (b : Src)
  /-- VABS (R269): Vector absolute value. -/
  | vabs (a : Src) (b : Src)
  /-- VNEG (R269): Vector negation. -/
  | vneg (a : Src) (b : Src)
  /-- VRELU (R269): Vector rectifier. -/
  | vrelu (a : Src) (b : Src)
  /-- VCLAMP (R269): Vector clamp between two scalars. -/
  | vclamp (a : Src) (b : Src)
  /-- VEXP2 (R269): Vector 2^x. -/
  | vexp2 (a : Src) (b : Src)
  /-- VLOG2 (R269): Vector log2 x. -/
  | vlog2 (a : Src) (b : Src)
  /-- VRCP (R269): Vector reciprocal. -/
  | vrcp (a : Src) (b : Src)
  /-- VRSQ (R269): Vector reciprocal square root. -/
  | vrsq (a : Src) (b : Src)
  /-- VSQRT (R269): Vector square root. -/
  | vsqrt (a : Src) (b : Src)
  /-- VTANH (R269): Vector hyperbolic tangent. -/
  | vtanh (a : Src) (b : Src)
  /-- VCMPLT (R269): Vector less-than as 1.0 or +0. -/
  | vcmplt (a : Src) (b : Src)
  /-- VCMPEQ (R269): Vector equality as 1.0 or +0. -/
  | vcmpeq (a : Src) (b : Src)
  /-- VSEL (R269): Vector select by w. -/
  | vsel (a : Src) (b : Src)
  /-- VRSUM (R270): Reduces each row by sum. -/
  | vrsum (a : Src) (b : Src)
  /-- VRMAX (R270): Reduces each row by maximum. -/
  | vrmax (a : Src) (b : Src)
  /-- VRMIN (R270): Reduces each row by minimum. -/
  | vrmin (a : Src) (b : Src)
  /-- VRSUMSQ (R270): Reduces each row by sum of squares. -/
  | vrsumsq (a : Src) (b : Src)
  /-- VDOT (R270): Reduces each row by dot product. -/
  | vdot (a : Src) (b : Src)
  /-- VFILL (R269): Fills Z with the scalar S0. -/
  | vfill (b : Src)
  /-- VIOTA (R269): Fills Z with the dimension-0 index. -/
  | viota (b : Src)
  /-- LFILL (R271): Issues a fill copy on a ladle channel. -/
  | lfill (a : Src)
  /-- LGATHER (R271): Issues a gathering fill on a ladle channel. -/
  | lgather (a : Src)
  /-- LDRAIN (R271): Issues a drain copy on a ladle channel. -/
  | ldrain (a : Src)
  /-- LWPTR (R271): Returns a ladle channel's write pointer into a pair. -/
  | lwptr (a : Src) (d : Reg)
  /-- LCANCEL (R271): Cancels the crew's active copy on a ladle channel. -/
  | lcancel (a : Src)
  /-- QSYNC (R275): Blocks until the slot's earlier commands on named engines end. -/
  | qsync (a : Src)
  /-- QCANCEL (R275): Cancels the slot's commands on named engines. -/
  | qcancel (a : Src)
  /-- XCOPY (R272): Issues a package copy-engine transfer from a descriptor. -/
  | xcopy (a : Src) (b : Src)
  /-- NPOST (R273): Posts a network work request on a send queue. -/
  | npost (a : Src) (b : Src)
  /-- NPOLL (R273): Returns a network queue's completion or error counter. -/
  | npoll (a : Src) (d : Reg)
  /-- EWR (R257): Writes a zero-extended g-register to an engine register. -/
  | ewr (a : Src) (eng : BitVec 3) (ereg : BitVec 8)
  /-- EWRS (R257): Writes a sign-extended g-register to an engine register. -/
  | ewrs (a : Src) (eng : BitVec 3) (ereg : BitVec 8)
  /-- EWRH (R257): Writes the high half of an engine register. -/
  | ewrh (a : Src) (eng : BitVec 3) (ereg : BitVec 8)
  /-- ERD (R257): Reads the low half of an engine register. -/
  | erd (a : Reg) (eng : BitVec 3) (ereg : BitVec 8)
  /-- ERDH (R257): Reads the high half of an engine register. -/
  | erdh (a : Reg) (eng : BitVec 3) (ereg : BitVec 8)
  /-- FMTP (R255): Latches a format prefix for the next instruction. -/
  | fmtp (fa : BitVec 4) (fb : BitVec 4) (fo : BitVec 4) (rnd : BitVec 3) (sc : BitVec 2)
  /-- CSRXCH (R175): Exchanges a CSR with a register. -/
  | csrxch (d : Reg) (a : Src) (c : BitVec 12)
  /-- CSRXCHI (R175): Exchanges a CSR with a 7-bit immediate. -/
  | csrxchi (d : Reg) (c : BitVec 12) (u : BitVec 7)
  /-- CSRBS (R175): Sets CSR bits named by a register. -/
  | csrbs (d : Reg) (a : Src) (c : BitVec 12)
  /-- CSRBSI (R175): Sets CSR bits named by an immediate. -/
  | csrbsi (d : Reg) (c : BitVec 12) (u : BitVec 7)
  /-- CSRBC (R175): Clears CSR bits named by a register. -/
  | csrbc (d : Reg) (a : Src) (c : BitVec 12)
  /-- CSRBCI (R175): Clears CSR bits named by an immediate. -/
  | csrbci (d : Reg) (c : BitVec 12) (u : BitVec 7)
  /-- NOP (R281): Commits and changes nothing but INSTRET. -/
  | nop
  /-- TRAP (R282): Raises a precise TRAP with a code and a value. -/
  | trap (a : Src) (u : BitVec 5)
  /-- BREAK (R282): Raises a precise BREAK trap. -/
  | brk (u : BitVec 5)
  /-- ERET (R283): Returns from a handler restoring PC, ST and PFX. -/
  | eret
  /-- YIELD (R281): Delays the slot's next issue to 8 cycles. -/
  | yield
  /-- PARK (R285): Parks the thread with reason PARK unless the wake latch is set. -/
  | park
  /-- WAKE (R286): Sends a slot wake or a tag wake message. -/
  | wake (a : Src) (b : Src)
  /-- HALT (R287): Drains, leaves groups and ends the thread. -/
  | halt
  /-- FORK (R289): Recruits idle tiles for a range and starts the forker on part 0. -/
  | fork (d : Reg) (sg : BitVec 3) (a : Src) (b : Src)
  /-- JOINC (R290): Fences and decrements a join cell, continuing, halting or running an unplaced part. -/
  | joinc (d : Reg) (sg : BitVec 3) (a : Src)
  /-- SPAWN (R291): Sends a launch record to a launch unit from device code. -/
  | spawn (d : Reg) (sg : BitVec 3) (a : Src) (b : Src)
  /-- RQPUSH (R293): Adds a tag to the tile's hardware ready queue. -/
  | rqpush (d : Reg) (a : Src)
  /-- RQPOP (R294): Takes a ready entry or a queue message, optionally parking. -/
  | rqpop (d : Reg) (a : Src)
  /-- CTXSV (R296): Saves a register context to a scratchpad record. -/
  | ctxsv (d : Reg) (sg : BitVec 3) (a : Src) (b : Src)
  /-- CTXLD (R296): Loads a register context from a scratchpad record, or loads slot 7. -/
  | ctxld (d : Reg) (sg : BitVec 3) (a : Src) (b : Src)
  /-- SPLOCK (R298): Locks scratchpad banks for the slot. -/
  | splock (d : Reg) (a : Src)
  /-- SPUNLOCK (R298): Releases held scratchpad banks. -/
  | spunlock (a : Src)
  /-- LAGRANT (R299): Grants or revokes lookahead for a slot. -/
  | lagrant (d : Reg) (a : Src)
  /-- SCRUB (R300): Writes zero with fresh check bits over a scratchpad range. -/
  | scrub (sg : BitVec 3) (a : Src) (b : Src)
  /-- PENDING_CAUSE_TAKEN (R324): Before an issue, a pending MCHK, deferred RANGE or TIMER is taken. -/
  | pendingCauseTaken
  /-- BLOCK_CLEARED (R144): A blocked thread's condition clears and it becomes eligible again. -/
  | blockCleared
  /-- BRANCH_RESOLVE (R321): A predicted branch's source fills; the shadow state commits or is discarded. -/
  | branchResolve
  /-- CYCLE_READ (R172): Reading CYCLE latches the high count into CYCLEH. -/
  | cycleRead
  /-- INSTRET_READ (R172): Reading INSTRET latches the high count into INSTRETH. -/
  | instretRead
  /-- TIMER_WRITE (R173): A write to TIMER loads the count and clears a pending timer trap. -/
  | timerWrite
  /-- TIMER_EXPIRE (R173): TIMER counts down to zero and becomes pending. -/
  | timerExpire
  /-- LOCK_TIMEOUT (R298): 4,096 cycles after first lock the slot's banks are released and a lock time-out is pending. -/
  | lockTimeout
  /-- REGISTER_WRITE (R170): A write to a CSR or MMIO register without behaviour of its own updates its writable fields. -/
  | registerWrite
  /-- PAGE_WALK (R25): The cluster walker reads the ASID entry and table nodes and installs a leaf translation or faults. -/
  | pageWalk
  /-- INV_RANGE (R29): Invalidates one linear range of one ASID on the package. -/
  | invRange
  /-- INV_ASID (R29): Invalidates all entries of one ASID on the package. -/
  | invAsid
  /-- INV_ALL (R29): Invalidates all translation entries on the package. -/
  | invAll
  /-- INV_WAKE (R29): After invalidating, wakes every walk parked WALKWAIT on the package. -/
  | invWake
  /-- VISITOR_DEPART (R51): Once the drain ends, the context packet is sent toward the dock, target tile or origin. -/
  | visitorDepart
  /-- VISITOR_SLOT_FREE (R53): A freed slot is taken by the head of the visitor queue. -/
  | visitorSlotFree
  /-- VISITOR_QUEUE_TIMEOUT (R53): A packet queued 16,384 cycles is refused to its origin. -/
  | visitorQueueTimeout
  /-- VISITOR_RETRY (R53): After 1,024 cycles a refused load reissues at the origin. -/
  | visitorRetry
  /-- VISITOR_QUANTUM (R55): A visitor that has committed 4,096 instructions since its last local access returns home. -/
  | visitorQuantum
  /-- LADLE_COPY_START (R46): A ladle channel starts its next accepted copy. -/
  | ladleCopyStart
  /-- LADLE_SEGMENT_CHECK (R47): A fill segment arrives, its tag is checked and BYTES is released. -/
  | ladleSegmentCheck
  /-- LADLE_COPY_END (R50): A copy finishes, stops or is cancelled and posts its completion word. -/
  | ladleCopyEnd
  /-- ENGINE_STEP (R276): A sequencer step of an engine command completes with its checksum check. -/
  | engineStep
  /-- ENGINE_COMMAND_END (R254): An engine command ends, posting its completion and any error to qx0. -/
  | engineCommandEnd
  /-- TASK_RECORD_START (R267): The cluster task scheduler starts the oldest ready MQPUT record on a qualifying tile. -/
  | taskRecordStart
  /-- POWER_GRANT (R362): The voltage-frequency controller grants leave to the head request. -/
  | powerGrant
  /-- VF_CLOCK_CHANGE (R345): The controller raises or returns the tile clock as power conditions change. -/
  | vfClockChange
  /-- THERMAL_THROTTLE (R362): Temperature over 105 degrees lowers the clock; over 115 stops the die. -/
  | thermalThrottle
  /-- SLUICE_FRAME (R116): A 272-byte frame is received, CRC checked, cells sequenced and credits updated. -/
  | sluiceFrame
  /-- LINK_ACK (R118): An ACK cell acknowledges sequenced cells and carries credit counts. -/
  | linkAck
  /-- LINK_NAK (R117): A NAK cell makes the sender replay from the cell after ASEQ. -/
  | linkNak
  /-- LINK_INIT (R119): An INIT cell gives the receiver's buffer counts at link-up. -/
  | linkInit
  /-- ACK_TIMER (R118): Every 256 ns with unacknowledged accepted cells the receiver sends an ACK. -/
  | ackTimer
  /-- REPLAY_TIMEOUT (R117): No acknowledgement for 2 microseconds resends from the oldest cell, retraining after 8 replays. -/
  | replayTimeout
  /-- LINK_DOWN (R341): A module fails retraining and is down, with LINKDOWN records. -/
  | linkDown
  /-- RD (R122): A read request performed at its home. -/
  | rd
  /-- RDATA (R122): Read data of up to 8 bytes returns to the requester. -/
  | rdata
  /-- RDATAB (R122): Bulk read data cells return to the requester. -/
  | rdatab
  /-- WR (R122): A write of up to 8 bytes performed at its home and acknowledged. -/
  | wr
  /-- WRB (R122): A bulk write with byte enables performed at its home. -/
  | wrb
  /-- WRACK (R126): Acknowledges a performed write or a consumed channel word. -/
  | wrack
  /-- RSV (R99): Requests an atomic reservation at a word's home. -/
  | rsv
  /-- RSVGNT (R122): Grants a reservation with the word's value. -/
  | rsvgnt
  /-- RSVREL (R122): Releases a reservation, optionally writing the new value. -/
  | rsvrel
  /-- ERR (R125): Refuses a request that cannot be decoded or routed. -/
  | err
  /-- CTX (R53): A context packet arrives at a target tile or returns to its origin. -/
  | ctx
  /-- CTXREF (R53): A context packet is refused back to its origin. -/
  | ctxref
  /-- MSG_DATA (R245): A data or channel word is delivered to a channel FIFO. -/
  | msgData
  /-- MSG_RECAST (R160): A recast message applies a new role or is refused RECASTBUSY. -/
  | msgRecast
  /-- MSG_QUEUE (R245): A queue message enters the tile message queue, waking slot 7 or acting as a tag wake. -/
  | msgQueue
  /-- MSGREF (R124): Reports a refused recast to its sender. -/
  | msgref
  /-- CWPOST (R50): A completion-word post performed at the word's home. -/
  | cwpost
  /-- ENGCMD_FWDUPD (R335): Retargets a forwarding entry to a restored crew's new tile. -/
  | engcmdFwdupd
  /-- ENGCMD_READMIT (R333): Queues an absent crew for re-admission at its launch unit. -/
  | engcmdReadmit
  /-- ENGDONE (R126): Reports an engine command as performed. -/
  | engdone
  /-- WAKE_SLOT_MSG (R285): A slot wake readies a PARK thread or sets its wake latch. -/
  | wakeSlotMsg
  /-- WAKE_TAG_MSG (R295): A tag wake readies a sleeping ready-queue entry or latches the tag. -/
  | wakeTagMsg
  /-- WAKE_FAULT_MSG (R329): A fault wake wakes a faulted thread or resumes its stopped steps, or kills. -/
  | wakeFaultMsg
  /-- LAUNCH (R314): A compute die's dispatcher reserves tiles and places every crew of a launch or refuses. -/
  | launch
  /-- LDONE_ACCEPT (R313): The die accepts a launch, which becomes RUNNING. -/
  | ldoneAccept
  /-- LDONE_REFUSE (R307): The die refuses a launch, which returns to ADMITTED. -/
  | ldoneRefuse
  /-- LDONE_RETIRE (R316): A crew retired or failed; the launch ends when all have reported. -/
  | ldoneRetire
  /-- LDONE_SWAP (R331): The die reports a crew swapped out to its launch unit. -/
  | ldoneSwap
  /-- FREC (R328): A fault record is written to the fault queue ring or refused when full. -/
  | frec
  /-- FREC_RESEND (R328): A port resends a refused fault record every 65,536 cycles. -/
  | frecResend
  /-- INVDONE (R122): Reports a forwarded invalidation as complete. -/
  | invdone
  /-- ACQREQ (R73): The manager grants, queues or denies an acquire request. -/
  | acqreq
  /-- RELREQ (R77): The manager applies a release, bumping stamps and serving the queue. -/
  | relreq
  /-- WDRAW (R81): Withdraws a waiting acquire request. -/
  | wdraw
  /-- WBNOTE (R78): Notes a completed writeback, clearing OV. -/
  | wbnote
  /-- GREDO (R85): Asks the manager to repeat a failed delivery once. -/
  | gredo
  /-- GADM_BINIT (R62): Manager initialises or reinitialises a guard record. -/
  | gadmBinit
  /-- GADM_BIND (R63): Manager installs filter pieces and binds the region. -/
  | gadmBind
  /-- GADM_UNBIND (R64): Manager recalls the owner, removes filter pieces and clears BOUND. -/
  | gadmUnbind
  /-- GADM_UNBIND_RETIRE (R64): Manager unbinds, invalidates every copy and zeroes the record. -/
  | gadmUnbindRetire
  /-- FWD_SERVE (R74): A retained owner sends sub-blocks from its copy to an acquirer. -/
  | fwdServe
  /-- FWD_DEMOTE (R67): A retained owner's entry becomes KEPT with OWN 0. -/
  | fwdDemote
  /-- FWD_RECALL (R78): A retained owner writes its copy back to home. -/
  | fwdRecall
  /-- FWD_INVALIDATE (R83): Tiles drop every KEPT or RETAINED entry for the record and answer INVACK. -/
  | fwdInvalidate
  /-- FWD_SERVE_DEMOTE (R74): An owner serves an exclusive grant and is demoted. -/
  | fwdServeDemote
  /-- FILT_INSTALL (R124): A home installs a bound-range filter piece. -/
  | filtInstall
  /-- FILT_REMOVE (R124): A home removes a bound-range filter piece. -/
  | filtRemove
  /-- GRANT (R74): The tile records the granted version and awaits listed sub-blocks. -/
  | grant
  /-- DENY (R393): Ends an acquire with a status, or rereads the binding on STALE. -/
  | deny
  /-- ACK (R61): Completes a guard administration or release outcome. -/
  | ack
  /-- SERVED (R74): Owner reports forward service done; OV is cleared on demote. -/
  | served
  /-- NOTRETAINED (R78): A tile without the entry answers a forward; the manager serves from home. -/
  | notretained
  /-- INVACK (R83): A package answers wrap invalidation; the last completes the wrap. -/
  | invack
  /-- GDATA (R85): Delivered or written-back sub-blocks arrive, with the delivery CRC checked on the last. -/
  | gdata
  /-- GRPREQ_JOIN (R151): Group manager adds a member, creating the group if needed. -/
  | grpreqJoin
  /-- GRPREQ_LEAVE (R151): Group manager removes a member. -/
  | grpreqLeave
  /-- GRPREQ_ARRIVE (R151): Group manager counts an arrival or answers RESPAN. -/
  | grpreqArrive
  /-- GRPREQ_ENGINE_ARRIVAL (R152): Group manager counts an engine-posted arrival for a named thread. -/
  | grpreqEngineArrival
  /-- GRPRSP (R151): The tile receives a group outcome or RESPAN and refences. -/
  | grprsp
  /-- GREL (R151): A member's tile clears ARR, wakes it, or latches the release for an absent crew. -/
  | grel
  /-- GRELACK (R151): The manager counts a release acknowledgement and rearms at zero. -/
  | grelack
  /-- WATCH_INSTALL (R242): A home installs a completion-word watch or refuses when full. -/
  | watchInstall
  /-- WATCH_CANCEL (R250): A home cancels a watch. -/
  | watchCancel
  /-- WATCHRSP (R242): A watch answer fills the waiting register or reports refusal. -/
  | watchrsp
  /-- WATCH_RETRY (R242): A refused watch is resent after 1,024 cycles. -/
  | watchRetry
  /-- MCREQ (R133): The relay forwards, or the headgate stamps and fans out, a multicast store. -/
  | mcreq
  /-- MCAPPLY (R134): A member's apply die applies a stamped store in stamp order. -/
  | mcapply
  /-- MCSTAMP (R247): The sender receives its stamp, status or full application. -/
  | mcstamp
  /-- MCACK (R133): A member acknowledges a stamp; the last sends MCSTAMP ALL. -/
  | mcack
  /-- MCCTL_SNAP (R137): A source member copies its window to a joining member. -/
  | mcctlSnap
  /-- MCCTL_JOINED (R137): A joining member takes the join point and becomes ACTIVE. -/
  | mcctlJoined
  /-- MCCTL_EVICT (R135): An evicted member becomes FAILED. -/
  | mcctlEvict
  /-- MCCTL_LEFT (R136): A leaving member becomes LEFT once applied to the last stamp. -/
  | mcctlLeft
  /-- MCCTLRSP (R137): The headgate advances a join, or the member marks a refused join FAILED. -/
  | mcctlrsp
  /-- MCJOIN_JOIN (R137): The headgate starts or refuses a join. -/
  | mcjoinJoin
  /-- MCJOIN_LEAVE (R136): The headgate removes a member after stamps already sent. -/
  | mcjoinLeave
  /-- MEMBER_TIMEOUT (R135): A member missing MCACK for MCTO cycles is evicted or its join abandoned. -/
  | memberTimeout
  /-- MCSEQREQ (R249): The relay forwards, or the apply die answers, an applied-sequence query. -/
  | mcseqreq
  /-- MCSEQRSP (R249): The waiting MCSEQ pair fills with APPLIED. -/
  | mcseqrsp
  /-- MC_JOIN_DESCRIPTOR (R138): A join-window descriptor makes the apply die send MCJOIN. -/
  | mcJoinDescriptor
  /-- MC_LEAVE_DESCRIPTOR (R138): A join-window descriptor with LEAVE sends a leave. -/
  | mcLeaveDescriptor
  /-- DISC_QUERY (R140): A die answers a discovery query with its die record. -/
  | discQuery
  /-- DISC_ASSIGN (R140): A die takes a vd and package number, or reports ASSIGNED. -/
  | discAssign
  /-- DISC_ENABLE (R140): A die begins to accept routed traffic. -/
  | discEnable
  /-- DISCRSP (R141): The management controller receives a die record. -/
  | discrsp
  /-- DOORBELL (R303): A doorbell write sets a queue's TAIL. -/
  | doorbell
  /-- LAUNCH_FETCH (R306): The launch unit fetches a record and checks it. -/
  | launchFetch
  /-- ADMISSION_CHOICE (R310): Once per I/O-die cycle the launch unit re-admits a crew or admits a launch. -/
  | admissionChoice
  /-- LAUNCH_HOLD (R311): A top-priority launch skipped for AGEP cycles sets HOLD. -/
  | launchHold
  /-- LAUNCH_RETRANSLATE (R306): An unresolved launch translation is walked again every 65,536 cycles. -/
  | launchRetranslate
  /-- LAUNCH_CANCEL (R317): A cancel descriptor ends a launch not yet running or reports too late. -/
  | launchCancel
  /-- CREW_SWAP (R331): A crew parked beyond SWAPT is recalled, drained and saved, leaving a forwarding entry. -/
  | crewSwap
  /-- CREW_RESTORE (R335): A re-admitted crew's image is read and its threads resumed. -/
  | crewRestore
  /-- CREW_RETIRE (R82): After every release is acknowledged the crew retires and posts its completion. -/
  | crewRetire
  /-- FORWARD_EXPIRE (R334): A tile-targeting forwarding entry ends 2^24 cycles after it was made. -/
  | forwardExpire
  /-- WAKE_DESCRIPTOR (R329): A fault-queue wake descriptor sends a fault wake to a context. -/
  | wakeDescriptor
  /-- LIVE_MIGRATION (R336): A migration descriptor streams a running crew to a new tile. -/
  | liveMigration
  /-- CHECKPOINT_SWEEP (R343): A copy engine copies dirty pages of a list and clears their D bits. -/
  | checkpointSweep
  /-- DESCRIPTOR_PIECE (R348): A partial write is staged in its writer's buffer of a descriptor window. -/
  | descriptorPiece
  /-- DESCRIPTOR_BUFFER_TIMEOUT (R348): A staging buffer idle 65,536 cycles is freed and logged. -/
  | descriptorBufferTimeout
  /-- ERROR_BANK_CLEAR (R340): Writing 1 to a bank's V clears the record. -/
  | errorBankClear
  /-- PACKAGE_RESET (R357): A PRESET write resets the package and repeats boot. -/
  | packageReset
  /-- BOOT (R357): At reset the management controller verifies firmware, discovers dies and readies the package. -/
  | boot
  /-- HOST_BAR_READ (R350): A host read through a BAR returns the value at home. -/
  | hostBarRead
  /-- HOST_BAR_WRITE (R350): A host write through a BAR is performed at home. -/
  | hostBarWrite
  /-- HOST_ATOMIC_OP (R349): A host AtomicOp to a BAR completes with Completer Abort. -/
  | hostAtomicOp
  /-- PCIE_D3HOT (R349): A D3hot request is refused while launches run. -/
  | pcieD3hot
  /-- GETCHAIN (R360): Returns the certificate chain over DOE. -/
  | getchain
  /-- GETMEAS (R360): Returns masked measurement registers signed with the identity key. -/
  | getmeas
  /-- EXTEND (R360): Extends a driver measurement register. -/
  | extendMr
  /-- NET_WRITE_ACK (R354): A peer acknowledges a WRITE and the completion counter advances. -/
  | netWriteAck
  /-- NET_READ_DATA (R354): READ data are performed locally and the completion counter advances. -/
  | netReadData
  /-- NET_INCOMING_WRITE (R356): An incoming WRITE is performed at a receive entry and posts its completion word. -/
  | netIncomingWrite
  /-- RETRAINING_COMPLETE (R117): A Sluice or Flume module that retrained through the adapter after repeated replays comes back up and resumes sequenced traffic. -/
  | retrainingComplete
  /-- PCIE_COMPLETION (R43): A PCIe completion from the host arrives at the host-link agent and finishes a device read or AtomicOp on space 2. -/
  | pcieCompletion
  /-- CXL_MEM_RESPONSE (R351): A CXL.mem response from a Type 3 device, possibly carrying poison, arrives at a root-port agent and completes a space 1 access. -/
  | cxlMemResponse
  /-- CXL_DEVICE_EVENT (R351): A CXL device reports an event or media error, which is recorded in error banks 4 to 7. -/
  | cxlDeviceEvent
  /-- AER_LINK_ERROR (R349): A correctable or uncorrectable error is detected on a PCIe endpoint link and reported through AER and the host-link error bank. -/
  | aerLinkError
  /-- RETRANSMISSION_EXHAUSTION (R354): An Ultra Ethernet request whose retransmissions are exhausted ends as refused and adds to its queue's error counter. -/
  | retransmissionExhaustion
  deriving DecidableEq, Repr

/-- A message of all zeros. -/
def Msg.zero : Msg := ⟨0, 0, 0, 0, false, false, 0, 0, 0, 0, 0, 0, 0, 0, 0, []⟩

/-- The operands of an event: a message, or the units, numbers, descriptor and bytes it concerns. -/
structure Arg where
  msg : Msg := Msg.zero
  t : Nat := 0
  k : Nat := 0
  n : Nat := 0
  v : Nat := 0
  ok : Bool := true
  desc : Desc := 0
  bytes : List Byte := []
  boot : BootInput := ⟨false, 0, [], [], 0⟩
  deriving DecidableEq, Repr

/-- An event in flight: the row and its operands. -/
structure Ev where
  i : Instr
  arg : Arg
  deriving DecidableEq, Repr

end Sys2Proof
end

