-- ==== Sys2Proof/WellFormed.lean ====
section
/-! DEFINITION. What decode checks after the function code is known: reserved field values, source modes and operand
rules (R180 orders 4 and 5, R181, R229, R257, R288, R294), and the assigned CSR numbers (R171). -/

namespace Sys2Proof

/-- Why a word is no instruction; every one raises ILL at decode (R180). -/
inductive Reject where
  | illegalWord
  | illegalMajor
  | unassignedFunction
  | unassignedCsr
  | mustBeZero
  | reservedValue
  | sourceMode
  | operandRule
  deriving DecidableEq, Repr

/-- R164: mode 11 is illegal, and g0 takes mode 00 only. -/
def Src.wf (a : Src) : Bool := a.m != 3 && (a.r != 0 || a.m == 0)

/-- R229: a pair field names an even register. -/
def Reg.even (r : Reg) : Bool := r.toNat % 2 == 0

/-- 32-bit CSR numbers that R171 assigns below 0x400. -/
def csrLowAssigned (c : Nat) : Bool :=
  c ≤ 0x00C || (0x010 ≤ c && c ≤ 0x014) || (0x018 ≤ c && c ≤ 0x01F) || (0x100 ≤ c && c ≤ 0x108) ||
  (0x10A ≤ c && c ≤ 0x110) || (0x200 ≤ c && c ≤ 0x202) || c == 0x210 || c == 0x211 || (0x220 ≤ c && c ≤ 0x230) ||
  (0x240 ≤ c && c ≤ 0x242) || c == 0x300 || c == 0x301 || c == 0x310 || (0x320 ≤ c && c ≤ 0x327) ||
  (0x330 ≤ c && c ≤ 0x33B) || (0x340 ≤ c && c ≤ 0x34F)

/-- R170: the CSRs that are 64 bits wide. -/
def csrWide (c : Nat) : Bool :=
  c == 0x310 || (0x320 ≤ c && c ≤ 0x327) || c == 0x10E || (0x018 ≤ c && c ≤ 0x01F) || (0x220 ≤ c && c ≤ 0x22F) || c == 0x240

/-- R170, R171: assigned CSR numbers, high halves included. -/
def csrAssigned (c : Nat) : Bool := csrLowAssigned c || (0x400 ≤ c && c < 0x800 && csrWide (c - 0x400))

def need (ok : Bool) (r : Reject) : Option Reject := if ok then none else some r

/-- The first check that fails, in the order given. -/
def firstReject : List (Option Reject) → Option Reject
  | [] => none
  | some r :: _ => some r
  | none :: rest => firstReject rest

/-- The decode checks of each instruction after its function code (R180). -/
def Instr.check : Instr → Option Reject
  | .add _ a b => firstReject [need a.wf .sourceMode, need b.wf .sourceMode]
  | .sub _ a b => firstReject [need a.wf .sourceMode, need b.wf .sourceMode]
  | .and _ a b => firstReject [need a.wf .sourceMode, need b.wf .sourceMode]
  | .or _ a b => firstReject [need a.wf .sourceMode, need b.wf .sourceMode]
  | .xor _ a b => firstReject [need a.wf .sourceMode, need b.wf .sourceMode]
  | .andn _ a b => firstReject [need a.wf .sourceMode, need b.wf .sourceMode]
  | .sll _ a b => firstReject [need a.wf .sourceMode, need b.wf .sourceMode]
  | .srl _ a b => firstReject [need a.wf .sourceMode, need b.wf .sourceMode]
  | .sra _ a b => firstReject [need a.wf .sourceMode, need b.wf .sourceMode]
  | .rol _ a b => firstReject [need a.wf .sourceMode, need b.wf .sourceMode]
  | .ror _ a b => firstReject [need a.wf .sourceMode, need b.wf .sourceMode]
  | .mul _ a b => firstReject [need a.wf .sourceMode, need b.wf .sourceMode]
  | .mulh _ a b => firstReject [need a.wf .sourceMode, need b.wf .sourceMode]
  | .mulhu _ a b => firstReject [need a.wf .sourceMode, need b.wf .sourceMode]
  | .div _ a b => firstReject [need a.wf .sourceMode, need b.wf .sourceMode]
  | .divu _ a b => firstReject [need a.wf .sourceMode, need b.wf .sourceMode]
  | .rem _ a b => firstReject [need a.wf .sourceMode, need b.wf .sourceMode]
  | .remu _ a b => firstReject [need a.wf .sourceMode, need b.wf .sourceMode]
  | .min _ a b => firstReject [need a.wf .sourceMode, need b.wf .sourceMode]
  | .max _ a b => firstReject [need a.wf .sourceMode, need b.wf .sourceMode]
  | .minu _ a b => firstReject [need a.wf .sourceMode, need b.wf .sourceMode]
  | .maxu _ a b => firstReject [need a.wf .sourceMode, need b.wf .sourceMode]
  | .adds _ a b => firstReject [need a.wf .sourceMode, need b.wf .sourceMode]
  | .subs _ a b => firstReject [need a.wf .sourceMode, need b.wf .sourceMode]
  | .dividerDone => none
  | .addi _ a _ => need a.wf .sourceMode
  | .slli _ a _ => need a.wf .sourceMode
  | .srli _ a _ => need a.wf .sourceMode
  | .srai _ a _ => need a.wf .sourceMode
  | .rori _ a _ => need a.wf .sourceMode
  | .lui _ _ => none
  | .addpc _ _ => none
  | .seq _ a b => firstReject [need a.wf .sourceMode, need b.wf .sourceMode]
  | .sne _ a b => firstReject [need a.wf .sourceMode, need b.wf .sourceMode]
  | .slt _ a b => firstReject [need a.wf .sourceMode, need b.wf .sourceMode]
  | .sltu _ a b => firstReject [need a.wf .sourceMode, need b.wf .sourceMode]
  | .seqi _ a _ => need a.wf .sourceMode
  | .snei _ a _ => need a.wf .sourceMode
  | .slti _ a _ => need a.wf .sourceMode
  | .sltui _ a _ => need a.wf .sourceMode
  | .sgti _ a _ => need a.wf .sourceMode
  | .sgtui _ a _ => need a.wf .sourceMode
  | .selnz _ a b _ => firstReject [need a.wf .sourceMode, need b.wf .sourceMode]
  | .seleqz _ a b _ => firstReject [need a.wf .sourceMode, need b.wf .sourceMode]
  | .clz _ a => need a.wf .sourceMode
  | .ctz _ a => need a.wf .sourceMode
  | .popc _ a => need a.wf .sourceMode
  | .brev _ a => need a.wf .sourceMode
  | .bswap _ a => need a.wf .sourceMode
  | .sextb _ a => need a.wf .sourceMode
  | .sexth _ a => need a.wf .sourceMode
  | .zexth _ a => need a.wf .sourceMode
  | .extu _ a p w => firstReject [need (p.toNat + w.toNat ≤ 31) .operandRule, need a.wf .sourceMode]
  | .exts _ a p w => firstReject [need (p.toNat + w.toNat ≤ 31) .operandRule, need a.wf .sourceMode]
  | .ins _ a p w => firstReject [need (p.toNat + w.toNat ≤ 31) .operandRule, need a.wf .sourceMode]
  | .beqz a _ _ => need a.wf .sourceMode
  | .bnez a _ _ => need a.wf .sourceMode
  | .bltz a _ _ => need a.wf .sourceMode
  | .bgez a _ _ => need a.wf .sourceMode
  | .bgtz a _ _ => need a.wf .sourceMode
  | .blez a _ _ => need a.wf .sourceMode
  | .bfull _ _ _ => none
  | .bempty _ _ _ => none
  | .jal _ _ => none
  | .jalr _ a _ => need a.wf .sourceMode
  | .fadd _ a b => firstReject [need a.wf .sourceMode, need b.wf .sourceMode]
  | .fsub _ a b => firstReject [need a.wf .sourceMode, need b.wf .sourceMode]
  | .fmul _ a b => firstReject [need a.wf .sourceMode, need b.wf .sourceMode]
  | .fdiv _ a b => firstReject [need a.wf .sourceMode, need b.wf .sourceMode]
  | .fsqrt _ a => need a.wf .sourceMode
  | .fmin _ a b => firstReject [need a.wf .sourceMode, need b.wf .sourceMode]
  | .fmax _ a b => firstReject [need a.wf .sourceMode, need b.wf .sourceMode]
  | .fcpys _ a b => firstReject [need a.wf .sourceMode, need b.wf .sourceMode]
  | .fneg _ a => need a.wf .sourceMode
  | .fabs _ a => need a.wf .sourceMode
  | .fxsgn _ a b => firstReject [need a.wf .sourceMode, need b.wf .sourceMode]
  | .fminp _ a b => firstReject [need a.wf .sourceMode, need b.wf .sourceMode]
  | .fmaxp _ a b => firstReject [need a.wf .sourceMode, need b.wf .sourceMode]
  | .fmadd _ a b _ => firstReject [need a.wf .sourceMode, need b.wf .sourceMode]
  | .fmsub _ a b _ => firstReject [need a.wf .sourceMode, need b.wf .sourceMode]
  | .fcmpeq _ a b => firstReject [need a.wf .sourceMode, need b.wf .sourceMode]
  | .fcmplt _ a b => firstReject [need a.wf .sourceMode, need b.wf .sourceMode]
  | .fcmple _ a b => firstReject [need a.wf .sourceMode, need b.wf .sourceMode]
  | .fclass _ a => need a.wf .sourceMode
  | .ftoi _ a => need a.wf .sourceMode
  | .ftou _ a => need a.wf .sourceMode
  | .itof _ a => need a.wf .sourceMode
  | .utof _ a => need a.wf .sourceMode
  | .ftobf _ a => need a.wf .sourceMode
  | .ftoh _ a => need a.wf .sourceMode
  | .bftof _ a => need a.wf .sourceMode
  | .htof _ a => need a.wf .sourceMode
  | .lea _ _ a _ _ => need a.wf .sourceMode
  | .segld _ _ a _ => need a.wf .sourceMode
  | .segrd _ _ _ => none
  | .ldw _ _ a _ => need a.wf .sourceMode
  | .ldh _ _ a _ => need a.wf .sourceMode
  | .ldhu _ _ a _ => need a.wf .sourceMode
  | .ldb _ _ a _ => need a.wf .sourceMode
  | .ldbu _ _ a _ => need a.wf .sourceMode
  | .ldp d _ a _ => firstReject [need a.wf .sourceMode, need (Reg.even d) .operandRule]
  | .stw t _ a _ => firstReject [need t.wf .sourceMode, need a.wf .sourceMode]
  | .sth t _ a _ => firstReject [need t.wf .sourceMode, need a.wf .sourceMode]
  | .stb t _ a _ => firstReject [need t.wf .sourceMode, need a.wf .sourceMode]
  | .stp t _ a _ => firstReject [need t.wf .sourceMode, need a.wf .sourceMode, need (Reg.even t.r && t.r != 0) .operandRule]
  | .aadd _ _ a b => firstReject [need a.wf .sourceMode, need b.wf .sourceMode]
  | .aand _ _ a b => firstReject [need a.wf .sourceMode, need b.wf .sourceMode]
  | .aor _ _ a b => firstReject [need a.wf .sourceMode, need b.wf .sourceMode]
  | .axor _ _ a b => firstReject [need a.wf .sourceMode, need b.wf .sourceMode]
  | .amin _ _ a b => firstReject [need a.wf .sourceMode, need b.wf .sourceMode]
  | .amax _ _ a b => firstReject [need a.wf .sourceMode, need b.wf .sourceMode]
  | .aminu _ _ a b => firstReject [need a.wf .sourceMode, need b.wf .sourceMode]
  | .amaxu _ _ a b => firstReject [need a.wf .sourceMode, need b.wf .sourceMode]
  | .aaddC _ _ a b => firstReject [need a.wf .sourceMode, need b.wf .sourceMode]
  | .aandC _ _ a b => firstReject [need a.wf .sourceMode, need b.wf .sourceMode]
  | .aorC _ _ a b => firstReject [need a.wf .sourceMode, need b.wf .sourceMode]
  | .axorC _ _ a b => firstReject [need a.wf .sourceMode, need b.wf .sourceMode]
  | .aminC _ _ a b => firstReject [need a.wf .sourceMode, need b.wf .sourceMode]
  | .amaxC _ _ a b => firstReject [need a.wf .sourceMode, need b.wf .sourceMode]
  | .aminuC _ _ a b => firstReject [need a.wf .sourceMode, need b.wf .sourceMode]
  | .amaxuC _ _ a b => firstReject [need a.wf .sourceMode, need b.wf .sourceMode]
  | .swap _ _ a b => firstReject [need a.wf .sourceMode, need b.wf .sourceMode]
  | .cas _ _ a b => firstReject [need a.wf .sourceMode, need b.wf .sourceMode]
  | .fence c _ => need (c.toNat ≤ 5) .reservedValue
  | .binit _ _ a b => firstReject [need a.wf .sourceMode, need b.wf .sourceMode]
  | .bind _ _ a b => firstReject [need a.wf .sourceMode, need b.wf .sourceMode, need (Reg.even b.r && b.r != 0) .operandRule]
  | .unbind _ _ a b => firstReject [need a.wf .sourceMode, need b.wf .sourceMode]
  | .acqX _ _ a b => firstReject [need a.wf .sourceMode, need b.wf .sourceMode]
  | .acqS _ _ a b => firstReject [need a.wf .sourceMode, need b.wf .sourceMode]
  | .gtryX _ _ a b => firstReject [need a.wf .sourceMode, need b.wf .sourceMode]
  | .gtryS _ _ a b => firstReject [need a.wf .sourceMode, need b.wf .sourceMode]
  | .rel _ _ a => need a.wf .sourceMode
  | .join _ _ a b => firstReject [need a.wf .sourceMode, need b.wf .sourceMode, need (Reg.even b.r && b.r != 0) .operandRule]
  | .leave _ _ a => need a.wf .sourceMode
  | .arrive _ _ a => need a.wf .sourceMode
  | .bwait _ _ a => need a.wf .sourceMode
  | .barw _ _ a => need a.wf .sourceMode
  | .waitc _ _ a b => firstReject [need a.wf .sourceMode, need b.wf .sourceMode, need (Reg.even b.r) .operandRule]
  | .postc _ _ a b => firstReject [need a.wf .sourceMode, need b.wf .sourceMode]
  | .postce _ _ a b => firstReject [need a.wf .sourceMode, need b.wf .sourceMode]
  | .send a b k => firstReject [need (k.toNat ≤ 2) .unassignedFunction, need a.wf .sourceMode, need b.wf .sourceMode]
  | .chon a _ => need a.wf .sourceMode
  | .choff _ => none
  | .mcst d _ a b => firstReject [need a.wf .sourceMode, need b.wf .sourceMode, need (Reg.even b.r && b.r != 0) .operandRule, need (Reg.even d) .operandRule]
  | .mcstc d _ a b => firstReject [need a.wf .sourceMode, need b.wf .sourceMode, need (Reg.even b.r && b.r != 0) .operandRule, need (Reg.even d) .operandRule]
  | .mcseq d a b => firstReject [need a.wf .sourceMode, need b.wf .sourceMode, need (Reg.even b.r) .operandRule, need (Reg.even d && d != 0) .operandRule]
  | .mzero a => need a.wf .sourceMode
  | .mma a b => firstReject [need a.wf .sourceMode, need b.wf .sourceMode]
  | .mmag a b => firstReject [need a.wf .sourceMode, need b.wf .sourceMode]
  | .mstore a => need a.wf .sourceMode
  | .mreduce a => need a.wf .sourceMode
  | .mqput a b => firstReject [need a.wf .sourceMode, need b.wf .sourceMode]
  | .vcvt a b => firstReject [need a.wf .sourceMode, need b.wf .sourceMode]
  | .vadd a b => firstReject [need a.wf .sourceMode, need b.wf .sourceMode]
  | .vsub a b => firstReject [need a.wf .sourceMode, need b.wf .sourceMode]
  | .vmul a b => firstReject [need a.wf .sourceMode, need b.wf .sourceMode]
  | .vdiv a b => firstReject [need a.wf .sourceMode, need b.wf .sourceMode]
  | .vmin a b => firstReject [need a.wf .sourceMode, need b.wf .sourceMode]
  | .vmax a b => firstReject [need a.wf .sourceMode, need b.wf .sourceMode]
  | .vfma a b => firstReject [need a.wf .sourceMode, need b.wf .sourceMode]
  | .vfms a b => firstReject [need a.wf .sourceMode, need b.wf .sourceMode]
  | .vadds a b => firstReject [need a.wf .sourceMode, need b.wf .sourceMode]
  | .vmuls a b => firstReject [need a.wf .sourceMode, need b.wf .sourceMode]
  | .vfmas a b => firstReject [need a.wf .sourceMode, need b.wf .sourceMode]
  | .vabs a b => firstReject [need a.wf .sourceMode, need b.wf .sourceMode]
  | .vneg a b => firstReject [need a.wf .sourceMode, need b.wf .sourceMode]
  | .vrelu a b => firstReject [need a.wf .sourceMode, need b.wf .sourceMode]
  | .vclamp a b => firstReject [need a.wf .sourceMode, need b.wf .sourceMode]
  | .vexp2 a b => firstReject [need a.wf .sourceMode, need b.wf .sourceMode]
  | .vlog2 a b => firstReject [need a.wf .sourceMode, need b.wf .sourceMode]
  | .vrcp a b => firstReject [need a.wf .sourceMode, need b.wf .sourceMode]
  | .vrsq a b => firstReject [need a.wf .sourceMode, need b.wf .sourceMode]
  | .vsqrt a b => firstReject [need a.wf .sourceMode, need b.wf .sourceMode]
  | .vtanh a b => firstReject [need a.wf .sourceMode, need b.wf .sourceMode]
  | .vcmplt a b => firstReject [need a.wf .sourceMode, need b.wf .sourceMode]
  | .vcmpeq a b => firstReject [need a.wf .sourceMode, need b.wf .sourceMode]
  | .vsel a b => firstReject [need a.wf .sourceMode, need b.wf .sourceMode]
  | .vrsum a b => firstReject [need a.wf .sourceMode, need b.wf .sourceMode]
  | .vrmax a b => firstReject [need a.wf .sourceMode, need b.wf .sourceMode]
  | .vrmin a b => firstReject [need a.wf .sourceMode, need b.wf .sourceMode]
  | .vrsumsq a b => firstReject [need a.wf .sourceMode, need b.wf .sourceMode]
  | .vdot a b => firstReject [need a.wf .sourceMode, need b.wf .sourceMode]
  | .vfill b => need b.wf .sourceMode
  | .viota b => need b.wf .sourceMode
  | .lfill a => need a.wf .sourceMode
  | .lgather a => need a.wf .sourceMode
  | .ldrain a => need a.wf .sourceMode
  | .lwptr a d => firstReject [need a.wf .sourceMode, need (Reg.even d && d != 0) .operandRule]
  | .lcancel a => need a.wf .sourceMode
  | .qsync a => need a.wf .sourceMode
  | .qcancel a => need a.wf .sourceMode
  | .xcopy a b => firstReject [need a.wf .sourceMode, need b.wf .sourceMode]
  | .npost a b => firstReject [need a.wf .sourceMode, need b.wf .sourceMode]
  | .npoll a d => firstReject [need a.wf .sourceMode, need (Reg.even d && d != 0) .operandRule]
  | .ewr a eng ereg => firstReject [need (eng.toNat ≤ 3) .reservedValue, need (ereg.toNat < (if eng = 2 then 128 else if eng = 3 then 32 else 64)) .reservedValue, need a.wf .sourceMode]
  | .ewrs a eng ereg => firstReject [need (eng.toNat ≤ 3) .reservedValue, need (ereg.toNat < (if eng = 2 then 128 else if eng = 3 then 32 else 64)) .reservedValue, need a.wf .sourceMode]
  | .ewrh a eng ereg => firstReject [need (eng.toNat ≤ 3) .reservedValue, need (ereg.toNat < (if eng = 2 then 128 else if eng = 3 then 32 else 64)) .reservedValue, need a.wf .sourceMode]
  | .erd _ eng ereg => firstReject [need (eng.toNat ≤ 3) .reservedValue, need (ereg.toNat < (if eng = 2 then 128 else if eng = 3 then 32 else 64)) .reservedValue]
  | .erdh _ eng ereg => firstReject [need (eng.toNat ≤ 3) .reservedValue, need (ereg.toNat < (if eng = 2 then 128 else if eng = 3 then 32 else 64)) .reservedValue]
  | .fmtp fa fb fo rnd sc => firstReject [need (fa.toNat ≤ 11 && fb.toNat ≤ 11 && fo.toNat ≤ 11 && rnd.toNat ≤ 6 && sc.toNat ≤ 2) .reservedValue, need (sc == 0 || (fa.toNat < 9 && fb.toNat < 9 && fo.toNat < 9)) .reservedValue]
  | .csrxch _ a c => firstReject [need (csrAssigned c.toNat) .unassignedCsr, need a.wf .sourceMode]
  | .csrxchi _ c _ => need (csrAssigned c.toNat) .unassignedCsr
  | .csrbs _ a c => firstReject [need (csrAssigned c.toNat) .unassignedCsr, need a.wf .sourceMode]
  | .csrbsi _ c _ => need (csrAssigned c.toNat) .unassignedCsr
  | .csrbc _ a c => firstReject [need (csrAssigned c.toNat) .unassignedCsr, need a.wf .sourceMode]
  | .csrbci _ c _ => need (csrAssigned c.toNat) .unassignedCsr
  | .nop => none
  | .trap a _ => need a.wf .sourceMode
  | .brk _ => none
  | .eret => none
  | .yield => none
  | .park => none
  | .wake a b => firstReject [need a.wf .sourceMode, need b.wf .sourceMode]
  | .halt => none
  | .fork d _ a b => firstReject [need a.wf .sourceMode, need b.wf .sourceMode, need (Reg.even b.r && b.r != 0) .operandRule, need (d != 1 && d != 2 && d != 4) .operandRule]
  | .joinc _ _ a => need a.wf .sourceMode
  | .spawn _ _ a b => firstReject [need a.wf .sourceMode, need b.wf .sourceMode]
  | .rqpush _ a => need a.wf .sourceMode
  | .rqpop d a => firstReject [need a.wf .sourceMode, need (Reg.even d && d != 0) .operandRule]
  | .ctxsv _ _ a b => firstReject [need a.wf .sourceMode, need b.wf .sourceMode]
  | .ctxld _ _ a b => firstReject [need a.wf .sourceMode, need b.wf .sourceMode]
  | .splock _ a => need a.wf .sourceMode
  | .spunlock a => need a.wf .sourceMode
  | .lagrant _ a => need a.wf .sourceMode
  | .scrub _ a b => firstReject [need a.wf .sourceMode, need b.wf .sourceMode]
  | .pendingCauseTaken => none
  | .blockCleared => none
  | .branchResolve => none
  | .cycleRead => none
  | .instretRead => none
  | .timerWrite => none
  | .timerExpire => none
  | .lockTimeout => none
  | .registerWrite => none
  | .pageWalk => none
  | .invRange => none
  | .invAsid => none
  | .invAll => none
  | .invWake => none
  | .visitorDepart => none
  | .visitorSlotFree => none
  | .visitorQueueTimeout => none
  | .visitorRetry => none
  | .visitorQuantum => none
  | .ladleCopyStart => none
  | .ladleSegmentCheck => none
  | .ladleCopyEnd => none
  | .engineStep => none
  | .engineCommandEnd => none
  | .taskRecordStart => none
  | .powerGrant => none
  | .vfClockChange => none
  | .thermalThrottle => none
  | .sluiceFrame => none
  | .linkAck => none
  | .linkNak => none
  | .linkInit => none
  | .ackTimer => none
  | .replayTimeout => none
  | .linkDown => none
  | .rd => none
  | .rdata => none
  | .rdatab => none
  | .wr => none
  | .wrb => none
  | .wrack => none
  | .rsv => none
  | .rsvgnt => none
  | .rsvrel => none
  | .err => none
  | .ctx => none
  | .ctxref => none
  | .msgData => none
  | .msgRecast => none
  | .msgQueue => none
  | .msgref => none
  | .cwpost => none
  | .engcmdFwdupd => none
  | .engcmdReadmit => none
  | .engdone => none
  | .wakeSlotMsg => none
  | .wakeTagMsg => none
  | .wakeFaultMsg => none
  | .launch => none
  | .ldoneAccept => none
  | .ldoneRefuse => none
  | .ldoneRetire => none
  | .ldoneSwap => none
  | .frec => none
  | .frecResend => none
  | .invdone => none
  | .acqreq => none
  | .relreq => none
  | .wdraw => none
  | .wbnote => none
  | .gredo => none
  | .gadmBinit => none
  | .gadmBind => none
  | .gadmUnbind => none
  | .gadmUnbindRetire => none
  | .fwdServe => none
  | .fwdDemote => none
  | .fwdRecall => none
  | .fwdInvalidate => none
  | .fwdServeDemote => none
  | .filtInstall => none
  | .filtRemove => none
  | .grant => none
  | .deny => none
  | .ack => none
  | .served => none
  | .notretained => none
  | .invack => none
  | .gdata => none
  | .grpreqJoin => none
  | .grpreqLeave => none
  | .grpreqArrive => none
  | .grpreqEngineArrival => none
  | .grprsp => none
  | .grel => none
  | .grelack => none
  | .watchInstall => none
  | .watchCancel => none
  | .watchrsp => none
  | .watchRetry => none
  | .mcreq => none
  | .mcapply => none
  | .mcstamp => none
  | .mcack => none
  | .mcctlSnap => none
  | .mcctlJoined => none
  | .mcctlEvict => none
  | .mcctlLeft => none
  | .mcctlrsp => none
  | .mcjoinJoin => none
  | .mcjoinLeave => none
  | .memberTimeout => none
  | .mcseqreq => none
  | .mcseqrsp => none
  | .mcJoinDescriptor => none
  | .mcLeaveDescriptor => none
  | .discQuery => none
  | .discAssign => none
  | .discEnable => none
  | .discrsp => none
  | .doorbell => none
  | .launchFetch => none
  | .admissionChoice => none
  | .launchHold => none
  | .launchRetranslate => none
  | .launchCancel => none
  | .crewSwap => none
  | .crewRestore => none
  | .crewRetire => none
  | .forwardExpire => none
  | .wakeDescriptor => none
  | .liveMigration => none
  | .checkpointSweep => none
  | .descriptorPiece => none
  | .descriptorBufferTimeout => none
  | .errorBankClear => none
  | .packageReset => none
  | .boot => none
  | .hostBarRead => none
  | .hostBarWrite => none
  | .hostAtomicOp => none
  | .pcieD3hot => none
  | .getchain => none
  | .getmeas => none
  | .extendMr => none
  | .netWriteAck => none
  | .netReadData => none
  | .netIncomingWrite => none
  | .retrainingComplete => none
  | .pcieCompletion => none
  | .cxlMemResponse => none
  | .cxlDeviceEvent => none
  | .aerLinkError => none
  | .retransmissionExhaustion => none

/-- A well-formed step: no decode check fails. -/
def Instr.wellFormed (i : Instr) : Bool := i.check.isNone

end Sys2Proof
end

