-- ==== Sys2Proof/Decode.lean ====
section
/-! DEFINITION. The decoder of 32-bit words (R176-R181 and the function-code tables), total, and the encoder. -/

namespace Sys2Proof

/-- Bits [lo+n-1:lo] of a word (R3). -/
def fld (w lo n : Nat) : Nat := w / 2 ^ lo % 2 ^ n

def bvAt (n w lo : Nat) : BitVec n := BitVec.ofNat n (w / 2 ^ lo)

/-- A source field with its mode field (R177). -/
def srcAt (w r m : Nat) : Src := ⟨bvAt 5 w r, bvAt 2 w m⟩

/-- R180 orders 3 to 5: the must-be-zero fields (position, width), then the instruction's own checks. -/
def accept (w : Nat) (mbz : List (Nat × Nat)) (i : Instr) : Except Reject Instr :=
  if mbz.all (fun p => fld w p.1 p.2 == 0) then
    match i.check with
    | none => .ok i
    | some r => .error r
  else .error .mustBeZero

/-- Major 0x01 (R179). -/
def decode01 (w : Nat) : Except Reject Instr :=
  match fld w 26 6 with
  | 0 => accept w [] (.add (bvAt 5 w 7) (srcAt w 12 17) (srcAt w 19 24))
  | 1 => accept w [] (.sub (bvAt 5 w 7) (srcAt w 12 17) (srcAt w 19 24))
  | 2 => accept w [] (.and (bvAt 5 w 7) (srcAt w 12 17) (srcAt w 19 24))
  | 3 => accept w [] (.or (bvAt 5 w 7) (srcAt w 12 17) (srcAt w 19 24))
  | 4 => accept w [] (.xor (bvAt 5 w 7) (srcAt w 12 17) (srcAt w 19 24))
  | 5 => accept w [] (.andn (bvAt 5 w 7) (srcAt w 12 17) (srcAt w 19 24))
  | 8 => accept w [] (.sll (bvAt 5 w 7) (srcAt w 12 17) (srcAt w 19 24))
  | 9 => accept w [] (.srl (bvAt 5 w 7) (srcAt w 12 17) (srcAt w 19 24))
  | 10 => accept w [] (.sra (bvAt 5 w 7) (srcAt w 12 17) (srcAt w 19 24))
  | 11 => accept w [] (.rol (bvAt 5 w 7) (srcAt w 12 17) (srcAt w 19 24))
  | 12 => accept w [] (.ror (bvAt 5 w 7) (srcAt w 12 17) (srcAt w 19 24))
  | 16 => accept w [] (.mul (bvAt 5 w 7) (srcAt w 12 17) (srcAt w 19 24))
  | 17 => accept w [] (.mulh (bvAt 5 w 7) (srcAt w 12 17) (srcAt w 19 24))
  | 18 => accept w [] (.mulhu (bvAt 5 w 7) (srcAt w 12 17) (srcAt w 19 24))
  | 20 => accept w [] (.div (bvAt 5 w 7) (srcAt w 12 17) (srcAt w 19 24))
  | 21 => accept w [] (.divu (bvAt 5 w 7) (srcAt w 12 17) (srcAt w 19 24))
  | 22 => accept w [] (.rem (bvAt 5 w 7) (srcAt w 12 17) (srcAt w 19 24))
  | 23 => accept w [] (.remu (bvAt 5 w 7) (srcAt w 12 17) (srcAt w 19 24))
  | 24 => accept w [] (.min (bvAt 5 w 7) (srcAt w 12 17) (srcAt w 19 24))
  | 25 => accept w [] (.max (bvAt 5 w 7) (srcAt w 12 17) (srcAt w 19 24))
  | 26 => accept w [] (.minu (bvAt 5 w 7) (srcAt w 12 17) (srcAt w 19 24))
  | 27 => accept w [] (.maxu (bvAt 5 w 7) (srcAt w 12 17) (srcAt w 19 24))
  | 28 => accept w [] (.adds (bvAt 5 w 7) (srcAt w 12 17) (srcAt w 19 24))
  | 29 => accept w [] (.subs (bvAt 5 w 7) (srcAt w 12 17) (srcAt w 19 24))
  | _ => .error .unassignedFunction

/-- Major 0x03 (R179). -/
def decode03 (w : Nat) : Except Reject Instr :=
  match fld w 29 3 with
  | 0 => accept w [(24, 5)] (.slli (bvAt 5 w 7) (srcAt w 12 17) (bvAt 5 w 19))
  | 1 => accept w [(24, 5)] (.srli (bvAt 5 w 7) (srcAt w 12 17) (bvAt 5 w 19))
  | 2 => accept w [(24, 5)] (.srai (bvAt 5 w 7) (srcAt w 12 17) (bvAt 5 w 19))
  | 3 => accept w [(24, 5)] (.rori (bvAt 5 w 7) (srcAt w 12 17) (bvAt 5 w 19))
  | _ => .error .unassignedFunction

/-- Major 0x06 (R179). -/
def decode06 (w : Nat) : Except Reject Instr :=
  match fld w 26 6 with
  | 0 => accept w [] (.seq (bvAt 5 w 7) (srcAt w 12 17) (srcAt w 19 24))
  | 1 => accept w [] (.sne (bvAt 5 w 7) (srcAt w 12 17) (srcAt w 19 24))
  | 2 => accept w [] (.slt (bvAt 5 w 7) (srcAt w 12 17) (srcAt w 19 24))
  | 3 => accept w [] (.sltu (bvAt 5 w 7) (srcAt w 12 17) (srcAt w 19 24))
  | _ => .error .unassignedFunction

/-- Major 0x07 (R179). -/
def decode07 (w : Nat) : Except Reject Instr :=
  match fld w 29 3 with
  | 0 => accept w [] (.seqi (bvAt 5 w 7) (srcAt w 12 17) (bvAt 10 w 19))
  | 1 => accept w [] (.snei (bvAt 5 w 7) (srcAt w 12 17) (bvAt 10 w 19))
  | 2 => accept w [] (.slti (bvAt 5 w 7) (srcAt w 12 17) (bvAt 10 w 19))
  | 3 => accept w [] (.sltui (bvAt 5 w 7) (srcAt w 12 17) (bvAt 10 w 19))
  | 4 => accept w [] (.sgti (bvAt 5 w 7) (srcAt w 12 17) (bvAt 10 w 19))
  | 5 => accept w [] (.sgtui (bvAt 5 w 7) (srcAt w 12 17) (bvAt 10 w 19))
  | _ => .error .unassignedFunction

/-- Major 0x08 (R179). -/
def decode08 (w : Nat) : Except Reject Instr :=
  match fld w 31 1 with
  | 0 => accept w [] (.selnz (bvAt 5 w 7) (srcAt w 12 17) (srcAt w 19 24) (bvAt 5 w 26))
  | _ => accept w [] (.seleqz (bvAt 5 w 7) (srcAt w 12 17) (srcAt w 19 24) (bvAt 5 w 26))

/-- Major 0x09 (R179). -/
def decode09 (w : Nat) : Except Reject Instr :=
  match fld w 26 6 with
  | 0 => accept w [(19, 7)] (.clz (bvAt 5 w 7) (srcAt w 12 17))
  | 1 => accept w [(19, 7)] (.ctz (bvAt 5 w 7) (srcAt w 12 17))
  | 2 => accept w [(19, 7)] (.popc (bvAt 5 w 7) (srcAt w 12 17))
  | 3 => accept w [(19, 7)] (.brev (bvAt 5 w 7) (srcAt w 12 17))
  | 4 => accept w [(19, 7)] (.bswap (bvAt 5 w 7) (srcAt w 12 17))
  | 5 => accept w [(19, 7)] (.sextb (bvAt 5 w 7) (srcAt w 12 17))
  | 6 => accept w [(19, 7)] (.sexth (bvAt 5 w 7) (srcAt w 12 17))
  | 7 => accept w [(19, 7)] (.zexth (bvAt 5 w 7) (srcAt w 12 17))
  | _ => .error .unassignedFunction

/-- Major 0x0A (R179). -/
def decode0A (w : Nat) : Except Reject Instr :=
  match fld w 30 2 with
  | 0 => accept w [(19, 1)] (.extu (bvAt 5 w 7) (srcAt w 12 17) (bvAt 5 w 25) (bvAt 5 w 20))
  | 1 => accept w [(19, 1)] (.exts (bvAt 5 w 7) (srcAt w 12 17) (bvAt 5 w 25) (bvAt 5 w 20))
  | 2 => accept w [(19, 1)] (.ins (bvAt 5 w 7) (srcAt w 12 17) (bvAt 5 w 25) (bvAt 5 w 20))
  | _ => .error .unassignedFunction

/-- Major 0x20 (R179). -/
def decode20 (w : Nat) : Except Reject Instr :=
  match fld w 7 3 with
  | 0 => accept w [] (.beqz (srcAt w 11 16) (bvAt 14 w 18) (bvAt 1 w 10))
  | 1 => accept w [] (.bnez (srcAt w 11 16) (bvAt 14 w 18) (bvAt 1 w 10))
  | 2 => accept w [] (.bltz (srcAt w 11 16) (bvAt 14 w 18) (bvAt 1 w 10))
  | 3 => accept w [] (.bgez (srcAt w 11 16) (bvAt 14 w 18) (bvAt 1 w 10))
  | 4 => accept w [] (.bgtz (srcAt w 11 16) (bvAt 14 w 18) (bvAt 1 w 10))
  | 5 => accept w [] (.blez (srcAt w 11 16) (bvAt 14 w 18) (bvAt 1 w 10))
  | 6 => accept w [(16, 2)] (.bfull (bvAt 5 w 11) (bvAt 14 w 18) (bvAt 1 w 10))
  | _ => accept w [(16, 2)] (.bempty (bvAt 5 w 11) (bvAt 14 w 18) (bvAt 1 w 10))

/-- Major 0x28 (R179). -/
def decode28 (w : Nat) : Except Reject Instr :=
  match fld w 26 6 with
  | 0 => accept w [] (.fadd (bvAt 5 w 7) (srcAt w 12 17) (srcAt w 19 24))
  | 1 => accept w [] (.fsub (bvAt 5 w 7) (srcAt w 12 17) (srcAt w 19 24))
  | 2 => accept w [] (.fmul (bvAt 5 w 7) (srcAt w 12 17) (srcAt w 19 24))
  | 3 => accept w [] (.fdiv (bvAt 5 w 7) (srcAt w 12 17) (srcAt w 19 24))
  | 4 => accept w [(19, 7)] (.fsqrt (bvAt 5 w 7) (srcAt w 12 17))
  | 5 => accept w [] (.fmin (bvAt 5 w 7) (srcAt w 12 17) (srcAt w 19 24))
  | 6 => accept w [] (.fmax (bvAt 5 w 7) (srcAt w 12 17) (srcAt w 19 24))
  | 7 => accept w [] (.fcpys (bvAt 5 w 7) (srcAt w 12 17) (srcAt w 19 24))
  | 8 => accept w [(19, 7)] (.fneg (bvAt 5 w 7) (srcAt w 12 17))
  | 9 => accept w [(19, 7)] (.fabs (bvAt 5 w 7) (srcAt w 12 17))
  | 10 => accept w [] (.fxsgn (bvAt 5 w 7) (srcAt w 12 17) (srcAt w 19 24))
  | 11 => accept w [] (.fminp (bvAt 5 w 7) (srcAt w 12 17) (srcAt w 19 24))
  | 12 => accept w [] (.fmaxp (bvAt 5 w 7) (srcAt w 12 17) (srcAt w 19 24))
  | _ => .error .unassignedFunction

/-- Major 0x29 (R179). -/
def decode29 (w : Nat) : Except Reject Instr :=
  match fld w 31 1 with
  | 0 => accept w [] (.fmadd (bvAt 5 w 7) (srcAt w 12 17) (srcAt w 19 24) (bvAt 5 w 26))
  | _ => accept w [] (.fmsub (bvAt 5 w 7) (srcAt w 12 17) (srcAt w 19 24) (bvAt 5 w 26))

/-- Major 0x2A (R179). -/
def decode2A (w : Nat) : Except Reject Instr :=
  match fld w 26 6 with
  | 0 => accept w [] (.fcmpeq (bvAt 5 w 7) (srcAt w 12 17) (srcAt w 19 24))
  | 1 => accept w [] (.fcmplt (bvAt 5 w 7) (srcAt w 12 17) (srcAt w 19 24))
  | 2 => accept w [] (.fcmple (bvAt 5 w 7) (srcAt w 12 17) (srcAt w 19 24))
  | 3 => accept w [(19, 7)] (.fclass (bvAt 5 w 7) (srcAt w 12 17))
  | 4 => accept w [(19, 7)] (.ftoi (bvAt 5 w 7) (srcAt w 12 17))
  | 5 => accept w [(19, 7)] (.ftou (bvAt 5 w 7) (srcAt w 12 17))
  | 6 => accept w [(19, 7)] (.itof (bvAt 5 w 7) (srcAt w 12 17))
  | 7 => accept w [(19, 7)] (.utof (bvAt 5 w 7) (srcAt w 12 17))
  | 8 => accept w [(19, 7)] (.ftobf (bvAt 5 w 7) (srcAt w 12 17))
  | 9 => accept w [(19, 7)] (.ftoh (bvAt 5 w 7) (srcAt w 12 17))
  | 10 => accept w [(19, 7)] (.bftof (bvAt 5 w 7) (srcAt w 12 17))
  | 11 => accept w [(19, 7)] (.htof (bvAt 5 w 7) (srcAt w 12 17))
  | _ => .error .unassignedFunction

/-- Major 0x0C (R179). -/
def decode0C (w : Nat) : Except Reject Instr :=
  match fld w 12 2 with
  | 0 => accept w [(10, 2)] (.segld (bvAt 3 w 7) (bvAt 3 w 21) (srcAt w 14 19) (bvAt 8 w 24))
  | 1 => accept w [(14, 7), (26, 6)] (.segrd (bvAt 5 w 7) (bvAt 3 w 21) (bvAt 2 w 24))
  | _ => .error .unassignedFunction

/-- Major 0x11 (R179). -/
def decode11 (w : Nat) : Except Reject Instr :=
  match fld w 12 2 with
  | 0 => accept w [] (.ldh (bvAt 5 w 7) (bvAt 3 w 21) (srcAt w 14 19) (bvAt 8 w 24))
  | 1 => accept w [] (.ldhu (bvAt 5 w 7) (bvAt 3 w 21) (srcAt w 14 19) (bvAt 8 w 24))
  | _ => .error .unassignedFunction

/-- Major 0x12 (R179). -/
def decode12 (w : Nat) : Except Reject Instr :=
  match fld w 12 2 with
  | 0 => accept w [] (.ldb (bvAt 5 w 7) (bvAt 3 w 21) (srcAt w 14 19) (bvAt 8 w 24))
  | 1 => accept w [] (.ldbu (bvAt 5 w 7) (bvAt 3 w 21) (srcAt w 14 19) (bvAt 8 w 24))
  | _ => .error .unassignedFunction

/-- Major 0x18 (R179). -/
def decode18 (w : Nat) : Except Reject Instr :=
  match fld w 29 3 with
  | 0 => accept w [] (.aadd (bvAt 5 w 7) (bvAt 3 w 26) (srcAt w 12 17) (srcAt w 19 24))
  | 1 => accept w [] (.aand (bvAt 5 w 7) (bvAt 3 w 26) (srcAt w 12 17) (srcAt w 19 24))
  | 2 => accept w [] (.aor (bvAt 5 w 7) (bvAt 3 w 26) (srcAt w 12 17) (srcAt w 19 24))
  | 3 => accept w [] (.axor (bvAt 5 w 7) (bvAt 3 w 26) (srcAt w 12 17) (srcAt w 19 24))
  | 4 => accept w [] (.amin (bvAt 5 w 7) (bvAt 3 w 26) (srcAt w 12 17) (srcAt w 19 24))
  | 5 => accept w [] (.amax (bvAt 5 w 7) (bvAt 3 w 26) (srcAt w 12 17) (srcAt w 19 24))
  | 6 => accept w [] (.aminu (bvAt 5 w 7) (bvAt 3 w 26) (srcAt w 12 17) (srcAt w 19 24))
  | _ => accept w [] (.amaxu (bvAt 5 w 7) (bvAt 3 w 26) (srcAt w 12 17) (srcAt w 19 24))

/-- Major 0x19 (R179). -/
def decode19 (w : Nat) : Except Reject Instr :=
  match fld w 29 3 with
  | 0 => accept w [] (.aaddC (bvAt 5 w 7) (bvAt 3 w 26) (srcAt w 12 17) (srcAt w 19 24))
  | 1 => accept w [] (.aandC (bvAt 5 w 7) (bvAt 3 w 26) (srcAt w 12 17) (srcAt w 19 24))
  | 2 => accept w [] (.aorC (bvAt 5 w 7) (bvAt 3 w 26) (srcAt w 12 17) (srcAt w 19 24))
  | 3 => accept w [] (.axorC (bvAt 5 w 7) (bvAt 3 w 26) (srcAt w 12 17) (srcAt w 19 24))
  | 4 => accept w [] (.aminC (bvAt 5 w 7) (bvAt 3 w 26) (srcAt w 12 17) (srcAt w 19 24))
  | 5 => accept w [] (.amaxC (bvAt 5 w 7) (bvAt 3 w 26) (srcAt w 12 17) (srcAt w 19 24))
  | 6 => accept w [] (.aminuC (bvAt 5 w 7) (bvAt 3 w 26) (srcAt w 12 17) (srcAt w 19 24))
  | _ => accept w [] (.amaxuC (bvAt 5 w 7) (bvAt 3 w 26) (srcAt w 12 17) (srcAt w 19 24))

/-- Major 0x1A (R179). -/
def decode1A (w : Nat) : Except Reject Instr :=
  match fld w 29 3 with
  | 0 => accept w [] (.swap (bvAt 5 w 7) (bvAt 3 w 26) (srcAt w 12 17) (srcAt w 19 24))
  | 1 => accept w [] (.cas (bvAt 5 w 7) (bvAt 3 w 26) (srcAt w 12 17) (srcAt w 19 24))
  | _ => .error .unassignedFunction

/-- Major 0x1C (R179). -/
def decode1C (w : Nat) : Except Reject Instr :=
  match fld w 29 3 with
  | 0 => accept w [] (.binit (bvAt 5 w 7) (bvAt 3 w 26) (srcAt w 12 17) (srcAt w 19 24))
  | 1 => accept w [] (.bind (bvAt 5 w 7) (bvAt 3 w 26) (srcAt w 12 17) (srcAt w 19 24))
  | 2 => accept w [] (.unbind (bvAt 5 w 7) (bvAt 3 w 26) (srcAt w 12 17) (srcAt w 19 24))
  | 3 => accept w [] (.acqX (bvAt 5 w 7) (bvAt 3 w 26) (srcAt w 12 17) (srcAt w 19 24))
  | 4 => accept w [] (.acqS (bvAt 5 w 7) (bvAt 3 w 26) (srcAt w 12 17) (srcAt w 19 24))
  | 5 => accept w [] (.gtryX (bvAt 5 w 7) (bvAt 3 w 26) (srcAt w 12 17) (srcAt w 19 24))
  | 6 => accept w [] (.gtryS (bvAt 5 w 7) (bvAt 3 w 26) (srcAt w 12 17) (srcAt w 19 24))
  | _ => accept w [(19, 7)] (.rel (bvAt 5 w 7) (bvAt 3 w 26) (srcAt w 12 17))

/-- Major 0x1D (R179). -/
def decode1D (w : Nat) : Except Reject Instr :=
  match fld w 29 3 with
  | 0 => accept w [] (.join (bvAt 5 w 7) (bvAt 3 w 26) (srcAt w 12 17) (srcAt w 19 24))
  | 1 => accept w [(19, 7)] (.leave (bvAt 5 w 7) (bvAt 3 w 26) (srcAt w 12 17))
  | 2 => accept w [(19, 7)] (.arrive (bvAt 5 w 7) (bvAt 3 w 26) (srcAt w 12 17))
  | 3 => accept w [(19, 7)] (.bwait (bvAt 5 w 7) (bvAt 3 w 26) (srcAt w 12 17))
  | 4 => accept w [(19, 7)] (.barw (bvAt 5 w 7) (bvAt 3 w 26) (srcAt w 12 17))
  | 5 => accept w [] (.waitc (bvAt 5 w 7) (bvAt 3 w 26) (srcAt w 12 17) (srcAt w 19 24))
  | 6 => accept w [] (.postc (bvAt 5 w 7) (bvAt 3 w 26) (srcAt w 12 17) (srcAt w 19 24))
  | _ => accept w [] (.postce (bvAt 5 w 7) (bvAt 3 w 26) (srcAt w 12 17) (srcAt w 19 24))

/-- Major 0x1E (R179). -/
def decode1E (w : Nat) : Except Reject Instr :=
  match fld w 29 3 with
  | 0 => accept w [(7, 5)] (.send (srcAt w 12 17) (srcAt w 19 24) (bvAt 3 w 26))
  | 1 => accept w [(9, 3), (19, 10)] (.chon (srcAt w 12 17) (bvAt 2 w 7))
  | 2 => accept w [(9, 20)] (.choff (bvAt 2 w 7))
  | _ => .error .unassignedFunction

/-- Major 0x1F (R179). -/
def decode1F (w : Nat) : Except Reject Instr :=
  match fld w 29 3 with
  | 0 => accept w [] (.mcst (bvAt 5 w 7) (bvAt 3 w 26) (srcAt w 12 17) (srcAt w 19 24))
  | 1 => accept w [] (.mcstc (bvAt 5 w 7) (bvAt 3 w 26) (srcAt w 12 17) (srcAt w 19 24))
  | 2 => accept w [(26, 3)] (.mcseq (bvAt 5 w 7) (srcAt w 12 17) (srcAt w 19 24))
  | _ => .error .unassignedFunction

/-- Engine 0 commands of major 0x30 (R251). -/
def decode30e0 (w : Nat) : Except Reject Instr :=
  match fld w 24 8 with
  | 0 => accept w [(17, 7)] (.mzero (srcAt w 10 15))
  | 1 => accept w [] (.mma (srcAt w 10 15) (srcAt w 17 22))
  | 2 => accept w [] (.mmag (srcAt w 10 15) (srcAt w 17 22))
  | 3 => accept w [(17, 7)] (.mstore (srcAt w 10 15))
  | 4 => accept w [(17, 7)] (.mreduce (srcAt w 10 15))
  | 5 => accept w [] (.mqput (srcAt w 10 15) (srcAt w 17 22))
  | _ => .error .unassignedFunction

/-- Engine 1 commands of major 0x30 (R251). -/
def decode30e1 (w : Nat) : Except Reject Instr :=
  match fld w 24 8 with
  | 0 => accept w [] (.vcvt (srcAt w 10 15) (srcAt w 17 22))
  | 1 => accept w [] (.vadd (srcAt w 10 15) (srcAt w 17 22))
  | 2 => accept w [] (.vsub (srcAt w 10 15) (srcAt w 17 22))
  | 3 => accept w [] (.vmul (srcAt w 10 15) (srcAt w 17 22))
  | 4 => accept w [] (.vdiv (srcAt w 10 15) (srcAt w 17 22))
  | 5 => accept w [] (.vmin (srcAt w 10 15) (srcAt w 17 22))
  | 6 => accept w [] (.vmax (srcAt w 10 15) (srcAt w 17 22))
  | 7 => accept w [] (.vfma (srcAt w 10 15) (srcAt w 17 22))
  | 8 => accept w [] (.vfms (srcAt w 10 15) (srcAt w 17 22))
  | 9 => accept w [] (.vadds (srcAt w 10 15) (srcAt w 17 22))
  | 10 => accept w [] (.vmuls (srcAt w 10 15) (srcAt w 17 22))
  | 11 => accept w [] (.vfmas (srcAt w 10 15) (srcAt w 17 22))
  | 12 => accept w [] (.vabs (srcAt w 10 15) (srcAt w 17 22))
  | 13 => accept w [] (.vneg (srcAt w 10 15) (srcAt w 17 22))
  | 14 => accept w [] (.vrelu (srcAt w 10 15) (srcAt w 17 22))
  | 15 => accept w [] (.vclamp (srcAt w 10 15) (srcAt w 17 22))
  | 16 => accept w [] (.vexp2 (srcAt w 10 15) (srcAt w 17 22))
  | 17 => accept w [] (.vlog2 (srcAt w 10 15) (srcAt w 17 22))
  | 18 => accept w [] (.vrcp (srcAt w 10 15) (srcAt w 17 22))
  | 19 => accept w [] (.vrsq (srcAt w 10 15) (srcAt w 17 22))
  | 20 => accept w [] (.vsqrt (srcAt w 10 15) (srcAt w 17 22))
  | 21 => accept w [] (.vtanh (srcAt w 10 15) (srcAt w 17 22))
  | 22 => accept w [] (.vcmplt (srcAt w 10 15) (srcAt w 17 22))
  | 23 => accept w [] (.vcmpeq (srcAt w 10 15) (srcAt w 17 22))
  | 24 => accept w [] (.vsel (srcAt w 10 15) (srcAt w 17 22))
  | 25 => accept w [] (.vrsum (srcAt w 10 15) (srcAt w 17 22))
  | 26 => accept w [] (.vrmax (srcAt w 10 15) (srcAt w 17 22))
  | 27 => accept w [] (.vrmin (srcAt w 10 15) (srcAt w 17 22))
  | 28 => accept w [] (.vrsumsq (srcAt w 10 15) (srcAt w 17 22))
  | 29 => accept w [] (.vdot (srcAt w 10 15) (srcAt w 17 22))
  | 30 => accept w [(10, 7)] (.vfill (srcAt w 17 22))
  | 31 => accept w [(10, 7)] (.viota (srcAt w 17 22))
  | _ => .error .unassignedFunction

/-- Engine 2 commands of major 0x30 (R251). -/
def decode30e2 (w : Nat) : Except Reject Instr :=
  match fld w 24 8 with
  | 0 => accept w [(17, 7)] (.lfill (srcAt w 10 15))
  | 1 => accept w [(17, 7)] (.lgather (srcAt w 10 15))
  | 2 => accept w [(17, 7)] (.ldrain (srcAt w 10 15))
  | 3 => accept w [(22, 2)] (.lwptr (srcAt w 10 15) (bvAt 5 w 17))
  | 4 => accept w [(17, 7)] (.lcancel (srcAt w 10 15))
  | _ => .error .unassignedFunction

/-- Engine 3 commands of major 0x30 (R251). -/
def decode30e3 (w : Nat) : Except Reject Instr :=
  match fld w 24 8 with
  | 0 => accept w [(17, 7)] (.qsync (srcAt w 10 15))
  | 1 => accept w [(17, 7)] (.qcancel (srcAt w 10 15))
  | _ => .error .unassignedFunction

/-- Engine 5 commands of major 0x30 (R251). -/
def decode30e5 (w : Nat) : Except Reject Instr :=
  match fld w 24 8 with
  | 0 => accept w [] (.xcopy (srcAt w 10 15) (srcAt w 17 22))
  | 1 => accept w [] (.npost (srcAt w 10 15) (srcAt w 17 22))
  | 2 => accept w [(22, 2)] (.npoll (srcAt w 10 15) (bvAt 5 w 17))
  | _ => .error .unassignedFunction

/-- Major 0x30 by engine (R251); engine 4 has no commands, 6 and 7 are reserved (R180). -/
def decode30 (w : Nat) : Except Reject Instr :=
  match fld w 7 3 with
  | 0 => decode30e0 w
  | 1 => decode30e1 w
  | 2 => decode30e2 w
  | 3 => decode30e3 w
  | 4 => .error .unassignedFunction
  | 5 => decode30e5 w
  | _ => .error .reservedValue

/-- Major 0x31 (R179). -/
def decode31 (w : Nat) : Except Reject Instr :=
  match fld w 25 7 with
  | 0 => accept w [] (.ewr (srcAt w 10 15) (bvAt 3 w 7) (bvAt 8 w 17))
  | 1 => accept w [] (.ewrs (srcAt w 10 15) (bvAt 3 w 7) (bvAt 8 w 17))
  | 2 => accept w [] (.ewrh (srcAt w 10 15) (bvAt 3 w 7) (bvAt 8 w 17))
  | 3 => accept w [(15, 2)] (.erd (bvAt 5 w 10) (bvAt 3 w 7) (bvAt 8 w 17))
  | 4 => accept w [(15, 2)] (.erdh (bvAt 5 w 10) (bvAt 3 w 7) (bvAt 8 w 17))
  | _ => .error .unassignedFunction

/-- Major 0x48 (R179). -/
def decode48 (w : Nat) : Except Reject Instr :=
  match fld w 31 1 with
  | 0 => accept w [] (.csrxch (bvAt 5 w 7) (srcAt w 12 17) (bvAt 12 w 19))
  | _ => accept w [] (.csrxchi (bvAt 5 w 7) (bvAt 12 w 19) (bvAt 7 w 12))

/-- Major 0x49 (R179). -/
def decode49 (w : Nat) : Except Reject Instr :=
  match fld w 31 1 with
  | 0 => accept w [] (.csrbs (bvAt 5 w 7) (srcAt w 12 17) (bvAt 12 w 19))
  | _ => accept w [] (.csrbsi (bvAt 5 w 7) (bvAt 12 w 19) (bvAt 7 w 12))

/-- Major 0x4A (R179). -/
def decode4A (w : Nat) : Except Reject Instr :=
  match fld w 31 1 with
  | 0 => accept w [] (.csrbc (bvAt 5 w 7) (srcAt w 12 17) (bvAt 12 w 19))
  | _ => accept w [] (.csrbci (bvAt 5 w 7) (bvAt 12 w 19) (bvAt 7 w 12))

/-- Major 0x4B (R179). -/
def decode4B (w : Nat) : Except Reject Instr :=
  match fld w 26 6 with
  | 0 => accept w [(7, 19)] .nop
  | 1 => accept w [(19, 7)] (.trap (srcAt w 12 17) (bvAt 5 w 7))
  | 2 => accept w [(12, 14)] (.brk (bvAt 5 w 7))
  | 3 => accept w [(7, 19)] .eret
  | 4 => accept w [(7, 19)] .yield
  | 5 => accept w [(7, 19)] .park
  | 6 => accept w [(7, 5)] (.wake (srcAt w 12 17) (srcAt w 19 24))
  | 7 => accept w [(7, 19)] .halt
  | _ => .error .unassignedFunction

/-- Major 0x4C (R179). -/
def decode4C (w : Nat) : Except Reject Instr :=
  match fld w 29 3 with
  | 0 => accept w [] (.fork (bvAt 5 w 7) (bvAt 3 w 26) (srcAt w 12 17) (srcAt w 19 24))
  | 1 => accept w [(19, 7)] (.joinc (bvAt 5 w 7) (bvAt 3 w 26) (srcAt w 12 17))
  | 2 => accept w [] (.spawn (bvAt 5 w 7) (bvAt 3 w 26) (srcAt w 12 17) (srcAt w 19 24))
  | _ => .error .unassignedFunction

/-- Major 0x4D (R179). -/
def decode4D (w : Nat) : Except Reject Instr :=
  match fld w 29 3 with
  | 0 => accept w [(19, 10)] (.rqpush (bvAt 5 w 7) (srcAt w 12 17))
  | 1 => accept w [(19, 10)] (.rqpop (bvAt 5 w 7) (srcAt w 12 17))
  | 2 => accept w [] (.ctxsv (bvAt 5 w 7) (bvAt 3 w 26) (srcAt w 12 17) (srcAt w 19 24))
  | 3 => accept w [] (.ctxld (bvAt 5 w 7) (bvAt 3 w 26) (srcAt w 12 17) (srcAt w 19 24))
  | 4 => accept w [(19, 10)] (.splock (bvAt 5 w 7) (srcAt w 12 17))
  | 5 => accept w [(7, 5), (19, 10)] (.spunlock (srcAt w 12 17))
  | 6 => accept w [(19, 10)] (.lagrant (bvAt 5 w 7) (srcAt w 12 17))
  | _ => accept w [(7, 5)] (.scrub (bvAt 3 w 26) (srcAt w 12 17) (srcAt w 19 24))

/-- The decoder: total on every word (R179, R180). -/
def decodeWord (w : Nat) : Except Reject Instr :=
  if w = 0 ∨ w = 0xFFFFFFFF then .error .illegalWord else
  match w % 128 with
  | 0x01 => decode01 w
  | 0x02 => accept w [] (.addi (bvAt 5 w 7) (srcAt w 12 17) (bvAt 13 w 19))
  | 0x03 => decode03 w
  | 0x04 => accept w [] (.lui (bvAt 5 w 7) (bvAt 20 w 12))
  | 0x05 => accept w [] (.addpc (bvAt 5 w 7) (bvAt 20 w 12))
  | 0x06 => decode06 w
  | 0x07 => decode07 w
  | 0x08 => decode08 w
  | 0x09 => decode09 w
  | 0x0A => decode0A w
  | 0x20 => decode20 w
  | 0x21 => accept w [] (.jal (bvAt 5 w 7) (bvAt 20 w 12))
  | 0x22 => accept w [] (.jalr (bvAt 5 w 7) (srcAt w 12 17) (bvAt 13 w 19))
  | 0x28 => decode28 w
  | 0x29 => decode29 w
  | 0x2A => decode2A w
  | 0x0B => accept w [] (.lea (bvAt 5 w 7) (bvAt 3 w 21) (srcAt w 14 19) (bvAt 2 w 12) (bvAt 8 w 24))
  | 0x0C => decode0C w
  | 0x10 => accept w [(12, 2)] (.ldw (bvAt 5 w 7) (bvAt 3 w 21) (srcAt w 14 19) (bvAt 8 w 24))
  | 0x11 => decode11 w
  | 0x12 => decode12 w
  | 0x13 => accept w [(12, 2)] (.ldp (bvAt 5 w 7) (bvAt 3 w 21) (srcAt w 14 19) (bvAt 8 w 24))
  | 0x14 => accept w [] (.stw (srcAt w 7 12) (bvAt 3 w 21) (srcAt w 14 19) (bvAt 8 w 24))
  | 0x15 => accept w [] (.sth (srcAt w 7 12) (bvAt 3 w 21) (srcAt w 14 19) (bvAt 8 w 24))
  | 0x16 => accept w [] (.stb (srcAt w 7 12) (bvAt 3 w 21) (srcAt w 14 19) (bvAt 8 w 24))
  | 0x17 => accept w [] (.stp (srcAt w 7 12) (bvAt 3 w 21) (srcAt w 14 19) (bvAt 8 w 24))
  | 0x18 => decode18 w
  | 0x19 => decode19 w
  | 0x1A => decode1A w
  | 0x1B => accept w [(7, 12), (30, 2)] (.fence (bvAt 3 w 27) (bvAt 8 w 19))
  | 0x1C => decode1C w
  | 0x1D => decode1D w
  | 0x1E => decode1E w
  | 0x1F => decode1F w
  | 0x30 => decode30 w
  | 0x31 => decode31 w
  | 0x40 => accept w [(24, 8)] (.fmtp (bvAt 4 w 7) (bvAt 4 w 11) (bvAt 4 w 15) (bvAt 3 w 19) (bvAt 2 w 22))
  | 0x48 => decode48 w
  | 0x49 => decode49 w
  | 0x4A => decode4A w
  | 0x4B => decode4B w
  | 0x4C => decode4C w
  | 0x4D => decode4D w
  | _ => .error .illegalMajor

/-- The decoder on an instruction whose bits are numbered as the opcode table numbers them; bits above nbits are 0. -/
def decodeTableWord (nbits w : Nat) : Option Instr :=
  match decodeWord (w % 2 ^ nbits % 2 ^ 32) with
  | .ok i => some i
  | .error _ => none

/-- A field value placed at a bit position (R177). -/
def at' (v lo : Nat) : Nat := v * 2 ^ lo

/-- A source register and its mode placed at their positions (R177). -/
def Src.enc (a : Src) (r m : Nat) : Nat := at' a.r.toNat r + at' a.m.toNat m

/-- The word of an instruction, from the formats of R177 and the function-code tables; none for an event. -/
def encode : Instr → Option Nat
  | .add d a b => some (0x1 + at' d.toNat 7 + a.enc 12 17 + b.enc 19 24)
  | .sub d a b => some (0x4000001 + at' d.toNat 7 + a.enc 12 17 + b.enc 19 24)
  | .and d a b => some (0x8000001 + at' d.toNat 7 + a.enc 12 17 + b.enc 19 24)
  | .or d a b => some (0xC000001 + at' d.toNat 7 + a.enc 12 17 + b.enc 19 24)
  | .xor d a b => some (0x10000001 + at' d.toNat 7 + a.enc 12 17 + b.enc 19 24)
  | .andn d a b => some (0x14000001 + at' d.toNat 7 + a.enc 12 17 + b.enc 19 24)
  | .sll d a b => some (0x20000001 + at' d.toNat 7 + a.enc 12 17 + b.enc 19 24)
  | .srl d a b => some (0x24000001 + at' d.toNat 7 + a.enc 12 17 + b.enc 19 24)
  | .sra d a b => some (0x28000001 + at' d.toNat 7 + a.enc 12 17 + b.enc 19 24)
  | .rol d a b => some (0x2C000001 + at' d.toNat 7 + a.enc 12 17 + b.enc 19 24)
  | .ror d a b => some (0x30000001 + at' d.toNat 7 + a.enc 12 17 + b.enc 19 24)
  | .mul d a b => some (0x40000001 + at' d.toNat 7 + a.enc 12 17 + b.enc 19 24)
  | .mulh d a b => some (0x44000001 + at' d.toNat 7 + a.enc 12 17 + b.enc 19 24)
  | .mulhu d a b => some (0x48000001 + at' d.toNat 7 + a.enc 12 17 + b.enc 19 24)
  | .div d a b => some (0x50000001 + at' d.toNat 7 + a.enc 12 17 + b.enc 19 24)
  | .divu d a b => some (0x54000001 + at' d.toNat 7 + a.enc 12 17 + b.enc 19 24)
  | .rem d a b => some (0x58000001 + at' d.toNat 7 + a.enc 12 17 + b.enc 19 24)
  | .remu d a b => some (0x5C000001 + at' d.toNat 7 + a.enc 12 17 + b.enc 19 24)
  | .min d a b => some (0x60000001 + at' d.toNat 7 + a.enc 12 17 + b.enc 19 24)
  | .max d a b => some (0x64000001 + at' d.toNat 7 + a.enc 12 17 + b.enc 19 24)
  | .minu d a b => some (0x68000001 + at' d.toNat 7 + a.enc 12 17 + b.enc 19 24)
  | .maxu d a b => some (0x6C000001 + at' d.toNat 7 + a.enc 12 17 + b.enc 19 24)
  | .adds d a b => some (0x70000001 + at' d.toNat 7 + a.enc 12 17 + b.enc 19 24)
  | .subs d a b => some (0x74000001 + at' d.toNat 7 + a.enc 12 17 + b.enc 19 24)
  | .dividerDone => none
  | .addi d a imm => some (0x2 + at' d.toNat 7 + a.enc 12 17 + at' imm.toNat 19)
  | .slli d a c => some (0x3 + at' d.toNat 7 + a.enc 12 17 + at' c.toNat 19)
  | .srli d a c => some (0x20000003 + at' d.toNat 7 + a.enc 12 17 + at' c.toNat 19)
  | .srai d a c => some (0x40000003 + at' d.toNat 7 + a.enc 12 17 + at' c.toNat 19)
  | .rori d a c => some (0x60000003 + at' d.toNat 7 + a.enc 12 17 + at' c.toNat 19)
  | .lui d imm => some (0x4 + at' d.toNat 7 + at' imm.toNat 12)
  | .addpc d imm => some (0x5 + at' d.toNat 7 + at' imm.toNat 12)
  | .seq d a b => some (0x6 + at' d.toNat 7 + a.enc 12 17 + b.enc 19 24)
  | .sne d a b => some (0x4000006 + at' d.toNat 7 + a.enc 12 17 + b.enc 19 24)
  | .slt d a b => some (0x8000006 + at' d.toNat 7 + a.enc 12 17 + b.enc 19 24)
  | .sltu d a b => some (0xC000006 + at' d.toNat 7 + a.enc 12 17 + b.enc 19 24)
  | .seqi d a imm => some (0x7 + at' d.toNat 7 + a.enc 12 17 + at' imm.toNat 19)
  | .snei d a imm => some (0x20000007 + at' d.toNat 7 + a.enc 12 17 + at' imm.toNat 19)
  | .slti d a imm => some (0x40000007 + at' d.toNat 7 + a.enc 12 17 + at' imm.toNat 19)
  | .sltui d a imm => some (0x60000007 + at' d.toNat 7 + a.enc 12 17 + at' imm.toNat 19)
  | .sgti d a imm => some (0x80000007 + at' d.toNat 7 + a.enc 12 17 + at' imm.toNat 19)
  | .sgtui d a imm => some (0xA0000007 + at' d.toNat 7 + a.enc 12 17 + at' imm.toNat 19)
  | .selnz d a b c => some (0x8 + at' d.toNat 7 + a.enc 12 17 + b.enc 19 24 + at' c.toNat 26)
  | .seleqz d a b c => some (0x80000008 + at' d.toNat 7 + a.enc 12 17 + b.enc 19 24 + at' c.toNat 26)
  | .clz d a => some (0x9 + at' d.toNat 7 + a.enc 12 17)
  | .ctz d a => some (0x4000009 + at' d.toNat 7 + a.enc 12 17)
  | .popc d a => some (0x8000009 + at' d.toNat 7 + a.enc 12 17)
  | .brev d a => some (0xC000009 + at' d.toNat 7 + a.enc 12 17)
  | .bswap d a => some (0x10000009 + at' d.toNat 7 + a.enc 12 17)
  | .sextb d a => some (0x14000009 + at' d.toNat 7 + a.enc 12 17)
  | .sexth d a => some (0x18000009 + at' d.toNat 7 + a.enc 12 17)
  | .zexth d a => some (0x1C000009 + at' d.toNat 7 + a.enc 12 17)
  | .extu d a p w => some (0xA + at' d.toNat 7 + a.enc 12 17 + at' p.toNat 25 + at' w.toNat 20)
  | .exts d a p w => some (0x4000000A + at' d.toNat 7 + a.enc 12 17 + at' p.toNat 25 + at' w.toNat 20)
  | .ins d a p w => some (0x8000000A + at' d.toNat 7 + a.enc 12 17 + at' p.toNat 25 + at' w.toNat 20)
  | .beqz a imm p => some (0x20 + a.enc 11 16 + at' imm.toNat 18 + at' p.toNat 10)
  | .bnez a imm p => some (0xA0 + a.enc 11 16 + at' imm.toNat 18 + at' p.toNat 10)
  | .bltz a imm p => some (0x120 + a.enc 11 16 + at' imm.toNat 18 + at' p.toNat 10)
  | .bgez a imm p => some (0x1A0 + a.enc 11 16 + at' imm.toNat 18 + at' p.toNat 10)
  | .bgtz a imm p => some (0x220 + a.enc 11 16 + at' imm.toNat 18 + at' p.toNat 10)
  | .blez a imm p => some (0x2A0 + a.enc 11 16 + at' imm.toNat 18 + at' p.toNat 10)
  | .bfull a imm p => some (0x320 + at' a.toNat 11 + at' imm.toNat 18 + at' p.toNat 10)
  | .bempty a imm p => some (0x3A0 + at' a.toNat 11 + at' imm.toNat 18 + at' p.toNat 10)
  | .jal d imm => some (0x21 + at' d.toNat 7 + at' imm.toNat 12)
  | .jalr d a imm => some (0x22 + at' d.toNat 7 + a.enc 12 17 + at' imm.toNat 19)
  | .fadd d a b => some (0x28 + at' d.toNat 7 + a.enc 12 17 + b.enc 19 24)
  | .fsub d a b => some (0x4000028 + at' d.toNat 7 + a.enc 12 17 + b.enc 19 24)
  | .fmul d a b => some (0x8000028 + at' d.toNat 7 + a.enc 12 17 + b.enc 19 24)
  | .fdiv d a b => some (0xC000028 + at' d.toNat 7 + a.enc 12 17 + b.enc 19 24)
  | .fsqrt d a => some (0x10000028 + at' d.toNat 7 + a.enc 12 17)
  | .fmin d a b => some (0x14000028 + at' d.toNat 7 + a.enc 12 17 + b.enc 19 24)
  | .fmax d a b => some (0x18000028 + at' d.toNat 7 + a.enc 12 17 + b.enc 19 24)
  | .fcpys d a b => some (0x1C000028 + at' d.toNat 7 + a.enc 12 17 + b.enc 19 24)
  | .fneg d a => some (0x20000028 + at' d.toNat 7 + a.enc 12 17)
  | .fabs d a => some (0x24000028 + at' d.toNat 7 + a.enc 12 17)
  | .fxsgn d a b => some (0x28000028 + at' d.toNat 7 + a.enc 12 17 + b.enc 19 24)
  | .fminp d a b => some (0x2C000028 + at' d.toNat 7 + a.enc 12 17 + b.enc 19 24)
  | .fmaxp d a b => some (0x30000028 + at' d.toNat 7 + a.enc 12 17 + b.enc 19 24)
  | .fmadd d a b c => some (0x29 + at' d.toNat 7 + a.enc 12 17 + b.enc 19 24 + at' c.toNat 26)
  | .fmsub d a b c => some (0x80000029 + at' d.toNat 7 + a.enc 12 17 + b.enc 19 24 + at' c.toNat 26)
  | .fcmpeq d a b => some (0x2A + at' d.toNat 7 + a.enc 12 17 + b.enc 19 24)
  | .fcmplt d a b => some (0x400002A + at' d.toNat 7 + a.enc 12 17 + b.enc 19 24)
  | .fcmple d a b => some (0x800002A + at' d.toNat 7 + a.enc 12 17 + b.enc 19 24)
  | .fclass d a => some (0xC00002A + at' d.toNat 7 + a.enc 12 17)
  | .ftoi d a => some (0x1000002A + at' d.toNat 7 + a.enc 12 17)
  | .ftou d a => some (0x1400002A + at' d.toNat 7 + a.enc 12 17)
  | .itof d a => some (0x1800002A + at' d.toNat 7 + a.enc 12 17)
  | .utof d a => some (0x1C00002A + at' d.toNat 7 + a.enc 12 17)
  | .ftobf d a => some (0x2000002A + at' d.toNat 7 + a.enc 12 17)
  | .ftoh d a => some (0x2400002A + at' d.toNat 7 + a.enc 12 17)
  | .bftof d a => some (0x2800002A + at' d.toNat 7 + a.enc 12 17)
  | .htof d a => some (0x2C00002A + at' d.toNat 7 + a.enc 12 17)
  | .lea d sg a c imm => some (0xB + at' d.toNat 7 + at' sg.toNat 21 + a.enc 14 19 + at' c.toNat 12 + at' imm.toNat 24)
  | .segld d sg a imm => some (0xC + at' d.toNat 7 + at' sg.toNat 21 + a.enc 14 19 + at' imm.toNat 24)
  | .segrd d sg p => some (0x100C + at' d.toNat 7 + at' sg.toNat 21 + at' p.toNat 24)
  | .ldw d sg a imm => some (0x10 + at' d.toNat 7 + at' sg.toNat 21 + a.enc 14 19 + at' imm.toNat 24)
  | .ldh d sg a imm => some (0x11 + at' d.toNat 7 + at' sg.toNat 21 + a.enc 14 19 + at' imm.toNat 24)
  | .ldhu d sg a imm => some (0x1011 + at' d.toNat 7 + at' sg.toNat 21 + a.enc 14 19 + at' imm.toNat 24)
  | .ldb d sg a imm => some (0x12 + at' d.toNat 7 + at' sg.toNat 21 + a.enc 14 19 + at' imm.toNat 24)
  | .ldbu d sg a imm => some (0x1012 + at' d.toNat 7 + at' sg.toNat 21 + a.enc 14 19 + at' imm.toNat 24)
  | .ldp d sg a imm => some (0x13 + at' d.toNat 7 + at' sg.toNat 21 + a.enc 14 19 + at' imm.toNat 24)
  | .stw t sg a imm => some (0x14 + t.enc 7 12 + at' sg.toNat 21 + a.enc 14 19 + at' imm.toNat 24)
  | .sth t sg a imm => some (0x15 + t.enc 7 12 + at' sg.toNat 21 + a.enc 14 19 + at' imm.toNat 24)
  | .stb t sg a imm => some (0x16 + t.enc 7 12 + at' sg.toNat 21 + a.enc 14 19 + at' imm.toNat 24)
  | .stp t sg a imm => some (0x17 + t.enc 7 12 + at' sg.toNat 21 + a.enc 14 19 + at' imm.toNat 24)
  | .aadd d sg a b => some (0x18 + at' d.toNat 7 + at' sg.toNat 26 + a.enc 12 17 + b.enc 19 24)
  | .aand d sg a b => some (0x20000018 + at' d.toNat 7 + at' sg.toNat 26 + a.enc 12 17 + b.enc 19 24)
  | .aor d sg a b => some (0x40000018 + at' d.toNat 7 + at' sg.toNat 26 + a.enc 12 17 + b.enc 19 24)
  | .axor d sg a b => some (0x60000018 + at' d.toNat 7 + at' sg.toNat 26 + a.enc 12 17 + b.enc 19 24)
  | .amin d sg a b => some (0x80000018 + at' d.toNat 7 + at' sg.toNat 26 + a.enc 12 17 + b.enc 19 24)
  | .amax d sg a b => some (0xA0000018 + at' d.toNat 7 + at' sg.toNat 26 + a.enc 12 17 + b.enc 19 24)
  | .aminu d sg a b => some (0xC0000018 + at' d.toNat 7 + at' sg.toNat 26 + a.enc 12 17 + b.enc 19 24)
  | .amaxu d sg a b => some (0xE0000018 + at' d.toNat 7 + at' sg.toNat 26 + a.enc 12 17 + b.enc 19 24)
  | .aaddC d sg a b => some (0x19 + at' d.toNat 7 + at' sg.toNat 26 + a.enc 12 17 + b.enc 19 24)
  | .aandC d sg a b => some (0x20000019 + at' d.toNat 7 + at' sg.toNat 26 + a.enc 12 17 + b.enc 19 24)
  | .aorC d sg a b => some (0x40000019 + at' d.toNat 7 + at' sg.toNat 26 + a.enc 12 17 + b.enc 19 24)
  | .axorC d sg a b => some (0x60000019 + at' d.toNat 7 + at' sg.toNat 26 + a.enc 12 17 + b.enc 19 24)
  | .aminC d sg a b => some (0x80000019 + at' d.toNat 7 + at' sg.toNat 26 + a.enc 12 17 + b.enc 19 24)
  | .amaxC d sg a b => some (0xA0000019 + at' d.toNat 7 + at' sg.toNat 26 + a.enc 12 17 + b.enc 19 24)
  | .aminuC d sg a b => some (0xC0000019 + at' d.toNat 7 + at' sg.toNat 26 + a.enc 12 17 + b.enc 19 24)
  | .amaxuC d sg a b => some (0xE0000019 + at' d.toNat 7 + at' sg.toNat 26 + a.enc 12 17 + b.enc 19 24)
  | .swap d sg a b => some (0x1A + at' d.toNat 7 + at' sg.toNat 26 + a.enc 12 17 + b.enc 19 24)
  | .cas d sg a b => some (0x2000001A + at' d.toNat 7 + at' sg.toNat 26 + a.enc 12 17 + b.enc 19 24)
  | .fence c p => some (0x1B + at' c.toNat 27 + at' p.toNat 19)
  | .binit d sg a b => some (0x1C + at' d.toNat 7 + at' sg.toNat 26 + a.enc 12 17 + b.enc 19 24)
  | .bind d sg a b => some (0x2000001C + at' d.toNat 7 + at' sg.toNat 26 + a.enc 12 17 + b.enc 19 24)
  | .unbind d sg a b => some (0x4000001C + at' d.toNat 7 + at' sg.toNat 26 + a.enc 12 17 + b.enc 19 24)
  | .acqX d sg a b => some (0x6000001C + at' d.toNat 7 + at' sg.toNat 26 + a.enc 12 17 + b.enc 19 24)
  | .acqS d sg a b => some (0x8000001C + at' d.toNat 7 + at' sg.toNat 26 + a.enc 12 17 + b.enc 19 24)
  | .gtryX d sg a b => some (0xA000001C + at' d.toNat 7 + at' sg.toNat 26 + a.enc 12 17 + b.enc 19 24)
  | .gtryS d sg a b => some (0xC000001C + at' d.toNat 7 + at' sg.toNat 26 + a.enc 12 17 + b.enc 19 24)
  | .rel d sg a => some (0xE000001C + at' d.toNat 7 + at' sg.toNat 26 + a.enc 12 17)
  | .join d sg a b => some (0x1D + at' d.toNat 7 + at' sg.toNat 26 + a.enc 12 17 + b.enc 19 24)
  | .leave d sg a => some (0x2000001D + at' d.toNat 7 + at' sg.toNat 26 + a.enc 12 17)
  | .arrive d sg a => some (0x4000001D + at' d.toNat 7 + at' sg.toNat 26 + a.enc 12 17)
  | .bwait d sg a => some (0x6000001D + at' d.toNat 7 + at' sg.toNat 26 + a.enc 12 17)
  | .barw d sg a => some (0x8000001D + at' d.toNat 7 + at' sg.toNat 26 + a.enc 12 17)
  | .waitc d sg a b => some (0xA000001D + at' d.toNat 7 + at' sg.toNat 26 + a.enc 12 17 + b.enc 19 24)
  | .postc d sg a b => some (0xC000001D + at' d.toNat 7 + at' sg.toNat 26 + a.enc 12 17 + b.enc 19 24)
  | .postce d sg a b => some (0xE000001D + at' d.toNat 7 + at' sg.toNat 26 + a.enc 12 17 + b.enc 19 24)
  | .send a b k => some (0x1E + a.enc 12 17 + b.enc 19 24 + at' k.toNat 26)
  | .chon a k => some (0x2000001E + a.enc 12 17 + at' k.toNat 7)
  | .choff k => some (0x4000001E + at' k.toNat 7)
  | .mcst d sg a b => some (0x1F + at' d.toNat 7 + at' sg.toNat 26 + a.enc 12 17 + b.enc 19 24)
  | .mcstc d sg a b => some (0x2000001F + at' d.toNat 7 + at' sg.toNat 26 + a.enc 12 17 + b.enc 19 24)
  | .mcseq d a b => some (0x4000001F + at' d.toNat 7 + a.enc 12 17 + b.enc 19 24)
  | .mzero a => some (0x30 + a.enc 10 15)
  | .mma a b => some (0x1000030 + a.enc 10 15 + b.enc 17 22)
  | .mmag a b => some (0x2000030 + a.enc 10 15 + b.enc 17 22)
  | .mstore a => some (0x3000030 + a.enc 10 15)
  | .mreduce a => some (0x4000030 + a.enc 10 15)
  | .mqput a b => some (0x5000030 + a.enc 10 15 + b.enc 17 22)
  | .vcvt a b => some (0xB0 + a.enc 10 15 + b.enc 17 22)
  | .vadd a b => some (0x10000B0 + a.enc 10 15 + b.enc 17 22)
  | .vsub a b => some (0x20000B0 + a.enc 10 15 + b.enc 17 22)
  | .vmul a b => some (0x30000B0 + a.enc 10 15 + b.enc 17 22)
  | .vdiv a b => some (0x40000B0 + a.enc 10 15 + b.enc 17 22)
  | .vmin a b => some (0x50000B0 + a.enc 10 15 + b.enc 17 22)
  | .vmax a b => some (0x60000B0 + a.enc 10 15 + b.enc 17 22)
  | .vfma a b => some (0x70000B0 + a.enc 10 15 + b.enc 17 22)
  | .vfms a b => some (0x80000B0 + a.enc 10 15 + b.enc 17 22)
  | .vadds a b => some (0x90000B0 + a.enc 10 15 + b.enc 17 22)
  | .vmuls a b => some (0xA0000B0 + a.enc 10 15 + b.enc 17 22)
  | .vfmas a b => some (0xB0000B0 + a.enc 10 15 + b.enc 17 22)
  | .vabs a b => some (0xC0000B0 + a.enc 10 15 + b.enc 17 22)
  | .vneg a b => some (0xD0000B0 + a.enc 10 15 + b.enc 17 22)
  | .vrelu a b => some (0xE0000B0 + a.enc 10 15 + b.enc 17 22)
  | .vclamp a b => some (0xF0000B0 + a.enc 10 15 + b.enc 17 22)
  | .vexp2 a b => some (0x100000B0 + a.enc 10 15 + b.enc 17 22)
  | .vlog2 a b => some (0x110000B0 + a.enc 10 15 + b.enc 17 22)
  | .vrcp a b => some (0x120000B0 + a.enc 10 15 + b.enc 17 22)
  | .vrsq a b => some (0x130000B0 + a.enc 10 15 + b.enc 17 22)
  | .vsqrt a b => some (0x140000B0 + a.enc 10 15 + b.enc 17 22)
  | .vtanh a b => some (0x150000B0 + a.enc 10 15 + b.enc 17 22)
  | .vcmplt a b => some (0x160000B0 + a.enc 10 15 + b.enc 17 22)
  | .vcmpeq a b => some (0x170000B0 + a.enc 10 15 + b.enc 17 22)
  | .vsel a b => some (0x180000B0 + a.enc 10 15 + b.enc 17 22)
  | .vrsum a b => some (0x190000B0 + a.enc 10 15 + b.enc 17 22)
  | .vrmax a b => some (0x1A0000B0 + a.enc 10 15 + b.enc 17 22)
  | .vrmin a b => some (0x1B0000B0 + a.enc 10 15 + b.enc 17 22)
  | .vrsumsq a b => some (0x1C0000B0 + a.enc 10 15 + b.enc 17 22)
  | .vdot a b => some (0x1D0000B0 + a.enc 10 15 + b.enc 17 22)
  | .vfill b => some (0x1E0000B0 + b.enc 17 22)
  | .viota b => some (0x1F0000B0 + b.enc 17 22)
  | .lfill a => some (0x130 + a.enc 10 15)
  | .lgather a => some (0x1000130 + a.enc 10 15)
  | .ldrain a => some (0x2000130 + a.enc 10 15)
  | .lwptr a d => some (0x3000130 + a.enc 10 15 + at' d.toNat 17)
  | .lcancel a => some (0x4000130 + a.enc 10 15)
  | .qsync a => some (0x1B0 + a.enc 10 15)
  | .qcancel a => some (0x10001B0 + a.enc 10 15)
  | .xcopy a b => some (0x2B0 + a.enc 10 15 + b.enc 17 22)
  | .npost a b => some (0x10002B0 + a.enc 10 15 + b.enc 17 22)
  | .npoll a d => some (0x20002B0 + a.enc 10 15 + at' d.toNat 17)
  | .ewr a eng ereg => some (0x31 + a.enc 10 15 + at' eng.toNat 7 + at' ereg.toNat 17)
  | .ewrs a eng ereg => some (0x2000031 + a.enc 10 15 + at' eng.toNat 7 + at' ereg.toNat 17)
  | .ewrh a eng ereg => some (0x4000031 + a.enc 10 15 + at' eng.toNat 7 + at' ereg.toNat 17)
  | .erd a eng ereg => some (0x6000031 + at' a.toNat 10 + at' eng.toNat 7 + at' ereg.toNat 17)
  | .erdh a eng ereg => some (0x8000031 + at' a.toNat 10 + at' eng.toNat 7 + at' ereg.toNat 17)
  | .fmtp fa fb fo rnd sc => some (0x40 + at' fa.toNat 7 + at' fb.toNat 11 + at' fo.toNat 15 + at' rnd.toNat 19 + at' sc.toNat 22)
  | .csrxch d a c => some (0x48 + at' d.toNat 7 + a.enc 12 17 + at' c.toNat 19)
  | .csrxchi d c u => some (0x80000048 + at' d.toNat 7 + at' c.toNat 19 + at' u.toNat 12)
  | .csrbs d a c => some (0x49 + at' d.toNat 7 + a.enc 12 17 + at' c.toNat 19)
  | .csrbsi d c u => some (0x80000049 + at' d.toNat 7 + at' c.toNat 19 + at' u.toNat 12)
  | .csrbc d a c => some (0x4A + at' d.toNat 7 + a.enc 12 17 + at' c.toNat 19)
  | .csrbci d c u => some (0x8000004A + at' d.toNat 7 + at' c.toNat 19 + at' u.toNat 12)
  | .nop => some (0x4B)
  | .trap a u => some (0x400004B + a.enc 12 17 + at' u.toNat 7)
  | .brk u => some (0x800004B + at' u.toNat 7)
  | .eret => some (0xC00004B)
  | .yield => some (0x1000004B)
  | .park => some (0x1400004B)
  | .wake a b => some (0x1800004B + a.enc 12 17 + b.enc 19 24)
  | .halt => some (0x1C00004B)
  | .fork d sg a b => some (0x4C + at' d.toNat 7 + at' sg.toNat 26 + a.enc 12 17 + b.enc 19 24)
  | .joinc d sg a => some (0x2000004C + at' d.toNat 7 + at' sg.toNat 26 + a.enc 12 17)
  | .spawn d sg a b => some (0x4000004C + at' d.toNat 7 + at' sg.toNat 26 + a.enc 12 17 + b.enc 19 24)
  | .rqpush d a => some (0x4D + at' d.toNat 7 + a.enc 12 17)
  | .rqpop d a => some (0x2000004D + at' d.toNat 7 + a.enc 12 17)
  | .ctxsv d sg a b => some (0x4000004D + at' d.toNat 7 + at' sg.toNat 26 + a.enc 12 17 + b.enc 19 24)
  | .ctxld d sg a b => some (0x6000004D + at' d.toNat 7 + at' sg.toNat 26 + a.enc 12 17 + b.enc 19 24)
  | .splock d a => some (0x8000004D + at' d.toNat 7 + a.enc 12 17)
  | .spunlock a => some (0xA000004D + a.enc 12 17)
  | .lagrant d a => some (0xC000004D + at' d.toNat 7 + a.enc 12 17)
  | .scrub sg a b => some (0xE000004D + at' sg.toNat 26 + a.enc 12 17 + b.enc 19 24)
  | .pendingCauseTaken => none
  | .blockCleared => none
  | .branchResolve => none
  | .cycleRead => none
  | .instretRead => none
  | .timerWrite => none
  | .timerExpire => none
  | .lockTimeout => none
  | .registerWrite => none
  | .pageWalk => none
  | .invRange => none
  | .invAsid => none
  | .invAll => none
  | .invWake => none
  | .visitorDepart => none
  | .visitorSlotFree => none
  | .visitorQueueTimeout => none
  | .visitorRetry => none
  | .visitorQuantum => none
  | .ladleCopyStart => none
  | .ladleSegmentCheck => none
  | .ladleCopyEnd => none
  | .engineStep => none
  | .engineCommandEnd => none
  | .taskRecordStart => none
  | .powerGrant => none
  | .vfClockChange => none
  | .thermalThrottle => none
  | .sluiceFrame => none
  | .linkAck => none
  | .linkNak => none
  | .linkInit => none
  | .ackTimer => none
  | .replayTimeout => none
  | .linkDown => none
  | .rd => none
  | .rdata => none
  | .rdatab => none
  | .wr => none
  | .wrb => none
  | .wrack => none
  | .rsv => none
  | .rsvgnt => none
  | .rsvrel => none
  | .err => none
  | .ctx => none
  | .ctxref => none
  | .msgData => none
  | .msgRecast => none
  | .msgQueue => none
  | .msgref => none
  | .cwpost => none
  | .engcmdFwdupd => none
  | .engcmdReadmit => none
  | .engdone => none
  | .wakeSlotMsg => none
  | .wakeTagMsg => none
  | .wakeFaultMsg => none
  | .launch => none
  | .ldoneAccept => none
  | .ldoneRefuse => none
  | .ldoneRetire => none
  | .ldoneSwap => none
  | .frec => none
  | .frecResend => none
  | .invdone => none
  | .acqreq => none
  | .relreq => none
  | .wdraw => none
  | .wbnote => none
  | .gredo => none
  | .gadmBinit => none
  | .gadmBind => none
  | .gadmUnbind => none
  | .gadmUnbindRetire => none
  | .fwdServe => none
  | .fwdDemote => none
  | .fwdRecall => none
  | .fwdInvalidate => none
  | .fwdServeDemote => none
  | .filtInstall => none
  | .filtRemove => none
  | .grant => none
  | .deny => none
  | .ack => none
  | .served => none
  | .notretained => none
  | .invack => none
  | .gdata => none
  | .grpreqJoin => none
  | .grpreqLeave => none
  | .grpreqArrive => none
  | .grpreqEngineArrival => none
  | .grprsp => none
  | .grel => none
  | .grelack => none
  | .watchInstall => none
  | .watchCancel => none
  | .watchrsp => none
  | .watchRetry => none
  | .mcreq => none
  | .mcapply => none
  | .mcstamp => none
  | .mcack => none
  | .mcctlSnap => none
  | .mcctlJoined => none
  | .mcctlEvict => none
  | .mcctlLeft => none
  | .mcctlrsp => none
  | .mcjoinJoin => none
  | .mcjoinLeave => none
  | .memberTimeout => none
  | .mcseqreq => none
  | .mcseqrsp => none
  | .mcJoinDescriptor => none
  | .mcLeaveDescriptor => none
  | .discQuery => none
  | .discAssign => none
  | .discEnable => none
  | .discrsp => none
  | .doorbell => none
  | .launchFetch => none
  | .admissionChoice => none
  | .launchHold => none
  | .launchRetranslate => none
  | .launchCancel => none
  | .crewSwap => none
  | .crewRestore => none
  | .crewRetire => none
  | .forwardExpire => none
  | .wakeDescriptor => none
  | .liveMigration => none
  | .checkpointSweep => none
  | .descriptorPiece => none
  | .descriptorBufferTimeout => none
  | .errorBankClear => none
  | .packageReset => none
  | .boot => none
  | .hostBarRead => none
  | .hostBarWrite => none
  | .hostAtomicOp => none
  | .pcieD3hot => none
  | .getchain => none
  | .getmeas => none
  | .extendMr => none
  | .netWriteAck => none
  | .netReadData => none
  | .netIncomingWrite => none
  | .retrainingComplete => none
  | .pcieCompletion => none
  | .cxlMemResponse => none
  | .cxlDeviceEvent => none
  | .aerLinkError => none
  | .retransmissionExhaustion => none

end Sys2Proof
end

