-- ==== Sys2Proof/Config.lean ====
section
/-! DEFINITION. What one package fixes and the free values: constants without a body stand for values the manual leaves
open, so nothing can be proved about which value they are. -/

namespace Sys2Proof.Config

/-- A byte the manual leaves undefined (R75, R84, R85, R277), applied to State.freeCtr. Log entry 4. -/
opaque freeByte : Nat → BitVec 8
/-- A 32-bit value the manual leaves undefined, applied to State.freeCtr. Log entry 4. -/
opaque freeWord : Nat → BitVec 32
/-- The element fields of a block written with scale 0xFF, which R199 leaves open: the format, and which of the 32 values are NaN or infinite.
Log entry 172. -/
opaque nanBlock : Nat → Nat → Nat
/-- Serial number of a die (R141): fused, given by no rule. Log entry 6. -/
opaque serial : Nat → BitVec 64
/-- The certificate chain of R359, R360: made by Moastad. Log entry 7. -/
opaque certChain : List (BitVec 8)
/-- The Ed448 signature of R360: of MR0, from which the identity key is derived (R359), followed by the digest. Log entry 7. -/
opaque sign : List (BitVec 8) → List (BitVec 8)
/-- SHAKE256 with 512-bit output (R359), a function of its input that the manual names and does not spell out. Log entry 7. -/
opaque shake256 : List (BitVec 8) → BitVec 512

/-- The numbers of the causes error banks record (R339: "Cause code of the source", no number given). Log entry 9. -/
opaque bankCause : Nat → BitVec 8

/-- Bytes of HBM a compute die is populated with (R1: 512 GiB over four dies). -/
def hbmBytes : Nat := 128 * 2 ^ 30
/-- Scratchpad bytes per tile (R36). -/
def spBytes : Nat := 4 * 2 ^ 20
/-- Operand-store bytes per tile (R38). -/
def osBytes : Nat := 512 * 2 ^ 10

end Sys2Proof.Config
end

