-- ==== Sys2Proof/Machine/State.lean ====
section
/-! DEFINITION. The state of one package: storage, the slots and tiles, the dies with their managers and units, what is in
flight between them, and what has left the package. INVENTORY.md lists every field with its rule and its reset value. -/

namespace Sys2Proof.Machine
open Sys2Proof

/-- Memory: (physical address, byte) cells, addresses rising, none equal to 0, which an unlisted address reads as
(log entry 1). -/
abbrev Memory := List Host.Cell

/-- A segment register or descriptor (R8); its reserved bits are always zero. -/
structure Seg where
  base  : BitVec 48 := 0
  limit : Word := 0
  r : Bool := false
  w : Bool := false
  x : Bool := false
  a : Bool := false
  g : Bool := false
  k : Bool := false
  s : Bool := false
  deriving DecidableEq, Repr

/-- Who occupies a slot (R53, R144). -/
inductive Occ where
  | free | thread | visitor | reserved
  deriving DecidableEq, Repr

/-- Why a thread is blocked in the rotation (R144); `tags`: its tile has no tag left (R126); `leaf`: U or D is being
set in a leaf outside this package's memory (R26). A FENCE that waits keeps its mask and scope and commits when the wait ends
(R96), and a thread that waits in the FENCE an instruction performs before it commits (R104, R157) goes on with that instruction; `fence` is
every other wait for earlier accesses. -/
inductive Block where
  | register | fence | tags | channel | lock | divider | dividing | answer | leaf | sends | watch | drain | predicted
  | fencing (mask scope : Nat)
  | implicit (mask scope : Nat)
  deriving DecidableEq, Repr

/-- A thread's state (R144); the park reason is ST.PARK. -/
inductive Run where
  | ready | blocked (b : Block) | parked | halted | killed
  deriving DecidableEq, Repr

/-- What the answer to an outstanding access does (R88, R126). Register 0 discards. An atomic's `op` has 16 added for `.C` (R100);
`cw` is an engine's completion post for a context; `eng` a write and `pull` a read of a command of a context, a ladle's with its channel and
the iteration byte of its segment; `wb` a unit of a retained copy on its way home (R78); `released` is an atomic whose word its core has released and whose home has not performed it yet (R87); `record`
reads the launch record of a SPAWN (R291), its second half when `second`; `value` is a value on its way from an engine to a register or pair
(R163, R251, R257); `node` reads an entry for the walk of a linear address of an ASID, or, with 512 + k, the word at
the PC of slot k (R9, R25). -/
inductive PendKind where
  | load (rd size : Nat) (sx : Bool)
  | released
  | cw (ctx : Nat)
  | eng (ctx ch k : Nat)
  | pull (ctx ch n : Nat)
  | wb (grec : Nat)
  | store (n : Nat)
  | atomic (rd op : Nat) (v e : Word)
  | post (rd : Nat) (add : Word) (err : Bool)
  | segld (d m r md : Nat)
  | binding (rd : Nat) (excl isTry : Bool) (spoff : Nat) (srcs : List Src)
  | guardOp (rd : Nat) (isRel : Bool)
  | acquire (rd : Nat)
  | group (rd what gm : Nat)
  | watch (rd : Nat) (t : Nat)
  | mcast (rd : Nat) (stamped : Bool)
  | mcseq (rd : Nat) (t : Nat)
  | send
  | channel (k : Nat)
  | spawn (rd : Nat)
  | record (second : Bool)
  | value (rd : Nat) (pair : Bool) (v : DWord)
  | leafOr (asid kind e lvl : Nat)
  | node (asid la : Nat)
  deriving DecidableEq, Repr

/-- An access or request of a thread that is not yet performed or answered: its tag, path, home address, linear address. -/
structure Pend where
  tag  : Nat
  path : Nat
  pa   : Nat
  la   : Nat
  kind : PendKind
  deriving DecidableEq, Repr

/-- The fork continuation of R289. -/
structure Fork where
  v : Bool := false
  rpc : Word := 0
  n : Nat := 0
  p : Nat := 0
  seg : Nat := 0
  joff : Word := 0
  umap : BitVec 256 := 0
  deriving DecidableEq, Repr

/-- What lookahead saved at a predicted branch (R161, R321): restored when the prediction fails. -/
structure Shadow where
  reg : Nat
  cond : Nat
  taken : Bool
  pcTaken : Word
  pcNot : Word
  g : SMap Word
  fe : Word
  prod : Word
  poison : Word
  st : Word
  pfx : Word
  rngs : Word
  instret : DWord
  quantum : Nat
  deriving DecidableEq, Repr

/-- An exact value: NaN (signalling or quiet), an infinity, or (-1)^neg × x with m·2^e ≤ x, where x = m·2^e unless `st`,
and with `st` x lies strictly between m·2^e and (m+1)·2^e, m then having more bits than any rounding looks at. -/
inductive Num where
  | nan (sig : Bool)
  | inf (neg : Bool)
  | fin (neg : Bool) (m : Nat) (e : Int) (st : Bool)
  deriving DecidableEq, Repr

/-- An engine command with everything it captured at issue (R166, R252). `op` is eng * 256 + cmd; `stopped` is the park
reason of the fault that stopped a step, 0 for none; `err` the cause of R254 it ended with; `ask` that it asks for power admission before it goes on
(R278), `done` that its last step has been made. -/
structure EngCmd where
  op : Nat
  slot : Nat
  crew : Word
  ctx : Nat
  a : Word
  b : Word
  regs : SMap DWord
  fmt : Word
  segs : SMap Seg
  st : Word
  asid : Nat
  spbase : Nat
  spsize : Nat
  osbase : Nat
  ossize : Nat
  lanes : List Word
  step : Nat
  stopped : Nat
  paused : Bool
  cancelled : Bool
  replayed : Bool
  err : Nat
  energy : Nat
  leave : Bool
  ask : Bool
  part : SMap Num
  members : List (Nat × Nat)
  wext : List (Nat × Nat × Bool)
  done : Bool := false
  deriving DecidableEq, Repr

/-- A ladle or copy-engine transfer captured at issue (R44, R272). Registers are those of the set, numbered from 0; `k` is the
iteration byte the next step starts at, `bytes` the BYTES released so far, `err` the cause it ends with (R49, R254). `got` holds source
bytes that came from afar: address, bytes, status (0 good, 1 poison); `idx` the row whose index was read, and the index; `again` where
segments of a drain are to be sent once more from and `resent` those that were; `sent` and `back` the running tags of R48 by agent. -/
structure Copy where
  slot : Nat
  crew : Word
  ctx : Nat
  regs : SMap DWord
  segs : SMap Seg
  asid : Nat
  spbase : Nat
  osbase : Nat
  seq : Nat
  k : Nat
  bytes : Nat
  stopped : Nat
  err : Nat
  wext : List (Nat × Nat × Bool)
  got : Option (Nat × List Byte × Nat) := none
  idx : Option (Nat × Nat) := none
  again : List Nat := []
  resent : List Nat := []
  sent : SMap Nat := []
  back : SMap Nat := []
  deriving DecidableEq, Repr

/-- One ladle channel (R47, R49). -/
structure Ladle where
  active : Option Copy := none
  waiting : List Copy := []
  bytes : Word := 0
  seq : Nat := 0
  done : Bool := false
  err : Bool := false
  cause : Nat := 0
  next : Nat := 0
  retried : Bool := false
  deriving DecidableEq, Repr

/-- A tile-task record in a cluster's queue (R266, R267): `wait` holds the dependences not yet satisfied, d once its watch is
sent and d + 2 before; `bad` a cause of R254 it will end with, 0 for none; `rngs` the issuer's RNGS. -/
structure TaskRec where
  id : Nat
  wait : List Nat
  bad : Nat
  ctx : Nat
  crew : Word
  asid : Nat
  st : Word
  rngs : Word
  bytes : List Byte
  deriving DecidableEq, Repr

/-- What waits in the commit buffer of a slot with lookahead (R161, R251): a matrix or vector command, a ladle or package copy with its
place, a tile-task record, a posted work request with its queue, a read of a write pointer or a network counter into a register pair, and
cancels and waits with their masks. -/
inductive Deferred where
  | engine (c : EngCmd)
  | ladle (ch : Nat) (c : Copy)
  | copy (vd ch : Nat) (c : Copy)
  | task (r : TaskRec)
  | post (q : Nat) (bs : List Byte)
  | wptr (rd ch : Nat)
  | poll (rd q : Nat) (err : Bool)
  | lcancel (ch : Nat)
  | qcancel (mask : Nat)
  | qsync (mask : Nat)
  deriving DecidableEq, Repr

/-- One of a tile's eight slots and the thread in it. `fetched` is the launch record that a SPAWN has read and where; `joined` where slot 7 ended in a JOINC, whose cell it has decremented
(R290); `fenced` that the FENCE inside its next instruction has ended, and no cause comes between (R96, R104); `frozen` holds back the issues of a crew that is being moved; `mismatch` is the
number of checker mismatches its next executions meet (R209); `away` the linear address and leaf level of the load the thread left for
(R53); `redo` the loads a visit was refused, which are issued again here: register, bytes, sign extension, linear address (R70);
`bindAt` where the region walk of a BIND goes on: its first and last address, the next page, the pieces found (R63). -/
structure Slot where
  occ : Occ := .free
  run : Run := .ready
  pc : Word := 0
  g : SMap Word := []
  fe : Word := 0xFFFFFFFF
  poison : Word := 0
  prod : Word := 0
  st : Word := 0
  pfx : Word := 0
  rngs : Word := 1
  mxcnan : Word := 0
  mxcinf : Word := 0
  mxcsat : Word := 0
  cycleh : Word := 0
  instret : DWord := 0
  instreth : Word := 0
  lcoord : Word := 0
  crewid : Word := 0
  chmap : Word := 0
  chpeer : SMap Word := []
  gmem : SMap DWord := []
  gspan : SMap Nat := []
  tvec : Word := 0
  epc : Word := 0
  ecause : Word := 0
  eval : Word := 0
  estat : Word := 0
  timer : Word := 0
  escr : Word := 0
  epfx : Word := 0
  asid : Nat := 0
  spbase : Nat := 0
  spsize : Nat := 0
  osbase : Nat := 0
  ossize : Nat := 0
  savea : DWord := 0
  vstat : Word := 0
  accmask : Word := 0
  sg : SMap Seg := []
  mx : SMap DWord := []
  vx : SMap DWord := []
  lx : SMap DWord := []
  qx : SMap DWord := []
  wl : Bool := false
  loaded : Bool := false
  pendMchk : Option Nat := none
  pendRange : List (Nat × Nat) := []
  pendTimer : Bool := false
  pendLock : Option Word := none
  lastIssue : Option Nat := none
  yielded : Bool := false
  fork : Fork := {}
  pend : List Pend := []
  chOut : SMap Nat := []
  sendOut : Nat := 0
  shadow : Option Shadow := none
  cbuf : List Deferred := []
  grd : Bool := false
  quantum : Nat := 0
  move : Option (Nat × Nat × Nat) := none
  parkedAt : Nat := 0
  parkReg : Nat := 0
  mismatch : Nat := 0
  away : Nat × Nat := (0, 0)
  redo : List (Nat × Nat × Bool × Nat) := []
  bindAt : Option (Nat × Nat × Nat × List (Nat × Nat)) := none
  leave : Option Nat := none
  frozen : Bool := false
  fetched : Option (Nat × List Byte) := none
  joined : Option Word := none
  fenced : Bool := false
  deriving DecidableEq, Repr

/-- A range-table entry with its dirty map and the delivery in progress (R66, R74). `st` 6 is the model's own: a release sent
for a crew that ended and not yet acknowledged (R82). `received` counts 256-byte units; `prev` is the state a PENDING entry
was reused from, 0 for none; `wb` that the copy is being written home (R78), its units from
`todo` on not yet sent; `demoted` that the copy, owner no more, still answers for the
exclusive grant it was served for (R85). -/
structure RngEntry where
  st : Nat
  own : Bool
  sbs : Nat
  nsbm1 : Nat
  slots : Nat
  asid : Nat
  ver : Nat
  grec : Nat
  rbase : Nat
  spoff : Nat
  bound : Bool
  dirty : BitVec 256
  reqSlot : Nat
  rd : Nat
  isTry : Bool
  known : Bool
  listed : BitVec 256
  received : Nat
  granted : Bool
  failedOnce : Bool
  relAt : Nat
  prev : Nat
  crc : Option Nat
  wb : Bool
  demoted : Bool
  todo : Nat := 0
  deriving DecidableEq, Repr

/-- A forwarding entry (R334): the crew's old place and its target, a save area or a tile. -/
structure FwdEntry where
  crew : Word
  slots : Nat
  spbase : Nat
  spsize : Nat
  osbase : Nat
  ossize : Nat
  toTile : Bool
  target : Nat
  newSlots : List (Nat × Nat)
  newSp : Nat
  newOs : Nat
  at_ : Nat
  deriving DecidableEq, Repr

/-- A ready-queue entry (R293); `sleep` false is READY, `order` the order of becoming READY. -/
structure RqEntry where
  tag : Nat
  pri : Nat
  sleep : Bool
  order : Nat
  deriving DecidableEq, Repr

/-- A TLB entry caches one leaf (R27). -/
structure TlbEntry where
  asid : Nat
  level : Nat
  page : Nat
  frame : Nat
  r : Bool
  w : Bool
  x : Bool
  a : Bool
  d : Bool
  deriving DecidableEq, Repr

/-- The divide in progress (R210): result and flags wait for DIVIDER_DONE. -/
structure DivOp where
  slot : Nat
  instr : Instr
  rd : Nat
  srcs : List Src
  result : Word
  flags : Word
  rngs : Word
  deriving DecidableEq, Repr

/-- A bank lock (R298). -/
structure LockRec where
  slot : Nat
  mask : Word
  since : Nat
  deriving DecidableEq, Repr

/-- What a tile has read for a walk or a fetch where no storage of its package holds it (R9, R25): for which ASID (512 + k: the fetch of
slot k) and linear address, where, and the value; 2^64 for poison, and above it 2^64 + the cause of a refusal. -/
structure NodeRead where
  asid : Nat
  la : Nat
  pa : Nat
  val : Nat
  deriving DecidableEq, Repr

/-- A tile. -/
structure Tile where
  slots : SMap Slot := []
  rot : Word := 0
  lamask : Word := 0
  fmax : Word := 256
  vla : SMap DWord := []
  vpa : SMap DWord := []
  vlstat : Word := 0
  roletb : DWord := 0
  rolectl : Word := 0
  rdry : Word := 4096
  ptr : Nat := 6
  issuedAt : Option Nat := none
  div : Option DivOp := none
  divRes : Option Nat := none
  divLast : Nat := 6
  ladles : SMap Ladle := []
  mq : List EngCmd := []
  vq : List EngCmd := []
  acc : SMap Word := []
  rng : List RngEntry := []
  fwd : List FwdEntry := []
  rq : List RqEntry := []
  rqOrder : Nat := 0
  latch : List Nat := []
  msgq : List (Nat × Msg) := []
  fifos : SMap (List Msg) := []
  dryAt : SMap Nat := []
  visq : List (Nat × Msg) := []
  locks : List LockRec := []
  tlb : List TlbEntry := []
  held : List Ev := []
  frecs : List Msg := []
  nodes : List NodeRead := []
  deriving DecidableEq, Repr

/-- A bound-range filter piece (R63, R124). -/
structure FiltPiece where
  pa : Nat
  len : Nat
  rec_ : Nat
  deriving DecidableEq, Repr

/-- A manager's operation that waits for answers (R64, R74, R78, R83): the record, what it is, answers missing, the request. -/
structure MgrOp where
  grec : Nat
  kind : Nat
  left : Nat
  list : BitVec 256
  req : Msg
  deriving DecidableEq, Repr

/-- A completion-word watch (R242). -/
structure Watch where
  pa : Nat
  t : Nat
  req : Msg
  deriving DecidableEq, Repr

/-- A reservation held at a home and the requests behind it (R99). -/
structure Resv where
  pa : Nat
  holder : Msg
  waiters : List Ev
  deriving DecidableEq, Repr

/-- A crew placed on a die (R147): its launch and launch unit, its number in the launch, its state (0 running, 1 swapping,
2 retiring, 3 restoring, 4 migrating), whether it ended with error, what it holds, and the migration asked for. A recruit of FORK has no map word.
`woken` and `kwake` are the threads a fault wake, or one with KILL, reached while a swap was under way (R330); `saved` that the
save area is being written (R331, step 6); `mail` that mailbox entries wait for room at the crew's tile (R335, step 5). -/
structure Crew where
  id : Word
  tile : Nat
  slots : List Nat
  launch : Nat
  lu : Nat
  index : Nat
  state : Nat
  err : Bool
  spbase : Nat
  spsize : Nat
  osbase : Nat
  ossize : Nat
  accmask : Word
  savea : Nat
  recruit : Bool
  mig : Option (Nat × Desc)
  woken : Nat := 0
  kwake : Nat := 0
  saved : Bool := false
  mail : Bool := false
  deriving DecidableEq, Repr

/-- What a save keeps beside the bytes whose layout the spec gives (log entry 37): the crew, its slots, its withdrawn acquires, its
engine commands, its ladle copies with their channels, the arrivals of engines that its tile still holds (R152), and the power leaves its
threads wait for (R278). -/
structure Image where
  savea : Nat
  crew : Crew
  slots : List Slot
  rng : List RngEntry
  mq : List EngCmd
  vq : List EngCmd
  lads : List (Nat × Copy)
  arrivals : List Msg
  asks : List (Nat × Nat) := []
  deriving DecidableEq, Repr

/-- Where a launch stands (R307). -/
inductive LState where
  | check | depWait | ready | admitted | sent | running | ended
  deriving DecidableEq, Repr

/-- A launch held by a launch unit (R304, R306-R311). `pas` are the retained translations (0 KDLA, 1 MAPLA, 2 D0LA, 3 D1LA,
4 CWLA), `unresolved` those being walked again; `deps` the dependences not yet satisfied; `owed` the posts to CWLA that wait for
its translation; `cancelTo` the result words of cancels that wait for a die's answer. -/
structure Launch where
  id : Nat
  queue : Nat
  bytes : List Byte
  pl : Nat
  crewN : Nat
  scratch : Nat
  state : LState
  since : Option Nat
  hold : Bool
  tried : List Nat
  deps : List Nat
  pas : SMap Nat
  unresolved : List Nat
  saveBase : Nat
  left : Nat
  err : Bool
  cancelTo : List Nat
  spawner : Option Msg
  owed : List (Nat × Bool)
  deriving DecidableEq, Repr

/-- A launch unit's own state (R303, R306, R310, R312); `chosenAt` is the cycle of its last admission choice. -/
structure LaunchUnit where
  launches : List Launch := []
  nextId : Nat := 1
  ptr : SMap Nat := []
  deficit : SMap Nat := []
  lastq : SMap Nat := []
  readmit : List Crew := []
  chosenAt : Option Nat := none
  deriving DecidableEq, Repr

/-- A multicast store being acknowledged at the headgate (`acks`: packages), or writes of a member's unit (`acks`: their tags): `phase` 0 the
bytes of a stamp, 1 its applied-sequence word, 2 the copy of a window of which line `next` is sent next, 3 the applied-sequence word
of a join; and a join in progress (R133-R137). -/
structure McApply where
  group : Nat
  stamp : Nat
  msg : Msg
  acks : List Nat
  phase : Nat
  next : Nat
  deriving DecidableEq, Repr

structure McJoin where
  group : Nat
  member : Nat
  source : Nat
  point : Nat
  phase : Nat
  req : Msg
  deriving DecidableEq, Repr

structure McUnit where
  outstanding : List McApply := []
  joins : List McJoin := []
  waiters : List (Nat × Msg) := []
  applying : List McApply := []
  leaving : SMap Nat := []
  members : SMap Nat := []
  deriving DecidableEq, Repr

/-- A network request outstanding (R354): its queue and number, the work request and the posting context; or an incoming write
(`q` 2048 and up: its receive entry and 2048, `n` the peer's number, `off` the offset in the entry). `id` numbers them on their die;
`data` are its bytes, as far as they are known, and `at_` how many of them have been read or written here; `sent`: its source has been read.
`step`: translations of the step of 64 KiB it is in: the step's offset, a linear address, its place and how many bytes they cover. -/
structure NetReq where
  q : Nat
  n : Nat
  wr : List Byte
  ctx : Nat
  id : Nat
  off : Nat
  at_ : Nat
  data : List Byte
  sent : Bool
  step : List (Nat × Nat × Nat × Nat) := []
  deriving DecidableEq, Repr

/-- An access of a unit of an I/O die that is not yet answered, or whose answer waits for the unit: its agent, tag, path, address and
bytes, the linear address and context it is for, whether it writes, the event that goes on with it, and its answer: bytes, and the
status 0 good, 1 poison, 2 and up: refused with that cause of R122 plus 1. -/
structure UnitOut where
  agent : Nat
  tag : Nat
  path : Nat
  pa : Nat
  n : Nat
  la : Nat
  ctx : Nat
  write : Bool
  ev : Ev
  got : Option (List Byte × Nat)
  deriving DecidableEq, Repr

/-- A staging buffer of a descriptor window (R348). -/
structure Staging where
  win : Nat
  writer : Nat
  bytes : SMap Byte
  at_ : Nat
  deriving DecidableEq, Repr

/-- One end of a Sluice or Flume link module (R115-R119): numbers of the next cell sent and expected, cells not yet acknowledged
with their numbers, replays without progress, cells accepted since the last ACK, in `last` the peer's counts (keys 0-3), its own
freed counts (4-7) and those it has advertised (8-11), credits by virtual channel, the virtual channel served last, cells that
wait for a frame with their numbers (0xFFF for LINK cells), and the cells of a message not yet complete. -/
structure Link where
  up : Bool := false
  txSeq : Nat := 0
  rxSeq : Nat := 0
  unacked : List (Nat × BitVec 512) := []
  replays : Nat := 0
  accepted : Nat := 0
  ackDue : Bool := false
  nakSent : Bool := false
  trailerOk : Bool := true
  last : SMap Nat := []
  credits : SMap Nat := []
  served : Nat := 3
  txq : List (Nat × BitVec 512) := []
  rx : List (BitVec 512) := []
  deriving DecidableEq, Repr

/-- An invalidation descriptor being carried out by an I/O die (R29, R30): `left` answers missing, `sweep` the sweep it is for. -/
structure Inv where
  kind : Nat
  desc : Desc
  left : Nat
  sweep : Option Nat
  deriving DecidableEq, Repr

/-- A forwarded invalidation whose earlier accesses are not all performed yet: (tile, slot, tag) of those, or (1024 + I/O die, agent, tag). -/
structure Drain where
  msg : Msg
  waits : List (Nat × Nat × Nat)
  deriving DecidableEq, Repr

/-- A checkpoint sweep in progress (R343): its channel, descriptor and entry, the bytes placed at DST, and of the page under way its place,
its frame `src` and the bytes `moved`. `stage`: 0 the entry is looked at, 1 its page is being invalidated, 2 copied, 3 and 4 bit i is
written as 0 or 1. -/
structure Sweep where
  eng : Nat
  desc : Desc
  i : Nat := 0
  placed : Nat := 0
  pages : List (Nat × Nat × Nat) := []
  src : Nat := 0
  moved : Nat := 0
  stage : Nat := 0
  deriving DecidableEq, Repr

/-- A delivery of a manager whose sub-blocks lie with a CXL device or in another package (R74): the record, the request, where it goes, what is
listed, the VERSION granted, and the units read so far with whether they were uncorrectable. `lost` makes the check of R85 fail. -/
structure Gather where
  grec : Nat
  req : Msg
  spoff : Nat
  list : BitVec 256
  ver : Nat
  lost : Bool
  got : List (List Byte × Bool)
  deriving DecidableEq, Repr

/-- What reached an error bank in one cycle (R340): the cycle, the bank before it, and the records by source, one for each event. -/
structure BankTick where
  cycle : Nat
  base : BitVec 256
  events : List (Nat × BitVec 256)
  deriving DecidableEq, Repr

/-- A die: a compute die (vd 0-3) or an I/O die (vd 8, 9). `cycle` counts its own clock (R112); CYCLE shows 64 bits of it. `bindq` holds the
pieces of BINDs whose last message has not come, with source, slot and tag (R124). `remapped`: the die has taken its vd by ASSIGN (R342). -/
structure Die where
  cycle : Nat := 0
  swapt : Word := 0x30D40
  agep : Word := 0
  atbase : DWord := 0
  dockmap : SMap DWord := []
  drt : SMap Word := []
  frt : SMap DWord := []
  pathr : Word := 8192
  plimit : Word := 560
  pcap : Word := 0x40000
  pleave : Word := 0
  vfstat : Word := 0x28A7D0
  vfmax : Word := 2200
  pwr : Word := 0
  temp : Word := 0
  grants : Word := 0
  throt : Word := 0
  stopped : Bool := false
  banks : SMap (BitVec 256) := []
  bankIn : SMap BankTick := []
  ctlb : List (Nat × TlbEntry) := []
  tasks : List (Nat × TaskRec) := []
  powerq : List (Nat × Nat × Nat) := []
  filter : List FiltPiece := []
  guards : List Nat := []
  groups : List Nat := []
  gqueue : List (Nat × Msg) := []
  pieces : List FiltPiece := []
  bindq : List (Nat × Nat × Nat × FiltPiece) := []
  ops : List MgrOp := []
  gathers : List Gather := []
  watches : List Watch := []
  resvs : List Resv := []
  held : List Ev := []
  crews : List Crew := []
  lu : LaunchUnit := {}
  fqSeq : Nat := 0
  staging : List Staging := []
  msixPend : List Nat := []
  msixMask : List Nat := []
  mc : McUnit := {}
  net : List NetReq := []
  netSeq : Nat := 0
  outs : List UnitOut := []
  copyq : List (Nat × Copy) := []
  sweeps : List Sweep := []
  vdAssigned : Option (Nat × Nat) := none
  remapped : Bool := false
  enabled : Bool := false
  mr : SMap (BitVec 512) := []
  ioWait : List (Nat × Nat × Ev) := []
  invs : List Inv := []
  drains : List Drain := []
  d3 : Bool := false
  disc : List Msg := []
  deriving DecidableEq, Repr

/-- What the package sends to its host (R349, R350, R360). -/
inductive HostOut where
  | msix (vd vec : Nat)
  | readDone (port : Nat) (bytes : List Byte)
  | completerAbort (port : Nat)
  | pcieRead (vd tag pa n : Nat)
  | pcieWrite (vd pa : Nat) (bytes : List Byte)
  | pcieAtomic (vd tag pa op : Nat) (v e : Word)
  | doe (port : Nat) (bytes : List Byte)
  | doeError (port : Nat)
  | powerState (port d : Nat)
  | aer (vd : Nat) (uc : Bool)
  deriving DecidableEq, Repr

/-- What the package sends to Ethernet peers and CXL devices (R351, R354), and the frames of its Flume ports (R128). -/
inductive NetOut where
  | write (port q n off : Nat) (wr bytes : List Byte)
  | read (port q n : Nat) (wr : List Byte)
  | ack (vd r : Nat)
  | refuse (vd r : Nat)
  | cxlRead (vd tag pa n : Nat)
  | cxlWrite (vd pa : Nat) (bytes : List Byte)
  | frame (key : Nat) (bytes : List Byte)
  deriving DecidableEq, Repr

/-- Which agent moves next: an event of the pool, a tile, or the clocks of some dies (R112, log entry 8). -/
inductive Turn where
  | event (n : Nat)
  | tile (t : Nat)
  | tick (vds : List Nat)
  deriving DecidableEq, Repr

/-- The package. `ecc` and `ecc1` list the words whose check bits find an uncorrectable and a single-bit error (R39). The fields
from `cur` on are the model's own: `timers` holds what falls due at a cycle of a die, `egress` the messages that wait for a link
module. -/
structure State where
  pkg : Nat := 0
  mem : Memory := []
  ecc : List Nat := []
  ecc1 : List Nat := []
  tiles : SMap Tile := []
  dies : SMap Die := []
  mmio : SMap DWord := []
  links : SMap Link := []
  nextCrew : Word := 1
  images : List Image := []
  boot : BootInput := ⟨false, 0, [], [], 0⟩
  cur : Nat × Nat := (0, 0)
  pool : List Ev := []
  timers : List (Nat × Nat × Ev) := []
  now : Nat := 0
  agenda : List Turn := []
  egress : List (Nat × Ev) := []
  host : List HostOut := []
  eth : List NetOut := []
  freeCtr : Nat := 0
  arg : Arg := {}
  deriving DecidableEq, Repr

/-- Slot 7 before firmware loads it: a thread parked PARK (R145). -/
def Slot.idle7 : Slot := { occ := .thread, run := .parked, st := 0x0B000000 }

/-- A tile right after reset (R144, R145). -/
def Tile.reset : Tile := { slots := [(7, Slot.idle7)] }

/-- A compute die right after reset (R41, R113, R174, R361). -/
def Die.resetCompute : Die := {}

/-- An I/O die right after reset (R174, R361). -/
def Die.resetIo : Die := { agep := 0x100000, plimit := 230 }

/-- The package right after reset: before its boot (R357), with no launch, no page table and nothing in flight. -/
def State.reset : State :=
  { dies := [(0, Die.resetCompute), (1, Die.resetCompute), (2, Die.resetCompute), (3, Die.resetCompute),
             (8, Die.resetIo), (9, Die.resetIo)] }

/-- The reasons the machine stops without a next state. -/
inductive Fault where
  /-- Raised by `step` when the agenda names a tile the package does not have (R111). Safe: no behaviour is claimed. -/
  | noSuchTile (t : Nat)
  deriving DecidableEq, Repr

/-- Steps without a meaning. -/
inductive Refusal where
  /-- Raised by an arm of `exec` that has no meaning yet. Safe: nothing is claimed about the instruction. -/
  | notModelled (mnemonic : String)
  deriving DecidableEq, Repr

end Sys2Proof.Machine
end

