-- ==== Sys2Proof/Machine/Maps.lean ====
section
/-! DEFINITION. Sparse maps, memory and bit fields: the one place where byte order and field positions are decided (R3). -/

namespace Sys2Proof.Machine
open Sys2Proof

/-- The value at a key; an unlisted key reads as `d`. -/
def mget {α : Type} (d : α) : SMap α → Nat → α
  | [], _ => d
  | (k, v) :: rest, n => if k = n then v else mget d rest n

/-- Insert or replace, keeping the keys rising. -/
def mput {α : Type} : SMap α → Nat → α → SMap α
  | [], n, v => [(n, v)]
  | (k, w) :: rest, n, v =>
    if n < k then (n, v) :: (k, w) :: rest
    else if k = n then (n, v) :: rest
    else (k, w) :: mput rest n v

/-- Remove a key. -/
def mdel {α : Type} : SMap α → Nat → SMap α
  | [], _ => []
  | (k, w) :: rest, n => if k = n then rest else (k, w) :: mdel rest n

/-- Store a value so that no listed entry equals what an unlisted key reads as. -/
def mset {α : Type} [DecidableEq α] (d : α) (m : SMap α) (n : Nat) (v : α) : SMap α :=
  if v = d then mdel m n else mput m n v

def rdByte (m : Memory) (a : Nat) : Byte := mget 0 m a
def wrByte (m : Memory) (a : Nat) (b : Byte) : Memory := mset 0 m a b

/-- n bytes from address a, lowest first. -/
def rdBytes (m : Memory) (a : Nat) : Nat → List Byte
  | 0 => []
  | n + 1 => rdByte m a :: rdBytes m (a + 1) n

def wrBytes (m : Memory) (a : Nat) : List Byte → Memory
  | [] => m
  | b :: bs => wrBytes (wrByte m a b) (a + 1) bs

/-- The number a little-endian byte list spells (R3). -/
def leNat : List Byte → Nat
  | [] => 0
  | b :: bs => b.toNat + 256 * leNat bs

/-- The low n bytes of a number, lowest first (R3). -/
def leBytes : Nat → Nat → List Byte
  | 0, _ => []
  | n + 1, v => BitVec.ofNat 8 v :: leBytes n (v / 256)

def rdLE (m : Memory) (a n : Nat) : Nat := leNat (rdBytes m a n)
def wrLE (m : Memory) (a n v : Nat) : Memory := wrBytes m a (leBytes n v)

/-- Keys strictly rising from a lower bound. -/
def risingFrom {α : Type} : Nat → SMap α → Bool
  | _, [] => true
  | lo, (k, _) :: rest => decide (lo ≤ k) && risingFrom (k + 1) rest

/-- The canonical form of memory: addresses strictly rising, no entry equal to an unlisted byte. -/
def Memory.wf (m : Memory) : Bool := risingFrom 0 m && m.all (fun c => c.2 != 0)

/-- Field [lo+n-1:lo] of a number (R3). -/
def nfld (v lo n : Nat) : Nat := v / 2 ^ lo % 2 ^ n

/-- Replace field [lo+n-1:lo] of a number. -/
def nput (v lo n x : Nat) : Nat := v % 2 ^ lo + (x % 2 ^ n) * 2 ^ lo + v / 2 ^ (lo + n) * 2 ^ (lo + n)

def wfld (w : Word) (lo n : Nat) : Nat := nfld w.toNat lo n
def wput (w : Word) (lo n x : Nat) : Word := BitVec.ofNat 32 (nput w.toNat lo n x)
def dfld (w : DWord) (lo n : Nat) : Nat := nfld w.toNat lo n
def dput (w : DWord) (lo n x : Nat) : DWord := BitVec.ofNat 64 (nput w.toNat lo n x)
def wbit (w : Word) (i : Nat) : Bool := w.getLsbD i
def wsetb (w : Word) (i : Nat) (b : Bool) : Word := if b then w ||| (1#32 <<< i) else w &&& ~~~(1#32 <<< i)
def b2n (b : Bool) : Nat := if b then 1 else 0
def b2w (b : Bool) : Word := if b then 1 else 0

/-- A number read as signed with n bits. -/
def sgn (n v : Nat) : Int := if v % 2 ^ n < 2 ^ (n - 1) then (v % 2 ^ n : Int) else (v % 2 ^ n : Int) - 2 ^ n

/-- Replace the elements of a list that satisfy p. -/
def updWhere {α : Type} (p : α → Bool) (f : α → α) (l : List α) : List α := l.map (fun x => if p x then f x else x)

/-- Remove the first element that satisfies p. -/
def dropFirst {α : Type} (p : α → Bool) : List α → List α
  | [] => []
  | x :: xs => if p x then xs else x :: dropFirst p xs

/-- ceil(a / b) for b > 0. -/
def cdiv (a b : Nat) : Nat := (a + b - 1) / b

end Sys2Proof.Machine
end

