-- ==== Sys2Proof/Machine/Cells.lean ====
section
/-! DEFINITION. Messages as cells on a Sluice or Flume link (R120-R124): operation codes, virtual channels, header cells and
data cells, frames and their CRC-64 (R116). -/

namespace Sys2Proof.Machine
open Sys2Proof

abbrev Cell := BitVec 512

/-- Operation code and virtual channel (0 REQ, 1 FWD, 2 RSP, 3 BULK) of a message kind; none for an event that is no message. -/
def opOf (i : Instr) : Option (Nat × Nat) :=
  match i with
  | .rd => some (0x01, 0)
  | .rdata => some (0x02, 2)
  | .rdatab => some (0x03, 3)
  | .wr => some (0x04, 0)
  | .wrb => some (0x05, 3)
  | .wrack => some (0x06, 2)
  | .rsv => some (0x07, 0)
  | .rsvgnt => some (0x08, 2)
  | .rsvrel => some (0x09, 2)
  | .err => some (0x0A, 2)
  | .ctx => some (0x0B, 0)
  | .ctxref => some (0x0C, 2)
  | .msgData => some (0x0D, 0)
  | .msgRecast => some (0x0D, 0)
  | .msgQueue => some (0x0D, 0)
  | .cwpost => some (0x0E, 0)
  | .engcmdFwdupd => some (0x0F, 0)
  | .engcmdReadmit => some (0x0F, 0)
  | .engdone => some (0x10, 2)
  | .wakeSlotMsg => some (0x11, 0)
  | .wakeTagMsg => some (0x11, 0)
  | .wakeFaultMsg => some (0x11, 0)
  | .launch => some (0x12, 0)
  | .launchFetch => some (0x12, 0)
  | .ldoneAccept => some (0x13, 2)
  | .ldoneRefuse => some (0x13, 2)
  | .ldoneRetire => some (0x13, 2)
  | .ldoneSwap => some (0x13, 2)
  | .frec => some (0x14, 3)
  | .invRange => some (0x15, 1)
  | .invAsid => some (0x15, 1)
  | .invAll => some (0x15, 1)
  | .invdone => some (0x16, 2)
  | .msgref => some (0x17, 2)
  | .gadmBinit => some (0x18, 0)
  | .gadmBind => some (0x18, 0)
  | .gadmUnbind => some (0x18, 0)
  | .gadmUnbindRetire => some (0x18, 0)
  | .filtInstall => some (0x19, 1)
  | .filtRemove => some (0x19, 1)
  | .grpreqJoin => some (0x1A, 0)
  | .grpreqLeave => some (0x1A, 0)
  | .grpreqArrive => some (0x1A, 0)
  | .grpreqEngineArrival => some (0x1A, 0)
  | .grprsp => some (0x1B, 2)
  | .grel => some (0x1C, 1)
  | .grelack => some (0x1D, 2)
  | .watchInstall => some (0x1E, 0)
  | .watchCancel => some (0x1E, 0)
  | .watchrsp => some (0x1F, 2)
  | .acqreq => some (0x20, 0)
  | .relreq => some (0x21, 0)
  | .wdraw => some (0x22, 0)
  | .wbnote => some (0x23, 0)
  | .gredo => some (0x24, 0)
  | .fwdServe => some (0x25, 1)
  | .fwdDemote => some (0x25, 1)
  | .fwdRecall => some (0x25, 1)
  | .fwdInvalidate => some (0x25, 1)
  | .fwdServeDemote => some (0x25, 1)
  | .grant => some (0x26, 2)
  | .deny => some (0x27, 2)
  | .ack => some (0x28, 2)
  | .served => some (0x29, 2)
  | .notretained => some (0x2A, 2)
  | .invack => some (0x2B, 2)
  | .gdata => some (0x2C, 3)
  | .mcreq => some (0x30, 0)
  | .mcapply => some (0x31, 1)
  | .mcstamp => some (0x32, 2)
  | .mcack => some (0x33, 2)
  | .mcctlSnap => some (0x34, 1)
  | .mcctlJoined => some (0x34, 1)
  | .mcctlEvict => some (0x34, 1)
  | .mcctlLeft => some (0x34, 1)
  | .mcctlrsp => some (0x35, 2)
  | .mcjoinJoin => some (0x36, 0)
  | .mcjoinLeave => some (0x36, 0)
  | .mcseqreq => some (0x37, 0)
  | .discQuery => some (0x38, 0)
  | .discAssign => some (0x38, 0)
  | .discEnable => some (0x38, 0)
  | .discrsp => some (0x39, 2)
  | .mcseqrsp => some (0x3A, 2)
  | _ => none

/-- The kind of a message: its operation code with the sub-kind its fields give; none where it is malformed. -/
def kindOf (op : Nat) (m : Msg) : Option Instr :=
  let a (lo n : Nat) : Nat := nfld m.attr.toNat lo n
  let pick (l : List Instr) (n : Nat) : Option Instr := l[n]?
  match op with
  | 0x01 => some .rd
  | 0x02 => some .rdata
  | 0x03 => some .rdatab
  | 0x04 => some .wr
  | 0x05 => some .wrb
  | 0x06 => some .wrack
  | 0x07 => some .rsv
  | 0x08 => some .rsvgnt
  | 0x09 => some .rsvrel
  | 0x0A => some .err
  | 0x0B => some .ctx
  | 0x0C => some .ctxref
  | 0x0D => pick [.msgData, .msgRecast, .msgQueue] (a 5 3)
  | 0x0E => some .cwpost
  | 0x0F => if a 0 8 = 0xF0 then some .engcmdFwdupd else if a 0 8 = 0xF1 then some .engcmdReadmit else none
  | 0x10 => some .engdone
  | 0x11 => if m.aux0.getLsbD 16 then some .wakeTagMsg else if a 0 8 = 1 then some .wakeFaultMsg else some .wakeSlotMsg
  | 0x12 => if m.dst / 256 % 16 < 8 then some .launch else some .launchFetch
  | 0x13 => pick [.ldoneAccept, .ldoneRefuse, .ldoneRetire, .ldoneSwap] (m.aux0.toNat % 4)
  | 0x14 => some .frec
  | 0x15 => pick [.invRange, .invAsid, .invAll] (m.aux0.toNat % 4)
  | 0x16 => some .invdone
  | 0x17 => some .msgref
  | 0x18 => pick [.gadmBinit, .gadmBind, .gadmUnbind, .gadmUnbindRetire] (a 0 2)
  | 0x19 => pick [.filtInstall, .filtRemove] (a 0 1)
  | 0x1A => pick [.grpreqJoin, .grpreqLeave, .grpreqArrive, .grpreqEngineArrival] (a 0 3)
  | 0x1B => some .grprsp
  | 0x1C => some .grel
  | 0x1D => some .grelack
  | 0x1E => pick [.watchInstall, .watchCancel] (a 0 2)
  | 0x1F => some .watchrsp
  | 0x20 => some .acqreq
  | 0x21 => some .relreq
  | 0x22 => some .wdraw
  | 0x23 => some .wbnote
  | 0x24 => some .gredo
  | 0x25 => pick [.fwdServe, .fwdDemote, .fwdRecall, .fwdInvalidate, .fwdServeDemote] (a 4 3)
  | 0x26 => some .grant
  | 0x27 => some .deny
  | 0x28 => some .ack
  | 0x29 => some .served
  | 0x2A => some .notretained
  | 0x2B => some .invack
  | 0x2C => some .gdata
  | 0x30 => some .mcreq
  | 0x31 => some .mcapply
  | 0x32 => some .mcstamp
  | 0x33 => some .mcack
  | 0x34 => pick [.mcctlSnap, .mcctlJoined, .mcctlEvict, .mcctlLeft] (a 12 4)
  | 0x35 => some .mcctlrsp
  | 0x36 => pick [.mcjoinJoin, .mcjoinLeave] (a 12 1)
  | 0x37 => some .mcseqreq
  | 0x38 => some (([.discQuery, .discAssign, .discEnable][a 4 4]?).getD .discQuery)
  | 0x39 => some .discrsp
  | 0x3A => some .mcseqrsp
  | _ => none

/-- Data cells a kind may have (R122-R124). -/
def dlenOk (op n : Nat) : Bool :=
  match op with
  | 0x03 => 1 ≤ n && n ≤ 4
  | 0x05 => 1 ≤ n && n ≤ 4
  | 0x0B => n == 5
  | 0x0D => n ≤ 1
  | 0x0F => n ≤ 2
  | 0x12 => n == 2
  | 0x14 => n == 1
  | 0x18 => n ≤ 5
  | 0x2C => 1 ≤ n && n ≤ 4
  | 0x30 => 1 ≤ n && n ≤ 4
  | 0x31 => 1 ≤ n && n ≤ 4
  | 0x39 => n ≤ 1
  | _ => n == 0

/-- The fields a kind uses (R122-R124): PA, LEN, ATTR, and bit i for AUXi, with what log entries 96 and 143 add. -/
def fieldsUsed (op : Nat) : Bool × Bool × Bool × Nat :=
  match op with
  | 0x01 => (true, true, false, 0)
  | 0x02 => (false, false, true, 1)
  | 0x03 => (false, false, true, 0)
  | 0x04 => (true, true, false, 1)
  | 0x05 => (true, false, true, 15)
  | 0x06 => (false, false, true, 0)
  | 0x07 => (true, true, false, 0)
  | 0x08 => (false, false, true, 1)
  | 0x09 => (true, false, true, 1)
  | 0x0A => (true, false, true, 1)
  | 0x0B => (true, false, false, 0)
  | 0x0C => (false, false, true, 0)
  | 0x0D => (false, false, true, 1)
  | 0x0E => (true, false, true, 1)
  | 0x0F => (false, false, true, 0)
  | 0x10 => (false, false, true, 0)
  | 0x11 => (false, false, true, 7)
  | 0x12 => (false, false, false, 7)
  | 0x13 => (false, false, false, 1)
  | 0x14 => (false, false, false, 0)
  | 0x15 => (false, false, false, 15)
  | 0x16 => (false, false, false, 0)
  | 0x17 => (false, false, true, 0)
  | 0x18 => (true, false, true, 3)
  | 0x19 => (true, false, true, 3)
  | 0x1A => (true, false, true, 7)
  | 0x1B => (false, false, true, 1)
  | 0x1C => (true, false, true, 1)
  | 0x1D => (true, false, true, 1)
  | 0x1E => (true, false, true, 1)
  | 0x1F => (false, false, true, 1)
  | 0x30 => (false, true, true, 7)
  | 0x31 => (false, true, true, 15)
  | 0x32 => (false, false, true, 8)
  | 0x33 => (false, false, true, 8)
  | 0x34 => (false, false, true, 9)
  | 0x35 => (false, false, true, 9)
  | 0x36 => (false, false, true, 3)
  | 0x37 => (false, false, true, 1)
  | 0x38 => (false, false, true, 3)
  | 0x39 => (false, false, true, 15)
  | 0x3A => (false, false, true, 1)
  | _ => (true, false, true, 31)

/-- Kinds to which nothing answers by a tag: they have none (R122, R124). -/
def tagUsed (op : Nat) : Bool := !([0x09, 0x11, 0x14, 0x15, 0x1C, 0x1D, 0x33, 0x34, 0x35] : List Nat).contains op

/-- A message with every field its kind does not use zero (R120). -/
def msgUsed (m : Msg) (op : Nat) : Msg :=
  let u := fieldsUsed op
  let x (i : Nat) (v : DWord) : DWord := if u.2.2.2.testBit i then v else 0
  { m with
    tag := if tagUsed op then m.tag else 0, pa := if u.1 then m.pa else 0, len := if u.2.1 then m.len else 0, attr := if u.2.2.1 then m.attr else 0,
    aux0 := x 0 m.aux0, aux1 := x 1 m.aux1, aux2 := x 2 m.aux2, aux3 := x 3 m.aux3, aux4 := x 4 m.aux4 }

/-- Virtual channel a message travels on: a WR of the adaptive class is BULK (R122). -/
def vcOf (op vc : Nat) (adaptive : Bool) : Nat := if op = 0x04 && adaptive then 3 else vc

/-- The header cell of R120. -/
def headerCell (op vc dlen : Nat) (m : Msg) : Cell :=
  let parts : List (Nat × Nat × Nat) :=
    [(0, 2, 2), (2, 2, vc), (4, 3, dlen), (7, 1, b2n m.adaptive), (8, 8, op), (16, 24, m.src), (40, 24, m.dst), (64, 3, m.slot), (67, 9, m.asid), (76, 1, b2n m.memd),
     (80, 16, m.tag), (96, 56, m.pa), (152, 8, m.len), (160, 32, m.attr.toNat), (192, 64, m.aux0.toNat), (256, 64, m.aux1.toNat), (320, 64, m.aux2.toNat), (384, 64, m.aux3.toNat), (448, 64, m.aux4.toNat)]
  BitVec.ofNat 512 (parts.foldl (fun a p => a + p.2.2 % 2 ^ p.2.1 * 2 ^ p.1) 0)

/-- Bytes in 64-byte cells, the last filled up with zeros. -/
def dataCells : Nat → List Byte → List Cell
  | 0, _ => []
  | n + 1, bs => BitVec.ofNat 512 (leNat (bs.take 64)) :: dataCells n (bs.drop 64)
def msgCells (i : Instr) (m : Msg) : List Cell :=
  match opOf i with
  | none => []
  | some (op, vc) =>
    let n := cdiv m.data.length 64
    headerCell op (vcOf op vc m.adaptive) n (msgUsed m op) :: dataCells n m.data

def cellBytes (c : Cell) : List Byte := leBytes 64 c.toNat
def cellCk (c : Cell) : Nat := nfld c.toNat 0 2
def cellVc (c : Cell) : Nat := nfld c.toNat 2 2
def cellDlen (c : Cell) : Nat := nfld c.toNat 4 3

/-- The fields of a header cell with its data. -/
def cellMsg (c : Cell) (ds : List Cell) : Msg :=
  let f (lo n : Nat) : Nat := nfld c.toNat lo n
  let x (lo : Nat) : DWord := BitVec.ofNat 64 (f lo 64)
  { src := f 16 24, dst := f 40 24, slot := f 64 3, asid := f 67 9, memd := f 76 1 == 1, adaptive := f 7 1 == 1, tag := f 80 16, pa := f 96 56, len := f 152 8,
    attr := BitVec.ofNat 32 (f 160 32), aux0 := x 192, aux1 := x 256, aux2 := x 320, aux3 := x 384, aux4 := x 448, data := ds.flatMap cellBytes }

/-- The bits of a BIND's pieces that are zero (R124). -/
def piecesOk (op : Nat) (m : Msg) : Bool :=
  op != 0x18 || (List.range (m.data.length / 16)).all (fun i => let p := leNat ((m.data.drop (16 * i)).take 16); nfld p 56 8 == 0 && nfld p 96 32 == 0)

/-- A whole message as an event, or none where it is malformed: a field that its kind does not use is zero (R120, R125). Data of a multicast store or a fault record are cut to
their length. -/
def readMsg (c : Cell) (ds : List Cell) : Option (Instr × Msg) :=
  let m := cellMsg c ds
  let op := nfld c.toNat 8 8
  if cellCk c != 2 || nfld c.toNat 77 3 != 0 || !dlenOk op ds.length || msgUsed m op != m || !piecesOk op m || (op = 0x07 && m.len != 3 && m.len != 7) || (op = 0x05 && m.pa % 64 != 0) then none
  else match kindOf op m with
    | none => none
    | some i =>
      let want := match opOf i with
        | some (_, vc) => vcOf op vc m.adaptive
        | none => 4
      if cellVc c != want then none
      else some (i, { m with data := if op = 0x14 then m.data.take 32 else if op = 0x30 ∨ op = 0x31 then m.data.take (m.len + 1) else m.data })

/-! ### LINK cells and frames (R116-R118) -/

/-- A LINK cell: its type, the last cell accepted in order, and four counts. -/
def linkCell (lt aseq : Nat) (counts : List Nat) : Cell :=
  BitVec.ofNat 512 (1 + lt % 16 * 2 ^ 4 + aseq % 4096 * 2 ^ 8 + ((List.range 4).foldl (fun a i => a + counts.getD i 0 % 65536 * 2 ^ (64 + 16 * i)) 0))

/-- One bit, then one byte, into a CRC-64 without reflection. -/
def crc64Bits : Nat → Nat → Nat
  | 0, c => c
  | n + 1, c => crc64Bits n (if c.testBit 63 then (c * 2 % 2 ^ 64) ^^^ 0x42F0E1EBA9EA3693 else c * 2)
def crc64 (bs : List Byte) : Nat := bs.foldl (fun c b => crc64Bits 8 (c ^^^ (b.toNat * 2 ^ 56))) 0

end Sys2Proof.Machine
end

