-- ==== Sys2Proof/Machine/Ops.lean ====
section
/-! DEFINITION. The shared operations: access to slots, tiles and dies, ST fields, wakes, parks, taking a trap and returning
from one, commit, register fills, error records, and sending messages. -/

namespace Sys2Proof.Machine
open Sys2Proof

abbrev Out := Host.Outcome State Fault Refusal

/-! ### Places -/

/-- The tile with key t = vd * 256 + tile. -/
def State.tile (s : State) (t : Nat) : Tile := mget Tile.reset s.tiles t
def State.setTile (s : State) (t : Nat) (v : Tile) : State := { s with tiles := mput s.tiles t v }
def State.modTile (s : State) (t : Nat) (f : Tile → Tile) : State := s.setTile t (f (s.tile t))

/-- Slot k of a tile; slot 7 exists from reset (R145). -/
def Tile.slot (T : Tile) (k : Nat) : Slot := mget (if k = 7 then Slot.idle7 else {}) T.slots k
def Tile.setSlot (T : Tile) (k : Nat) (v : Slot) : Tile := { T with slots := mput T.slots k v }

def State.slot (s : State) (t k : Nat) : Slot := (s.tile t).slot k
def State.setSlot (s : State) (t k : Nat) (v : Slot) : State := s.setTile t ((s.tile t).setSlot k v)
def State.modSlot (s : State) (t k : Nat) (f : Slot → Slot) : State := s.setSlot t k (f (s.slot t k))

/-- The issuing thread. -/
def State.th (s : State) : Slot := s.slot s.cur.1 s.cur.2
def State.modTh (s : State) (f : Slot → Slot) : State := s.modSlot s.cur.1 s.cur.2 f

def Die.reset (vd : Nat) : Die := if vd < 8 then Die.resetCompute else Die.resetIo
def State.die (s : State) (vd : Nat) : Die := mget (Die.reset vd) s.dies vd
def State.setDie (s : State) (vd : Nat) (v : Die) : State := { s with dies := mput s.dies vd v }
def State.modDie (s : State) (vd : Nat) (f : Die → Die) : State := s.setDie vd (f (s.die vd))

/-- The compute die of a tile key. -/
def vdOf (t : Nat) : Nat := t / 256

/-- EID of die vd's endpoint n (R111). -/
def State.eid (s : State) (vd n : Nat) : Nat := s.pkg * 4096 + vd * 256 + n
def State.tileEid (s : State) (t : Nat) : Nat := s.pkg * 4096 + t
/-- Context name of a slot (R143). -/
def State.ctxName (s : State) (t k : Nat) : Nat := s.pkg * 2 ^ 15 + t * 8 + k
def eidPkg (e : Nat) : Nat := e / 4096
def eidVd (e : Nat) : Nat := e / 256 % 16
/-- The tile key an EID of this package names. -/
def eidTile (e : Nat) : Nat := e % 4096
def ctxPkg (c : Nat) : Nat := c / 2 ^ 15
def ctxTile (c : Nat) : Nat := c / 8 % 4096
def ctxSlot (c : Nat) : Nat := c % 8
def isComputeTile (t : Nat) : Bool := t < 1024

/-! ### ST fields (R167) -/

def stPP (w : Word) : Bool := wbit w 0
def stSAT (w : Word) : Bool := wbit w 1
def stFTZ (w : Word) : Bool := wbit w 2
def stRM (w : Word) : Nat := wfld w 3 3
def stPL (w : Word) : Nat := wfld w 11 2
def stTE (w : Word) : Bool := wbit w 13
def stINH (w : Word) : Bool := wbit w 14
def stPARK (w : Word) : Nat := wfld w 24 8
def stSetPARK (w : Word) (n : Nat) : Word := wput w 24 8 n
def stSetPL (w : Word) (n : Nat) : Word := wput w 11 2 n

/-- A value as ST and PFX hold it: their reserved bits are zero, and RM has no codes 6 and 7 (R167, R168). -/
def stBits (w : Word) : Word := if 6 ≤ wfld w 3 3 then w &&& 0xFF00FFC7 else w &&& 0xFF00FFFF
def pfxBits (w : Word) : Word := w &&& 0x1FFFF

/-- Sticky flags as ST bits (R167). -/
def fNX : Word := 0x40
def fUF : Word := 0x80
def fOF : Word := 0x100
def fDZ : Word := 0x200
def fNV : Word := 0x400

/-! ### Park reasons (R327) and trap codes (R323) -/

def pPAGE : Nat := 1
def pTABLE : Nat := 2
def pMIGRATE : Nat := 3
def pWALKWAIT : Nat := 4
def pGUARDWAIT : Nat := 5
def pSYNCREAD : Nat := 6
def pBARRIER : Nat := 7
def pENGINE : Nat := 8
def pPOWER : Nat := 9
def pVISITOR : Nat := 10
def pPARK : Nat := 11
def pKILLED : Nat := 12

def tILL : Nat := 1
def tPRIV : Nat := 2
def tSEG : Nat := 3
def tEMPTYREAD : Nat := 4
def tALIGN : Nat := 5
def tRANGE : Nat := 6
def tMCHK : Nat := 7
def tTIMER : Nat := 8
def tBREAK : Nat := 9
def tTRAP : Nat := 10

/-! ### Pool and timers -/

def evT (i : Instr) (t : Nat) : Ev := ⟨i, { t := t }⟩
def evTK (i : Instr) (t k : Nat) : Ev := ⟨i, { t := t, k := k }⟩
def evTKN (i : Instr) (t k n : Nat) : Ev := ⟨i, { t := t, k := k, n := n }⟩
def evM (i : Instr) (m : Msg) : Ev := ⟨i, { msg := m }⟩

def State.emit (s : State) (i : Ev) : State := { s with pool := s.pool ++ [i] }
def State.emits (s : State) (l : List Ev) : State := { s with pool := s.pool ++ l }
/-- The cycle count of a die's own clock (R112). -/
def State.clock (s : State) (vd : Nat) : Nat := (s.die vd).cycle
/-- An event due n cycles of die vd from now (R112). -/
def State.after (s : State) (vd n : Nat) (i : Ev) : State := { s with timers := s.timers ++ [(vd, s.clock vd + n, i)] }
def State.unTimer (s : State) (i : Ev) : State := { s with timers := s.timers.filter (fun p => p.2.2 != i) }
/-- The package's capacity has changed: launches that no die could place try again (R307). -/
def capacityEvent : Ev := ⟨.admissionChoice, { t := 8, n := 1 }⟩
def State.timed (s : State) (i : Ev) : Bool := s.timers.any (fun p => p.2.2 == i)
def State.hostOut (s : State) (h : HostOut) : State := { s with host := s.host ++ [h] }
def State.freshByte (s : State) : Byte × State := (Config.freeByte s.freeCtr, { s with freeCtr := s.freeCtr + 1 })
def State.freshWord (s : State) : Word × State := (Config.freeWord s.freeCtr, { s with freeCtr := s.freeCtr + 1 })

/-- The answer to a message: from its destination to its source, with its tag. -/
def msgReply (m : Msg) : Msg := { Msg.zero with src := m.dst, dst := m.src, slot := m.slot, asid := m.asid, tag := m.tag, pa := m.pa }

/-! ### Wakes and blocks (R144) -/

/-- Add an event unless the same one is already in flight. -/
def State.emitOnce (s : State) (e : Ev) : State := if s.pool.contains e then s else s.emit e

/-- The slot that a thread of this package is visiting, if any. -/
def State.visitorOf (s : State) (o : Nat) : Option (Nat × Nat) :=
  s.tiles.findSome? (fun p => ((List.range 7).find? (fun j => (p.2.slot j).occ == .visitor && wfld (p.2.slot j).vstat 1 27 == o)).map (fun j => (p.1, j)))

def State.notifySlot (s : State) (t k : Nat) : State :=
  match (s.slot t k).run with
  | .blocked b => if b = .dividing ∨ b = .answer ∨ b = .leaf ∨ b = .drain then s else s.emitOnce (evTK .blockCleared t k)
  | _ => s

/-- A blocked thread whose condition may have cleared is looked at again by BLOCK_CLEARED; a thread that is away from the slot, where it
visits (R96). -/
def State.notify (s : State) (t k : Nat) : State :=
  if (s.slot t k).occ = .reserved then
    match s.visitorOf (s.ctxName t k) with
    | some (v, j) => s.notifySlot v j
    | none => s
  else s.notifySlot t k

def State.notifyAll (s : State) (t : Nat) : State :=
  (List.range 8).foldl (fun s k => s.notify t k) s

def Slot.wake (h : Slot) : Slot := { h with run := .ready, st := stSetPARK h.st 0 }

/-- Wake a thread parked for the given reason; anything else is harmless (R327). -/
def State.wakeIf (s : State) (t k reason : Nat) : State :=
  let h := s.slot t k
  if h.run = .parked ∧ stPARK h.st = reason then s.setSlot t k h.wake else s

def Slot.parkAs (h : Slot) (reason now : Nat) : Slot :=
  { h with run := .parked, st := stSetPARK h.st reason, parkedAt := now, parkReg := if reason = pSYNCREAD then h.parkReg else 0 }

/-! ### Registers (R163) -/

def Slot.greg (h : Slot) (r : Nat) : Word := if r = 0 then 0 else mget 0 h.g r
def Slot.isFull (h : Slot) (r : Nat) : Bool := r == 0 || wbit h.fe r
def Slot.isChan (h : Slot) (r : Nat) : Bool := decide (28 ≤ r) && wbit h.chmap (r - 28)

/-- Write a register: it becomes full and loses a poison mark (R163, R326); a write to g0 is discarded. -/
def Slot.setG (h : Slot) (r : Nat) (v : Word) : Slot :=
  if r = 0 then h else { h with g := mset 0 h.g r v, fe := wsetb h.fe r true, poison := wsetb h.poison r false }

/-- Mark a destination empty with a producer outstanding (R163, R165). -/
def Slot.markEmpty (h : Slot) (r : Nat) : Slot :=
  if r = 0 then h else { h with fe := wsetb h.fe r false, prod := wsetb h.prod r true, poison := wsetb h.poison r false }

/-- Empty a register by a mode-10 read (R164). -/
def Slot.emptyReg (h : Slot) (r : Nat) : Slot := if r = 0 then h else { h with fe := wsetb h.fe r false }

/-- A producer fills its register (R163); data with an uncorrectable error fill it with poison (R326). On a predicted
path the architectural copy is filled as well (R161). -/
def Slot.fill (h : Slot) (r : Nat) (v : Word) (bad : Bool) : Slot :=
  if r = 0 then h else
  let h1 := { h.setG r v with prod := wsetb h.prod r false }
  let h2 := if bad then { h1 with poison := wsetb h1.poison r true } else h1
  match h2.shadow with
  | none => h2
  | some sh => { h2 with shadow := some { sh with g := mset 0 sh.g r v, fe := wsetb sh.fe r true, prod := wsetb sh.prod r false, poison := wsetb sh.poison r bad } }

/-- A thread that waits to leave its slot looks again (R51). -/
def State.departAgain (s : State) (t k : Nat) : State :=
  if (s.slot t k).move.isSome then s.emitOnce (evTK .visitorDepart t k) else s

/-- A thread parked SYNCREAD on register r, which has become full, wakes (R327). -/
def State.wakeReader (s : State) (t k r : Nat) : State := if (s.slot t k).parkReg = r then s.wakeIf t k pSYNCREAD else s

/-- Register r of a slot has been filled: a reader that waits for it goes on (R144, R327), and a branch predicted on it resolves in the
next cycle (R321). -/
def State.filled (s : State) (t k r : Nat) : State :=
  let s2 := ((s.wakeReader t k r).notify t k).departAgain t k
  match (s2.slot t k).shadow with
  | some sh => if sh.reg = r then s2.after (vdOf t) 1 (evTK .branchResolve t k) else s2
  | none => s2

/-- Fill a register of a slot. -/
def State.fillReg (s : State) (t k r : Nat) (v : Word) (bad : Bool) : State :=
  if r = 0 then s.notify t k else (s.modSlot t k (fun h => h.fill r v bad)).filled t k r

/-- Fill a pair as a whole (R229). -/
def State.fillPair (s : State) (t k r : Nat) (lo hi : Word) (bad : Bool) : State :=
  if r = 0 then s.notify t k
  else ((s.modSlot t k (fun h => (h.fill r lo bad).fill (r + 1) hi bad)).filled t k r).filled t k (r + 1)

/-! ### The clock (R345) -/

def dieMhz (D : Die) : Nat := wfld D.vfstat 0 12
/-- A new clock; the supply is stated for 2,000 MHz only, and is otherwise a free value. -/
def State.setMhz (s : State) (vd mhz : Nat) : State :=
  if dieMhz (s.die vd) = mhz then s
  else
    let (f, s1) := s.freshWord
    s1.modDie vd (fun D => { D with vfstat := BitVec.ofNat 32 (mhz + (if mhz = 2000 then 650 else wfld f 0 12) * 2 ^ 12) })

/-- A clock above 2.0 GHz goes back there, which R345 asks for within 1 us of a request for leave or of power at the limit: at once (log
entry 168). -/
def State.clockBack (s : State) (vd : Nat) : State := if vd < 4 && decide (2000 < dieMhz (s.die vd)) then s.setMhz vd 2000 else s

/-! ### Error banks (R338-R340) -/

def cLINKPROTO : Nat := 0
def cUNREACH : Nat := 1
def cBADPA : Nat := 2
def cDOORBELL : Nat := 3
def cMAILBOX : Nat := 4
def cRESTORE : Nat := 5
def cLINKDOWN : Nat := 6
def cBOUND : Nat := 7
def cFAULT : Nat := 8
def cMCHK : Nat := 9
def cCHECKSUM : Nat := 10
def cLINK : Nat := 11
def cDEVICE : Nat := 12
def cECC : Nat := 13

/-- The record of one event (R339). -/
def bankEvent (uc : Bool) (cause : BitVec 8) (addr ctx cyc : Nat) : BitVec 256 :=
  BitVec.ofNat 256 (1 + b2n uc * 2 + cause.toNat * 2 ^ 8 + b2n (!uc) * 2 ^ 16 + addr % 2 ^ 56 * 2 ^ 64 + ctx % 2 ^ 27 * 2 ^ 128 + cyc % 2 ^ 64 * 2 ^ 192)

/-- What an event leaves in a bank (R340). -/
def bankRecord (old ev : BitVec 256) : BitVec 256 :=
  let u := old.getLsbD 1; let uc := ev.getLsbD 1
  let count (b : BitVec 256) : BitVec 256 := BitVec.ofNat 256 (nput b.toNat 16 16 (min (nfld old.toNat 16 16 + 1) 0xFFFF))
  if !old.getLsbD 0 || (!u && uc) then ev
  else if !u then count ev
  else if uc then BitVec.ofNat 256 (nput (count old).toNat 2 1 1)
  else old

/-- Events of one cycle are taken by rising key: the uncorrectable ones by their source, then the corrected ones (R340). -/
def bankInsert (key : Nat) (ev : BitVec 256) : List (Nat × BitVec 256) → List (Nat × BitVec 256)
  | [] => [(key, ev)]
  | q :: r => if key < q.1 then (key, ev) :: q :: r else q :: bankInsert key ev r

def BankTick.none : BankTick := ⟨0, 0, []⟩
def BankTick.bank (T : BankTick) : BitVec 256 := T.events.foldl (fun b e => bankRecord b e.2) T.base

/-- What has reached a bank in the current cycle. -/
def Die.bankTick (D : Die) (bank : Nat) : BankTick :=
  let T := mget .none D.bankIn bank
  if T.cycle = D.cycle ∧ T.events ≠ [] then T else ⟨D.cycle, mget 0 D.banks bank, []⟩
def Die.putBank (D : Die) (bank : Nat) (T : BankTick) : Die := { D with banks := mset 0 D.banks bank T.bank, bankIn := mset .none D.bankIn bank T }

/-- Channel of a space 0 or 4 address (R40). -/
def chanOfPa (pa : Nat) : Nat := nfld pa 8 6 ^^^ nfld pa 14 6

/-- The number of a source within its bank: the channel controllers of R338 are numbered; where a bank's sources are not, the first to
report comes first (log entry 164). -/
def bankSource (vd bank addr : Nat) : Nat := if vd < 8 ∧ 8 ≤ bank ∧ bank < 16 then chanOfPa addr else 0

/-- MMIO offset 0x28 of both I/O dies: ERRSUM (R346). Keys of mmio are die[28] and offset, in 8-byte units. -/
def mkey (iod off : Nat) : Nat := iod * 2 ^ 25 + off / 8

/-- Send MSI-X vector `vec` of die vd, or hold it pending while masked (R349). -/
def State.msix (s : State) (vd vec : Nat) : State :=
  if (s.die vd).msixMask.contains vec then
    s.modDie vd (fun D => if D.msixPend.contains vec then D else { D with msixPend := D.msixPend ++ [vec] })
  else s.hostOut (.msix vd vec)

/-- A new uncorrectable record of a die is reported by ERRSUM and vector 0 (R340, R346, R349). -/
def State.reportUc (s : State) (vd : Nat) : State :=
  let up (s : State) (i : Nat) : State :=
    { s with mmio := mset 0 s.mmio (mkey i 0x28) (mget 0 s.mmio (mkey i 0x28) ||| (1#64 <<< vd)) }
  ((up (up s 0) 1).msix 8 0).msix 9 0

/-- Does a bank hold an uncorrectable record? -/
def Die.bankUc (D : Die) (bank : Nat) : Bool := let b := mget 0 D.banks bank; b.getLsbD 0 && b.getLsbD 1

/-- A source writes an event to its bank (R340). -/
def State.logError (s : State) (vd bank : Nat) (uc : Bool) (cause addr ctx : Nat) : State :=
  let D := s.die vd
  let T := D.bankTick bank
  let T1 := { T with events := bankInsert (if uc then bankSource vd bank addr else 2 ^ 16) (bankEvent uc (Config.bankCause cause) addr ctx D.cycle) T.events }
  let s1 := s.setDie vd (D.putBank bank T1)
  if uc && !D.bankUc bank then s1.reportUc vd else s1

/-- Writing 1 to V of a bank (R339): what reaches the bank in the same cycle is recorded after it (R340). -/
def State.clearBank (s : State) (vd bank : Nat) : State :=
  let D := s.die vd
  let T := D.bankTick bank
  let D1 := D.putBank bank { T with base := 0 }
  let s1 := s.setDie vd D1
  if T.base.getLsbD 0 && T.base.getLsbD 1 && D1.bankUc bank then s1.reportUc vd else s1

/-! ### Routes (R113, R114, R125, R129) -/

/-- Reset of the die route tables: row-first edges (R113). -/
def drtEdge (src dst : Nat) : Nat :=
  match src, dst with
  | 0, 1 => 1 | 0, 2 => 2 | 0, 3 => 1 | 0, 8 => 3 | 0, 9 => 1
  | 1, 0 => 3 | 1, 2 => 3 | 1, 3 => 2 | 1, 8 => 3 | 1, 9 => 1
  | 2, 0 => 0 | 2, 1 => 1 | 2, 3 => 1 | 2, 8 => 3 | 2, 9 => 1
  | 3, 0 => 3 | 3, 1 => 0 | 3, 2 => 3 | 3, 8 => 3 | 3, 9 => 1
  | 8, 0 => 0 | 8, 1 => 0 | 8, 2 => 1 | 8, 3 => 1 | 8, 9 => 0
  | 9, 0 => 0 | 9, 1 => 0 | 9, 2 => 1 | 9, 3 => 1 | 9, 8 => 0
  | _, _ => 0

/-- The dies a package has (R111). -/
def isDie (vd : Nat) : Bool := vd < 4 || vd == 8 || vd == 9

def drtReset (src dst : Nat) : Word :=
  if isDie dst then BitVec.ofNat 32 (1 + drtEdge src dst * 2 + (if src = dst then 0 else 2 ^ drtEdge src dst * 16)) else 0

def State.drt (s : State) (src dst : Nat) : Word := mget (drtReset src dst) (s.die src).drt dst
def State.frtV (s : State) (src pkg : Nat) : Bool := pkg < 1024 && (mget 0 (s.die src).frt pkg).getLsbD 0

/-- The die on which an endpoint of this package sits. -/
def eidDie (e : Nat) : Nat := eidVd e

/-- Agents an I/O die has (R111). -/
def isAgent (n : Nat) : Bool :=
  n ≤ 3 || (8 ≤ n && n ≤ 0x0F) || n == 0x10 || (0x20 ≤ n && n ≤ 0x27) || n == 0x30 || n == 0x38 || n == 0x40

/-- The die and edge on the other side of a Sluice edge (R113). -/
def sluicePeer (vd edge : Nat) : Option (Nat × Nat) :=
  match vd, edge with
  | 0, 1 => some (1, 3) | 1, 3 => some (0, 1)
  | 0, 2 => some (2, 0) | 2, 0 => some (0, 2)
  | 1, 2 => some (3, 0) | 3, 0 => some (1, 2)
  | 2, 1 => some (3, 3) | 3, 3 => some (2, 1)
  | 8, 0 => some (0, 3) | 0, 3 => some (8, 0)
  | 8, 1 => some (2, 3) | 2, 3 => some (8, 1)
  | 9, 0 => some (1, 1) | 1, 1 => some (9, 0)
  | 9, 1 => some (3, 1) | 3, 1 => some (9, 1)
  | _, _ => none

inductive Vc where
  | req | fwd | rsp | bulk
  deriving DecidableEq, Repr

/-- Keys of link modules: Sluice by die, edge and module, Flume by I/O die and port. -/
def sluiceKey (vd edge m : Nat) : Nat := vd * 32 + edge * 8 + m
def flumeKey (vd port : Nat) : Nat := 512 + (vd - 8) * 16 + port
/-- The die a link module belongs to. -/
def linkDie (key : Nat) : Nat := if key < 512 then key / 32 else 8 + (key - 512) / 16
def State.link (s : State) (key : Nat) : Link := mget {} s.links key
def State.modLink (s : State) (key : Nat) (f : Link → Link) : State := { s with links := mset {} s.links key (f (s.link key)) }

def setBits (n mask : Nat) : List Nat := (List.range n).filter (fun b => mask.testBit b)

/-- Where die vd passes a message on: to an endpoint of its own, to a link module, or nowhere, with the cause. -/
inductive Way where
  | here
  | link (key : Nat)
  | lost (cause : Nat)
  deriving DecidableEq, Repr

/-- The module toward another die of the package (R113, R114): for the ordered class the edge OEDGE, for the adaptive class the
first edge of AMASK that leads on over a module that is up, and OEDGE where AMASK names none (log entry 162); module
(SEID xor DEID)[2:0] of it. -/
def State.edgeWay (s : State) (vd dst : Nat) (m : Msg) : Way :=
  let w := s.drt vd dst
  let k := (m.src ^^^ m.dst) % 8
  let ok (e : Nat) : Bool := (sluicePeer vd e).isSome && (s.link (sluiceKey vd e k)).up
  let e := if m.adaptive then ((setBits 4 (wfld w 4 4)).find? ok).getD (wfld w 1 2) else wfld w 1 2
  if wbit w 0 && (sluicePeer vd e).isSome then .link (sluiceKey vd e k) else .lost cBADPA

/-- The Flume port of I/O die vd toward package p (R129): of PORTS, or of TPORTS for a transit message. -/
def State.portWay (s : State) (vd p : Nat) (transit : Bool) (m : Msg) : Way :=
  let ports := setBits 16 (nfld (mget 0 (s.die vd).frt p).toNat (if transit then 18 else 2) 16)
  let any := ports.find? (fun q => (s.link (flumeKey vd q)).up)
  match (if m.adaptive && any.isSome then any else ports[(m.src ^^^ m.dst) % 1024 % ports.length]?) with
  | some q => .link (flumeKey vd q)
  | none => .lost cUNREACH

/-- The way of a message from die vd on; `transit` where it came in over Flume (R125, R129). An I/O die's own agents, and what passes
through it, use that I/O die's ports (log entry 163). -/
def State.way (s : State) (vd : Nat) (transit : Bool) (m : Msg) : Way :=
  let p := eidPkg m.dst; let d := eidVd m.dst
  if p = s.pkg then
    if d < 12 && wbit (s.drt vd d) 0 && (d < 8 || isAgent (m.dst % 256)) then (if d = vd then .here else s.edgeWay vd d m) else .lost cBADPA
  else if 1024 ≤ p then .lost cBADPA
  else if !s.frtV vd p then .lost cUNREACH
  else if 8 ≤ vd then s.portWay vd p transit m
  else s.edgeWay vd (8 + nfld (mget 0 (s.die vd).frt p).toNat 1 1) m

/-! ### Links: sending (R115-R119, R128) -/

/-- Cycles of die vd in n microseconds at its nominal clock (R345). -/
def usec (vd n : Nat) : Nat := if vd < 8 then 2000 * n else 1600 * n

/-- The replay timer of a link: 2 microseconds (R117). -/
def replayEvent (key : Nat) : Ev := evT .replayTimeout key
def State.armReplay (s : State) (key : Nat) : State :=
  let s1 := s.unTimer (replayEvent key)
  if (s1.link key).unacked.isEmpty then s1 else s1.after (linkDie key) (usec (linkDie key) 2) (replayEvent key)

/-- Give a message's cells their numbers; they wait for a frame and are kept until acknowledged. -/
def State.transmit (s : State) (key vc : Nat) (cells : List Cell) : State :=
  let L := s.link key
  let seqs := (List.range cells.length).map (fun i => (L.txSeq + i) % 4095)
  let s1 := s.modLink key (fun L => { L with
    txSeq := (L.txSeq + cells.length) % 4095, unacked := L.unacked ++ seqs.zip cells, served := vc,
    credits := mset 0 L.credits vc (mget 0 L.credits vc - cells.length), txq := L.txq ++ seqs.zip cells })
  if L.unacked.isEmpty then s1.armReplay key else s1

/-- Virtual channel of a waiting message. -/
def evVc (e : Ev) : Nat := cellVc ((msgCells e.i e.arg.msg).headD 0)
/-- The first message that waits for a link on a virtual channel. -/
def State.firstWaiting (s : State) (key vc : Nat) : Option (Nat × Ev) := s.egress.find? (fun w => w.1 == key && evVc w.2 == vc)

/-- May the first message of a virtual channel go: credits for all its cells, and room in the window of 2,047 (R117, R119)? -/
def State.vcGoes (s : State) (key vc : Nat) : Bool :=
  match s.firstWaiting key vc with
  | none => false
  | some w =>
    let n := (msgCells w.2.i w.2.arg.msg).length
    n ≤ mget 0 (s.link key).credits vc && (s.link key).unacked.length + n ≤ 2047

/-- Messages that wait for a link are sent as far as they may, the virtual channels in turn (R119). -/
def State.drainSome : Nat → Nat → State → State
  | 0, _, s => s
  | fuel + 1, key, s =>
    match (([1, 2, 3, 4] : List Nat).map (fun i => ((s.link key).served + i) % 4)).find? (fun vc => s.vcGoes key vc) with
    | none => s
    | some vc =>
      match s.firstWaiting key vc with
      | none => s
      | some w => State.drainSome fuel key (({ s with egress := dropFirst (fun x => x == w) s.egress } : State).transmit key vc (msgCells w.2.i w.2.arg.msg))
def State.drainLink (s : State) (key : Nat) : State := if (s.link key).up then s.drainSome s.egress.length key else s

/-- A message waits for a link module. -/
def State.toLink (s : State) (key : Nat) (i : Instr) (m : Msg) : State := ({ s with egress := s.egress ++ [(key, evM i m)] } : State).drainLink key

/-- The freed counts a frame advertises: each goes on by at most 15 from what was advertised before (R119). -/
def Link.advertise (L : Link) : Link :=
  { L with last := (List.range 4).foldl (fun m vc =>
      mset 0 m (8 + vc) ((mget 0 m (8 + vc) + min 15 ((mget 0 m (4 + vc) + 65536 - mget 0 m (8 + vc)) % 65536)) % 65536)) L.last }

/-- A frame (R115, R116): four cells, IDLE ones last, their numbers, the advertised counts and the CRC. -/
def frameBytes (cells : List (Nat × Cell)) (adv : List Nat) : List Byte :=
  let c (i : Nat) : Nat × Cell := cells.getD i (4095, 0)
  let body := (List.range 4).flatMap (fun i => leBytes 64 (c i).2.toNat)
  let tr := (List.range 4).foldl (fun a i => a + (c i).1 % 4096 * 2 ^ (12 * i) + adv.getD i 0 % 16 * 2 ^ (48 + 4 * i)) 0
  let head := body ++ leBytes 8 tr
  head ++ leBytes 8 (crc64 head)

/-- A LINK cell carries the full counts of the moment it is sent (R118); an INIT cell the buffer counts. -/
def Link.fresh (L : Link) (c : Nat × Cell) : Nat × Cell :=
  if c.1 = 4095 && nfld c.2.toNat 4 4 < 2 then
    (4095, linkCell (nfld c.2.toNat 4 4) ((L.rxSeq + 4094) % 4095) ((List.range 4).map (fun vc => mget 0 L.last (4 + vc))))
  else c

/-- The next frame of a link module leaves: over Sluice to the die on the other side, over Flume out of the package. After a LINK
cell its full counts are what is advertised. A module that is down sends nothing. -/
def State.sendFrame (s : State) (key : Nat) : State :=
  let L := s.link key
  if L.txq.isEmpty then s
  else if !L.up then s.modLink key (fun L => { L with txq := [] })
  else
    let cells := (L.txq.take 4).map L.fresh
    let L1 := L.advertise
    let full (L : Link) : Link := { L with last := (List.range 4).foldl (fun m vc => mset 0 m (8 + vc) (mget 0 m (4 + vc))) L.last }
    let bs := frameBytes cells ((List.range 4).map (fun vc => mget 0 L1.last (8 + vc)))
    let L2 := { (if cells.any (fun c => c.1 == 4095) then full L1 else L1) with txq := L.txq.drop 4 }
    let s1 := s.modLink key (fun _ => L2)
    if 512 ≤ key then { s1 with eth := s1.eth ++ [.frame key bs] }
    else match sluicePeer (key / 32) (key % 32 / 8) with
      | some (vd, e) => s1.emit ⟨.sluiceFrame, { t := sluiceKey vd e (key % 8), bytes := bs }⟩
      | none => s1

/-! ### Sending a message (R125, R128, R129) -/

/-- Die vd passes a message on, or nothing where it cannot route it. -/
def State.pass (s : State) (vd : Nat) (transit : Bool) (i : Instr) (m : Msg) : Except Nat State :=
  match s.way vd transit m with
  | .here => .ok (s.emit (evM i m))
  | .link key => .ok (s.toLink key i m)
  | .lost c => .error c

/-- The cause an ERR carries (R122): 7 for BADPA (R31), 15 for UNREACH, which no table numbers (log entry 100). -/
def errCause (c : Nat) : Nat := if c = cUNREACH then 15 else 7

/-- The path a value on its way from an engine is listed under: it is no access and holds no tag. -/
def valuePath : Nat := 14

/-- What the requester of a message waits for, where that is a slot of this package. -/
def State.pendOf (s : State) (m : Msg) : Option Pend :=
  if m.src / 4096 = s.pkg ∧ eidVd m.src < 8 then (s.slot (eidTile m.src) (m.slot % 8)).pend.find? (fun p => p.tag == m.tag && p.path != valuePath) else none

/-- The linear address a requester of this package sent a request for (R70, log entry 137). -/
def State.sentLa (s : State) (m : Msg) : DWord :=
  match s.pendOf m with
  | some p => BitVec.ofNat 64 p.la
  | none =>
    if m.src / 4096 = s.pkg then
      match (s.die (eidVd m.src)).outs.find? (fun o => o.agent == m.src % 256 && o.tag == m.tag) with
      | some o => BitVec.ofNat 64 o.la
      | none => 0
    else 0

/-- The path a request was made on, for the log of a copy's tile (R72): as its requester in this package has it; of another package's
requests only WRB tells that it is an engine's (log entry 139). -/
def State.sentPath (s : State) (m : Msg) : Nat :=
  match s.pendOf m with
  | some p => p.path % 8
  | none =>
    match (if m.src / 4096 = s.pkg then (s.die (eidVd m.src)).outs.find? (fun o => o.agent == m.src % 256 && o.tag == m.tag) else none) with
    | some o => o.path % 8
    | none => if m.data.isEmpty then 0 else 1

/-- The record of a message that is neither answered nor delivered (R125, R129). -/
def State.logLost (s : State) (vd c : Nat) (m : Msg) : State := s.logError vd 20 false (if c = cUNREACH then cUNREACH else cLINKPROTO) m.pa 0

/-- The tag of a context packet; no access has it. -/
def ctxTag : Nat := 65532
/-- A context packet that does not come from its origin goes back there when it is refused, with the park reason in the PARK field of its
ST: CTXREF and ERR have no data cells (R122), so nothing else could bring the thread's registers home (log entry 31). -/
def ctxHome (park : Nat) (i : Instr) (m : Msg) : Option Msg :=
  let o := leNat ((m.data.drop 24).take 4) % 2 ^ 27
  let home := o / 2 ^ 15 * 4096 + o / 8 % 4096
  if i = .ctx && m.src != home && m.dst != home then
    some { m with dst := home, slot := o % 8, memd := false, pa := 0, data := m.data.take 4 ++ leBytes 4 (stSetPARK (BitVec.ofNat 32 (leNat ((m.data.drop 4).take 4))) park).toNat ++ m.data.drop 8 }
  else none

/-- Posted messages, to which nothing answers (R286). -/
def posted (i : Instr) : Bool :=
  match i with
  | .wakeSlotMsg => true
  | .wakeTagMsg => true
  | .wakeFaultMsg => true
  | _ => false

/-- Die vd sends a message of the kind `i` on (R125): a REQ that awaits an answer and that it cannot route is answered with ERR, any other discarded and logged. -/
def State.sendFrom (s : State) (vd : Nat) (transit : Bool) (vc : Vc) (i : Instr) (m : Msg) : State :=
  match s.pass vd transit i m with
  | .ok s1 => s1
  | .error c =>
    if vc = .req && !posted i then
      match (match ctxHome pPAGE i m with
        | some h => s.pass vd false .ctx h
        | none => s.pass vd false .err { msgReply m with attr := BitVec.ofNat 32 (errCause c), aux0 := s.sentLa m }) with
      | .ok s1 => s1
      | .error c2 => s.logLost vd c2 m
    else s.logLost vd c m

/-- Send a message from the die of its source. -/
def State.send (s : State) (vc : Vc) (i : Instr) (m : Msg) : State := s.sendFrom (eidVd m.src) false vc i m

/-! ### Outstanding accesses (R126) -/

/-- The path number of a request that travels no path of R86. -/
def noPath : Nat := 9

/-- The tags of a source that number accesses (R126): of the 65,536 the last four are those of the messages its port waits for in
another way, or not at all (contexts, fault records, leaves, notices), which are outstanding as well. -/
def tagLimit : Nat := 65532
/-- A tag no access of the slot holds: the next one up, or the lowest free one when they are used up. Crews that follow each other in a
slot start from different tags, so that an answer that comes late finds no access of the next crew. -/
def Slot.freshTag (h : Slot) : Nat :=
  let tag := h.pend.foldl (fun a p => if p.path = valuePath then a else max a (p.tag + 1)) (h.crewid.toNat % 32 * 256)
  if tag < tagLimit then tag else ((List.range tagLimit).find? (fun t => h.pend.all (fun p => p.tag != t))).getD 0

/-- Record an access with a fresh tag, and give the tag. -/
def Slot.addPend (h : Slot) (path pa la : Nat) (kind : PendKind) : Nat × Slot :=
  let tag := h.freshTag
  (tag, { h with pend := h.pend ++ [⟨tag, path, pa, la, kind⟩] })

/-- Accesses of a tile that hold a tag. -/
def Tile.tagsUsed (T : Tile) : Nat := T.slots.foldl (fun n p => n + (p.2.pend.filter (fun q => q.path != valuePath)).length) 0
/-- A tile whose accesses hold all its tags (R126). -/
def Tile.tagsFull (T : Tile) : Bool := decide (tagLimit ≤ T.tagsUsed)

def Slot.getPend (h : Slot) (tag : Nat) : Option Pend := h.pend.find? (fun p => p.tag == tag)
def Slot.delPend (h : Slot) (tag : Nat) : Slot := { h with pend := dropFirst (fun p => p.tag == tag) h.pend }
/-- A register stays empty and nothing will fill it (R70). -/
def Slot.dropProd (h : Slot) (r : Nat) : Slot := { h with prod := wsetb h.prod r false }

/-- Look again at every thread of a tile that waits for a guard (R69, R76). -/
def State.wakeGuard (s : State) (t : Nat) : State := (List.range 7).foldl (fun s k => s.wakeIf t k pGUARDWAIT) s

/-- The next steps of a tile's engines and ladles; a unit with nothing to do ignores its event. -/
def stepEvents (t : Nat) : List Ev := [evTK .engineStep t 0, evTK .engineStep t 1, evTK .ladleSegmentCheck t 0, evTK .ladleSegmentCheck t 1]

/-- An access is performed or answered: forget it, and look at whoever waited for it, or for a tag. -/
def State.donePend (s : State) (t k tag : Nat) : State :=
  let s0 := s.modSlot t k (fun h => h.delPend tag)
  let s1 := (if (s.tile t).tagsFull then (stepEvents t).foldl State.emitOnce (s0.notifyAll t) else s0.notify t k).wakeGuard t
  s1.departAgain t k

/-! ### Groups on leaving (R151, R287) -/

/-- Record a context holds in GMEMj: (pa, ARR). -/
def gmemRec (w : DWord) : Nat := dfld w 0 50 * 64

/-- Send LEAVE for every valid GMEM entry of a slot, without outcome words, and clear the entries (R151). -/
def State.leaveAll (s : State) (t k : Nat) : State :=
  (List.range 8).foldl (fun s j =>
    let w := mget 0 (s.slot t k).gmem j
    if w.getLsbD 63 then
      let pa := gmemRec w
      let m : Msg := { Msg.zero with src := s.tileEid t, dst := s.eid (nfld pa 37 2) ((nfld pa 8 6) ^^^ (nfld pa 14 6)), slot := k, asid := (s.slot t k).asid, memd := true, pa := pa, tag := 65535, attr := BitVec.ofNat 32 (1 + b2n (w.getLsbD 50) * 8), aux0 := BitVec.ofNat 64 (s.ctxName t k) }
      (s.modSlot t k (fun h => { h with gmem := mset 0 h.gmem j 0 })).send .req .grpreqLeave m
    else s) s

/-- Requests waiting in a tile's ingress are looked at again (R127, R298). -/
def State.unholdTile (s : State) (t : Nat) : State :=
  let T := s.tile t
  { s.setTile t { T with held := [] } with pool := T.held ++ s.pool }

/-- Every lock of a slot is released (R298). -/
def State.unlockAll (s : State) (t k : Nat) : State :=
  ((s.modTile t (fun T => { T with locks := T.locks.filter (fun l => l.slot != k) })).notifyAll t).unholdTile t

/-- Live threads of a crew on its tile. -/
def State.crewLive (s : State) (t : Nat) (slots : List Nat) : Bool :=
  slots.any (fun k => let r := (s.slot t k).run; r != .halted && r != .killed)

/-- The crew of a slot, if any. -/
def State.crewOf (s : State) (t k : Nat) : Option Crew :=
  (s.die (vdOf t)).crews.find? (fun c => c.tile == t && c.slots.contains k)

/-- After a thread ended: a crew whose last live thread ended begins to retire (R147, R82). -/
def State.checkRetire (s : State) (t k : Nat) : State :=
  match s.crewOf t k with
  | none => s
  | some c => if s.crewLive t c.slots then s else s.emit (evTK .crewRetire t c.id.toNat)

/-! ### Traps (R182, R325) -/

/-! ### The divider's reservation (R210) -/

/-- The slot for which a freed divider reserves itself (R210). -/
def Tile.divNext (T : Tile) : Option Nat :=
  let waits (k : Nat) : Bool := (T.slot k).run == .blocked .divider
  if waits 7 then some 7 else ((List.range 7).map (fun i => (T.divLast + 1 + i) % 7)).find? waits

/-- The divider is free: the next waiting slot has it reserved and looks again. -/
def State.divFreed (s : State) (t : Nat) : State :=
  let T := s.tile t
  match T.divNext with
  | none => s.setTile t { T with div := none, divRes := none }
  | some k => (s.setTile t { T with div := none, divRes := some k }).notify t k

/-- A divide of a slot whose path is discarded, or whose thread is gone, is dropped, and a reservation with it. -/
def State.dropDivide (s : State) (t k : Nat) : State :=
  match (s.tile t).div with
  | some o => if o.slot = k then ({ s with pool := s.pool.filter (fun e => e != evT .dividerDone t) } : State).divFreed t else s
  | none => if (s.tile t).divRes = some k then s.divFreed t else s

/-- The quadrant of a tile in its die (R155). -/
def quadrant (t : Nat) : Nat := t % 256 / 128 * 2 + t % 16 / 8

/-- The bank of a machine check (R338): a walk's is the walkers', any other that of the tile's quadrant. -/
def mchkBank (t sub : Nat) : Nat := if sub = 4 then 23 else 4 + quadrant t

/-- Machine check: the thread is killed, never handled (R325). -/
def State.kill (s : State) (t k sub val : Nat) : State :=
  let h := s.slot t k
  let h1 := { h with
    epc := h.pc, ecause := BitVec.ofNat 32 (tMCHK + sub * 256), eval := BitVec.ofNat 32 val, estat := h.st,
    g := [], fe := 0xFFFFFFFF, poison := 0, prod := 0, mx := [], vx := [], lx := [], qx := [],
    lcoord := 0, crewid := 0, pfx := 0, rngs := 0, mxcnan := 0, mxcinf := 0, mxcsat := 0, cycleh := 0, instret := 0, instreth := 0,
    chmap := 0, chpeer := [], st := stSetPARK h.st pKILLED, run := .killed, shadow := none, cbuf := [],
    fork := {}, pendMchk := none, pendRange := [], pendTimer := false, pendLock := none }
  let s1 := (s.setSlot t k h).logError (vdOf t) (mchkBank t sub) true cMCHK 0 (s.ctxName t k)
  let s2 := ((s1.unlockAll t k).leaveAll t k).dropDivide t k
  ((s2.setSlot t k { h1 with gmem := [] }).modDie (vdOf t) (fun D =>
    { D with crews := updWhere (fun c => c.tile == t && c.slots.contains k) (fun c => { c with err := true }) D.crews })).checkRetire t k

/-- ST after trap entry: PP cleared, INH set, task level raised to supervisor (R182). -/
def trapSt (st : Word) : Word :=
  let st1 := wsetb (wsetb st 0 false) 14 true
  if stPL st = 0 then stSetPL st1 1 else st1

/-- The precise trap entry of R182 on a slot's registers. -/
def Slot.takeTrap (h : Slot) (code sub : Nat) (val : Word) : Slot :=
  { h with estat := h.st, epfx := h.pfx, epc := h.pc, ecause := BitVec.ofNat 32 (code + sub * 256), eval := val,
           st := trapSt h.st, pc := wput h.tvec 0 2 0, run := .ready, fetched := none }

/-- The exception return of R283: PC, ST (never more privilege) and PFX come back. -/
def Slot.eret (h : Slot) : Slot :=
  { h with pc := h.epc, pfx := pfxBits h.epfx,
           st := wsetb (stSetPARK (stSetPL (stBits h.estat) (min (stPL h.estat) (stPL h.st))) 0) 15 false }

/-- A visitor starts for home, or a thread for its data: the drain of R51 begins. -/
def State.beginMove (s : State) (dst pa la : Nat) : State :=
  (s.modTh (fun h => { h with move := some (dst, pa, la), run := .blocked .drain })).emit (evTK .visitorDepart s.cur.1 s.cur.2)

/-- The origin context of a visitor (R56). -/
def Slot.origin (h : Slot) : Nat := wfld h.vstat 1 27
def Slot.isVisitor (h : Slot) : Bool := h.occ == .visitor

/-- A visitor returns home without committing (R55). -/
def State.goHome (s : State) : State :=
  let o := s.th.origin
  s.beginMove (ctxPkg o * 4096 + ctxTile o) 0 0

/-- trap(code, sub, val) of the issuing thread (R182): on a predicted path the thread blocks until the branch resolves (R161); a visitor
goes home and traps there (R55); MCHK kills (R325). -/
def State.trap (s : State) (code sub : Nat) (val : Word) : State :=
  if s.th.shadow.isSome then s.modTh (fun h => { h with run := .blocked .predicted })
  else if s.th.isVisitor then s.goHome
  else if code = tMCHK then s.kill s.cur.1 s.cur.2 sub val.toNat
  else s.modTh (fun h => h.takeTrap code sub val)

/-- park(reason) of the issuing thread (R182); on a predicted path it blocks until the branch resolves (R161); a visitor goes home unless
it parks SYNCREAD (R55). -/
def State.park (s : State) (reason : Nat) : State :=
  if s.th.shadow.isSome then s.modTh (fun h => { h with run := .blocked .predicted })
  else if s.th.isVisitor && reason != pSYNCREAD then s.goHome
  else s.modTh (fun h => h.parkAs reason (s.clock (vdOf s.cur.1)))

/-- The thread blocks in the rotation (R144). -/
def State.block (s : State) (b : Block) : State := s.modTh (fun h => { h with run := .blocked b })

/-- The word at PC, as EVAL reports it: kept by fetch in the issuing slot's pc; recomputed from the instruction. -/
def insnWord (i : Instr) : Word := BitVec.ofNat 32 ((encode i).getD 0)

/-- Commit: PC := PC + 4, INSTRET + 1, and a pending format code is consumed (R172, R255). -/
def Slot.commit (h : Slot) : Slot :=
  { h with pc := h.pc + 4, instret := h.instret + 1, st := wsetb h.st 0 false, quantum := h.quantum + 1 }

def Slot.commitAt (h : Slot) (pc : Word) : Slot := { h.commit with pc := pc }

/-- End of a meaning: a stopped instruction and a completed one are both next states. -/
def finish (r : Except State State) : Out :=
  .next (match r with
    | .ok s => s
    | .error s => s)

end Sys2Proof.Machine
end

