-- ==== Sys2Proof/Machine/Operands.lean ====
section
/-! DEFINITION. Operand forms: source modes and channel registers (R158, R164, R165), segment checks (R10-R12), the range
table (R69), page walks and TLBs (R22-R27), physical-address rules (R17-R21), homes (R40, R111) and fault records (R31). -/

namespace Sys2Proof.Machine
open Sys2Proof

abbrev M (α : Type) := Except State α

/-! ### Channels (R158, R159) -/

def State.fifo (s : State) (t ch : Nat) : List Msg := mget [] (s.tile t).fifos ch

/-- The answer that tells a sender its word was consumed (R159, R245). -/
def State.wrackTo (s : State) (m : Msg) : State := if m.tag = 65535 then s else s.send .rsp .wrack (msgReply m)

/-- A word has reached a FIFO or message queue: it is performed there, and no FENCE waits for it any more (R87, R95); its WRACK comes when it
is consumed. -/
def State.wordIn (s : State) (m : Msg) : State :=
  let word (p : Pend) : Bool := p.tag == m.tag && (match p.kind with | .send => true | .channel _ => true | _ => false)
  if m.src / 4096 = s.pkg ∧ eidVd m.src < 8 then
    (s.modSlot (eidTile m.src) (m.slot % 8) (fun h => { h with pend := updWhere word (fun p => { p with path := noPath }) h.pend })).notify (eidTile m.src) (m.slot % 8)
  else s

/-- A word enters a channel FIFO: a reader parked SYNCREAD wakes, a blocked one is looked at (R158). -/
def State.fifoPush (s : State) (t ch : Nat) (m : Msg) : State :=
  let s1 := s.modTile t (fun T => { T with fifos := mset [] T.fifos ch (mget [] T.fifos ch ++ [m]) })
  (s1.wakeReader t (ch / 4) (28 + ch % 4)).notify t (ch / 4)

/-- Channel and kind of a MSG message (R122): ATTR[4:0] and ATTR[7:5]. -/
def msgCh (m : Msg) : Nat := wfld m.attr 0 5
def msgKind (m : Msg) : Nat := wfld m.attr 5 3

/-- Take the head word of a FIFO: acknowledge it, let a data word that waited in the message queue follow, and look again at what waits for
room in the tile's ingress (R127, R159, R245). -/
def State.fifoPop (s : State) (t ch : Nat) : State :=
  match s.fifo t ch with
  | [] => s
  | m :: rest =>
    let s1 := (s.modTile t (fun T => { T with
      fifos := mset [] T.fifos ch rest
      dryAt := if rest = [] then mput T.dryAt ch (s.clock (vdOf t)) else T.dryAt })).wrackTo m
    match (s1.tile t).msgq.find? (fun q => msgKind q.2 == 0 && msgCh q.2 == ch) with
    | none => s1.unholdTile t
    | some q =>
      ((s1.modTile t (fun T => { T with msgq := dropFirst (fun x => x == q) T.msgq })).fifoPush t ch q.2).unholdTile t

def chanOf (k r : Nat) : Nat := 4 * k + (r - 28)

/-! ### Entering an instruction -/

/-- How an instruction class behaves for a visitor and on a predicted path (R54, R55, R161). -/
inductive Cls where
  | scalar | memory | engine | system
  deriving DecidableEq, Repr

/-- Instructions that make no request: they take no tag (R126). -/
def untagged (i : Instr) : Bool :=
  match i with
  | .ewr .. | .ewrs .. | .ewrh .. | .segrd .. | .chon .. | .choff .. | .qsync .. | .qcancel .. | .lcancel ..
  | .fence .. | .nop | .yield | .park | .eret | .trap .. | .csrxch .. | .csrbs .. | .csrbc .. | .csrxchi .. | .csrbsi .. | .csrbci .. => true
  | _ => false

/-- Checks before operands: on a predicted path all but scalar and engine work blocks (R161); a visitor goes home before what it may not
run (R55); a pending format code needs an instruction that takes one (R180 order 6); privilege (order 7); and an issue that may need a tag waits while the tile has none (R126). -/
def enter (i : Instr) (c : Cls) (fmt : Bool) (pl : Nat) (s : State) : M Unit :=
  if s.th.shadow.isSome && (c = .memory || c = .system || (c = .engine && s.th.isVisitor)) then .error (s.block .predicted)
  else if s.th.isVisitor && (c = .engine || c = .system) then .error s.goHome
  else if stPP s.th.st && !fmt then .error (s.trap tILL 0 (insnWord i))
  else if stPL s.th.st < pl then .error (s.trap tPRIV 0 (insnWord i))
  else if c != .scalar && !untagged i && (s.tile s.cur.1).tagsFull then .error (s.block .tags)
  else .ok ()

/-- The mode under which a register named in several fields is read: 10 over 01 over 00 (R164). -/
def modeOf (srcs : List Src) (r : Reg) : Nat :=
  if srcs.any (fun a => a.r == r && a.m == 2) then 2
  else if srcs.any (fun a => a.r == r && a.m == 1) then 1 else 0

/-- Deliver one source (R158, R164, R165, R326). -/
def readSrc (i : Instr) (srcs : List Src) (r : Reg) (s : State) : M Word :=
  let h := s.th
  let n := r.toNat
  let mode := modeOf srcs r
  if h.isChan n then
    if h.shadow.isSome then .error (s.block .predicted)
    else if h.isVisitor then .error s.goHome
    else match s.fifo s.cur.1 (chanOf s.cur.2 n) with
      | m :: _ => .ok (BitVec.ofNat 32 m.aux0.toNat)
      | [] =>
        if mode = 1 then .error (s.trap tEMPTYREAD n (insnWord i))
        else if mode = 2 then .error ((s.modTh (fun h => { h with parkReg := n })).park pSYNCREAD)
        else .error (s.block .channel)
  else if h.isFull n then
    if wbit h.poison n then .error (s.trap tMCHK 1 (BitVec.ofNat 32 n)) else .ok (h.greg n)
  else if mode = 1 || !wbit h.prod n then .error (s.trap tEMPTYREAD n (insnWord i))
  else if mode = 2 then .error ((s.modTh (fun h => { h with parkReg := n })).park pSYNCREAD)
  else .error (s.block .register)

/-- What mode 10 and channel reads take away when the instruction commits (R164): each register once. -/
def consume (srcs : List Src) (s : State) : State :=
  (srcs.map (·.r)).dedup.foldl (fun s r =>
    if s.th.isChan r.toNat then s.fifoPop s.cur.1 (chanOf s.cur.2 r.toNat)
    else if modeOf srcs r = 2 then s.modTh (fun h => h.emptyReg r.toNat) else s) s

/-- A destination waits for its producer (R165); a channel destination needs credit (R159) and an origin tile (R55). -/
def destReady (d : Reg) (s : State) : M Unit :=
  let h := s.th
  let n := d.toNat
  if h.isChan n then
    if h.shadow.isSome then .error (s.block .predicted)
    else if h.isVisitor then .error s.goHome
    else if 4 ≤ mget 0 h.chOut (n - 28) || (s.tile s.cur.1).tagsFull then .error (s.block .channel) else .ok ()
  else if n != 0 && wbit h.prod n then .error (s.block .register)
  else .ok ()

/-- A destination filled later may not be an enabled channel register (R159): ILL at issue. -/
def destLater (i : Instr) (d : Reg) (s : State) : M Unit :=
  if s.th.isChan d.toNat then .error (s.trap tILL 1 (insnWord i))
  else if d != 0 && wbit s.th.prod d.toNat then .error (s.block .register)
  else .ok ()

/-- Both registers of a pair (R229). -/
def pairHi (d : Reg) : Reg := if d = 0 then 0 else d + 1

/-- A pair filled later: its producers are waited for (R228 order 2) before an enabled channel register raises ILL (order 3). -/
def destLaterPair (i : Instr) (d : Reg) (s : State) : M Unit :=
  let busy (r : Reg) : Bool := !s.th.isChan r.toNat && r != 0 && wbit s.th.prod r.toNat
  if busy d || busy (pairHi d) then .error (s.block .register)
  else if s.th.isChan d.toNat || s.th.isChan (pairHi d).toNat then .error (s.trap tILL 1 (insnWord i))
  else .ok ()

/-- The fields of a pair source, both in the pair's mode (R229). -/
def srcPair (a : Src) : List Src := if a.r = 0 then [a] else [a, ⟨a.r + 1, a.m⟩]

/-- Send a channel word (R158): a P0 access homed at the peer. -/
def State.chanSend (s : State) (j : Nat) (v : Word) : State :=
  let h := s.th
  let peer := mget 0 h.chpeer j
  let (tag, h1) := h.addPend 0 (3 * 2 ^ 52 + wfld peer 0 24 * 2 ^ 24) 0 (.channel j)
  let h2 := { h1 with chOut := mset 0 h1.chOut j (mget 0 h1.chOut j + 1) }
  (s.modTh (fun _ => h2)).send .req .msgData
    { Msg.zero with src := s.tileEid s.cur.1, dst := wfld peer 0 24, slot := s.cur.2, asid := h.asid, tag := tag, attr := BitVec.ofNat 32 (wfld peer 24 5), aux0 := BitVec.ofNat 64 v.toNat }

/-- Write a result at commit: to the register, or as a channel word (R209). -/
def writeResult (d : Reg) (v : Word) (s : State) : State :=
  if s.th.isChan d.toNat then s.chanSend (d.toNat - 28) v else s.modTh (fun h => h.setG d.toNat v)

/-- Commit with a result: sources consumed, result written, PC + 4 (R209). -/
def commitWith (srcs : List Src) (d : Reg) (v : Word) (s : State) : State :=
  (writeResult d v (consume srcs s)).modTh (fun h => h.commit)

def commitPlain (srcs : List Src) (s : State) : State := (consume srcs s).modTh (fun h => h.commit)

/-! ### Segments (R8-R12) -/

def Slot.seg (h : Slot) (n : Nat) : Seg := mget {} h.sg n

def Seg.null (g : Seg) : Bool := !(g.r || g.w || g.x || g.a || g.g || g.k || g.s)

/-- A descriptor's bits as a segment (R8), and whether its reserved bits are zero. -/
def segOfNat (v : Nat) : Seg :=
  { base := BitVec.ofNat 48 v, limit := BitVec.ofNat 32 (v / 2 ^ 48), r := v.testBit 80, w := v.testBit 81, x := v.testBit 82,
    a := v.testBit 83, g := v.testBit 84, k := v.testBit 85, s := v.testBit 86 }
def segReservedZero (v : Nat) : Bool := v / 2 ^ 87 % 2 ^ 41 == 0
def Seg.rights (g : Seg) : Nat :=
  b2n g.r + b2n g.w * 2 + b2n g.x * 4 + b2n g.a * 8 + b2n g.g * 16 + b2n g.k * 32 + b2n g.s * 64
def Seg.toNat (g : Seg) : Nat := g.base.toNat + g.limit.toNat * 2 ^ 48 + g.rights * 2 ^ 80

/-- A checked place: a linear address, or a scratchpad offset when `sp` (R10, R12). -/
structure Place where
  at_ : Nat
  sp : Bool
  deriving DecidableEq, Repr

/-- Conditions 2 to 4 of R10. -/
def segBounds (g : Seg) (spbase spsize off n : Nat) : Except Nat Place :=
  if g.limit.toNat < off + n - 1 then .error 2
  else if g.s then
    let o := g.base.toNat % 2 ^ 22 + off
    if o < spbase || spbase + spsize < o + n then .error 5 else .ok ⟨o, true⟩
  else if 2 ^ 48 ≤ g.base.toNat + off + n - 1 then .error 3
  else .ok ⟨g.base.toNat + off, false⟩

/-- R10 with the rights of R11. -/
def segCheck (rights : Seg → Bool) (g : Seg) (spbase spsize off n : Nat) : Except Nat Place :=
  if !rights g then .error 1 else segBounds g spbase spsize off n

def rLoad (g : Seg) : Bool := g.r
def rStore (g : Seg) : Bool := g.w
def rAtomic (g : Seg) : Bool := g.r && g.w && g.a
def rFetch (g : Seg) : Bool := g.x
def rGuardR (g : Seg) : Bool := g.g && g.r && !g.s
def rGuardW (g : Seg) : Bool := g.g && g.r && g.w && !g.s
def rGroup (g : Seg) : Bool := g.r && g.w
def rEngR (g : Seg) : Bool := g.k && g.r
def rEngW (g : Seg) : Bool := g.k && g.w
def rCw (g : Seg) : Bool := g.k && g.r && g.w && g.a

/-- Segment check of the issuing thread: SEG with its cause and the offset (R10, R323). -/
def seg (rights : Seg → Bool) (sn off n : Nat) (s : State) : M Place :=
  match segCheck rights (s.th.seg sn) s.th.spbase s.th.spsize off n with
  | .ok p => .ok p
  | .error c => .error (s.trap tSEG c (BitVec.ofNat 32 off))

/-- Natural alignment of the linear address or scratchpad offset (R228 order 5). -/
def aligned (p : Place) (n off : Nat) (s : State) : M Unit :=
  if p.at_ % n = 0 then .ok () else .error (s.trap tALIGN 0 (BitVec.ofNat 32 off))

/-! ### Violation log (R72) -/

def firstFree (l : SMap DWord) : List Nat → Option Nat
  | [] => none
  | n :: ns => if (mget 0 l n).getLsbD 63 then firstFree l ns else some n

/-- Write one violation-log entry of a tile; the index written, 8 if the log was full. -/
def State.logViolation (s : State) (t la slot cause path : Nat) (deferred : Bool) (pa : Nat) : Nat × State :=
  let T := s.tile t
  match firstFree T.vla (List.range 8) with
  | none =>
    let drop := min 255 (wfld T.vlstat 1 8 + 1)
    (8, s.setTile t { T with vlstat := wput (wsetb T.vlstat 0 true) 1 8 drop })
  | some n =>
    let v : Nat := la % 2 ^ 48 + slot * 2 ^ 48 + cause * 2 ^ 51 + path * 2 ^ 55 + b2n deferred * 2 ^ 58 + 2 ^ 63
    (n, s.setTile t { T with vla := mset 0 T.vla n (BitVec.ofNat 64 v), vpa := mset 0 T.vpa n (BitVec.ofNat 64 (pa % 2 ^ 56)) })

/-- A violation found at the port: a precise RANGE (R71). The address refused is logged as 0 where the port had translated none
(log entry 132). On a predicted path the thread blocks instead (R161), and a visitor goes home, where the instruction issues again (R55). -/
def rangeTrap (cause path la pa : Nat) (s : State) : State :=
  if s.th.shadow.isSome then s.block .predicted else if s.th.isVisitor then s.goHome else
  let (n, s1) := s.logViolation s.cur.1 la s.cur.2 cause path false pa
  s1.trap tRANGE cause (BitVec.ofNat 32 n)

/-- A violation found at the home: the thread takes RANGE before its next issue, even blocked or parked on the register
(R70); SUB carries 0x80 (R323). A divide that has issued ends first (R210). -/
def State.pendViolation (s1 : State) (t k cause n : Nat) : State :=
  let s2 := s1.modSlot t k (fun h => { h with pendRange := h.pendRange ++ [(cause + 0x80, n)] })
  let h := s2.slot t k
  match h.run with
  | .blocked (.fencing _ _) => s2.notify t k
  | .blocked .dividing => s2
  | .blocked _ => s2.modSlot t k (fun h => { h with run := .ready })
  | .parked => if stPARK h.st = pSYNCREAD then s2.setSlot t k h.wake else s2
  | _ => s2
def State.deferRange (s : State) (t k la cause pa : Nat) : State :=
  let (n, s1) := s.logViolation t la k cause 0 true pa
  s1.pendViolation t k cause n

/-! ### Range table (R66, R69) -/

def RngEntry.size (e : RngEntry) : Nat := 256 * 4 ^ e.sbs
def RngEntry.len (e : RngEntry) : Nat := if e.bound then (e.nsbm1 + 1) * e.size else 0
def RngEntry.mine (e : RngEntry) (k : Nat) : Bool := e.slots / 2 ^ k % 2 == 1
def RngEntry.inRegion (e : RngEntry) (la n : Nat) : Bool := decide (la < e.rbase + e.len) && decide (e.rbase < la + n) && decide (0 < n)
def RngEntry.inCopy (e : RngEntry) (o n : Nat) : Bool := decide (o < e.spoff + e.len) && decide (e.spoff < o + n) && decide (0 < n)
def stHELDX : Nat := 2
def stHELDS : Nat := 3
def RngEntry.pending (e : RngEntry) : Bool := e.st ≤ 1
def RngEntry.held (e : RngEntry) : Bool := e.st == 2 || e.st == 3

/-- What the range table says of an access. -/
inductive RngRes where
  | pass
  | redirect (o : Nat)
  | wait
  | violation (cause : Nat)
  deriving DecidableEq, Repr

/-- R69, region column, for one entry. -/
def RngEntry.region (e : RngEntry) (la : Nat) (write : Bool) : RngRes :=
  if e.st = 2 then .redirect (e.spoff + (la - e.rbase))
  else if e.st = 3 then (if write then .violation 3 else .redirect (e.spoff + (la - e.rbase)))
  else if e.pending then .wait else .violation 2

def Tile.rngRegion (T : Tile) (k la n : Nat) (write : Bool) : RngRes :=
  match T.rng.find? (fun e => e.mine k && e.inRegion la n) with
  | none => .pass
  | some e => e.region la write

/-- R69, copy-range column, for the crew's own P0 access. -/
def Tile.rngCopy (T : Tile) (k o n : Nat) (write : Bool) : RngRes :=
  (T.rng.findSome? (fun e =>
    if !e.inCopy o n || e.st = 2 then none
    else if e.st = 3 then (if write then some (.violation 3) else none)
    else if e.pending then some (if e.mine k then .wait else .violation 4) else some (.violation 2))).getD .pass

/-- Copy-range column for any other path or tile: none when allowed, else the cause (R69). -/
def Tile.copyRefusal (T : Tile) (o n : Nat) (write : Bool) : Option Nat :=
  T.rng.findSome? (fun e =>
    if !e.inCopy o n || e.st = 2 then none
    else if e.st = 3 then (if write then some 3 else none)
    else if e.pending then some 4 else some 2)

/-- The cause with which a fetch from a copy range is refused: code cannot run from a copy, held or not (R9). -/
def Tile.fetchRefusal (T : Tile) (o : Nat) : Option Nat := if T.rng.any (fun e => e.inCopy o 4) then some ((T.copyRefusal o 4 true).getD 4) else none

/-- A write to a copy under HELD_X sets the dirty bit of each sub-block it touches (R69). -/
def Tile.markDirty (T : Tile) (o n : Nat) : Tile :=
  let touch (e : RngEntry) (i : Nat) : Bool :=
    decide (i ≤ e.nsbm1) && decide (e.spoff + i * e.size < o + n) && decide (o < e.spoff + (i + 1) * e.size)
  let mark (e : RngEntry) : RngEntry :=
    { e with dirty := (List.range 256).foldl (fun d i => if touch e i then d ||| (1#256 <<< i) else d) e.dirty }
  { T with rng := updWhere (fun e => e.st == 2 && e.inCopy o n) mark T.rng }

/-! ### Physical addresses (R17-R21) -/

def spaceOf (pa : Nat) : Nat := pa / 2 ^ 52 % 16

/-- Space 4 of this package is space 0 (R18); with its must-be-zero bit set it stays as it is and decodes nowhere (R21). -/
def State.canon (s : State) (pa : Nat) : Nat :=
  if spaceOf pa = 4 && nfld pa 40 12 = s.pkg && nfld pa 39 1 = 0 then pa % 2 ^ 39 else pa


/-- The scratch aperture address of a tile's scratchpad offset (R17). -/
def State.spPa (s : State) (t o : Nat) : Nat := 3 * 2 ^ 52 + s.tileEid t * 2 ^ 24 + o
def State.osPa (s : State) (t o : Nat) : Nat := s.spPa t o + 2 ^ 22

def State.mmioGet (s : State) (key : Nat) : DWord := mget 0 s.mmio key

/-- HDM decoder d of an I/O die: its four 64-bit words lie at 0x050_0000 + 32 d (R346, R351). -/
def State.hdmMatch (s : State) (iod d a : Nat) : Option Nat :=
  let w (j : Nat) : DWord := s.mmioGet (mkey iod (0x500000 + 32 * d + 8 * j))
  let v := (w 0).getLsbD 0
  let iw := dfld (w 0) 1 3; let ig := dfld (w 0) 4 3
  let base := dfld (w 1) 0 24 * 2 ^ 28
  let size := dfld (w 2) 0 24 * 2 ^ 28
  if v && iw ≤ 3 && decide (base ≤ a) && decide (a < base + size) then
    some (dfld (w 3) (3 * ((a - base) / (256 * 2 ^ ig) % 2 ^ iw)) 3)
  else none

/-- The root port that decodes a space 1 address: lowest decoder of vd8, else of vd9 (R351). -/
def State.hdmDecode (s : State) (a : Nat) : Option (Nat × Nat) :=
  let tryDie (iod : Nat) : Option Nat := (List.range 16).findSome? (fun d => s.hdmMatch iod d a)
  match tryDie 0 with
  | some p => some (8, p)
  | none => match tryDie 1 with
    | some p => some (9, p)
    | none => none

/-- Spaces whose bytes lie outside the package: in a CXL device or in host memory (R16, R43). The package keeps no copy (R35). -/
def outside (pa : Nat) : Bool := spaceOf pa == 1 || spaceOf pa == 2
/-- No storage of this package holds the byte: it is read by a message to its home. -/
def State.afar (s : State) (pa : Nat) : Bool := outside pa || spaceOf pa == 4 || (spaceOf pa == 3 && eidPkg (nfld pa 24 24) != s.pkg)

/-- The die that keeps the watches and reservations of an address. -/
def State.watchDie (s : State) (pa : Nat) : Nat :=
  match spaceOf pa with
  | 0 => nfld pa 37 2
  | 3 => vdOf (eidTile (nfld pa 24 24))
  | 1 => ((s.hdmDecode (pa % 2 ^ 52)).map (·.1)).getD 8
  | _ => 8

/-- Can the port of die vd decode this address (R21)? Space 3 and 4 of other packages by the route table. -/
def State.decodes (s : State) (vd pa : Nat) : Bool :=
  match spaceOf pa with
  | 0 => nfld pa 39 13 == 0 && decide (nfld pa 0 37 < Config.hbmBytes)
  | 1 => (s.hdmDecode (pa % 2 ^ 52)).isSome
  | 2 => true
  | 3 =>
    let e := nfld pa 24 24
    nfld pa 48 4 == 0 && nfld pa 23 1 == 0 && eidVd e < 4 &&
    (nfld pa 22 1 == 0 || nfld pa 0 22 < Config.osBytes) &&
    (if eidPkg e = s.pkg then wbit (s.drt vd (eidVd e)) 0 else s.frtV vd (eidPkg e))
  | 4 => nfld pa 39 1 == 0 && (nfld pa 40 12 == s.pkg || s.frtV vd (nfld pa 40 12))
  | 5 => nfld pa 29 23 == 0
  | _ => false

/-- The home of an address as seen from compute die vd, and whether it names a memory channel (R40, R111, R350). -/
def State.homeOf (s : State) (vd pa : Nat) : Nat × Bool :=
  match spaceOf pa with
  | 0 => (s.eid (nfld pa 37 2) (chanOfPa pa), true)
  | 1 => match s.hdmDecode (pa % 2 ^ 52) with
    | some (iod, p) => (s.eid iod (8 + p), false)
    | none => (s.eid 8 8, false)
  | 2 => (s.eid (if vd % 2 = 0 then 8 else 9) 0x10, false)
  | 3 => (nfld pa 24 24, false)
  | 4 => (nfld pa 40 12 * 4096 + nfld pa 37 2 * 256 + chanOfPa pa, true)
  | _ => (s.eid (8 + nfld pa 28 1) 0, false)

/-- Tile number of the dock of channel ch of die vd (R41). -/
def State.dock (s : State) (vd ch : Nat) : Nat :=
  let w := mget (BitVec.ofNat 64 (leNat ((List.range 8).map (fun k => BitVec.ofNat 8 (4 * (8 * (ch / 8) + k)))))) (s.die vd).dockmap (ch / 8)
  dfld w (8 * (ch % 8)) 8

def State.isDock (s : State) (t : Nat) : Bool :=
  (List.range 64).any (fun ch => s.dock (vdOf t) ch == t % 256)

/-! ### Fault records (R31, R32, R328) -/

/-- The 32-byte record of R32; SEQ is filled by the fault queue. -/
def faultRecBytes (la asid level cause ctx path kind entry : Nat) : List Byte :=
  leBytes 32 (la % 2 ^ 48 + asid * 2 ^ 48 + level * 2 ^ 57 + cause * 2 ^ 60 + ctx * 2 ^ 64 + path * 2 ^ 91 + kind * 2 ^ 94 + entry % 2 ^ 64 * 2 ^ 128)

/-- The table address die vd walks with (R15): its own ATBASE; an I/O die, that of the first compute die present (log entry 125). -/
def State.atbaseOf (s : State) (vd : Nat) : Nat :=
  (s.die (if vd < 8 then vd else (([0, 1, 2, 3] : List Nat).find? (fun v => (s.die v).vdAssigned.isSome)).getD 0)).atbase.toNat / 2 ^ 13 * 2 ^ 13

/-- ASID table entry (R15): ATBASE + 16 a. -/
def State.asidEntry (s : State) (vd a : Nat) : Nat := rdLE s.mem (s.atbaseOf vd + 16 * a) 16

/-- The I/O die whose fault queue FQSEL names (R15, R31): the bit of the entry as it stands, whatever its V; vd8 where the entry
cannot be read (log entry 133). -/
def State.faultQueue (s : State) (vd asid : Nat) : Nat :=
  if s.decodes vd (s.atbaseOf vd) && (s.asidEntry vd asid).testBit 1 then 9 else 8

/-- The swap timer of a thread that waits for a fault's wake (R330). -/
def State.swapTimer (s : State) (t k : Nat) : State := s.after (vdOf t) ((s.die (vdOf t)).swapt.toNat + 1) (evTK .crewSwap t (s.slot t k).crewid.toNat)

/-- A port sends a fault record to its queue (R31), keeps it until it is written (R328), and looks after SWAPT cycles whether the
crew is to be swapped (R330). -/
def State.sendFrec (s : State) (t k la asid level cause path kind entry : Nat) : State :=
  let fq := s.faultQueue (vdOf t) asid
  let m : Msg := { Msg.zero with src := s.tileEid t, dst := s.eid fq 2, slot := k, asid := asid, data := faultRecBytes la asid level cause (s.ctxName t k) path kind entry }
  (((s.modTile t (fun T => { T with frecs := T.frecs ++ [m] })).send .bulk .frec m).after (vdOf t) 65536 ⟨.frecResend, { msg := m, t := t }⟩).swapTimer t k

/-! ### Guard records (R58) and group records (R148), as little-endian numbers -/

def State.rec_ (s : State) (pa : Nat) : Nat := rdLE s.mem pa 64
def State.putRec (s : State) (pa v : Nat) : State := { s with mem := wrLE s.mem pa 64 v }

def gINIT (r : Nat) : Bool := r.testBit 0
def gBOUND (r : Nat) : Bool := r.testBit 1
def gPOISON (r : Nat) : Bool := r.testBit 2
def gSTATE (r : Nat) : Nat := nfld r 3 2
def gSBS (r : Nat) : Nat := nfld r 5 2
def gNSBM1 (r : Nat) : Nat := nfld r 7 8
def gOV (r : Nat) : Bool := r.testBit 15
def gASID (r : Nat) : Nat := nfld r 16 9
def gVERSION (r : Nat) : Nat := nfld r 32 32
def gRBASE (r : Nat) : Nat := nfld r 64 48
def gOWNER (r : Nat) : Nat := nfld r 128 24
def gSHCOUNT (r : Nat) : Nat := nfld r 160 16
def gQLEN (r : Nat) : Nat := nfld r 176 16
def gSADDR (r : Nat) : Nat := nfld r 224 46 * 1024
def gHOLDER (r : Nat) : Nat := nfld r 272 24
/-- The binding of a record as an ACQREQ carries it in AUX1: BOUND, SBS, NSBM1 (R123, R393). -/
def gBinding (r : Nat) : Nat := b2n (gBOUND r) + gSBS r * 2 + gNSBM1 r * 8
def sbSize (sbs : Nat) : Nat := 256 * 4 ^ sbs

def uLIVE (r : Nat) : Bool := r.testBit 0
def uBST (r : Nat) : Nat := nfld r 1 2
def uASID (r : Nat) : Nat := nfld r 3 9
def uSPAN (r : Nat) : Nat := nfld r 12 3
def uRELOAD (r : Nat) : Nat := nfld r 16 16
def uCOUNT (r : Nat) : Nat := nfld r 32 16
def uPEND (r : Nat) : Nat := nfld r 48 16
def uCAP (r : Nat) : Nat := nfld r 64 16
def uNARR (r : Nat) : Nat := nfld r 80 16
def uARRAY (r : Nat) : Nat := nfld r 128 50 * 64
def uANCHOR (r : Nat) : Nat := nfld r 192 24

/-! ### Refusals -/

def overlaps (a n b m : Nat) : Bool := decide (a < b + m) && decide (b < a + n)

def Resv.covers (r : Resv) (pa n : Nat) : Bool := overlaps r.pa (r.holder.len + 1) pa n
/-- A reservation held on any of these bytes (R99). -/
def State.reserved (s : State) (pa n : Nat) : Bool := (s.die (s.watchDie pa)).resvs.any (fun r => r.covers pa n)

/-- Does an extent touch an initialised guard record, a live group record or one of their arrays (R59, R148)? -/
def State.inRecord (s : State) (pa n : Nat) : Bool :=
  let D := s.die (nfld pa 37 2)
  spaceOf pa == 0 &&
  (D.guards.any (fun g => overlaps pa n g 64 || overlaps pa n (gSADDR (s.rec_ g)) 1024) ||
   D.groups.any (fun g => overlaps pa n g 64 || overlaps pa n (uARRAY (s.rec_ g)) (4 * uCAP (s.rec_ g))))

/-- The die whose filter covers an address: the home compute die, or the decoding I/O die for space 1 (R63). -/
def State.filterDie (s : State) (pa : Nat) : Option Nat :=
  match spaceOf pa with
  | 0 => some (nfld pa 37 2)
  | 1 => (s.hdmDecode (pa % 2 ^ 52)).map (·.1)
  | _ => none

/-- Does an extent touch a bound range (R70)? -/
def State.filtered (s : State) (pa n : Nat) : Bool :=
  match s.filterDie pa with
  | some vd => (s.die vd).filter.any (fun f => overlaps pa n f.pa f.len)
  | none => false

/-- The cause of R71 with which the home of pa refuses an access on `path`, if it does: a filtered range (UNHELD), a record
or its array unless read by a P0 load (RECORD), or a copy range of another tile's scratchpad. -/
def State.refuses (s : State) (path pa n : Nat) (p0Load write : Bool) : Option Nat :=
  if spaceOf pa = 3 then
    if nfld pa 22 1 = 0 && eidPkg (nfld pa 24 24) = s.pkg then (s.tile (eidTile (nfld pa 24 24))).copyRefusal (nfld pa 0 22) n write else none
  else if path != 4 && s.filtered pa n then some 1
  else if s.inRecord pa n && !p0Load then some 5
  else none

/-! ### The walk (R22-R26) -/

def lvlIndex (la lvl : Nat) : Nat :=
  match lvl with
  | 4 => nfld la 39 9 | 3 => nfld la 30 9 | 2 => nfld la 21 9 | 1 => nfld la 16 5 | _ => nfld la 12 4

def leafBits (lvl : Nat) : Nat :=
  match lvl with
  | 3 => 30 | 2 => 21 | 1 => 16 | _ => 12

/-- Kinds of R32 and the rights a leaf must have (R24). -/
def leafRight (kind e : Nat) : Bool :=
  match kind with
  | 0 => e.testBit 4
  | 1 => e.testBit 2
  | 2 => e.testBit 3
  | 3 => e.testBit 2 && e.testBit 3 && e.testBit 5
  | 4 => e.testBit 2
  | 5 => e.testBit 3
  | 6 => e.testBit 3
  | 7 => true
  | 8 => e.testBit 2 && e.testBit 3
  | _ => e.testBit 2

def kindWrites (kind : Nat) : Bool := kind == 2 || kind == 3 || kind == 5 || kind == 6 || kind == 8

inductive Walk where
  | leaf (pa e lvl addr : Nat)
  | fault (cause lvl entry reason : Nat)
  | migWait
  | poisoned
  | ask (addr : Nat)
  deriving DecidableEq, Repr

/-- Can the entry at `addr` of a node be read (R24): the node lies in space 0, 1 or 4, it decodes, and its target does not refuse it? -/
def State.nodeOk (s : State) (vd node addr : Nat) : Bool :=
  let p := s.canon node
  (spaceOf p == 0 || spaceOf p == 1 || spaceOf p == 4) && s.decodes vd p && (s.refuses 0 (s.canon addr) 8 false false).isNone

def State.eccBad (s : State) (pa n : Nat) : Bool := s.ecc.any (fun w => decide (w < pa + n) && decide (pa < w + 8))

/-- A word read for a walk or a fetch at a canonical address: the value, 2^64 where it is poisoned. `got` has what came from afar. -/
def State.nodeWord (s : State) (got : Nat → Option Nat) (a n : Nat) : Option Nat :=
  if s.afar a then got a else some (if s.eccBad a n then 2 ^ 64 else rdLE s.mem a n)

/-- The checks of one entry in the order of R24; `fuel` is the level plus one, `up` the level and value of the entry that points to the
node, which a refused read is reported with. -/
def walkLevels (s : State) (vd la kind : Nat) (got : Nat → Option Nat) : Nat → Nat × Nat → Nat → Walk
  | 0, _, _ => .fault 4 0 0 pTABLE
  | lvl + 1, up, node =>
    let addr := node + 8 * lvlIndex la lvl
    match s.nodeWord got (s.canon addr) 8 with
    | none => .ask (s.canon addr)
    | some e =>
    let isLeaf := lvl == 0 || (lvl != 4 && e.testBit 1)
    if e = 2 ^ 64 then .poisoned
    else if 2 ^ 64 < e then .fault 6 up.1 up.2 pTABLE
    else if !e.testBit 0 then (if isLeaf then .fault 1 lvl e pPAGE else .fault 3 lvl e pTABLE)
    else if nfld e 59 3 != 0 || (lvl == 4 && e.testBit 1) || (lvl == 0 && !e.testBit 1) || (isLeaf && nfld e 7 5 != 0) then .fault 4 lvl e pTABLE
    else if isLeaf then
      if nfld e 12 44 * 2 ^ 12 % 2 ^ leafBits lvl != 0 then .fault 5 lvl e pTABLE
      else if e.testBit 58 then .fault 9 lvl e pMIGRATE
      else if e.testBit 57 then .fault 8 lvl e pMIGRATE
      else if !leafRight kind e then .fault 2 lvl e pPAGE
      else .leaf (nfld e 12 44 * 2 ^ 12 + la % 2 ^ leafBits lvl) e lvl (s.canon addr)
    else
      let nxt := nfld e 7 49 * 2 ^ 7
      if (lvl ≥ 3 && nfld e 7 5 != 0) || (lvl == 2 && nfld e 7 1 != 0) then .fault 5 lvl e pTABLE
      else if !s.nodeOk vd nxt (nxt + 8 * lvlIndex la (lvl - 1)) then .fault 6 lvl e pTABLE
      else if e.testBit 58 then .migWait
      else walkLevels s vd la kind got lvl (lvl, e) nxt

/-- The walk for la in an ASID (R25), before U and D are set. The entry that decided a BADSPACE of the root is reported by its low
64 bits (log entry 134). -/
def State.walk (s : State) (vd asid la kind : Nat) (got : Nat → Option Nat) : Walk :=
  let at_ := s.atbaseOf vd
  let e := s.asidEntry vd asid
  if spaceOf at_ != 0 || !s.decodes vd at_ then .fault 10 4 0 pTABLE
  else if !e.testBit 0 || nfld e 2 10 != 0 || nfld e 56 72 != 0 then .fault 10 4 0 pTABLE
  else
    let root := nfld e 12 44 * 2 ^ 12
    if !s.nodeOk vd root (root + 8 * lvlIndex la 4) then .fault 6 4 (e % 2 ^ 64) pTABLE
    else walkLevels s vd la kind got 5 (4, e % 2 ^ 64) root

def clusterOf (t : Nat) : Nat := t / 32 % 8 * 8 + t % 16 / 2

/-- A leaf with U, and D for a write, set (R26). -/
def leafMarked (kind e : Nat) : Nat := e ||| 0x40 ||| (if kindWrites kind then 2 ^ 56 else 0)

/-- Keep the first n entries of cluster c; those of other clusters stay. -/
def clusterKeep (c : Nat) : Nat → List (Nat × TlbEntry) → List (Nat × TlbEntry)
  | _, [] => []
  | n, x :: rest => if x.1 != c then x :: clusterKeep c n rest else match n with
    | 0 => clusterKeep c 0 rest
    | n + 1 => x :: clusterKeep c n rest

/-- Install a leaf in the tile's TLB of 512 entries and its cluster's of 4,096 (R27). -/
def State.cacheLeaf (s : State) (t asid la kind e lvl : Nat) : State :=
  let b := leafBits lvl
  let te : TlbEntry := ⟨asid, lvl, la / 2 ^ b, nfld e 12 44 * 2 ^ 12, e.testBit 2, e.testBit 3, e.testBit 4, e.testBit 5, (leafMarked kind e).testBit 56⟩
  let other (x : TlbEntry) : Bool := !(x.asid == asid && x.level == lvl && x.page == te.page)
  let s2 := s.modTile t (fun T => { T with tlb := te :: (T.tlb.filter other).take 511 })
  s2.modDie (vdOf t) (fun D => { D with ctlb := (clusterOf t, te) :: clusterKeep (clusterOf t) 4095 (D.ctlb.filter (fun x => !(x.1 == clusterOf t) || other x.2)) })

/-- A leaf this package holds: U, and D for a write, are set in it by an atomic OR (R26), and it is installed. -/
def State.install (s : State) (t asid la kind e lvl addr : Nat) : State :=
  ({ s with mem := wrLE s.mem addr 8 (leafMarked kind e) } : State).cacheLeaf t asid la kind e lvl

def TlbEntry.hits (x : TlbEntry) (asid la kind : Nat) : Bool :=
  x.asid == asid && x.page == la / 2 ^ leafBits x.level &&
  leafRight kind (b2n x.r * 4 + b2n x.w * 8 + b2n x.x * 16 + b2n x.a * 32) && (!kindWrites kind || x.d)

/-- A translation held in the tile's or its cluster's TLB (R27). -/
def State.tlbLookup (s : State) (t asid la kind : Nat) : Option TlbEntry :=
  match (s.tile t).tlb.find? (fun x => x.hits asid la kind) with
  | some x => some x
  | none => ((s.die (vdOf t)).ctlb.find? (fun x => x.1 == clusterOf t && x.2.hits asid la kind)).map (·.2)

/-- Is the page of la under a checkpoint sweep (R344)? -/
def State.swept (s : State) (asid la : Nat) : Bool :=
  s.dies.any (fun d => d.2.sweeps.any (fun w => w.pages.any (fun p => p.1 == asid && p.2.1 == la / 2 ^ p.2.2)))

/-- A translation attempt by a tile's port: the address, or how it ends. `orWait`: U or D is to be set in a leaf that another package or
a CXL device holds, or whose word is reserved, before the translation may be used (R26, R99); `askWait`: an entry has to come from another
package or a CXL device first (R25). -/
inductive Tr where
  | ok (pa lvl : Nat)
  | orWait (e lvl addr : Nat)
  | askWait (addr : Nat)
  | fault (cause lvl entry reason : Nat)
  | walkWait
  | sweepWait
  | poisoned
  deriving DecidableEq, Repr

/-- What a tile has read from afar for a walk or a fetch, if it has come. -/
def Tile.nodeAt (T : Tile) (asid la pa : Nat) : Option Nat := (T.nodes.find? (fun x => x.asid == asid && x.la == la && x.pa == pa)).map (·.val)
/-- The walk or fetch has ended: what was read for it is kept no longer (R25). -/
def State.dropNodes (s : State) (t asid la : Nat) : State :=
  let mine (x : NodeRead) : Bool := x.asid == asid && x.la == la
  if (s.tile t).nodes.any mine then s.modTile t (fun T => { T with nodes := T.nodes.filter (fun x => !mine x) }) else s

/-- R25 and R26 for a tile's port: a translation it holds, else a walk. The bits of a leaf are set by an atomic OR: at once in this package's
memory, unless the word is reserved. -/
def State.translate (s : State) (t asid la kind : Nat) : Tr × State :=
  match s.tlbLookup t asid la kind with
  | some x => (.ok (s.canon (x.frame + la % 2 ^ leafBits x.level)) x.level, s)
  | none =>
    if kindWrites kind && s.swept asid la then (.sweepWait, s) else
    let s1 := s.dropNodes t asid la
    match s.walk (vdOf t) asid la kind (fun a => (s.tile t).nodeAt asid la a) with
    | .leaf pa e lvl addr =>
      if leafMarked kind e = e then (.ok (s.canon pa) lvl, s1.cacheLeaf t asid la kind e lvl)
      else if spaceOf addr = 0 && !s.reserved addr 8 then (.ok (s.canon pa) lvl, s1.install t asid la kind e lvl addr)
      else (.orWait e lvl addr, s1)
    | .ask addr => (.askWait addr, s)
    | .fault c l e r => (.fault c l e r, s1)
    | .migWait => (.walkWait, s1)
    | .poisoned => (.poisoned, s1)

/-- A fault of the issuing thread: it parks with the reason, and a record is written (R31); a visitor goes home (R55). -/
def faultPark (la lvl cause entry reason kind : Nat) (s : State) : State :=
  if s.th.isVisitor then s.goHome
  else (s.park reason).sendFrec s.cur.1 s.cur.2 la s.th.asid lvl cause 0 kind entry

/-- R20: what P0 may reach. `op` is the atomic operation (11 swap, 12 cas) for kind 3, `n` the access size. -/
def p0Reaches (pa kind n op : Nat) : Bool :=
  if spaceOf pa = 5 then (kind == 1 || kind == 2) && (n == 4 || n == 8)
  else if spaceOf pa = 3 then nfld pa 22 1 == 0
  else if spaceOf pa = 2 && kind == 3 then op % 16 == 0 || op == 11 || op == 12
  else true

/-- Marks a park PAGE, or a stop of an engine step, that waits for a checkpoint sweep and not for a fault (R344). -/
def sweepStop : Nat := 99
/-- A walk that met a page under a checkpoint sweep parks PAGE without a record (R344). -/
def State.sweepPark (s : State) : State := ((s.park pPAGE).modTh (fun h => { h with parkReg := sweepStop })).swapTimer s.cur.1 s.cur.2

/-- The atomic OR of R26 at the home of a leaf: its word is reserved, and RSVGNT sets the bits if it still equals the value read. -/
def State.sendOr (s : State) (t k asid la kind e lvl addr : Nat) : State :=
  let (tag, h1) := (s.slot t k).addPend noPath addr la (.leafOr asid kind e lvl)
  let (dst, memd) := s.homeOf (vdOf t) addr
  (s.setSlot t k h1).send .req .rsv { Msg.zero with src := s.tileEid t, dst := dst, slot := k, asid := asid, memd := memd, tag := tag, pa := addr, len := 7 }

/-- A read of n bytes for a walk or a fetch, on the ordered class (R25). -/
def State.askNode (s : State) (t k asid la pa n : Nat) : State :=
  let (tag, h1) := (s.slot t k).addPend noPath pa la (.node asid la)
  let (dst, memd) := s.homeOf (vdOf t) pa
  (s.setSlot t k h1).send .req .rd { Msg.zero with src := s.tileEid t, dst := dst, slot := k, asid := asid % 512, memd := memd, tag := tag, pa := pa, len := n - 1 }

/-- The thread waits for a message its port sends for it; first for a tag, if there is none (R126). -/
def leafWait (send : State → State) (s : State) : State := if (s.tile s.cur.1).tagsFull then s.block .tags else (send s).block .leaf

/-- Translate an access of the issuing thread (R228 order 7), where `accept` says which addresses decode and its kind may reach. -/
def portTranslate (accept : State → Nat → Bool) (la kind : Nat) (s : State) : M (Nat × State) :=
  match s.translate s.cur.1 s.th.asid la kind with
  | (.ok pa lvl, s1) =>
    if accept s1 pa then .ok (pa, s1)
    else .error (faultPark la lvl 7 0 pPAGE kind s1)
  | (.fault c l e r, s1) => .error (faultPark la l c e r kind s1)
  | (.orWait e lvl addr, s1) => .error (leafWait (fun s => s.sendOr s.cur.1 s.cur.2 s.th.asid la kind e lvl addr) s1)
  | (.askWait addr, s1) => .error (leafWait (fun s => s.askNode s.cur.1 s.cur.2 s.th.asid la addr 8) s1)
  | (.walkWait, s1) => .error (s1.park pWALKWAIT)
  | (.sweepWait, s1) => .error s1.sweepPark
  | (.poisoned, s1) => .error (s1.trap tMCHK 4 0)

def p0Translate (la kind n op : Nat) (s : State) : M (Nat × State) :=
  portTranslate (fun s1 pa => s1.decodes (vdOf s.cur.1) pa && p0Reaches pa kind n op) la kind s

/-- Orders 4 and 5 of R228 for a guard or group record, or an array of one (R238, R240): n bytes aligned to `al`. -/
def recSeg (rights : Seg → Bool) (sn off n al : Nat) (s : State) : M Place := do
  let p ← seg rights sn off n s
  aligned p al off s
  .ok p

/-- Guard and group records lie neither in space 5 nor in an operand store, whatever decodes there (R20). -/
def noRecord (pa : Nat) : Bool := spaceOf pa == 5 || (spaceOf pa == 3 && pa.testBit 22)
/-- Orders 6 and 7 of R228 for such an object of n bytes. Places it cannot use are left to the outcome BADSPACE. -/
def recAt (p : Place) (n : Nat) (s : State) : M (Nat × State) :=
  if p.sp then .ok (s.spPa s.cur.1 p.at_, s)
  else match (s.tile s.cur.1).rngRegion s.cur.2 p.at_ n false with
    | .wait => .error (s.park pGUARDWAIT)
    | .violation c => .error (rangeTrap c 0 p.at_ 0 s)
    | .redirect o => .ok (s.spPa s.cur.1 o, s)
    | .pass => portTranslate (fun s1 pa => noRecord pa || s1.decodes (vdOf s.cur.1) pa) p.at_ 1 s

/-- Orders 4 to 7 of R228 for one object. -/
def recPlace (rights : Seg → Bool) (sn off n al : Nat) (s : State) : M (Nat × State) := do
  let p ← recSeg rights sn off n al s
  recAt p n s

/-- Guard records live in space 0 of some package (R57). -/
def recSpace (pa : Nat) : Bool := spaceOf pa == 0 || spaceOf pa == 4

/-- A checked P0 place: physical address, linear address (0 for S = 1), and whether local banks serve it. -/
structure P0 where
  pa : Nat
  la : Nat
  deriving DecidableEq, Repr

def kindWriteP0 (kind : Nat) : Bool := kind == 2 || kind == 3

/-- Bits of a lock mask for the banks that n bytes at scratchpad offset o touch (R36). -/
def bankMask (o n : Nat) : Nat := (List.range (min 32 ((o % 256 + n + 255) / 256))).foldl (fun m i => m ||| 2 ^ ((o / 256 + i) % 32)) 0

/-- Another slot than k holds a bank of these bytes locked (R298); slot 8 stands for a requester that is no slot's P0. -/
def Tile.bankHeld (T : Tile) (k o n : Nat) : Bool := T.locks.any (fun l => l.slot != k && (l.mask.toNat &&& bankMask o n) != 0)

/-- A P0 access to a locked bank blocks in the rotation (R298). -/
def bankFree (o n : Nat) (s : State) : M Unit :=
  if (s.tile s.cur.1).bankHeld s.cur.2 o n then .error (s.block .lock) else .ok ()

/-- Orders 4 to 7 of R228 for a P0 access of n bytes at off through segment sn. -/
def p0PlaceAt (rights : Seg → Bool) (kind sn off n al op : Nat) (s : State) : M (P0 × State) := do
  let p ← seg rights sn off n s
  aligned p al off s
  let t := s.cur.1
  let k := s.cur.2
  if p.sp then
    if s.th.isVisitor then
      if kind = 1 then .error s.goHome
      else .ok (⟨3 * 2 ^ 52 + (ctxPkg s.th.origin * 4096 + ctxTile s.th.origin) * 2 ^ 24 + p.at_, 0⟩, s)
    else match (s.tile t).rngCopy k p.at_ n (kindWriteP0 kind) with
      | .wait => .error (s.park pGUARDWAIT)
      | .violation c => .error (rangeTrap c 0 0 (s.spPa t p.at_) s)
      | _ => do
        bankFree p.at_ n s
        .ok (⟨s.spPa t p.at_, 0⟩, s)
  else if s.th.isVisitor then
    if s.th.grd && kindWriteP0 kind then .error s.goHome
    else do
      let (pa, s1) ← p0Translate p.at_ kind n op s
      .ok (⟨pa, p.at_⟩, s1)
  else match (s.tile t).rngRegion k p.at_ n (kindWriteP0 kind) with
    | .wait => .error (s.park pGUARDWAIT)
    | .violation c => .error (rangeTrap c 0 p.at_ 0 s)
    | .redirect o => do
      bankFree o n s
      .ok (⟨s.spPa t o, p.at_⟩, s)
    | .pass => do
      let (pa, s1) ← p0Translate p.at_ kind n op s
      .ok (⟨pa, p.at_⟩, s1)

/-- A P0 access aligned to its own size. -/
def p0Place (rights : Seg → Bool) (kind sn off n op : Nat) (s : State) : M (P0 × State) := p0PlaceAt rights kind sn off n n op s

/-- The endpoint a P0 load at pa moves the thread to, if it moves (R19, R54); a visitor's load of its origin's die or tile
sends it home. -/
def State.movesTo (s : State) (t : Nat) (pa : Nat) : Option Nat :=
  let vd := vdOf t
  match spaceOf pa with
  | 0 => if nfld pa 37 2 = vd then none else some (s.eid (nfld pa 37 2) (s.dock (nfld pa 37 2) (chanOfPa pa)))
  | 4 => some (nfld pa 40 12 * 4096 + nfld pa 37 2 * 256 + chanOfPa pa)
  | 3 => if nfld pa 24 24 = s.tileEid t then none else some (nfld pa 24 24)
  | _ => none

/-- For a visitor, a load homed on its origin die or tile returns home (R54). -/
def State.loadGoes (s : State) (pa : Nat) : Option Nat :=
  match s.movesTo s.cur.1 pa with
  | none => none
  | some e =>
    if s.th.isVisitor then
      let o := s.th.origin
      if (spaceOf pa = 0 && nfld pa 37 2 = ctxTile o / 256 && ctxPkg o = s.pkg) || (spaceOf pa = 3 && nfld pa 24 24 = ctxPkg o * 4096 + ctxTile o) ||
         (spaceOf pa = 4 && nfld pa 40 12 = ctxPkg o && nfld pa 37 2 = ctxTile o / 256)
      then some (ctxPkg o * 4096 + ctxTile o) else some e
    else some e

/-- R91: a P0 access waits behind an earlier adaptive write of the same thread to the same 256-byte line. -/
def Slot.lineHeld (h : Slot) (own pa : Nat) : Bool :=
  h.pend.any (fun p => p.path == 0 && spaceOf p.pa == 3 && nfld p.pa 24 24 != own && p.pa / 256 == pa / 256 &&
    (match p.kind with | .store _ => true | .atomic .. => true | .post .. => true | .released => true | _ => false))

/-- Send a P0 message of the issuing thread to the home of pa with its linear address (R70), recording the access. Writes to another tile travel on the
adaptive class (R90). -/
def State.p0Send (s : State) (mk : Instr) (pa la n : Nat) (kind : PendKind) (w : DWord) : State :=
  let t := s.cur.1
  let (tag, h1) := s.th.addPend 0 pa la kind
  let (dst, memd) := s.homeOf (vdOf t) pa
  let s1 := s.modTh (fun _ => h1)
  let ad := spaceOf pa == 3 && nfld pa 24 24 != s.tileEid t
  let m : Msg := { Msg.zero with src := s.tileEid t, dst := dst, slot := s.cur.2, asid := h1.asid, memd := memd, tag := tag, adaptive := ad, pa := pa, len := n - 1, aux0 := w }
  s1.send .req mk m

/-- Access local to the visitor's tile or die resets its quantum (R54, R55). -/
def State.touchLocal (s : State) (pa : Nat) : State :=
  let t := s.cur.1
  if s.th.isVisitor && (match spaceOf pa with
      | 0 => nfld pa 37 2 == vdOf t
      | 3 => nfld pa 24 24 == s.tileEid t
      | 1 => true | 2 => true | 5 => true | _ => false)
  then s.modTh (fun h => { h with quantum := 0 }) else s

/-! ### Scopes (R94) -/

/-- Does a home lie in the scope judged from tile t? -/
def State.inScope (s : State) (t scope pa : Nat) : Bool :=
  let vd := vdOf t
  match spaceOf pa with
  | 0 => if nfld pa 37 2 = vd then 2 ≤ scope else 3 ≤ scope
  | 1 => 3 ≤ scope
  | 5 => 3 ≤ scope
  | 2 => 5 ≤ scope
  | 3 =>
    let e := nfld pa 24 24
    if e = s.tileEid t then true
    else if eidPkg e != s.pkg then 4 ≤ scope
    else if eidTile e / 256 = vd then (if clusterOf (eidTile e) = clusterOf t then 1 ≤ scope else 2 ≤ scope)
    else 3 ≤ scope
  | _ => 4 ≤ scope

end Sys2Proof.Machine
end

