-- ==== Sys2Proof/Machine/Flags.lean ====
section
/-! DEFINITION. Number formats (R188-R193), the one rounding function round_to (R195-R197), exact arithmetic, the sticky
flags each raises, the vector functions (R205), and the encoders of scaled and TB blocks (R199, R200). -/

namespace Sys2Proof.Machine
open Sys2Proof

/-! ### Exact values -/

def Num.isNan : Num → Bool
  | .nan _ => true
  | _ => false
def Num.isSig : Num → Bool
  | .nan b => b
  | _ => false
def Num.isInf : Num → Bool
  | .inf _ => true
  | _ => false
def Num.neg : Num → Bool
  | .nan _ => false
  | .inf n => n
  | .fin n _ _ _ => n
def Num.isZero : Num → Bool
  | .fin _ 0 _ st => !st
  | _ => false
def Num.setNeg (x : Num) (n : Bool) : Num :=
  match x with
  | .nan s => .nan s
  | .inf _ => .inf n
  | .fin _ m e st => .fin n m e st
def Num.flip (x : Num) : Num := x.setNeg (!x.neg)
def Num.zero : Num := .fin false 0 0 false
def Num.one : Num := .fin false 1 0 false
def Num.ofInt (i : Int) : Num := .fin (decide (i < 0)) i.natAbs 0 false
/-- Multiply by 2^k. -/
def Num.scale (x : Num) (k : Int) : Num :=
  match x with
  | .fin n m e st => .fin n m (e + k) st
  | y => y

/-- m·2^e as an integer in units of 2^q, for q ≤ e. -/
def alignTo (m : Nat) (e q : Int) : Nat := m * 2 ^ (e - q).toNat

/-- floor(log2 x) of a nonzero finite magnitude. -/
def flog2 (m : Nat) (e : Int) : Int := (Nat.log2 m : Int) + e

/-- Signed comparison of finite or infinite values: -1, 0 or 1; zeros compare equal (R188). -/
def Num.cmp (a b : Num) : Int :=
  match a, b with
  | .inf n, .inf k => if n = k then 0 else if n then -1 else 1
  | .inf n, _ => if n then -1 else 1
  | _, .inf k => if k then 1 else -1
  | .fin n m e s, .fin k m2 e2 s2 =>
    let q := min e e2
    let x : Int := if n then -(alignTo m e q : Int) else alignTo m e q
    let y : Int := if k then -(alignTo m2 e2 q : Int) else alignTo m2 e2 q
    if x < y then -1 else if y < x then 1
    else if s = s2 then 0 else if s then (if n then -1 else 1) else (if k then 1 else -1)
  | _, _ => 0

/-! ### Arithmetic: exact result and the flags of its special cases (R195, R205, R224, R225) -/

def nvIf (b : Bool) : Word := if b then fNV else 0

/-- NaN operands: the result is NaN, NV for a signalling one (R189). -/
def nan2 (a b : Num) : Option (Num × Word) :=
  if a.isNan || b.isNan then some (.nan false, nvIf (a.isSig || b.isSig)) else none

/-- Exact sum; a zero sum of opposite signs is +0, or -0 under RD (R195). -/
def addFin (rd : Bool) (a b : Num) : Num :=
  match a, b with
  | .fin n m e s, .fin k m2 e2 s2 =>
    let q := min e e2
    let x := alignTo m e q
    let y := alignTo m2 e2 q
    if n = k then .fin n (x + y) q (s || s2)
    else if x = y then .fin rd 0 0 false
    else if y < x then .fin n (x - y) q (s || s2)
    else .fin k (y - x) q (s || s2)
  | x, _ => x

def numAdd (rd : Bool) (a b : Num) : Num × Word :=
  match nan2 a b with
  | some r => r
  | none =>
    if a.isInf && b.isInf && a.neg != b.neg then (.nan false, fNV)
    else if a.isInf then (a, 0) else if b.isInf then (b, 0) else (addFin rd a b, 0)

def numSub (rd : Bool) (a b : Num) : Num × Word := numAdd rd a b.flip

def mulFin (a b : Num) : Num :=
  match a, b with
  | .fin n m e s, .fin k m2 e2 s2 => .fin (n != k) (m * m2) (e + e2) (s || s2)
  | x, _ => x

def numMul (a b : Num) : Num × Word :=
  match nan2 a b with
  | some r => r
  | none =>
    if (a.isInf && b.isZero) || (a.isZero && b.isInf) then (.nan false, fNV)
    else if a.isInf || b.isInf then (.inf (a.neg != b.neg), 0) else (mulFin a b, 0)

/-- Fraction bits beyond those of the dividend that a quotient or root keeps before its sticky bit. -/
def fracBits : Nat := 320

def divFin (a b : Num) : Num :=
  match a, b with
  | .fin n m e s, .fin k m2 e2 _ =>
    let x := m * 2 ^ (fracBits + Nat.log2 m2)
    .fin (n != k) (x / m2) (e - e2 - (fracBits + Nat.log2 m2 : Nat)) (s || x % m2 != 0)
  | x, _ => x

def numDiv (a b : Num) : Num × Word :=
  match nan2 a b with
  | some r => r
  | none =>
    let n := a.neg != b.neg
    if (a.isInf && b.isInf) || (a.isZero && b.isZero) then (.nan false, fNV)
    else if a.isInf then (.inf n, 0)
    else if b.isZero then (.inf n, fDZ)
    else if b.isInf then (.fin n 0 0 false, 0)
    else (divFin a b, 0)

/-- a × b + c with special cases of R225. -/
def numFma (rd : Bool) (a b c : Num) : Num × Word :=
  if (a.isInf && b.isZero) || (a.isZero && b.isInf) then (.nan false, fNV)
  else
    let (p, f) := numMul a b
    let (r, g) := numAdd rd p c
    (r, f ||| g)

/-- Integer square root by bits: the largest r < 2^fuel above `r` with r² ≤ n. -/
def isqrtGo : Nat → Nat → Nat → Nat
  | 0, r, _ => r
  | b + 1, r, n => if (r + 2 ^ b) * (r + 2 ^ b) ≤ n then isqrtGo b (r + 2 ^ b) n else isqrtGo b r n
def isqrt (n : Nat) : Nat := isqrtGo (Nat.log2 n / 2 + 1) 0 n

/-- Make an exponent even. -/
def evenExp (m : Nat) (e : Int) : Nat × Int := if e % 2 = 0 then (m, e) else (2 * m, e - 1)

def numSqrt (a : Num) : Num × Word :=
  match a with
  | .nan s => (.nan false, nvIf s)
  | .inf n => if n then (.nan false, fNV) else (.inf false, 0)
  | .fin n m e st =>
    if m = 0 then (.fin n 0 0 false, 0)
    else if n then (.nan false, fNV)
    else
      let (m1, e1) := evenExp m e
      let x := m1 * 2 ^ (2 * fracBits)
      let r := isqrt x
      (.fin false r (e1 / 2 - fracBits) (st || r * r != x), 0)

def numRcp (a : Num) : Num × Word := numDiv Num.one a

def numRsq (a : Num) : Num × Word :=
  match a with
  | .nan s => (.nan false, nvIf s)
  | .inf n => if n then (.nan false, fNV) else (.fin false 0 0 false, 0)
  | .fin n m e st =>
    if m = 0 then (.inf n, fDZ)
    else if n then (.nan false, fNV)
    else
      let (m1, e1) := evenExp m e
      let k := fracBits + Nat.log2 m1
      let r := isqrt (2 ^ (2 * k) / m1)
      (.fin false r (-(e1 / 2) - k) (st || r * r * m1 != 2 ^ (2 * k)), 0)

/-! ### EXP2, LOG2, TANH (R205): fixed point with `fxBits` fraction bits (log entry 11) -/

def fxBits : Nat := 640
/-- Low bits given up to the error of a series. -/
def fxGuard : Nat := 64

/-- atanh(z) = z + z³/3 + z⁵/5 + …, p the current power of z. -/
def atanhGo : Nat → Nat → Nat → Nat → Nat
  | 0, _, _, _ => 0
  | f + 1, p, z2, k => p / k + atanhGo f (p * z2 / 2 ^ fxBits) z2 (k + 2)
def fxAtanh (z : Nat) : Nat := atanhGo 220 z (z * z / 2 ^ fxBits) 1
def fxLn2 : Nat := 2 * fxAtanh (2 ^ fxBits / 3)

/-- e^y for y in [0, 1): the sum of the terms from t = y^k / k!. -/
def expGo : Nat → Nat → Nat → Nat → Nat
  | 0, _, _, _ => 0
  | f + 1, t, y, k => t + expGo f (t * y / 2 ^ fxBits / (k + 1)) y (k + 1)
def fxExp (y : Nat) : Nat := expGo 170 (2 ^ fxBits) y 0

/-- m·2^e in fixed point, rounded down. -/
def toFx (m : Nat) (e : Int) : Nat :=
  if 0 ≤ e + fxBits then m * 2 ^ (e + fxBits).toNat else m / 2 ^ (-(e + fxBits)).toNat

/-- Values beyond every format, with which no rounding depends on more than their size. -/
def numHuge : Num := .fin false (2 ^ 200) 2000 true
def numTiny : Num := .fin false (2 ^ 200) (-2400) true

def numExp2 (a : Num) : Num × Word :=
  match a with
  | .nan s => (.nan false, nvIf s)
  | .inf n => if n then (.fin false 0 0 false, 0) else (.inf false, 0)
  | .fin n m e _ =>
    if m = 0 then (Num.one, 0)
    else if 11 ≤ flog2 m e then (if n then numTiny else numHuge, 0)
    else
      let x := toFx m e
      let whole := x / 2 ^ fxBits
      let frac := x % 2 ^ fxBits
      if frac = 0 then (.fin false 1 (if n then -(whole : Int) else whole) false, 0)
      else
        let f := if n then 2 ^ fxBits - frac else frac
        let k : Int := if n then -(whole : Int) - 1 else whole
        (.fin false (fxExp (f * fxLn2 / 2 ^ fxBits) / 2 ^ fxGuard) (k - fxBits + fxGuard) true, 0)

def numLog2 (a : Num) : Num × Word :=
  match a with
  | .nan s => (.nan false, nvIf s)
  | .inf n => if n then (.nan false, fNV) else (.inf false, 0)
  | .fin n m e _ =>
    if m = 0 then (.inf true, fDZ)
    else if n then (.nan false, fNV)
    else
      let k := Nat.log2 m
      if m = 2 ^ k then (Num.ofInt (k + e), 0)
      else
        let y := m * 2 ^ fxBits / 2 ^ k
        let z := (y - 2 ^ fxBits) * 2 ^ fxBits / (y + 2 ^ fxBits)
        let l := 2 * fxAtanh z * 2 ^ fxBits / fxLn2
        let v : Int := (k + e) * 2 ^ fxBits + l
        (.fin (decide (v < 0)) (v.natAbs / 2 ^ fxGuard) (-(fxBits : Int) + fxGuard) true, 0)

def numTanh (a : Num) : Num × Word :=
  match a with
  | .nan s => (.nan false, nvIf s)
  | .inf n => (.fin n 1 0 false, 0)
  | .fin n m e _ =>
    if m = 0 then (.fin n 0 0 false, 0)
    else if flog2 m e < -100 then (.fin n (m * 2 ^ 200 - 1) (e - 200) true, 0)
    else if 7 ≤ flog2 m e then (.fin n (2 ^ 200 - 1) (-200) true, 0)
    else
      let q := 2 * toFx m e * 2 ^ fxBits / fxLn2
      let g := fxExp ((2 ^ fxBits - q % 2 ^ fxBits) * fxLn2 / 2 ^ fxBits) / 2 ^ (q / 2 ^ fxBits + 1)
      (.fin n ((2 ^ fxBits - g) * 2 ^ fxBits / (2 ^ fxBits + g) / 2 ^ fxGuard) (-(fxBits : Int) + fxGuard) true, 0)

/-! ### Formats (R188, R189) -/

/-- A floating-point format: mantissa and exponent widths, bias, and what its top codes mean: 0 infinity and NaN, 1 the
one NaN of FP8E4M3, 2 neither. -/
structure Fmt where
  mant : Nat
  exp  : Nat
  bias : Nat
  top  : Nat
  deriving DecidableEq, Repr

def fmtOf (f : Nat) : Fmt :=
  match f with
  | 0 => ⟨23, 8, 127, 0⟩
  | 1 => ⟨7, 8, 127, 0⟩
  | 2 => ⟨10, 5, 15, 0⟩
  | 3 => ⟨3, 4, 7, 1⟩
  | 4 => ⟨2, 5, 15, 0⟩
  | 5 => ⟨3, 2, 1, 2⟩
  | 6 => ⟨2, 3, 3, 2⟩
  | _ => ⟨1, 2, 1, 2⟩

/-- Element width in bits (R188, R191, R193). -/
def fmtWidth (f : Nat) : Nat :=
  match f with
  | 0 => 32 | 1 => 16 | 2 => 16 | 3 => 8 | 4 => 8 | 5 => 6 | 6 => 6 | 7 => 4 | 8 => 8 | 9 => 8 | 10 => 6 | _ => 4

/-- Largest finite magnitude code. -/
def Fmt.maxCode (F : Fmt) : Nat :=
  match F.top with
  | 0 => (2 ^ F.exp - 1) * 2 ^ F.mant - 1
  | 1 => 2 ^ (F.exp + F.mant) - 2
  | _ => 2 ^ (F.exp + F.mant) - 1
def Fmt.infCode (F : Fmt) : Nat := (2 ^ F.exp - 1) * 2 ^ F.mant
/-- Canonical NaN (R189). -/
def Fmt.nanCode (F : Fmt) : Nat := if F.top = 1 then 2 ^ (F.exp + F.mant) - 1 else F.infCode + 2 ^ (F.mant - 1)
/-- Exponent of the smallest normal. -/
def Fmt.emin (F : Fmt) : Int := 1 - (F.bias : Int)

/-- Read an element of a floating-point format (R188), with subnormals as zero under FTZ (R196). -/
def fpRead (f : Nat) (ftz : Bool) (bits : Nat) : Num :=
  let F := fmtOf f
  let neg := bits.testBit (F.mant + F.exp)
  let code := bits % 2 ^ (F.mant + F.exp)
  let e := code / 2 ^ F.mant
  let m := code % 2 ^ F.mant
  if F.top = 0 && e = 2 ^ F.exp - 1 then
    (if m = 0 then .inf neg else .nan (decide (f ≤ 2) && m < 2 ^ (F.mant - 1)))
  else if F.top = 1 && code = F.nanCode then .nan false
  else if e = 0 then (if ftz then .fin neg 0 0 false else .fin neg m (F.emin - F.mant) false)
  else .fin neg (2 ^ F.mant + m) ((e : Int) - F.bias - F.mant) false

/-! ### Rounding -/

/-- The inputs of a rounding besides the value: mode (0-5), ST.SAT, ST.FTZ and the stochastic word (R197). -/
structure RndEnv where
  mode : Nat
  sat : Bool
  ftz : Bool
  w : Nat
  deriving DecidableEq, Repr

/-- Round m·2^sh (with sticky) to an integer under a rounding code; and whether that was inexact (R195, R197). -/
def roundMag (mode : Nat) (neg : Bool) (m : Nat) (sh : Int) (st : Bool) (w : Nat) : Nat × Bool :=
  let s := (-sh).toNat
  let k := if 0 ≤ sh then m * 2 ^ sh.toNat else m / 2 ^ s
  let r := if 0 ≤ sh then 0 else m % 2 ^ s
  let inexact := r != 0 || st
  let up : Bool :=
    match mode with
    | 0 => decide (2 ^ s < 2 * r) || (2 * r == 2 ^ s && (st || k % 2 == 1))
    | 1 => false
    | 2 => inexact && !neg
    | 3 => inexact && neg
    | 4 => decide (2 ^ s ≤ 2 * r)
    | _ => decide (w < r * 2 ^ 16 / 2 ^ s)
  (if up then k + 1 else k, inexact)

/-- A rounded element: its bits, the sticky flags raised, and whether ST.SAT clamped it for MXCSAT. -/
structure Rounded where
  bits : Nat
  flags : Word
  clamped : Bool
  deriving DecidableEq, Repr

def signBit (F : Fmt) (neg : Bool) : Nat := if neg then 2 ^ (F.mant + F.exp) else 0

/-- Does an overflow under this mode and sign stop at the largest finite value even without SAT (R195)? -/
def stopsAtMax (mode : Nat) (neg : Bool) : Bool := mode == 1 || (mode == 2 && neg) || (mode == 3 && !neg)

/-- round_to for formats 0-7 (R195, R196). -/
def roundFp (f : Nat) (E : RndEnv) (x : Num) : Rounded :=
  let F := fmtOf f
  match x with
  | .nan _ => if F.top = 2 then ⟨0, fNV, false⟩ else ⟨F.nanCode, 0, false⟩
  | .inf n =>
    if F.top = 0 then ⟨signBit F n + F.infCode, 0, false⟩
    else if F.top = 1 then
      (if E.sat then ⟨signBit F n + F.maxCode, fOF, true⟩ else ⟨F.nanCode, fNV, false⟩)
    else ⟨signBit F n + F.maxCode, fOF, false⟩
  | .fin n m e st =>
    if m = 0 then ⟨signBit F n, 0, false⟩
    else
      let small := decide (flog2 m e < F.emin)
      if E.ftz && small then ⟨signBit F n, fUF ||| fNX, false⟩
      else
        let q := max (flog2 m e) F.emin - F.mant
        let (k, inexact) := roundMag E.mode n m (e - q) st E.w
        let code := (q - (F.emin - F.mant)).toNat * 2 ^ F.mant + k
        if F.maxCode < code then
          if F.top = 2 then ⟨signBit F n + F.maxCode, fOF ||| fNX, false⟩
          else if F.top = 1 then
            (if E.sat then ⟨signBit F n + F.maxCode, fOF ||| fNX, true⟩ else ⟨F.nanCode, fOF ||| fNX, false⟩)
          else if stopsAtMax E.mode n then ⟨signBit F n + F.maxCode, fOF ||| fNX, false⟩
          else if E.sat && f != 0 then ⟨signBit F n + F.maxCode, fOF ||| fNX, true⟩
          else ⟨signBit F n + F.infCode, fOF ||| fNX, false⟩
        else ⟨signBit F n + code, if inexact then (if small then fNX ||| fUF else fNX) else 0, false⟩

/-- Round to an integer on the grid of spacing 1. -/
def roundInt (E : RndEnv) (x : Num) : Int × Bool :=
  match x with
  | .fin n m e st =>
    let (k, inexact) := roundMag E.mode n m e st E.w
    (if n then -(k : Int) else k, inexact)
  | _ => (0, false)

/-- round_to for INT8 under scale mode 00 (R191, R195). -/
def roundI8 (E : RndEnv) (x : Num) : Rounded :=
  match x with
  | .nan _ => ⟨0, fNV, false⟩
  | .inf n => ⟨if n then 0x80 else 0x7F, fNV, false⟩
  | y =>
    let (i, inexact) := roundInt E y
    if i < -128 then ⟨0x80, fNV, false⟩
    else if 127 < i then ⟨0x7F, fNV, false⟩
    else ⟨(i % 256).toNat, if inexact then fNX else 0, false⟩

/-- round_to for formats 0-8. -/
def roundTo (f : Nat) (E : RndEnv) (x : Num) : Rounded := if f = 8 then roundI8 E x else roundFp f E x

/-- One xorshift32 step (R197). -/
def xorshift (g : Word) : Word :=
  let g1 := g ^^^ (g <<< 13)
  let g2 := g1 ^^^ (g1 >>> 17)
  g2 ^^^ (g2 <<< 5)

/-- The word a generator state gives to the rounding that advanced it (R197). -/
def srWord (g : Word) : Nat := wfld g 16 16

/-- Lane generator l seeded from s (R198). -/
def laneSeed (s : Word) (l : Nat) : Word :=
  let x := s ^^^ BitVec.ofNat 32 (0x9E3779B9 * (l + 1))
  if x = 0 then 1 else x
def laneSeeds (s : Word) : List Word := (List.range 64).map (laneSeed s)

/-! ### Selection and comparison -/

/-- minimum or maximum: NaN if either is NaN; -0 below +0 (R206, R224, R269). -/
def numMinMax (wantMax : Bool) (a b : Num) : Num × Word :=
  match nan2 a b with
  | some r => r
  | none =>
    let c := a.cmp b
    let aLess := c < 0 || (c = 0 && a.neg && !b.neg)
    (if aLess != wantMax then a else b, 0)

/-- minimumNumber or maximumNumber (R224): one NaN gives the other operand. -/
def numMinMaxNum (wantMax : Bool) (a b : Num) : Num × Word :=
  if a.isNan && b.isNan then (.nan false, nvIf (a.isSig || b.isSig))
  else if a.isNan then (b, nvIf a.isSig)
  else if b.isNan then (a, nvIf b.isSig)
  else numMinMax wantMax a b

/-! ### Elements and blocks (R190-R194) -/

/-- Value of a TB element with scales s0, s1 (R193); with m = 0 it is +0 whatever s holds (log entry 129). -/
def tbRead (f s0 s1 bits : Nat) : Num :=
  let w := fmtWidth f
  let wm := w - 2
  let sc := if bits.testBit (w - 1) then s1 else s0
  let m := bits % 2 ^ wm
  .fin (bits.testBit wm && m != 0) m ((sc : Int) - 127 - (wm - 1)) false

/-- Value of an INT8 element (R191); under scale mode 01 its grid is 1/64. -/
def i8Read (blk : Bool) (bits : Nat) : Num := (Num.ofInt (sgn 8 bits)).scale (if blk then -6 else 0)

/-- An element of formats 0-8 before any scale. -/
def elemRead (f : Nat) (blk ftz : Bool) (bits : Nat) : Num := if f = 8 then i8Read blk bits else fpRead f ftz bits

/-- Bytes of a row of n elements (R259). -/
def isTb (f : Nat) : Bool := 9 ≤ f
def isBlk (f sc : Nat) : Bool := isTb f || (sc == 1 && 3 ≤ f)
def blockBytes (f sc : Nat) : Nat := (if isTb f then 2 else if sc = 1 && 3 ≤ f then 1 else 0) + fmtWidth f * 4
def rowBytes (f sc n : Nat) : Nat := if isBlk f sc then cdiv n 32 * blockBytes f sc else cdiv (fmtWidth f * n) 8

/-- Bits of element i of a byte list holding packed elements. -/
def packedBits (w i : Nat) (bs : List Byte) : Nat :=
  leNat ((bs.drop (w * i / 8)).take 5) / 2 ^ (w * i % 8) % 2 ^ w

/-- Byte position and length of what element i of a row needs: its block, or its own bytes. -/
def elemSpan (f sc i : Nat) : Nat × Nat :=
  if isBlk f sc then (i / 32 * blockBytes f sc, blockBytes f sc)
  else
    let lo := fmtWidth f * i / 8
    (lo, (fmtWidth f * i + fmtWidth f + 7) / 8 - lo)

/-- The value of element i from the bytes of its span, T the tensor scale for scale mode 10 (R192-R194). -/
def spanRead (f sc : Nat) (ftz : Bool) (T : Num) (i : Nat) (bs : List Byte) : Num :=
  if isTb f then
    let s0 := (bs.getD 0 0).toNat
    let s1 := (bs.getD 1 0).toNat
    if s0 = 255 || s1 = 255 then .nan false else tbRead f s0 s1 (packedBits (fmtWidth f) (i % 32) (bs.drop 2))
  else if sc = 1 && 3 ≤ f then
    let x := (bs.getD 0 0).toNat
    if x = 255 then .nan false
    else (elemRead f true ftz (packedBits (fmtWidth f) (i % 32) (bs.drop 1))).scale ((x : Int) - 127)
  else
    let v := elemRead f false ftz (leNat bs / 2 ^ (fmtWidth f * i % 8) % 2 ^ fmtWidth f)
    if sc = 2 && 3 ≤ f then
      match v with
      | .fin .. => mulFin v T
      | y => y
    else v

/-- block_dot without its scales, the operands already scaled: the exact sum and the NV it raises (R182, R201); a NaN operand leaves
only the NV of a signalling one (log entry 130). -/
def blockDot (ps : List (Num × Num)) : Num × Word :=
  let sig := ps.any (fun p => p.1.isSig || p.2.isSig)
  if ps.any (fun p => p.1.isNan || p.2.isNan) then (.nan false, nvIf sig)
  else
    let qs := ps.map (fun p => numMul p.1 p.2)
    if qs.any (fun q => q.1.isNan) then (.nan false, fNV)
    else match qs with
      | [] => (Num.zero, 0)
      | q :: rest => rest.foldl (fun a r =>
          let (x, f) := numAdd false a.1 r.1
          (x, a.2 ||| f)) (q.1, 0)

/-- Largest magnitude: an infinity above every finite value (R199). -/
def amax (vs : List Num) : Num :=
  vs.foldl (fun a v => if 0 < (v.setNeg false).cmp a then v.setNeg false else a) Num.zero

/-- Elements packed densely, element 0 lowest (R192). -/
def packBits (w : Nat) : List Nat → Nat
  | [] => 0
  | b :: bs => b % 2 ^ w + 2 ^ w * packBits w bs

/-- An encoded block: its bytes, flags, results clamped by SAT, elements written as NaN, and whether elements were rounded. -/
structure BlockOut where
  bytes : List Byte
  flags : Word
  clamped : Nat
  nans : Nat
  rounded : Bool
  deriving DecidableEq, Repr

/-- Block exponent offset of R199. -/
def blkE (f : Nat) : Int :=
  match f with
  | 3 => 8 | 4 => 15 | 5 => 2 | 6 => 4 | 7 => 2 | _ => 0

/-- One element of a scaled block (R199): clamped to the largest magnitude with NX, independently of SAT. -/
def blkElem (f : Nat) (E : RndEnv) (x : Int) (v : Num) : Nat × Word :=
  if f = 8 then
    match v with
    | .inf n => (if n then 0x81 else 0x7F, fOF)
    | y =>
      let (i, inexact) := roundInt E (y.scale (127 - x + 6))
      if i < -127 then (0x81, fNX) else if 127 < i then (0x7F, fNX)
      else ((i % 256).toNat, if inexact then fNX else 0)
  else
    let F := fmtOf f
    match v with
    | .inf n => (signBit F n + F.maxCode, fOF)
    | y =>
      let r := roundFp f { E with sat := true } (y.scale (127 - x))
      (r.bits, if r.flags &&& fOF = 0 then r.flags else fNX)

/-- A block under scale mode 01 (R199). `ws` gives each element its stochastic word. With scale 0xFF the element fields are free, and no
generator advances (log entry 172). -/
def blkEncode (f : Nat) (E : RndEnv) (ws : List Nat) (vs : List Num) : BlockOut :=
  let w := fmtWidth f
  let which := vs.foldl (fun a v => 2 * a + b2n (v.isNan || v.isInf)) 0
  let nanOut (fl : Word) : BlockOut := ⟨0xFF :: leBytes (4 * w) (Config.nanBlock f which), fl, 0, 32, false⟩
  if vs.any Num.isNan then nanOut (if vs.any Num.isInf && !E.sat then fNV else 0)
  else if vs.any Num.isInf && !E.sat then nanOut fNV
  else
    let raw : Int := match amax vs with
      | .fin _ m e _ => if m = 0 then 0 else flog2 m e - blkE f + 127
      | _ => 254
    let x := min (max raw 0) 254
    let es := (vs.zip ws).map (fun p => blkElem f { E with w := p.2 } x p.1)
    let fl := es.foldl (fun a p => a ||| p.2) (if 254 < raw then fOF else 0)
    ⟨BitVec.ofNat 8 x.toNat :: leBytes (4 * w) (packBits w (es.map (·.1))), fl, 0, 0, true⟩

/-- A TB block (R200). -/
def tbEncode (f : Nat) (E : RndEnv) (ws : List Nat) (vs : List Num) : BlockOut :=
  let w := fmtWidth f
  let wm := w - 2
  let fb : Int := wm - 1
  let top : Nat := 2 ^ wm - 1
  let nanOut (fl : Word) : BlockOut := ⟨0xFF :: 0xFF :: leBytes (4 * w) 0, fl, 0, 32, false⟩
  if vs.any Num.isNan then nanOut (if vs.any Num.isInf then fNV else 0)
  else if vs.any Num.isInf && !E.sat then nanOut fNV
  else
    let am := amax vs
    let s0raw : Int := match am with
      | .fin _ m e _ =>
        if m = 0 then 0
        else
          let s := flog2 m e + 127
          if 0 < am.cmp (Num.fin false top (s - 127 - fb) false) then s + 1 else s
      | _ => 255
    if 254 < s0raw && !E.sat then nanOut fOF
    else
      let s0 := min (max s0raw 0) 254
      let s1 : Int := if (wm : Int) ≤ s0 then s0 - wm else 0
      let lim (s : Int) : Num := .fin false top (s - 127 - fb) false
      let one (v : Num) (sw : Nat) : Nat × Word × Nat :=
        let a := v.setNeg false
        let sel := decide (a.cmp (lim s1) ≤ 0)
        let s := if sel then s1 else s0
        let big := decide (0 < a.cmp (lim s0))
        let (m, inexact) : Int × Bool := if big then (top, false) else roundInt { E with w := sw } (a.scale (127 + fb - s))
        let bits := m.toNat % 2 ^ wm + (b2n v.neg) * 2 ^ wm + b2n sel * 2 ^ (wm + 1)
        (bits, (if big then fOF else 0) ||| (if inexact || (big && !v.isInf) then fNX else 0), b2n big)
      let es := (vs.zip ws).map (fun p => one p.1 p.2)
      ⟨BitVec.ofNat 8 s0.toNat :: BitVec.ofNat 8 s1.toNat :: leBytes (4 * w) (packBits w (es.map (·.1))),
       es.foldl (fun a p => a ||| p.2.1) 0, es.foldl (fun a p => a + p.2.2) 0, 0, true⟩

end Sys2Proof.Machine
end

