-- ==== Sys2Proof/Machine/Home.lean ====
section
/-! DEFINITION. What a home does on its own: writing bytes, and the watches on them (R242). -/

namespace Sys2Proof.Machine
open Sys2Proof

/-! ### Bytes at a home -/

/-- A write performed at its home: the bytes, a dirty mark in a held copy (R69), and clean check bits (R39). -/
def State.homeWrite (s : State) (pa : Nat) (bs : List Byte) : State :=
  if outside pa then s else
  let n := bs.length
  let s1 := { s with mem := wrBytes s.mem pa bs, ecc := s.ecc.filter (fun w => !(decide (pa ≤ w) && decide (w + 8 ≤ pa + n))),
                     ecc1 := s.ecc1.filter (fun w => !(decide (w < pa + n) && decide (pa < w + 8))) }
  if spaceOf pa = 3 && nfld pa 22 1 = 0 then s1.modTile (eidTile (nfld pa 24 24)) (fun T => T.markDirty (nfld pa 0 22) n) else s1

def cwHit (v : Nat) (t : Nat) : Bool := decide (t ≤ v % 2 ^ 63) || v.testBit 63

/-- Answer every watch of a die whose word now satisfies it (R242). A watch on a word of a CXL device looks at the device again. -/
def State.fireWatches (s : State) (pa n : Nat) : State :=
  let vd := s.watchDie pa
  if outside pa then
    let hit (w : Watch) : Bool := overlaps w.pa 8 pa n
    let again := ((s.die vd).watches.filter hit).map (fun w => evM .watchInstall w.req)
    (s.modDie vd (fun D => { D with watches := D.watches.filter (fun w => !hit w) })).emits again
  else
  let hit (w : Watch) : Bool := overlaps w.pa 8 pa n && cwHit (rdLE s.mem w.pa 8) w.t
  let ws := (s.die vd).watches.filter hit
  let s1 := s.modDie vd (fun D => { D with watches := D.watches.filter (fun w => !hit w) })
  ws.foldl (fun s w => s.send .rsp .watchrsp { msgReply w.req with aux0 := BitVec.ofNat 64 (rdLE s.mem w.pa 8) }) s1

/-- Write at a home and look at the watches. -/
def State.perform (s : State) (pa : Nat) (bs : List Byte) : State := (s.homeWrite pa bs).fireWatches pa bs.length

def State.ethOut (s : State) (o : NetOut) : State := { s with eth := s.eth ++ [o] }

/-- A write performed at a home, with the copy that leaves for a device (R43). -/
def State.performOut (s : State) (vd pa : Nat) (bs : List Byte) : State :=
  let s1 := match spaceOf pa with
    | 1 => s.ethOut (.cxlWrite vd pa bs)
    | 2 => s.hostOut (.pcieWrite vd pa bs)
    | _ => s
  s1.perform pa bs

/-! ### Check bits (R39, R326, R338) -/

/-- The bank of the storage that holds an address (R338). -/
def State.eccBank (s : State) (pa : Nat) : Nat × Nat :=
  match spaceOf pa with
  | 0 => (nfld pa 37 2, 8 + chanOfPa pa / 8)
  | 3 => (vdOf (eidTile (nfld pa 24 24)), quadrant (eidTile (nfld pa 24 24)))
  | 1 => match s.hdmDecode (pa % 2 ^ 52) with
    | some (iod, p) => (iod, 4 + p / 2)
    | none => (8, 4)
  | _ => (8, 0)
def State.recordEcc (s : State) (pa ctx : Nat) : State := s.logError (s.eccBank pa).1 (s.eccBank pa).2 true cECC pa ctx

/-- A read at a home: every word it touches that has a single-bit error is corrected, written back, and recorded (R39). -/
def State.scrub (s : State) (pa n ctx : Nat) : State :=
  let hit (w : Nat) : Bool := decide (w < pa + n) && decide (pa < w + 8)
  (s.ecc1.filter hit).foldl (fun (s : State) w => s.logError (s.eccBank w).1 (s.eccBank w).2 false cECC w ctx)
    { s with ecc1 := s.ecc1.filter (fun w => !hit w) }

/-- The bank's part in a read whose data are used elsewhere: what it corrects and what it records (R39, R338). -/
def State.readCheck (s : State) (pa n ctx : Nat) : State :=
  let s1 := s.scrub pa n ctx
  if s1.eccBad pa n then s1.recordEcc pa ctx else s1

/-- The same for several places. -/
def State.readChecks (s : State) (places : List Nat) (n ctx : Nat) : State := places.foldl (fun s pa => s.readCheck pa n ctx) s

/-- The words of the 64-byte cells named in a mask are uncorrectable: a writer had no good bytes for them (log entry 165). -/
def State.poisonCells (s : State) (pa mask : Nat) : State :=
  { s with ecc := ((List.range 4).filter (fun i => mask.testBit i)).foldl (fun l i => (List.range 8).foldl (fun l j => let w := pa / 8 * 8 + 64 * i + 8 * j; if l.contains w then l else l ++ [w]) l) s.ecc }

end Sys2Proof.Machine
end

