-- ==== Sys2Proof/Machine/Issue.lean ====
section
/-! DEFINITION. The issue logic of a tile: the rotation (R318-R320), the causes looked at before an issue (R324), and the
fetch of the instruction at PC (R9, R176); and the clock tick. -/

namespace Sys2Proof.Machine
open Sys2Proof

/-! ### Eligibility and the rotation -/

/-- A QSYNC that the thread has passed on a predicted path, and that the path's confirmation now makes it wait for (R161, R275). -/
def Slot.syncing (h : Slot) : Bool := h.shadow.isNone && h.cbuf.any (fun d => match d with | .qsync _ => true | _ => false)

def Slot.isReady (h : Slot) : Bool := h.run == .ready && !h.frozen && !h.syncing && (h.occ == .thread || h.occ == .visitor)

/-- NX(s) of R318. -/
def Slot.nextIssue (h : Slot) (wait8 : Bool) : Nat :=
  match h.lastIssue with
  | none => 0
  | some n => if wait8 || h.yielded then n + 8 else n + 4

def Tile.eligible (T : Tile) (n k : Nat) : Bool :=
  let others := (List.range 7).any (fun j => (T.slot j).isReady)
  (T.slot k).isReady && decide ((T.slot k).nextIssue (k == 7 && others) ≤ n)

/-- The slot a tile issues at cycle n, if any (R319, R320). -/
def Tile.pick (T : Tile) (n : Nat) : Option Nat :=
  if wbit T.rot 0 then
    if n % 8 != 7 && T.eligible n (n % 8) then some (n % 8) else if T.eligible n 7 then some 7 else none
  else if T.eligible n 7 then some 7
  else ((List.range 7).map (fun i => (T.ptr + 1 + i) % 7)).find? (fun k => T.eligible n k)

/-- The slot tile t may issue now: at most one issue per cycle, and none on a stopped die (R318, R362). -/
def State.canIssue (s : State) (t : Nat) : Option Nat :=
  let n := s.clock (vdOf t)
  if (s.tile t).issuedAt = some n || (s.die (vdOf t)).stopped then none else (s.tile t).pick n

/-- A visitor that has committed 4,096 instructions since its last local access goes home before the next (R55). -/
def State.quantumOut (s : State) (t k : Nat) : State :=
  let h := s.slot t k
  if h.isVisitor && h.run == .ready && decide (4096 ≤ h.quantum) then s.emitOnce (evTK .visitorQuantum t k) else s

/-- An attempt that blocked is no issue; any other is (R318). The COMPACT pointer moves in COMPACT mode (R319). -/
def State.noteIssue (s : State) (t k : Nat) : State :=
  let n := s.clock (vdOf t)
  let issued := match (s.slot t k).run with
    | .blocked .dividing => true
    | .blocked .answer => true
    | .blocked _ => false
    | _ => true
  if issued then
    ((s.modSlot t k (fun h => { h with lastIssue := some n, fenced := false })).modTile t
      (fun T => { T with issuedAt := some n, ptr := if k < 7 && !wbit T.rot 0 then k else T.ptr })).quantumOut t k
  else s

/-! ### Causes before an issue (R324) -/

/-- The cause taken before the next issue, if one is pending (R324); a TIMER does not interrupt a predicted path (R321). -/
def Slot.hasCause (h : Slot) : Bool :=
  !h.fenced && (h.pendMchk.isSome || h.pendRange != [] || (h.shadow.isNone && (h.pendLock.isSome || (h.pendTimer && !stINH h.st))))

/-- Architectural registers as they were at the branch. -/
def Slot.unshadow (h : Slot) (sh : Shadow) : Slot :=
  { h with g := sh.g, fe := sh.fe, prod := sh.prod, poison := sh.poison, st := sh.st, pfx := sh.pfx, rngs := sh.rngs, instret := sh.instret, quantum := sh.quantum, shadow := none, cbuf := [], run := .ready }

/-- A revoke that waited for the branch takes effect (R299). -/
def State.lateRevoke (s : State) (t k : Nat) : State :=
  s.modTile t (fun T => if wbit T.lamask (8 + k) then { T with lamask := wsetb (wsetb T.lamask (8 + k) false) k false } else T)

/-- The predicted path of a slot is discarded and the thread goes on at pc (R321). -/
def State.discardPath (s : State) (t k : Nat) (sh : Shadow) (pc : Word) : State :=
  ((s.modSlot t k (fun h => { h.unshadow sh with pc := pc })).dropDivide t k).lateRevoke t k

/-- The causes that stop a predicted path discard it first: the branch has not committed, and the PC is the branch's. -/
def State.leavePath (s : State) : State :=
  match s.th.shadow with
  | some sh => s.discardPath s.cur.1 s.cur.2 sh (sh.pcNot - 4)
  | none => s

/-- Take the first pending cause of the current slot (R324, R173). -/
def State.takeCause (s0 : State) : State :=
  let s := s0.leavePath
  let h := s.th
  if h.isVisitor then s.goHome
  else match h.pendMchk with
    | some sub => s.trap tMCHK sub 0
    | none => match h.pendRange with
      | r :: rest => (s.modTh (fun h => { h with pendRange := rest })).trap tRANGE r.1 (BitVec.ofNat 32 r.2)
      | [] => match h.pendLock with
        | some m => (s.modTh (fun h => { h with pendLock := none })).trap tTIMER 1 m
        | none => (s.modTh (fun h => { h with pendTimer := false })).trap tTIMER 0 0

/-- The park reason of a fault that stopped one of a slot's engine commands or copies, if any (R28). -/
def State.engStopped (s : State) (t k : Nat) : Option Nat :=
  let T := s.tile t
  let cmds := (T.mq ++ T.vq).filter (fun c => c.slot == k && c.stopped != 0)
  let lads := (List.range 2).flatMap (fun ch => (mget {} T.ladles ch).active.toList.filter (fun c => c.slot == k && c.stopped != 0))
  let cps := s.dies.flatMap (fun d => (d.2.copyq.map (·.2)).filter (fun c => c.ctx == s.ctxName t k && c.stopped != 0))
  ((cmds.map (·.stopped)) ++ ((lads ++ cps).map (·.stopped))).head?

/-! ### Fetch -/

/-- Why a fetch from a physical address is refused, if it is: a filtered range, a record, or a copy range (R9). -/
def State.fetchRefused (s : State) (pa : Nat) : Option Nat :=
  if spaceOf pa = 3 && nfld pa 22 1 = 0 && eidPkg (nfld pa 24 24) = s.pkg then (s.tile (eidTile (nfld pa 24 24))).fetchRefusal (nfld pa 0 22)
  else s.refuses 0 pa 4 false false

/-- The home of the word at PC refused it: a violation, or an address that does not decode there (R21). -/
def State.fetchEnds (s : State) (la c : Nat) (violation : Nat → State → State) : State :=
  if 1 ≤ c ∧ c ≤ 5 then violation c s
  else faultPark la (((s.tlbLookup s.cur.1 s.th.asid la 0).map (·.level)).getD 0) 7 0 pPAGE 0 s

/-- The bank's part in a fetch of the word at pa; a thread on a predicted path blocks at a bad word, which is recorded when it is fetched
again (R161). -/
def State.wordCheck (s : State) (pa : Nat) : State :=
  if s.th.shadow.isSome && s.eccBad pa 4 then s else s.readCheck pa 4 (s.ctxName s.cur.1 s.cur.2)

/-- The word at PC (R9, R176): SEG, then ALIGN, then translation; a filtered range, a record or a copy raises RANGE. A sg7 with
S = 1 reads the tile's own scratchpad, but no copy in it (log entry 135). On a predicted path nothing is sent: the thread blocks (R321). -/
def State.fetch (s : State) : M (Nat × State) := do
  let h := s.th
  let p ← seg rFetch 7 h.pc.toNat 4 s
  if h.pc.toNat % 4 != 0 then .error (s.trap tALIGN 0 h.pc)
  else if p.sp then
    if h.isVisitor then .error s.goHome else do
    let pa := s.spPa s.cur.1 p.at_
    match s.fetchRefused pa with
    | some c => .error (rangeTrap c 0 0 pa s)
    | none => do
      bankFree p.at_ 4 s
      let s1 := s.wordCheck pa
      if s1.eccBad pa 4 then .error (s1.trap tMCHK 1 0) else .ok (rdLE s1.mem pa 4, s1)
  else
    let blocked (s1 : State) : State := if h.shadow.isSome then s.block .predicted else s1
    match p0Translate p.at_ 0 4 0 s with
    | .error s1 => .error (blocked s1)
    | .ok (pa, s1) =>
    let t := s.cur.1; let k := s.cur.2
    let trapRange (c : Nat) (s : State) : State := rangeTrap c 0 (if spaceOf pa = 3 then 0 else p.at_) pa s
    match s1.fetchRefused pa with
    | some c => .error (trapRange c s1)
    | none => match s1.nodeWord (fun a => (s1.tile t).nodeAt (512 + k) p.at_ a) pa 4 with
      | none => .error (blocked (leafWait (fun s => s.askNode t k (512 + k) p.at_ pa 4) s1))
      | some w =>
        let s2 := s1.dropNodes t (512 + k) p.at_
        let s3 := if s2.afar pa then s2 else s2.wordCheck pa
        if w = 2 ^ 64 then .error (s3.trap tMCHK 1 0)
        else if 2 ^ 64 < w then .error (blocked (s2.fetchEnds p.at_ (w - 2 ^ 64) trapRange))
        else .ok (w, s3)

/-- The first load a visit was refused is issued again at home (R70): its range table decides it. -/
def State.redoLoad (s : State) (rd size : Nat) (sx : Bool) (la : Nat) : M State :=
  let t := s.cur.1; let k := s.cur.2
  let rest (s : State) : State := s.modTh (fun h => { h with redo := h.redo.drop 1 })
  let go (pa : Nat) (s : State) : State :=
    ((rest s).modTh (fun h => let h1 := h.markEmpty rd; if size = 8 && rd != 0 then h1.markEmpty (rd + 1) else h1)).p0Send .rd pa la size (.load rd size sx) 0
  match (s.tile t).rngRegion k la size false with
  | .wait => .error (s.park pGUARDWAIT)
  | .violation c => .error (rangeTrap c 0 la 0 (rest s))
  | .redirect o => do
    bankFree o size s
    .ok (go (s.spPa t o) s)
  | .pass => do
    let (pa, s1) ← p0Translate la 1 size 0 s
    .ok (go pa s1)

/-- Everything before the instruction's own meaning: the pending causes, a stopped step (R28), the fetch, and decode orders 1 to 5 (R180, R324). -/
def State.prepare (s : State) (t k : Nat) : M (Nat × Instr × State) := do
  let s0 := { s with cur := (t, k) }
  let s1 := s0.modTh (fun h => { h with yielded := false })
  if s1.th.hasCause then .error s1.takeCause
  else match (if s1.th.isVisitor then none else s1.engStopped t k) with
  | some r => .error (if r = sweepStop then s1.sweepPark else s1.park r)
  | none => match s1.th.redo with
  | (rd, size, sx, la) :: _ => if s1.th.isVisitor then .error s1 else match s1.redoLoad rd size sx la with
    | .ok s2 => .error s2
    | .error s2 => .error s2
  | [] => do
    let (w, s2) ← s1.fetch
    match decodeWord w with
    | .ok i => .ok (w, i, s2)
    | .error _ => .error (s2.trap tILL 0 (BitVec.ofNat 32 w))

/-! ### The checker (R209) -/

/-- Majors whose results the checker recomputes: 0x01-0x0A, 0x20-0x22, 0x28-0x2A, and the system majors 0x4B-0x4D (R279). -/
def checkedMajor (m : Nat) : Bool := (1 ≤ m && m ≤ 0x0A) || (0x20 ≤ m && m ≤ 0x22) || (0x28 ≤ m && m ≤ 0x2A) || (0x4B ≤ m && m ≤ 0x4D)

/-- The record of a result the checker found wrong once (R209, R338). -/
def State.logChecksum (s : State) (t k : Nat) : State := s.logError (vdOf t) (4 + quadrant t) false cCHECKSUM 0 (s.ctxName t k)

/-- What the checker makes of an instruction's outcome (R209). `Slot.mismatch` is the number of mismatches the thread's next executions
meet, an input of the model (log entry 136): after one the instruction is executed again, with its effects once; at a second the thread
takes MCHK CHECKER instead. -/
def checker (w : Nat) (s : State) (o : Out) : Out :=
  match o with
  | .next s1 =>
    let ran := s1.th.instret != s.th.instret || s1.th.run == .blocked .dividing
    if s.th.mismatch = 0 || !checkedMajor (w % 128) || !ran then .next s1
    else if s.th.mismatch = 1 then .next ((s1.modTh (fun h => { h with mismatch := 0 })).logChecksum s.cur.1 s.cur.2)
    else if s.th.shadow.isSome then .next (s.block .predicted)
    else .next ((s.modTh (fun h => { h with mismatch := 0 })).trap tMCHK 2 0)
  | .fault f => .fault f
  | .refused r => .refused r

/-! ### The clock (R172, R173) -/

/-- One cycle for a slot: TIMER counts down while TE = 1 and the thread is here; reaching 0 is TIMER_EXPIRE. -/
def Slot.counts (h : Slot) : Bool := h.occ != .free && stTE h.st && h.timer != 0

def tickTile (T : Tile) : Tile :=
  { T with slots := T.slots.map (fun p => (p.1, if p.2.counts then { p.2 with timer := p.2.timer - 1 } else p.2)) }

def expiries (t : Nat) (T : Tile) : List Ev :=
  T.slots.filterMap (fun p => if p.2.counts && p.2.timer == 1 then some (evTK .timerExpire t p.1) else none)

/-- A die's clock, and its cycles below 2,000 MHz (R112, R361). -/
def tickDie (vd : Nat) (D : Die) : Die :=
  { D with cycle := D.cycle + 1, throt := if vd < 8 && wfld D.vfstat 0 12 < 2000 && D.throt != 0xFFFFFFFF then D.throt + 1 else D.throt }

/-- The clocks of the dies `vds` go on by one cycle (R112): what falls due there enters the pool, and each of their link modules
sends a frame if it has cells to send (R115). -/
def State.tick (s : State) (vds : List Nat) : State :=
  let mine (t : Nat) : Bool := vds.contains (vdOf t)
  let due (p : Nat × Nat × Ev) : Bool := vds.contains p.1 && decide (p.2.1 ≤ s.clock p.1 + 1)
  let evs := s.tiles.flatMap (fun p => if mine p.1 then expiries p.1 p.2 else [])
  let s1 : State := { s with
    now := s.now + 1
    dies := s.dies.map (fun p => (p.1, if vds.contains p.1 then tickDie p.1 p.2 else p.2))
    tiles := s.tiles.map (fun p => (p.1, if mine p.1 then tickTile p.2 else p.2))
    timers := s.timers.filter (fun p => !due p)
    pool := s.pool ++ evs ++ (s.timers.filter due).map (·.2.2) }
  ((s.links.filter (fun p => vds.contains (linkDie p.1) && !p.2.txq.isEmpty)).map (·.1)).foldl (fun s key => s.sendFrame key) s1

/-- The clocks that go on when the agenda says nothing: the compute dies' at 2.0 GHz, the I/O dies' at 1.6 GHz (R345). -/
def State.tickDies (s : State) : List Nat := if s.now % 5 = 4 then [0, 1, 2, 3] else [0, 1, 2, 3, 8, 9]

/-! ### Events -/

/-- A P0 access of a thread (R86): the commands a thread's port sends. -/
def memKind (k : PendKind) : Bool :=
  match k with
  | .load .. | .store _ | .atomic .. | .post .. | .released | .segld .. | .record _ => true
  | _ => false
def relaxed (k : PendKind) : Bool :=
  match k with
  | .atomic _ op _ _ => 16 ≤ op
  | _ => false

/-- The sets of homes of R92 in which the P0 accesses of one thread of tile t are performed in issue order: those of one compute die, those
of one I/O die, and the tile's own scratchpad. -/
def State.homeSet (s : State) (t pa : Nat) : Option Nat :=
  match spaceOf pa with
  | 0 => some (nfld pa 37 2)
  | 1 => some (eidVd (s.homeOf (vdOf t) pa).1)
  | 2 => some (eidVd (s.homeOf (vdOf t) pa).1)
  | 5 => some (eidVd (s.homeOf (vdOf t) pa).1)
  | 3 => if nfld pa 24 24 = s.tileEid t then some 16 else none
  | _ => none

/-- Must p be performed before a later access q of its thread (R91, R92), where nothing orders a `.C` atomic before another or before
an access to its own word (R100)? -/
def State.before (s : State) (t : Nat) (p q : Pend) : Bool :=
  p.path == 0 && memKind p.kind && (s.homeSet t p.pa).isSome && s.homeSet t p.pa == s.homeSet t q.pa &&
  !(relaxed p.kind && (relaxed q.kind || p.pa / 4 == q.pa / 4))

/-- May a message be performed as far as its thread's earlier accesses go? -/
def State.inOrder (s : State) (e : Ev) : Bool :=
  let m := e.arg.msg
  let mem := e.i == .rd || e.i == .wr || e.i == .rsv
  if mem && eidPkg m.src == s.pkg && isComputeTile (eidTile m.src) then
    let l := (s.slot (eidTile m.src) (m.slot % 8)).pend
    match l.find? (fun p => p.tag == m.tag) with
    | none => true
    | some q => (l.takeWhile (fun p => p.tag != m.tag)).all (fun p => !s.before (eidTile m.src) p q)
  else true

def evIsMsg (e : Ev) : Bool := e.arg.msg != Msg.zero
/-- The virtual channel of a message; none for an event that is no message. -/
def evChannel (e : Ev) : Option Nat := (opOf e.i).map (fun p => vcOf p.1 p.2 e.arg.msg.adaptive)
def evReq (e : Ev) : Bool := evChannel e == some 0

/-- A `.C` atomic of this package's thread (R100). -/
def State.evRelaxed (s : State) (e : Ev) : Bool :=
  e.i == .rsv && eidPkg e.arg.msg.src == s.pkg && isComputeTile (eidTile e.arg.msg.src) &&
  ((s.slot (eidTile e.arg.msg.src) (e.arg.msg.slot % 8)).getPend e.arg.msg.tag).any (fun p => relaxed p.kind)

/-- LINK cells, which a frame leaves to be taken in before the next frame of its module (R118). -/
def isLinkCell (i : Instr) : Bool := i == .linkAck || i == .linkNak || i == .linkInit

/-- A message of the ordered class does not overtake an earlier one from its source to its destination on its virtual channel (R90, R114),
but for what follows a `.C` atomic: another of them, or an access to its word (R100). What comes over a link module is taken in in order. -/
def State.evFollows (s : State) (e f : Ev) : Bool :=
  let m := e.arg.msg; let n := f.arg.msg
  if e.i == .sluiceFrame then f.i == .sluiceFrame && e.arg.t == f.arg.t
  else if isLinkCell e.i then isLinkCell f.i && e.arg.t == f.arg.t
  else evIsMsg e && evIsMsg f && !m.adaptive && !n.adaptive && m.src == n.src && m.dst == n.dst && evChannel e == evChannel f &&
    !(s.evRelaxed f && (s.evRelaxed e || m.pa / 4 == n.pa / 4))

/-- Do two messages reach their endpoint over the same link: from the same die, and not within one tile (R127)? -/
def sameLink (m n : Msg) : Bool := m.dst == n.dst && m.memd == n.memd && m.src != m.dst && n.src != n.dst && m.src / 256 == n.src / 256

/-- A REQ behind one that its endpoint has left unconsumed in its ingress (R127); but for what an operation of a manager waits for, which
would otherwise never end (log entry 142). -/
def State.behindHeld (s : State) (e : Ev) : Bool :=
  let m := e.arg.msg
  evReq e && evIsMsg e && e.i != .wbnote && e.i != .gredo && eidPkg m.dst == s.pkg &&
  ((if eidVd m.dst < 4 && !m.memd then (s.tile (eidTile m.dst)).held else (s.die (eidVd m.dst)).held).any (fun f => evReq f && evIsMsg f && sameLink m f.arg.msg))

/-- A host write follows the writes before it on its link until they are performed at home (R105). -/
def hostFollows (e f : Ev) : Bool := e.i == .hostBarWrite && f.i == .hostBarWrite && e.arg.t == f.arg.t
def State.hostWaits (s : State) (e : Ev) : Bool :=
  e.i == .hostBarWrite && s.dies.any (fun d => d.2.held.any (hostFollows e) || d.2.resvs.any (fun r => r.waiters.any (hostFollows e)))

/-- A frame waits for the LINK cells of the frames before it on its module. -/
def State.frameWaits (s : State) (e : Ev) : Bool := e.i == .sluiceFrame && s.pool.any (fun f => isLinkCell f.i && f.arg.t == e.arg.t)

/-- What a performed write to the MMIO map has started, and an access to the map: they take effect in the order in which the writes were
performed (R92, R348, R350). -/
def isRegEvent (e : Ev) : Bool :=
  match e.i with
  | .doorbell | .errorBankClear | .launchCancel | .wakeDescriptor | .mcJoinDescriptor | .mcLeaveDescriptor => true
  | .packageReset => e.arg.v == 1
  | .liveMigration => e.arg.ok
  | .checkpointSweep => e.arg.ok
  | .invRange | .invAsid | .invAll => !evIsMsg e
  | _ => false
def isRegAccess (e : Ev) : Bool :=
  match e.i with
  | .hostBarWrite | .hostBarRead => e.arg.k != 2
  | .rd | .wr => spaceOf e.arg.msg.pa == 5
  | .descriptorPiece => true
  | _ => false
def regFollows (e f : Ev) : Bool := isRegEvent f && (isRegEvent e || isRegAccess e)

/-- May the event at place n of the pool be performed now? -/
def State.takeable (s : State) (n : Nat) : Bool :=
  match s.pool[n]? with
  | none => false
  | some e => (s.pool.take n).all (fun f => !s.evFollows e f && !hostFollows e f && !regFollows e f) && s.inOrder e && !s.behindHeld e && !s.hostWaits e && !s.frameWaits e

/-- The event the agenda's choice n performs: that one, or the oldest that may be performed; none where all wait. -/
def State.choose (s : State) (n : Nat) : Option Nat :=
  if s.takeable n then some n else (List.range s.pool.length).find? (fun i => s.takeable i)

/-- Events that a tile carries out in the cycle they fall due, before it issues again. -/
def promptEv (e : Ev) : Bool :=
  match e.i with
  | .branchResolve | .timerExpire | .lockTimeout | .visitorQuantum | .visitorSlotFree | .blockCleared => true
  | _ => false
/-- The first such event of the tiles `mine`. -/
def State.prompt (s : State) (mine : Nat → Bool) : Option Nat :=
  (List.range s.pool.length).find? (fun i => (s.pool[i]?).any (fun e => promptEv e && mine e.arg.t))

/-- The first tile that can issue now. -/
def State.firstTile (s : State) (mine : Nat → Bool) : Option (Nat × Nat) :=
  s.tiles.findSome? (fun p => if mine p.1 then (s.canIssue p.1).map (fun k => (p.1, k)) else none)

end Sys2Proof.Machine
end

