-- ==== Sys2Proof/Machine/Scalar.lean ====
section
/-! DEFINITION. Scalar integer instructions, compares, bit fields, branches and jumps (R209-R222), and the divider. -/

namespace Sys2Proof.Machine
open Sys2Proof

/-! ### Shapes -/

/-- Two sources, a result at commit (R209). -/
def alu2 (i : Instr) (d : Reg) (a b : Src) (f : Word → Word → Word) (s : State) : M State := do
  enter i .scalar false 0 s
  let x ← readSrc i [a, b] a.r s
  let y ← readSrc i [a, b] b.r s
  destReady d s
  .ok (commitWith [a, b] d (f x y) s)

def alu1 (i : Instr) (d : Reg) (a : Src) (f : Word → Word) (s : State) : M State := do
  enter i .scalar false 0 s
  let x ← readSrc i [a] a.r s
  destReady d s
  .ok (commitWith [a] d (f x) s)

def alu0 (i : Instr) (d : Reg) (v : Word) (s : State) : M State := do
  enter i .scalar false 0 s
  destReady d s
  .ok (commitWith [] d v s)

/-- A source field for a register read in mode 00 without a mode field (R217, R219, R225). -/
def plain (r : Reg) : Src := ⟨r, 0⟩

def sx13 (imm : BitVec 13) : Word := imm.signExtend 32
def sx10 (imm : BitVec 10) : Word := imm.signExtend 32
/-- A signed word offset in bytes (R178). -/
def off20 (imm : BitVec 20) : Word := imm.signExtend 32 <<< 2
def off14 (imm : BitVec 14) : Word := imm.signExtend 32 <<< 2

/-! ### Results (R211-R219) -/

def sat32 (x : Int) : Word := BitVec.ofInt 32 (max (-(2 ^ 31)) (min x (2 ^ 31 - 1)))

/-- R212. -/
def divS (a b : Word) : Word :=
  if b = 0 then (if 0 < a.toInt then 0x7FFFFFFF else if a.toInt < 0 then 0x80000000 else 0)
  else if a = 0x80000000 ∧ b = 0xFFFFFFFF then 0x7FFFFFFF else BitVec.ofInt 32 (a.toInt.tdiv b.toInt)
def divU (a b : Word) : Word :=
  if b = 0 then (if a = 0 then 0 else 0xFFFFFFFF) else BitVec.ofNat 32 (a.toNat / b.toNat)
def remS (a b : Word) : Word :=
  if b = 0 then a else if a = 0x80000000 ∧ b = 0xFFFFFFFF then 0 else BitVec.ofInt 32 (a.toInt.tmod b.toInt)
def remU (a b : Word) : Word := if b = 0 then a else BitVec.ofNat 32 (a.toNat % b.toNat)

def countLead : Nat → Word → Nat
  | 0, _ => 0
  | n + 1, w => if wbit w n then 0 else 1 + countLead n w
def countTrail : Nat → Word → Nat
  | 0, _ => 0
  | n + 1, w => if wbit w (31 - n) then 0 else 1 + countTrail n w
def countOnes : Nat → Word → Nat
  | 0, _ => 0
  | n + 1, w => b2n (wbit w n) + countOnes n w
/-- Bits of w from bit n-1 down become bits 32-n upward. -/
def reverseBits : Nat → Word → Nat
  | 0, _ => 0
  | n + 1, w => b2n (wbit w n) * 2 ^ (31 - n) + reverseBits n w
def swapBytes (w : Word) : Word :=
  BitVec.ofNat 32 (wfld w 0 8 * 2 ^ 24 + wfld w 8 8 * 2 ^ 16 + wfld w 16 8 * 2 ^ 8 + wfld w 24 8)

def extractU (x : Word) (p w : BitVec 5) : Word := BitVec.ofNat 32 (wfld x p.toNat (w.toNat + 1))
def extractS (x : Word) (p w : BitVec 5) : Word := BitVec.ofInt 32 (sgn (w.toNat + 1) (wfld x p.toNat (w.toNat + 1)))
def insertF (old x : Word) (p w : BitVec 5) : Word := wput old p.toNat (w.toNat + 1) x.toNat

/-! ### Integer register forms (R211) -/

def execAdd (d : Reg) (a b : Src) (s : State) : Out := finish (alu2 (.add d a b) d a b (fun x y => x + y) s)
def execSub (d : Reg) (a b : Src) (s : State) : Out := finish (alu2 (.sub d a b) d a b (fun x y => x - y) s)
def execAnd (d : Reg) (a b : Src) (s : State) : Out := finish (alu2 (.and d a b) d a b (fun x y => x &&& y) s)
def execOr (d : Reg) (a b : Src) (s : State) : Out := finish (alu2 (.or d a b) d a b (fun x y => x ||| y) s)
def execXor (d : Reg) (a b : Src) (s : State) : Out := finish (alu2 (.xor d a b) d a b (fun x y => x ^^^ y) s)
def execAndn (d : Reg) (a b : Src) (s : State) : Out := finish (alu2 (.andn d a b) d a b (fun x y => x &&& ~~~y) s)
def execSll (d : Reg) (a b : Src) (s : State) : Out := finish (alu2 (.sll d a b) d a b (fun x y => x <<< wfld y 0 5) s)
def execSrl (d : Reg) (a b : Src) (s : State) : Out := finish (alu2 (.srl d a b) d a b (fun x y => x >>> wfld y 0 5) s)
def execSra (d : Reg) (a b : Src) (s : State) : Out := finish (alu2 (.sra d a b) d a b (fun x y => x.sshiftRight (wfld y 0 5)) s)
def execRol (d : Reg) (a b : Src) (s : State) : Out := finish (alu2 (.rol d a b) d a b (fun x y => x.rotateLeft (wfld y 0 5)) s)
def execRor (d : Reg) (a b : Src) (s : State) : Out := finish (alu2 (.ror d a b) d a b (fun x y => x.rotateRight (wfld y 0 5)) s)
def execMul (d : Reg) (a b : Src) (s : State) : Out := finish (alu2 (.mul d a b) d a b (fun x y => x * y) s)
def execMulh (d : Reg) (a b : Src) (s : State) : Out := finish (alu2 (.mulh d a b) d a b (fun x y => BitVec.ofInt 32 (x.toInt * y.toInt / 2 ^ 32)) s)
def execMulhu (d : Reg) (a b : Src) (s : State) : Out := finish (alu2 (.mulhu d a b) d a b (fun x y => BitVec.ofNat 32 (x.toNat * y.toNat / 2 ^ 32)) s)
def execMin (d : Reg) (a b : Src) (s : State) : Out := finish (alu2 (.min d a b) d a b (fun x y => if x.toInt ≤ y.toInt then x else y) s)
def execMax (d : Reg) (a b : Src) (s : State) : Out := finish (alu2 (.max d a b) d a b (fun x y => if x.toInt ≤ y.toInt then y else x) s)
def execMinu (d : Reg) (a b : Src) (s : State) : Out := finish (alu2 (.minu d a b) d a b (fun x y => if x.toNat ≤ y.toNat then x else y) s)
def execMaxu (d : Reg) (a b : Src) (s : State) : Out := finish (alu2 (.maxu d a b) d a b (fun x y => if x.toNat ≤ y.toNat then y else x) s)
def execAdds (d : Reg) (a b : Src) (s : State) : Out := finish (alu2 (.adds d a b) d a b (fun x y => sat32 (x.toInt + y.toInt)) s)
def execSubs (d : Reg) (a b : Src) (s : State) : Out := finish (alu2 (.subs d a b) d a b (fun x y => sat32 (x.toInt - y.toInt)) s)

/-! ### The divider (R210, R212) -/

/-- May this slot start a divide now? The divider is idle and not kept for another slot that still waits. -/
def Tile.divFree (T : Tile) (k : Nat) : Bool :=
  T.div.isNone &&
  (match T.divRes with
   | none => true
   | some j => j == k || !((T.slot j).occ != .free && ((T.slot j).run == .ready || (T.slot j).run == .blocked .divider)))

/-- Start a divide, whose result commits when the divider finishes. -/
def startDivide (i : Instr) (srcs : List Src) (d : Reg) (v flags rngs : Word) (s : State) : M State :=
  let T := s.tile s.cur.1
  if !T.divFree s.cur.2 then .error (s.block .divider)
  else
    let op : DivOp := ⟨s.cur.2, i, d.toNat, srcs, v, flags, rngs⟩
    .ok (((s.setTile s.cur.1 { T with div := some op, divRes := none }).block .dividing).emit (evT .dividerDone s.cur.1))

def divide (i : Instr) (d : Reg) (a b : Src) (f : Word → Word → Word) (s : State) : M State := do
  enter i .scalar false 0 s
  let x ← readSrc i [a, b] a.r s
  let y ← readSrc i [a, b] b.r s
  destReady d s
  startDivide i [a, b] d (f x y) 0 s.th.rngs s

def execDiv (d : Reg) (a b : Src) (s : State) : Out := finish (divide (.div d a b) d a b divS s)
def execDivu (d : Reg) (a b : Src) (s : State) : Out := finish (divide (.divu d a b) d a b divU s)
def execRem (d : Reg) (a b : Src) (s : State) : Out := finish (divide (.rem d a b) d a b remS s)
def execRemu (d : Reg) (a b : Src) (s : State) : Out := finish (divide (.remu d a b) d a b remU s)

/-- The divide commits; the divider reserves itself for the next waiting slot (R210). After slot 7 the order begins at slot 0. -/
def dividerDone (s : State) : State :=
  let t := s.arg.t
  let T := s.tile t
  match T.div with
  | none => s
  | some op =>
    let s1 := { s.setTile t { T with div := none, divLast := if op.slot < 7 then op.slot else 6 } with cur := (t, op.slot) }
    ((commitWith op.srcs (BitVec.ofNat 5 op.rd) op.result s1).modTh (fun h =>
      { h with st := h.st ||| op.flags, rngs := op.rngs, run := .ready })).divFreed t |>.quantumOut t op.slot
def execDividerDone (s : State) : Out := .next (dividerDone s)

/-! ### Immediate and upper-immediate forms (R213-R215) -/

def execAddi (d : Reg) (a : Src) (imm : BitVec 13) (s : State) : Out := finish (alu1 (.addi d a imm) d a (fun x => x + sx13 imm) s)
def execSlli (d : Reg) (a : Src) (c : BitVec 5) (s : State) : Out := finish (alu1 (.slli d a c) d a (fun x => x <<< c.toNat) s)
def execSrli (d : Reg) (a : Src) (c : BitVec 5) (s : State) : Out := finish (alu1 (.srli d a c) d a (fun x => x >>> c.toNat) s)
def execSrai (d : Reg) (a : Src) (c : BitVec 5) (s : State) : Out := finish (alu1 (.srai d a c) d a (fun x => x.sshiftRight c.toNat) s)
def execRori (d : Reg) (a : Src) (c : BitVec 5) (s : State) : Out := finish (alu1 (.rori d a c) d a (fun x => x.rotateRight c.toNat) s)
def execLui (d : Reg) (imm : BitVec 20) (s : State) : Out := finish (alu0 (.lui d imm) d (imm.zeroExtend 32 <<< 12) s)
def execAddpc (d : Reg) (imm : BitVec 20) (s : State) : Out := finish (alu0 (.addpc d imm) d (s.th.pc + off20 imm) s)

/-! ### Compare and select (R216, R217) -/

def execSeq (d : Reg) (a b : Src) (s : State) : Out := finish (alu2 (.seq d a b) d a b (fun x y => b2w (x == y)) s)
def execSne (d : Reg) (a b : Src) (s : State) : Out := finish (alu2 (.sne d a b) d a b (fun x y => b2w (x != y)) s)
def execSlt (d : Reg) (a b : Src) (s : State) : Out := finish (alu2 (.slt d a b) d a b (fun x y => b2w (decide (x.toInt < y.toInt))) s)
def execSltu (d : Reg) (a b : Src) (s : State) : Out := finish (alu2 (.sltu d a b) d a b (fun x y => b2w (decide (x.toNat < y.toNat))) s)
def execSeqi (d : Reg) (a : Src) (imm : BitVec 10) (s : State) : Out := finish (alu1 (.seqi d a imm) d a (fun x => b2w (x == sx10 imm)) s)
def execSnei (d : Reg) (a : Src) (imm : BitVec 10) (s : State) : Out := finish (alu1 (.snei d a imm) d a (fun x => b2w (x != sx10 imm)) s)
def execSlti (d : Reg) (a : Src) (imm : BitVec 10) (s : State) : Out := finish (alu1 (.slti d a imm) d a (fun x => b2w (decide (x.toInt < (sx10 imm).toInt))) s)
def execSltui (d : Reg) (a : Src) (imm : BitVec 10) (s : State) : Out := finish (alu1 (.sltui d a imm) d a (fun x => b2w (decide (x.toNat < (sx10 imm).toNat))) s)
def execSgti (d : Reg) (a : Src) (imm : BitVec 10) (s : State) : Out := finish (alu1 (.sgti d a imm) d a (fun x => b2w (decide ((sx10 imm).toInt < x.toInt))) s)
def execSgtui (d : Reg) (a : Src) (imm : BitVec 10) (s : State) : Out := finish (alu1 (.sgtui d a imm) d a (fun x => b2w (decide ((sx10 imm).toNat < x.toNat))) s)

/-- R217: gc, rs1 and rs2 are all read, whichever is selected. -/
def select (i : Instr) (d : Reg) (a b : Src) (c : Reg) (whenZero : Bool) (s : State) : M State := do
  enter i .scalar false 0 s
  let srcs := [a, b, plain c]
  let z ← readSrc i srcs c s
  let x ← readSrc i srcs a.r s
  let y ← readSrc i srcs b.r s
  destReady d s
  .ok (commitWith srcs d (if (z == 0) == whenZero then x else y) s)
def execSelnz (d : Reg) (a b : Src) (c : Reg) (s : State) : Out := finish (select (.selnz d a b c) d a b c false s)
def execSeleqz (d : Reg) (a b : Src) (c : Reg) (s : State) : Out := finish (select (.seleqz d a b c) d a b c true s)

/-! ### Bit counting, byte manipulation and bit fields (R218, R219) -/

def execClz (d : Reg) (a : Src) (s : State) : Out := finish (alu1 (.clz d a) d a (fun x => BitVec.ofNat 32 (countLead 32 x)) s)
def execCtz (d : Reg) (a : Src) (s : State) : Out := finish (alu1 (.ctz d a) d a (fun x => BitVec.ofNat 32 (countTrail 32 x)) s)
def execPopc (d : Reg) (a : Src) (s : State) : Out := finish (alu1 (.popc d a) d a (fun x => BitVec.ofNat 32 (countOnes 32 x)) s)
def execBrev (d : Reg) (a : Src) (s : State) : Out := finish (alu1 (.brev d a) d a (fun x => BitVec.ofNat 32 (reverseBits 32 x)) s)
def execBswap (d : Reg) (a : Src) (s : State) : Out := finish (alu1 (.bswap d a) d a (fun x => swapBytes x) s)
def execSextb (d : Reg) (a : Src) (s : State) : Out := finish (alu1 (.sextb d a) d a (fun x => BitVec.ofInt 32 (sgn 8 x.toNat)) s)
def execSexth (d : Reg) (a : Src) (s : State) : Out := finish (alu1 (.sexth d a) d a (fun x => BitVec.ofInt 32 (sgn 16 x.toNat)) s)
def execZexth (d : Reg) (a : Src) (s : State) : Out := finish (alu1 (.zexth d a) d a (fun x => BitVec.ofNat 32 (wfld x 0 16)) s)
def execExtu (d : Reg) (a : Src) (p w : BitVec 5) (s : State) : Out := finish (alu1 (.extu d a p w) d a (fun x => extractU x p w) s)
def execExts (d : Reg) (a : Src) (p w : BitVec 5) (s : State) : Out := finish (alu1 (.exts d a p w) d a (fun x => extractS x p w) s)

/-- INS reads rd in mode 00; a channel register there is ILL at issue (R219). -/
def insertBits (i : Instr) (d : Reg) (a : Src) (p w : BitVec 5) (s : State) : M State := do
  enter i .scalar false 0 s
  if s.th.isChan d.toNat && !s.th.isVisitor then .error (s.trap tILL 1 (insnWord i))
  else
    let srcs := [a, plain d]
    let x ← readSrc i srcs a.r s
    let old ← readSrc i srcs d s
    destReady d s
    .ok (commitWith srcs d (insertF old x p w) s)
def execIns (d : Reg) (a : Src) (p w : BitVec 5) (s : State) : Out := finish (insertBits (.ins d a p w) d a p w s)

/-! ### Branches and jumps (R220-R222) -/

/-- The conditions of R220, by cond code. -/
def condHolds (cond : Nat) (v : Word) : Bool :=
  match cond with
  | 0 => v == 0
  | 1 => v != 0
  | 2 => wbit v 31
  | 3 => !wbit v 31
  | 4 => decide (0 < v.toInt)
  | _ => decide (v.toInt ≤ 0)

/-- Commit of a branch: sources consumed, PC to the target or on (R220). -/
def commitBranch (srcs : List Src) (taken : Bool) (target : Word) (s : State) : State :=
  (consume srcs s).modTh (fun h => h.commitAt (if taken then target else h.pc + 4))

/-- May this slot predict a branch on register r (R161, R221)? -/
def State.predicts (s : State) (a : Src) : Bool :=
  let h := s.th
  wbit (s.tile s.cur.1).lamask s.cur.2 && h.shadow.isNone && a.m == 0 &&
  !h.isChan a.r.toNat && !h.isFull a.r.toNat && wbit h.prod a.r.toNat

/-- Start a predicted path: the architectural registers are put aside (R161). -/
def Slot.predict (h : Slot) (r cond : Nat) (taken : Bool) (target : Word) : Slot :=
  let sh : Shadow := ⟨r, cond, taken, target, h.pc + 4, h.g, h.fe, h.prod, h.poison, h.st, h.pfx, h.rngs, h.instret, h.quantum⟩
  { h with shadow := some sh, pc := if taken then target else h.pc + 4, st := wsetb h.st 15 true }

/-- A branch on a value (R220): conditions 0 to 5. -/
def branch (i : Instr) (cond : Nat) (a : Src) (imm : BitVec 14) (p : BitVec 1) (s : State) : M State := do
  enter i .scalar false 0 s
  let target := s.th.pc + off14 imm
  if s.predicts a then .ok (s.modTh (fun h => h.predict a.r.toNat cond (p == 1) target))
  else
    let v ← readSrc i [a] a.r s
    .ok (commitBranch [a] (condHolds cond v) target s)

/-- The full bit as it stands (R158, R220). -/
def State.fullBit (s : State) (r : Reg) : Bool :=
  if s.th.isChan r.toNat then !(s.fifo s.cur.1 (chanOf s.cur.2 r.toNat)).isEmpty else s.th.isFull r.toNat

/-- BFULL and BEMPTY read no value and wait for nothing (R220). -/
def branchFull (i : Instr) (want : Bool) (a : Reg) (imm : BitVec 14) (s : State) : M State := do
  enter i .scalar false 0 s
  if s.th.isChan a.toNat && s.th.isVisitor then .error (if s.th.shadow.isSome then s.block .predicted else s.goHome)
  else .ok (commitBranch [] (s.fullBit a == want) (s.th.pc + off14 imm) s)

def execBeqz (a : Src) (imm : BitVec 14) (p : BitVec 1) (s : State) : Out := finish (branch (.beqz a imm p) 0 a imm p s)
def execBnez (a : Src) (imm : BitVec 14) (p : BitVec 1) (s : State) : Out := finish (branch (.bnez a imm p) 1 a imm p s)
def execBltz (a : Src) (imm : BitVec 14) (p : BitVec 1) (s : State) : Out := finish (branch (.bltz a imm p) 2 a imm p s)
def execBgez (a : Src) (imm : BitVec 14) (p : BitVec 1) (s : State) : Out := finish (branch (.bgez a imm p) 3 a imm p s)
def execBgtz (a : Src) (imm : BitVec 14) (p : BitVec 1) (s : State) : Out := finish (branch (.bgtz a imm p) 4 a imm p s)
def execBlez (a : Src) (imm : BitVec 14) (p : BitVec 1) (s : State) : Out := finish (branch (.blez a imm p) 5 a imm p s)
def execBfull (a : Reg) (imm : BitVec 14) (p : BitVec 1) (s : State) : Out := finish (branchFull (.bfull a imm p) true a imm s)
def execBempty (a : Reg) (imm : BitVec 14) (p : BitVec 1) (s : State) : Out := finish (branchFull (.bempty a imm p) false a imm s)

/-- rd := PC + 4, then PC := target (R222). -/
def commitJump (srcs : List Src) (d : Reg) (target : Word) (s : State) : State :=
  (writeResult d (s.th.pc + 4) (consume srcs s)).modTh (fun h => h.commitAt target)

def jump (i : Instr) (d : Reg) (imm : BitVec 20) (s : State) : M State := do
  enter i .scalar false 0 s
  destReady d s
  .ok (commitJump [] d (s.th.pc + off20 imm) s)
def execJal (d : Reg) (imm : BitVec 20) (s : State) : Out := finish (jump (.jal d imm) d imm s)

def jumpReg (i : Instr) (d : Reg) (a : Src) (imm : BitVec 13) (s : State) : M State := do
  enter i .scalar false 0 s
  let x ← readSrc i [a] a.r s
  destReady d s
  .ok (commitJump [a] d (x + sx13 imm) s)
def execJalr (d : Reg) (a : Src) (imm : BitVec 13) (s : State) : Out := finish (jumpReg (.jalr d a imm) d a imm s)

end Sys2Proof.Machine
end

