-- ==== Sys2Proof/Machine/Fp.lean ====
section
/-! DEFINITION. Scalar FP32 instructions (R223-R226). -/

namespace Sys2Proof.Machine
open Sys2Proof

/-! ### Rounding in a slot (R198, R223) -/

/-- The generator after a rounding instruction: advanced once under code 5. -/
def Slot.nextRngs (h : Slot) : Word := if stRM h.st = 5 then xorshift h.rngs else h.rngs
/-- The rounding inputs of a scalar instruction. -/
def Slot.rnd (h : Slot) : RndEnv := ⟨stRM h.st, stSAT h.st, stFTZ h.st, srWord h.nextRngs⟩
def Slot.fp (h : Slot) (v : Word) : Num := fpRead 0 (stFTZ h.st) v.toNat
def Slot.isRd (h : Slot) : Bool := stRM h.st == 3

/-- Result, sticky flags and RNGS take effect at commit (R209). -/
def commitFp (srcs : List Src) (d : Reg) (v : Word) (flags : Word) (adv : Bool) (s : State) : State :=
  (commitWith srcs d v s).modTh (fun h => { h with st := h.st ||| flags, rngs := if adv then s.th.nextRngs else h.rngs })

/-- An exact result rounded to format f. -/
def roundRes (h : Slot) (f : Nat) (r : Num × Word) : Word × Word :=
  let q := roundFp f h.rnd r.1
  (BitVec.ofNat 32 q.bits, r.2 ||| q.flags)

/-! ### Shapes -/

/-- Two FP32 sources; `g` gives the result word and flags, `adv` whether RNGS advances under code 5. -/
def fp2 (i : Instr) (d : Reg) (a b : Src) (adv : Bool) (g : Slot → Word → Word → Word × Word) (s : State) : M State := do
  enter i .scalar false 0 s
  let x ← readSrc i [a, b] a.r s
  let y ← readSrc i [a, b] b.r s
  destReady d s
  let r := g s.th x y
  .ok (commitFp [a, b] d r.1 r.2 adv s)

def fp1 (i : Instr) (d : Reg) (a : Src) (adv : Bool) (g : Slot → Word → Word × Word) (s : State) : M State := do
  enter i .scalar false 0 s
  let x ← readSrc i [a] a.r s
  destReady d s
  let r := g s.th x
  .ok (commitFp [a] d r.1 r.2 adv s)

/-! ### Arithmetic (R224, R225) -/

def fpAdd (h : Slot) (x y : Word) : Word × Word := roundRes h 0 (numAdd h.isRd (h.fp x) (h.fp y))
def fpSub (h : Slot) (x y : Word) : Word × Word := roundRes h 0 (numSub h.isRd (h.fp x) (h.fp y))
def fpMul (h : Slot) (x y : Word) : Word × Word := roundRes h 0 (numMul (h.fp x) (h.fp y))
def fpDiv (h : Slot) (x y : Word) : Word × Word := roundRes h 0 (numDiv (h.fp x) (h.fp y))
def fpSqrt (h : Slot) (x : Word) : Word × Word := roundRes h 0 (numSqrt (h.fp x))
def fpFma (h : Slot) (sub : Bool) (x y z : Word) : Word × Word :=
  roundRes h 0 (numFma h.isRd (h.fp x) (h.fp y) (if sub then (h.fp z).flip else h.fp z))

def execFadd (d : Reg) (a b : Src) (s : State) : Out := finish (fp2 (.fadd d a b) d a b true fpAdd s)
def execFsub (d : Reg) (a b : Src) (s : State) : Out := finish (fp2 (.fsub d a b) d a b true fpSub s)
def execFmul (d : Reg) (a b : Src) (s : State) : Out := finish (fp2 (.fmul d a b) d a b true fpMul s)

/-- FDIV and FSQRT run on the tile divider (R210). -/
def fpDivide (i : Instr) (d : Reg) (a b : Src) (s : State) : M State := do
  enter i .scalar false 0 s
  let x ← readSrc i [a, b] a.r s
  let y ← readSrc i [a, b] b.r s
  destReady d s
  let r := fpDiv s.th x y
  startDivide i [a, b] d r.1 r.2 s.th.nextRngs s
def execFdiv (d : Reg) (a b : Src) (s : State) : Out := finish (fpDivide (.fdiv d a b) d a b s)
def fpRoot (i : Instr) (d : Reg) (a : Src) (s : State) : M State := do
  enter i .scalar false 0 s
  let x ← readSrc i [a] a.r s
  destReady d s
  let r := fpSqrt s.th x
  startDivide i [a] d r.1 r.2 s.th.nextRngs s
def execFsqrt (d : Reg) (a : Src) (s : State) : Out := finish (fpRoot (.fsqrt d a) d a s)

def fma (i : Instr) (sub : Bool) (d : Reg) (a b : Src) (c : Reg) (s : State) : M State := do
  enter i .scalar false 0 s
  let srcs := [a, b, plain c]
  let x ← readSrc i srcs a.r s
  let y ← readSrc i srcs b.r s
  let z ← readSrc i srcs c s
  destReady d s
  let r := fpFma s.th sub x y z
  .ok (commitFp srcs d r.1 r.2 true s)
def execFmadd (d : Reg) (a b : Src) (c : Reg) (s : State) : Out := finish (fma (.fmadd d a b c) false d a b c s)
def execFmsub (d : Reg) (a b : Src) (c : Reg) (s : State) : Out := finish (fma (.fmsub d a b c) true d a b c s)

/-! ### Selection and signs (R224): no rounding -/

/-- The FP32 code of a value that is one of two operands, or canonical NaN. A subnormal under FTZ was read as zero. -/
def pick2 (h : Slot) (x y : Word) (r : Num × Word) : Word × Word :=
  (if r.1.isNan then 0x7FC00000 else if r.1 = h.fp x then (if (h.fp x).isZero then x &&& 0x80000000 else x)
   else (if (h.fp y).isZero then y &&& 0x80000000 else y), r.2)
def fpMinMaxNum (big : Bool) (h : Slot) (x y : Word) : Word × Word := pick2 h x y (numMinMaxNum big (h.fp x) (h.fp y))
def fpMinMax (big : Bool) (h : Slot) (x y : Word) : Word × Word := pick2 h x y (numMinMax big (h.fp x) (h.fp y))
def execFmin (d : Reg) (a b : Src) (s : State) : Out := finish (fp2 (.fmin d a b) d a b false (fpMinMaxNum false) s)
def execFmax (d : Reg) (a b : Src) (s : State) : Out := finish (fp2 (.fmax d a b) d a b false (fpMinMaxNum true) s)
def execFminp (d : Reg) (a b : Src) (s : State) : Out := finish (fp2 (.fminp d a b) d a b false (fpMinMax false) s)
def execFmaxp (d : Reg) (a b : Src) (s : State) : Out := finish (fp2 (.fmaxp d a b) d a b false (fpMinMax true) s)

/-- |a| with a given sign; a NaN gives the canonical NaN, NV if signalling; under FTZ a subnormal reads as zero (R223). -/
def withSign (h : Slot) (x : Word) (neg : Bool) : Word × Word :=
  let v := h.fp x
  if v.isNan then (0x7FC00000, nvIf v.isSig)
  else (wsetb (if v.isZero then 0 else x) 31 neg, 0)
def execFcpys (d : Reg) (a b : Src) (s : State) : Out := finish (fp2 (.fcpys d a b) d a b false (fun h x y => withSign h x (wbit y 31)) s)
def execFneg (d : Reg) (a : Src) (s : State) : Out := finish (fp1 (.fneg d a) d a false (fun h x => withSign h x (!wbit x 31)) s)
def execFabs (d : Reg) (a : Src) (s : State) : Out := finish (fp1 (.fabs d a) d a false (fun h x => withSign h x false) s)
def execFxsgn (d : Reg) (a b : Src) (s : State) : Out := finish (fp2 (.fxsgn d a b) d a b false (fun h x y => withSign h x (wbit x 31 != wbit y 31)) s)

/-! ### Compares and classification (R226) -/

/-- A compare: false for NaN; NV for any NaN, or only for a signalling one when `quiet`. -/
def fpCmp (quiet : Bool) (rel : Int → Bool) (h : Slot) (x y : Word) : Word × Word :=
  let a := h.fp x
  let b := h.fp y
  if a.isNan || b.isNan then (0, nvIf (!quiet || a.isSig || b.isSig)) else (b2w (rel (a.cmp b)), 0)
def execFcmpeq (d : Reg) (a b : Src) (s : State) : Out := finish (fp2 (.fcmpeq d a b) d a b false (fpCmp true (fun c => c == 0)) s)
def execFcmplt (d : Reg) (a b : Src) (s : State) : Out := finish (fp2 (.fcmplt d a b) d a b false (fpCmp false (fun c => decide (c < 0))) s)
def execFcmple (d : Reg) (a b : Src) (s : State) : Out := finish (fp2 (.fcmple d a b) d a b false (fpCmp false (fun c => decide (c ≤ 0))) s)

/-- FCLASS reads the raw bits and ignores FTZ (R226). -/
def fpClass (x : Word) : Word :=
  let e := wfld x 23 8
  let m := wfld x 0 23
  let c := if e = 0 then (if m = 0 then 0 else 1) else if e = 255 then (if m = 0 then 3 else if wbit x 22 then 4 else 5) else 2
  BitVec.ofNat 32 (c + b2n (wbit x 31) * 16 + e * 32)
def execFclass (d : Reg) (a : Src) (s : State) : Out := finish (fp1 (.fclass d a) d a false (fun _ x => (fpClass x, 0)) s)

/-! ### Conversions (R226) -/

def fpToInt (h : Slot) (x : Word) : Word × Word :=
  match h.fp x with
  | .nan _ => (0, fNV)
  | .inf n => (if n then 0x80000000 else 0x7FFFFFFF, fNV)
  | v =>
    let (i, inexact) := roundInt h.rnd v
    if i < -(2 ^ 31) then (0x80000000, fNV) else if 2 ^ 31 - 1 < i then (0x7FFFFFFF, fNV)
    else (BitVec.ofInt 32 i, if inexact then fNX else 0)
def fpToUint (h : Slot) (x : Word) : Word × Word :=
  match h.fp x with
  | .nan _ => (0, fNV)
  | .inf n => (if n then 0 else 0xFFFFFFFF, fNV)
  | v =>
    let (i, inexact) := roundInt h.rnd v
    if i < 0 then (0, fNV) else if 2 ^ 32 - 1 < i then (0xFFFFFFFF, fNV)
    else (BitVec.ofInt 32 i, if inexact then fNX else 0)
/-- BFTOF and HTOF widen exactly (R226). -/
def fpWiden (f : Nat) (h : Slot) (x : Word) : Word × Word :=
  let v := fpRead f (stFTZ h.st) (x.toNat % 2 ^ 16)
  (BitVec.ofNat 32 (roundFp 0 ⟨0, false, false, 0⟩ v).bits, nvIf v.isSig)
def fpNarrow (f : Nat) (h : Slot) (x : Word) : Word × Word :=
  let v := h.fp x
  roundRes h f (v, nvIf v.isSig)
def execFtoi (d : Reg) (a : Src) (s : State) : Out := finish (fp1 (.ftoi d a) d a true fpToInt s)
def execFtou (d : Reg) (a : Src) (s : State) : Out := finish (fp1 (.ftou d a) d a true fpToUint s)
def execItof (d : Reg) (a : Src) (s : State) : Out := finish (fp1 (.itof d a) d a true (fun h x => roundRes h 0 (Num.ofInt x.toInt, 0)) s)
def execUtof (d : Reg) (a : Src) (s : State) : Out := finish (fp1 (.utof d a) d a true (fun h x => roundRes h 0 (Num.ofInt x.toNat, 0)) s)
def execFtobf (d : Reg) (a : Src) (s : State) : Out := finish (fp1 (.ftobf d a) d a true (fpNarrow 1) s)
def execFtoh (d : Reg) (a : Src) (s : State) : Out := finish (fp1 (.ftoh d a) d a true (fpNarrow 2) s)
def execBftof (d : Reg) (a : Src) (s : State) : Out := finish (fp1 (.bftof d a) d a false (fpWiden 1) s)
def execHtof (d : Reg) (a : Src) (s : State) : Out := finish (fp1 (.htof d a) d a false (fpWiden 2) s)

end Sys2Proof.Machine
end

