-- ==== Sys2Proof/Machine/Mem.lean ====
section
/-! DEFINITION. LEA, segment loads, loads, stores, atomics and FENCE (R227-R236): what the issuing tile does. The accesses
themselves are performed by the messages they send. -/

namespace Sys2Proof.Machine
open Sys2Proof

/-- The M-format offset (R227). -/
def mOff (x : Word) (imm : BitVec 8) (scale : Nat) : Nat := (x + imm.signExtend 32 * BitVec.ofNat 32 scale).toNat

/-! ### LEA and segment registers (R232, R233) -/

def leaScale (c : BitVec 2) : Nat := if c = 0 then 1 else if c = 1 then 4 else if c = 2 then 8 else 256

/-- LEA checks conditions 2 to 4 of R10 for one byte and writes the offset. -/
def lea (i : Instr) (d : Reg) (sg : BitVec 3) (a : Src) (c : BitVec 2) (imm : BitVec 8) (s : State) : M State := do
  enter i .scalar false 0 s
  let x ← readSrc i [a] a.r s
  destReady d s
  let off := mOff x imm (leaScale c)
  match segBounds (s.th.seg sg.toNat) s.th.spbase s.th.spsize off 1 with
  | .error e => .error (s.trap tSEG e (BitVec.ofNat 32 off))
  | .ok _ => .ok (commitWith [a] d (BitVec.ofNat 32 off) s)
def execLea (d : Reg) (sg : BitVec 3) (a : Src) (c : BitVec 2) (imm : BitVec 8) (s : State) : Out :=
  finish (lea (.lea d sg a c imm) d sg a c imm s)

/-- The part of a segment register that SEGRD reads (R233). -/
def segPart (g : Seg) (p : BitVec 2) : Word :=
  if p = 0 then BitVec.ofNat 32 g.base.toNat else if p = 1 then BitVec.ofNat 32 (g.base.toNat / 2 ^ 32)
  else if p = 2 then g.limit else BitVec.ofNat 32 g.rights
def segrd (i : Instr) (d : Reg) (sg : BitVec 3) (p : BitVec 2) (s : State) : M State := do
  enter i .memory false 0 s
  destReady d s
  .ok (commitWith [] d (segPart (s.th.seg sg.toNat) p) s)
def execSegrd (d : Reg) (sg : BitVec 3) (p : BitVec 2) (s : State) : Out := finish (segrd (.segrd d sg p) d sg p s)

/-! ### Loads (R230, R231) -/

/-- A poisoned register never leaves its slot (R326): the first one, if any. -/
def Slot.poisoned (h : Slot) : Option Nat := (List.range 32).find? (fun n => wbit h.poison n)

/-- The load moves the thread (R19, R51), unless a register is poisoned (R326). -/
def moveThread (dst pa la : Nat) (s : State) : State :=
  match s.th.poisoned with
  | some n => if s.th.isVisitor then s.beginMove dst pa la else s.trap tMCHK 1 (BitVec.ofNat 32 n)
  | none =>
    let lvl := ((s.tlbLookup s.cur.1 s.th.asid la 1).map (·.level)).getD 0
    let (t, k) := if s.th.isVisitor && ctxPkg s.th.origin == s.pkg then (ctxTile s.th.origin, ctxSlot s.th.origin) else s.cur
    (s.modSlot t k (fun h => { h with away := (la, lvl) })).beginMove dst pa la

/-- Where a load of n bytes at off through sn reaches memory: it moves the thread, waits behind the thread's own adaptive
write (R91), or is accepted. -/
def loadPlace (sn off n : Nat) (s : State) : M (P0 × State) := do
  let (p, s1) ← p0Place rLoad 1 sn off n 0 s
  match s1.loadGoes p.pa with
  | some dst => .error (moveThread dst p.pa p.la s1)
  | none => if s1.th.lineHeld (s1.tileEid s1.cur.1) p.pa then .error (s1.block .fence) else .ok (p, s1)

/-- A load commits when the port accepts it; its data come later (R88). -/
def load (i : Instr) (d : Reg) (sg : BitVec 3) (a : Src) (imm : BitVec 8) (size : Nat) (sx : Bool) (s : State) : M State := do
  enter i .memory false 0 s
  let x ← readSrc i [a] a.r s
  if size = 8 then destLaterPair i d s else destLater i d s
  let (p, s1) ← loadPlace sg.toNat (mOff x imm size) size s
  let s2 := (consume [a] s1).modTh (fun h => let h1 := h.markEmpty d.toNat; if size = 8 && d != 0 then h1.markEmpty (d.toNat + 1) else h1)
  let s3 := s2.p0Send .rd p.pa p.la size (.load d.toNat size sx) 0
  .ok ((s3.modTh (fun h => h.commit)).touchLocal p.pa)

def execLdw (d : Reg) (sg : BitVec 3) (a : Src) (imm : BitVec 8) (s : State) : Out := finish (load (.ldw d sg a imm) d sg a imm 4 false s)
def execLdh (d : Reg) (sg : BitVec 3) (a : Src) (imm : BitVec 8) (s : State) : Out := finish (load (.ldh d sg a imm) d sg a imm 2 true s)
def execLdhu (d : Reg) (sg : BitVec 3) (a : Src) (imm : BitVec 8) (s : State) : Out := finish (load (.ldhu d sg a imm) d sg a imm 2 false s)
def execLdb (d : Reg) (sg : BitVec 3) (a : Src) (imm : BitVec 8) (s : State) : Out := finish (load (.ldb d sg a imm) d sg a imm 1 true s)
def execLdbu (d : Reg) (sg : BitVec 3) (a : Src) (imm : BitVec 8) (s : State) : Out := finish (load (.ldbu d sg a imm) d sg a imm 1 false s)
def execLdp (d : Reg) (sg : BitVec 3) (a : Src) (imm : BitVec 8) (s : State) : Out := finish (load (.ldp d sg a imm) d sg a imm 8 false s)

/-- SEGLD is a 16-byte load that commits when its data arrive; until then the thread is blocked (R233). -/
def segLoad (i : Instr) (d sg : BitVec 3) (a : Src) (imm : BitVec 8) (s : State) : M State := do
  enter i .memory false 0 s
  let x ← readSrc i [a] a.r s
  let (p, s1) ← loadPlace sg.toNat (mOff x imm 16) 16 s
  .ok (((s1.p0Send .rd p.pa p.la 16 (.segld d.toNat sg.toNat a.r.toNat a.m.toNat) 0).block .answer).touchLocal p.pa)
def execSegld (d sg : BitVec 3) (a : Src) (imm : BitVec 8) (s : State) : Out := finish (segLoad (.segld d sg a imm) d sg a imm s)

/-! ### Stores (R230, R231) -/

/-- The value of a pair source (R229). -/
def readPair (i : Instr) (srcs : List Src) (a : Src) (s : State) : M DWord := do
  let lo ← readSrc i srcs a.r s
  if a.r = 0 then .ok 0
  else
    let hi ← readSrc i srcs (a.r + 1) s
    .ok (hi ++ lo)

/-- A store: posted to the home when the port accepts it. -/
def store (i : Instr) (t : Src) (sg : BitVec 3) (a : Src) (imm : BitVec 8) (size : Nat) (s : State) : M State := do
  enter i .memory false 0 s
  let srcs := (if size = 8 then srcPair t else [t]) ++ [a]
  let v ← (if size = 8 then readPair i srcs t s else do
    let w ← readSrc i srcs t.r s
    .ok (BitVec.ofNat 64 (w.toNat % 2 ^ (8 * size))))
  let x ← readSrc i srcs a.r s
  let (p, s1) ← p0Place rStore 2 sg.toNat (mOff x imm size) size 0 s
  if s1.th.lineHeld (s1.tileEid s1.cur.1) p.pa then .error (s1.block .fence)
  else .ok ((((consume srcs s1).p0Send .wr p.pa p.la size (.store size) v).modTh (fun h => h.commit)).touchLocal p.pa)

def execStw (t : Src) (sg : BitVec 3) (a : Src) (imm : BitVec 8) (s : State) : Out := finish (store (.stw t sg a imm) t sg a imm 4 s)
def execSth (t : Src) (sg : BitVec 3) (a : Src) (imm : BitVec 8) (s : State) : Out := finish (store (.sth t sg a imm) t sg a imm 2 s)
def execStb (t : Src) (sg : BitVec 3) (a : Src) (imm : BitVec 8) (s : State) : Out := finish (store (.stb t sg a imm) t sg a imm 1 s)
def execStp (t : Src) (sg : BitVec 3) (a : Src) (imm : BitVec 8) (s : State) : Out := finish (store (.stp t sg a imm) t sg a imm 8 s)

/-! ### Atomics (R234, R235) -/

/-- New value of an atomic; op 0-7 as fn of R234, 11 SWAP, 12 CAS, and 16 more for `.C`. -/
def atomicOp (op : Nat) (old v e : Word) : Word :=
  match op % 16 with
  | 0 => old + v
  | 1 => old &&& v
  | 2 => old ||| v
  | 3 => old ^^^ v
  | 4 => if old.toInt ≤ v.toInt then old else v
  | 5 => if old.toInt ≤ v.toInt then v else old
  | 6 => if old.toNat ≤ v.toNat then old else v
  | 7 => if old.toNat ≤ v.toNat then v else old
  | 12 => if old = e then v else old
  | _ => v

/-- An atomic asks the home for a reservation; posted when rd is g0. CAS also reads rd in mode 00. A `.C` one (op + 16) changes which
orders are allowed, not what one atomic does (R100); none is merged (log entry 51). -/
def atomic (i : Instr) (op : Nat) (d : Reg) (sg : BitVec 3) (a b : Src) (s : State) : M State := do
  enter i .memory false 0 s
  let srcs := if op = 12 then [a, b, plain d] else [a, b]
  let x ← readSrc i srcs a.r s
  let v ← readSrc i srcs b.r s
  let e ← (if op = 12 then readSrc i srcs d s else .ok 0)
  destLater i d s
  let (p, s1) ← p0Place rAtomic 3 sg.toNat x.toNat 4 op s
  if s1.th.lineHeld (s1.tileEid s1.cur.1) p.pa then .error (s1.block .fence)
  else
    let s2 := (consume srcs s1).modTh (fun h => h.markEmpty d.toNat)
    let s3 := s2.p0Send .rsv p.pa p.la 4 (.atomic d.toNat op v e) 0
    .ok ((s3.modTh (fun h => h.commit)).touchLocal p.pa)

def execAadd (d : Reg) (sg : BitVec 3) (a b : Src) (s : State) : Out := finish (atomic (.aadd d sg a b) 0 d sg a b s)
def execAaddC (d : Reg) (sg : BitVec 3) (a b : Src) (s : State) : Out := finish (atomic (.aaddC d sg a b) 16 d sg a b s)
def execAand (d : Reg) (sg : BitVec 3) (a b : Src) (s : State) : Out := finish (atomic (.aand d sg a b) 1 d sg a b s)
def execAandC (d : Reg) (sg : BitVec 3) (a b : Src) (s : State) : Out := finish (atomic (.aandC d sg a b) 17 d sg a b s)
def execAor (d : Reg) (sg : BitVec 3) (a b : Src) (s : State) : Out := finish (atomic (.aor d sg a b) 2 d sg a b s)
def execAorC (d : Reg) (sg : BitVec 3) (a b : Src) (s : State) : Out := finish (atomic (.aorC d sg a b) 18 d sg a b s)
def execAxor (d : Reg) (sg : BitVec 3) (a b : Src) (s : State) : Out := finish (atomic (.axor d sg a b) 3 d sg a b s)
def execAxorC (d : Reg) (sg : BitVec 3) (a b : Src) (s : State) : Out := finish (atomic (.axorC d sg a b) 19 d sg a b s)
def execAmin (d : Reg) (sg : BitVec 3) (a b : Src) (s : State) : Out := finish (atomic (.amin d sg a b) 4 d sg a b s)
def execAminC (d : Reg) (sg : BitVec 3) (a b : Src) (s : State) : Out := finish (atomic (.aminC d sg a b) 20 d sg a b s)
def execAmax (d : Reg) (sg : BitVec 3) (a b : Src) (s : State) : Out := finish (atomic (.amax d sg a b) 5 d sg a b s)
def execAmaxC (d : Reg) (sg : BitVec 3) (a b : Src) (s : State) : Out := finish (atomic (.amaxC d sg a b) 21 d sg a b s)
def execAminu (d : Reg) (sg : BitVec 3) (a b : Src) (s : State) : Out := finish (atomic (.aminu d sg a b) 6 d sg a b s)
def execAminuC (d : Reg) (sg : BitVec 3) (a b : Src) (s : State) : Out := finish (atomic (.aminuC d sg a b) 22 d sg a b s)
def execAmaxu (d : Reg) (sg : BitVec 3) (a b : Src) (s : State) : Out := finish (atomic (.amaxu d sg a b) 7 d sg a b s)
def execAmaxuC (d : Reg) (sg : BitVec 3) (a b : Src) (s : State) : Out := finish (atomic (.amaxuC d sg a b) 23 d sg a b s)
def execSwap (d : Reg) (sg : BitVec 3) (a b : Src) (s : State) : Out := finish (atomic (.swap d sg a b) 11 d sg a b s)
def execCas (d : Reg) (sg : BitVec 3) (a b : Src) (s : State) : Out := finish (atomic (.cas d sg a b) 12 d sg a b s)

/-! ### FENCE (R94-R97, R236) -/

def Copy.reg (c : Copy) (n : Nat) : Nat := (mget 0 c.regs n).toNat
def Copy.ctl (c : Copy) (lo n : Nat) : Nat := nfld (c.reg 0) lo n
def Copy.cwen (c : Copy) : Bool := (c.reg 0).testBit 2
def Copy.ndim (c : Copy) : Nat := c.ctl 4 4 + 1
def Copy.count (c : Copy) (j : Nat) : Nat := c.reg (16 + j)
/-- Iteration bytes of the whole copy. -/
def Copy.total (c : Copy) : Nat := (List.range c.ndim).foldl (fun a j => a * c.count j) 1

/-- Can a copy, or a command, still make an access it has not made? One whose steps are done, or that ends in an error, makes none but its
completion post and arrivals; the accesses it has out are judged by themselves. -/
def Copy.toGo (c : Copy) : Bool := c.cwen || (c.err == 0 && (decide (c.k < c.total) || !c.again.isEmpty))
def EngCmd.toGo (c : EngCmd) : Bool := (c.err == 0 && !c.done) || c.op == 2 || (mget 0 c.regs 0).getLsbD (if c.op < 256 then 3 else 15)

/-- Has the thread of slot k of tile t a command on an engine path of the mask that could still make an access in the scope (R95)? Until
it is translated an access counts as in scope. A tile task is a command of the thread that put it (R86). -/
def State.pathBusy (s : State) (t k mask scope judge : Nat) : Bool :=
  let T := s.tile t
  let ctx := s.ctxName t k
  let mine (c : Copy) : Bool := c.slot == k && c.toGo
  let lad (ch : Nat) : Bool :=
    let L := mget {} T.ladles ch
    (match L.active with
     | some c => mine c
     | none => false) || L.waiting.any mine
  (mask.testBit 1 && (lad 0 || lad 1)) ||
  (mask.testBit 2 && T.mq.any (fun c => c.slot == k && c.toGo)) ||
  (mask.testBit 3 && T.vq.any (fun c => c.slot == k && c.toGo)) ||
  (mask.testBit 2 && (s.dies.any (fun d => d.2.tasks.any (fun q => q.2.ctx == ctx)) || s.tiles.any (fun p => p.2.mq.any (fun c => c.slot == 8 && c.ctx == ctx && c.toGo)))) ||
  (mask.testBit 2 && s.tiles.any (fun p => (p.2.slot 7).pend.any (fun q => q.kind == .cw ctx && s.inScope judge scope q.pa))) ||
  (mask.testBit 5 && s.dies.any (fun d => d.2.copyq.any (fun c => c.2.ctx == ctx && c.2.toGo) || d.2.outs.any (fun o => o.path == 5 && o.ctx == ctx && s.inScope judge scope o.pa))) ||
  (mask.testBit 7 && s.dies.any (fun d => d.2.net.any (fun r => r.ctx == ctx && !r.sent)))

/-- Accesses of one slot that a FENCE still waits for. A multicast store is waited for until stamped below DOMAIN scope,
and until applied at every member from there on (R95). -/
def State.slotWaits (s : State) (t k mask scope judge : Nat) : Bool :=
  (s.slot t k).pend.any (fun p => mask.testBit p.path &&
    (match p.kind with
     | .mcast _ stamped => !stamped || decide (4 ≤ scope)
     | .cw c => c == s.ctxName t k && s.inScope judge scope p.pa
     | _ => s.inScope judge scope p.pa)) || s.pathBusy t k mask scope judge

/-- Everything a FENCE of the issuing thread waits for, wherever the thread made the access (R54, R95). -/
def State.fenceWaits (s : State) (mask scope : Nat) : Bool :=
  s.slotWaits s.cur.1 s.cur.2 mask scope s.cur.1 ||
  (s.th.isVisitor && ctxPkg s.th.origin == s.pkg && s.slotWaits (ctxTile s.th.origin) (ctxSlot s.th.origin) mask scope s.cur.1)

/-- The FENCE that an instruction performs before it commits (R104, R157). -/
def fenceFirst (mask scope : Nat) (s : State) : M Unit :=
  if !s.th.cbuf.isEmpty || s.fenceWaits mask scope then .error (s.block (.implicit mask scope)) else .ok ()

def fence (i : Instr) (c : BitVec 3) (p : BitVec 8) (s : State) : M State := do
  enter i .memory false 0 s
  if !s.th.cbuf.isEmpty || s.fenceWaits p.toNat c.toNat then .error (s.block (.fencing p.toNat c.toNat))
  else .ok (commitPlain [] s)
def execFence (c : BitVec 3) (p : BitVec 8) (s : State) : Out := finish (fence (.fence c p) c p s)

end Sys2Proof.Machine
end

