-- ==== Sys2Proof/Machine/Deliver.lean ====
section
/-! DEFINITION. What every receiver of a message does first: forwarding for a crew that left its tile (R333, R334),
reservations (R99), requests left in a REQ ingress (R127), refusals (R21, R70) and answers. -/

namespace Sys2Proof.Machine
open Sys2Proof

/-- The message an event carries. -/
def State.msg (s : State) : Msg := s.arg.msg

/-! ### Forwarding (R333, R334) -/

def inPart (base size o : Nat) : Bool := decide (base ≤ o) && decide (o < base + size)

/-- A crew that occupies a tile now holds this scratchpad or operand-store offset (log entry 21). -/
def State.crewHas (s : State) (t o : Nat) (os : Bool) : Bool :=
  (s.die (vdOf t)).crews.any (fun c => c.tile == t && (if os then inPart c.osbase c.ossize o else inPart c.spbase c.spsize o))

def FwdEntry.has (f : FwdEntry) (o : Nat) (os : Bool) : Bool :=
  if os then inPart f.osbase f.ossize o else inPart f.spbase f.spsize o

/-- Image address of an old partition offset (R56, R333), or its place on the new tile (R334). -/
def FwdEntry.place (f : FwdEntry) (s : State) (o : Nat) (os : Bool) : Nat :=
  if f.toTile then 3 * 2 ^ 52 + f.target * 2 ^ 24 + (if os then 2 ^ 22 + f.newOs + (o - f.osbase) else f.newSp + (o - f.spbase))
  else s.canon f.target + 0x23100 + (if os then o - f.osbase else f.ossize + (o - f.spbase))

/-- Where a write to a tile's partition goes instead, if its crew has left. -/
def State.fwdWrite (s : State) (pa : Nat) : Option Nat :=
  if spaceOf pa = 3 && eidPkg (nfld pa 24 24) = s.pkg then
    let t := eidTile (nfld pa 24 24)
    let o := nfld pa 0 22; let os := pa.testBit 22
    if s.crewHas t o os then none
    else ((s.tile t).fwd.find? (fun f => f.has o os)).map (fun f => f.place s o os)
  else none

/-- A crew that is being saved (R331, steps 5 and 6) or restored here: what comes for it waits in the tile's ingress (R334, R335; log entry 39). -/
def State.settling (s : State) (t k : Nat) : Bool :=
  (s.die (vdOf t)).crews.any (fun c => c.tile == t && c.slots.contains k && (c.state == 3 || c.saved))
/-- A crew some of whose mailbox entries still wait for room (R335): later words wait behind them. -/
def State.mailing (s : State) (t k : Nat) : Bool :=
  (s.die (vdOf t)).crews.any (fun c => c.tile == t && c.slots.contains k && c.mail)
def State.settlingPart (s : State) (pa : Nat) : Bool :=
  spaceOf pa == 3 && eidPkg (nfld pa 24 24) == s.pkg &&
  (let t := eidTile (nfld pa 24 24)
   (s.die (vdOf t)).crews.any (fun c => c.tile == t && (c.state == 3 || c.saved) && (if pa.testBit 22 then inPart c.osbase c.ossize (nfld pa 0 22) else inPart c.spbase c.spsize (nfld pa 0 22))))

/-- Index of slot k in slot order, for a slot mask. -/
def slotIndex (mask k : Nat) : Nat := ((List.range k).filter (fun j => mask.testBit j)).length

/-- The new slot of an old one. -/
def FwdEntry.newSlot (f : FwdEntry) (k : Nat) : Nat := ((f.newSlots.find? (fun p => p.1 == k)).map (·.2)).getD k

/-- ASID of the crew an entry stands for: of its new slot, or as the header of its save area has it (R332). -/
def State.fwdAsid (s : State) (f : FwdEntry) (k : Nat) : Nat :=
  if f.toTile then (s.slot (eidTile f.target) (f.newSlot k)).asid else rdLE s.mem (s.canon f.target + 4) 2 % 512

/-- The forwarding entry a message of an ASID to slot k of a tile is for: none while a crew of that ASID is in the slot (log entry 21). -/
def State.fwdSlot (s : State) (t k asid : Nat) : Option FwdEntry :=
  let h := s.slot t k
  let taken := decide (h.occ = .thread ∨ h.occ = .reserved)
  let fs := (s.tile t).fwd.filter (fun f => f.slots.testBit k)
  if taken && h.asid == asid then none
  else match fs.find? (fun f => s.fwdAsid f k == asid) with
    | some f => some f
    | none => if taken then none else fs.head?

/-! ### Answers and refusals -/

def State.answer (s : State) (i : Instr) (f : Msg → Msg) : State := s.send .rsp i (f (msgReply s.msg))

/-- EID of a record's manager. -/
def State.mgrEid (s : State) (pa : Nat) : Nat := s.eid (nfld pa 37 2) (chanOfPa pa)

/-- Is an RD of 256 bytes that a memory channel's endpoint sent the read of a guard's manager, and so P4 traffic (R70)? The manager of a
record of this package waits for it; of another package's, the record is one whose pieces are filtered here (log entry 166). -/
def State.fromManager (s : State) (m : Msg) : Bool :=
  m.len == 255 && m.adaptive && m.tag == 65535 &&
  (if m.src / 4096 = s.pkg then (s.die (eidVd m.src)).gathers.head?.any (fun g => s.mgrEid g.grec == m.src)
   else s.dies.any (fun d => d.2.filter.any (fun f => overlaps (s.canon m.pa) 256 f.pa f.len && (s.homeOf 0 f.rec_).1 == m.src)))

/-- ERR with a cause: 1 to 5 as R71, 7 BADPA (log entry 22), and the linear address the requester sent (R70, log entry 137). An access that cannot be
decoded is recorded in bank 20 (R338) with its source: by the I/O die it came in on (R21), or here where it passed that check. A violation
of a copy by another tile is entered in the log of the copy's tile, with LA and SLOT 0 (R72, log entry 139). -/
def State.refuse (s : State) (cause : Nat) : State :=
  let m := s.msg
  let t := eidTile (nfld m.pa 24 24)
  let s1 := if cause = 7 then s.logError (max 8 (eidVd m.dst)) 20 false cBADPA m.pa (m.src * 8 + m.slot)
    else if spaceOf m.pa = 3 && m.src != s.tileEid t then (s.logViolation t 0 0 cause (s.sentPath m) true m.pa).2 else s
  s1.answer .err (fun r => { r with memd := s.fromManager m, attr := BitVec.ofNat 32 cause, aux0 := s.sentLa m })

/-! ### Requests left unconsumed (R127), and reservations (R99) -/

def State.holdDie (s : State) (vd : Nat) (e : Ev) : State := s.modDie vd (fun D => { D with held := D.held ++ [e] })
def State.unholdDie (s : State) (vd : Nat) : State :=
  let D := s.die vd
  { s.setDie vd { D with held := [] } with pool := D.held ++ s.pool }
def State.holdTile (s : State) (t : Nat) (e : Ev) : State := s.modTile t (fun T => { T with held := T.held ++ [e] })

/-- An access to a reserved word waits at its bank (R99). -/
def State.waitResv (s : State) (pa n : Nat) (e : Ev) : State :=
  let upd (l : List Resv) : List Resv :=
    match l.findIdx? (fun r => r.covers pa n) with
    | some j => l.mapIdx (fun i r => if i = j then { r with waiters := r.waiters ++ [e] } else r)
    | none => l
  s.modDie (s.watchDie pa) (fun D => { D with resvs := upd D.resvs })

/-- An access waits for the PCIe host or a CXL device under a fresh tag, with its address (R43, R99). -/
def State.ioAsk (s : State) (vd : Nat) (i : Instr) (out : Nat → State → State) : State :=
  let tag := (s.die vd).ioWait.foldl (fun a w => max a (w.1 + 1)) 0
  out tag (s.modDie vd (fun D => { D with ioWait := D.ioWait ++ [(tag, s.canon s.msg.pa, evM i s.msg)] }))

/-- Everything a home does with an access before performing it: pass it on, refuse it, or let it wait. -/
def atHome (i : Instr) (path n : Nat) (p0Load write : Bool) (s : State) : M Nat :=
  let m := s.msg
  let pa := s.canon m.pa
  match (if write then s.fwdWrite pa else none) with
  | some pa2 =>
    let (dst, memd) := s.homeOf (vdOf (eidTile m.dst)) pa2
    .error (s.sendFrom (vdOf (eidTile m.dst)) false .req i { m with pa := pa2, dst := dst, memd := memd, adaptive := m.adaptive && spaceOf pa2 == 3 })
  | none =>
    if write && s.settlingPart pa then .error (s.holdTile (eidTile (nfld pa 24 24)) (evM i m))
    else if !s.decodes (eidDie m.dst) pa then .error (s.refuse 7)
    else match s.refuses path pa n p0Load write with
      | some c => .error (s.refuse c)
      | none => if s.reserved pa n then .error (s.waitResv pa n (evM i m)) else .ok pa

/-! ### Bytes of a copy -/

/-- A failed delivery leaves undefined bytes (R75, R85): free values. -/
def State.scramble (s : State) (pa n : Nat) : State :=
  { s with mem := wrBytes s.mem pa ((List.range n).map (fun i => Config.freeByte (s.freeCtr + i))), freeCtr := s.freeCtr + n }

/-- One byte into a CRC with a reflected polynomial of 32 bits. -/
def crcBits : Nat → Nat → Nat
  | 0, c => c
  | n + 1, c => crcBits n (if c % 2 = 1 then (c / 2) ^^^ 0x82F63B78 else c / 2)
def crc32cGo : Nat → List Byte → Nat
  | c, [] => c
  | c, b :: bs => crc32cGo (crcBits 8 (c ^^^ b.toNat)) bs
/-- CRC-32C, Castagnoli, initial value and final XOR all ones (R48, R85). -/
def crc32c (bs : List Byte) : Nat := crc32cGo 0xFFFFFFFF bs ^^^ 0xFFFFFFFF

/-! ### Outcomes -/

/-- An answer to an outstanding request: its register is filled, and it is no longer waited for. -/
def State.outcome (s : State) (t k tag rd : Nat) (v : Word) : State := (s.fillReg t k rd v false).donePend t k tag

/-- The thread a message answers. -/
def State.dstTile (s : State) : Nat := eidTile s.msg.dst

end Sys2Proof.Machine
end

