-- ==== Sys2Proof/Machine/Guard.lean ====
section
/-! DEFINITION. Guard instructions (R237-R239) and the tile's side of guard traffic (R66-R68, R74-R79, R85, R393). -/

namespace Sys2Proof.Machine
open Sys2Proof

/-! ### Status codes of R61 -/

def gOK : Nat := 0
def gBUSY : Nat := 1
def gNOTINIT : Nat := 2
def gNOTBOUND : Nat := 3
def gALREADYBOUND : Nat := 4
def gHELD : Nat := 5
def gNOTHELD : Nat := 6
def gPOISONED : Nat := 7
def gDELIVERY : Nat := 8
def gTABLEFULL : Nat := 9
def gOVERLAP : Nat := 10
def gFILTERFULL : Nat := 11
def gWRONGASID : Nat := 12
def gLIMIT : Nat := 13
def gBADSPACE : Nat := 14
def gPARTITION : Nat := 15

/-! ### Maps of sub-blocks (R123) -/

def msgMap (m : Msg) : BitVec 256 := BitVec.ofNat 256 (m.aux0.toNat + m.aux1.toNat * 2 ^ 64 + m.aux2.toNat * 2 ^ 128 + m.aux3.toNat * 2 ^ 192)
def msgWithMap (m : Msg) (b : BitVec 256) : Msg :=
  { m with aux0 := BitVec.ofNat 64 b.toNat, aux1 := BitVec.ofNat 64 (b.toNat / 2 ^ 64), aux2 := BitVec.ofNat 64 (b.toNat / 2 ^ 128), aux3 := BitVec.ofNat 64 (b.toNat / 2 ^ 192) }
def mapCount (b : BitVec 256) : Nat := ((List.range 256).filter (fun i => b.getLsbD i)).length
/-- The 256-byte units of the listed sub-blocks, in index order, as offsets. -/
def mapUnits (b : BitVec 256) (sz : Nat) : List Nat :=
  ((List.range 256).filter (fun i => b.getLsbD i)).flatMap (fun i => (List.range (sz / 256)).map (fun j => i * sz + j * 256))

/-! ### Range-table entries of a crew -/

/-- The entry of the crew of slot k for a record. -/
def Tile.rngAt (T : Tile) (k pa : Nat) : Option RngEntry := T.rng.find? (fun e => e.mine k && e.grec == pa)
def Tile.rngMod (T : Tile) (k pa : Nat) (f : RngEntry → RngEntry) : Tile := { T with rng := updWhere (fun e => e.mine k && e.grec == pa) f T.rng }
def Tile.rngDrop (T : Tile) (k pa : Nat) : Tile := { T with rng := T.rng.filter (fun e => !(e.mine k && e.grec == pa)) }

/-- Slot mask of the crew of a slot; slot 7 stands alone (R145). -/
def State.crewMask (s : State) (t k : Nat) : Nat :=
  match s.crewOf t k with
  | some c => c.slots.foldl (fun a j => a ||| 2 ^ j) 0
  | none => 2 ^ k

/-- A message of a slot to the manager of a record (R57, R148). -/
def State.mgrMsg (s : State) (t k pa tag : Nat) : Msg :=
  let (dst, memd) := s.homeOf (vdOf t) pa
  { Msg.zero with src := s.tileEid t, dst := dst, slot := k, asid := (s.slot t k).asid, memd := memd, tag := tag, pa := pa }

/-- Path number of a request that a move of the crew need not wait for: a watch cancelled and recorded (R250), or a BARW whose
arrival was counted (R154). -/
def settledPath : Nat := 10
def State.settle (s : State) (t k tag : Nat) : State :=
  s.modSlot t k (fun h => { h with pend := updWhere (fun p => p.tag == tag) (fun p => { p with path := settledPath }) h.pend })

/-- Send a request of the current thread and remember it. -/
def State.ask (s : State) (mk : Instr) (pa : Nat) (kind : PendKind) (f : Msg → Msg) : State :=
  let (tag, h) := s.th.addPend noPath pa 0 kind
  let s1 := s.modTh (fun _ => h)
  s1.send .req mk (f (s1.mgrMsg s.cur.1 s.cur.2 pa tag))

/-! ### Regions and homes of their bytes -/

def pieceAt : List FiltPiece → Nat → Option Nat
  | [], _ => none
  | p :: ps, o => if o < p.len then some (p.pa + o) else pieceAt ps (o - p.len)

/-- The bound pieces of a record managed in this package, in region order. -/
def State.boundPieces (s : State) (grec : Nat) : List FiltPiece :=
  if spaceOf grec = 0 then (s.die (nfld grec 37 2)).pieces.filter (fun p => p.rec_ == grec) else []

/-- Lowest slot of the crew of an entry. -/
def RngEntry.slot (e : RngEntry) : Nat := ((List.range 8).find? e.mine).getD 0

/-- What the place of a unit on its way home turns out to be: an address, none at all, or not known yet. -/
inductive HomeAt where
  | at_ (pa : Nat)
  | lost
  | wait (again : Bool)
  deriving DecidableEq, Repr

/-- Home address of region offset o: from the pieces bound, or, for a record of another package, as the tile translates it (log entry 23).
The walk is one for a write: it sets D, and waits for a sweep of the page (R26, R344). There is no address only where software has changed
the translation of a bound page, which leaves the region undefined (R65), or where an entry of the walk is uncorrectable. -/
def State.regionHome (s : State) (t : Nat) (e : RngEntry) (o : Nat) : HomeAt × State :=
  let bound := pieceAt (s.boundPieces e.grec) o
  let asked (a : Nat) : Bool := (s.slot t e.slot).pend.any (fun p => p.path == noPath && p.pa == a && (match p.kind with | .leafOr .. => true | .node .. => true | _ => false))
  match s.translate t e.asid (e.rbase + o) 6 with
  | (.ok pa _, s1) => (.at_ (bound.getD pa), s1)
  | (.orWait x lvl addr, s1) => (.wait true, if asked addr then s1 else s1.sendOr t e.slot e.asid (e.rbase + o) 6 x lvl addr)
  | (.askWait addr, s1) => (.wait true, if asked addr then s1 else s1.askNode t e.slot e.asid (e.rbase + o) addr 8)
  | (.walkWait, s1) => (.wait false, s1)
  | (.sweepWait, s1) => (.wait true, s1)
  | (_, s1) => match bound with
    | some pa => (.at_ pa, s1)
    | none => (.lost, s1)

/-- A mask with the given bits. -/
def maskOf (ks : List Nat) : Nat := ks.foldl (fun a k => a ||| 2 ^ k) 0

/-- The cells of 64 bytes among n that hold an uncorrectable word. -/
def State.badCells (s : State) (pa n : Nat) : Nat := maskOf ((List.range (cdiv n 64)).filter (fun i => s.eccBad (pa + 64 * i) (min 64 (n - 64 * i))))

/-- A P4 write of unit u of a copy to its home: a GDATA whose WRACK is awaited (R78, R123, R126). Cells that cannot be read are marked
(R39, log entry 165). -/
def State.p4Write (s0 : State) (t : Nat) (e : RngEntry) (u pa : Nat) : State :=
  let from_ := s0.spPa t (e.spoff + 256 * u)
  let s := s0.readCheck from_ 256 (s0.ctxName t e.slot)
  let (tag, h) := (s.slot t e.slot).addPend noPath pa (e.rbase + 256 * u) (.wb e.grec)
  let (dst, memd) := s.homeOf (vdOf t) pa
  (s.setSlot t e.slot h).send .bulk .gdata { Msg.zero with src := s.tileEid t, dst := dst, slot := e.slot, asid := e.asid, memd := memd, adaptive := true, tag := tag, pa := pa, attr := BitVec.ofNat 32 (256 * u / e.size * 2 ^ 12 + 2 ^ 20 + s.badCells from_ 256 * 2 ^ 24), aux4 := BitVec.ofNat 64 e.ver, data := rdBytes s.mem from_ 256 }

/-- Path number of a request that waits until the tile has written a copy home (R67, R79). -/
def placePath : Nat := 12

/-- Requests of a tile that waited for a copy to be home read their record's binding again (R393). -/
def State.bindAgain (s : State) (t : Nat) : State :=
  (List.range 8).foldl (fun (s : State) k => ((s.slot t k).pend.filter (fun p => p.path == placePath)).foldl (fun (s : State) p =>
    (s.modSlot t k (fun h => { h with pend := updWhere (fun q => q.tag == p.tag) (fun q => { q with path := noPath }) h.pend })).send .req .rd
      { s.mgrMsg t k p.pa p.tag with len := 15 }) s) s

/-- The entry of the crew of slot k whose copy is on its way home. -/
def Tile.homing (T : Tile) (k grec : Nat) : Option RngEntry := T.rng.find? (fun e => e.wb && e.grec == grec && e.mine k)

/-- A copy is home once every unit is performed there: WBNOTE tells the manager, and the entry goes (R78). A PENDING or HELD one stays, and
owns no longer. -/
def State.wbStep (s : State) (t k grec : Nat) : State :=
  if (s.slot t k).pend.any (fun p => p.kind == .wb grec) then s
  else match (s.tile t).homing k grec with
    | none => s
    | some e =>
      if e.todo < e.len / 256 then s else
      let rest (l : List RngEntry) : List RngEntry :=
        if e.pending || e.held then updWhere (fun x => x == e) (fun x => { x with own := false, wb := false, todo := 0, known := false, prev := if x.prev ≤ 5 then 0 else x.prev }) l
        else l.filter (fun x => x != e)
      ((s.send .req .wbnote (s.mgrMsg t k grec 65535)).modTile t (fun T => { T with rng := rest T.rng })).bindAgain t

/-- The event that goes on with a writeback. -/
def wbEvent (t k grec : Nat) : Ev := ⟨.engineStep, { t := t, k := 9, n := k, v := grec }⟩

/-- The units of a copy go home in order, each when its bank serves it (R37), a tag is free (R126) and its place is known. -/
def State.wbUnits (t k grec : Nat) : Nat → State → State
  | 0, s => s
  | n + 1, s =>
    match (s.tile t).homing k grec with
    | none => s
    | some e =>
      let next (s : State) : State := s.modTile t (fun T => { T with rng := updWhere (fun x => x.wb && x.grec == grec && x.mine k) (fun x => { x with todo := x.todo + 1 }) T.rng })
      if e.len / 256 ≤ e.todo then s.wbStep t k grec
      else if (s.tile t).bankHeld 8 (e.spoff + 256 * e.todo) 256 then s.holdTile t (wbEvent t k grec)
      else if (s.tile t).tagsFull then s.after (vdOf t) 64 (wbEvent t k grec)
      else match s.regionHome t e (256 * e.todo) with
        | (.at_ pa, s1) => (next (s1.p4Write t e e.todo pa)).wbUnits t k grec n
        | (.lost, s1) => (next s1).wbUnits t k grec n
        | (.wait again, s1) => if again then s1.after (vdOf t) 64 (wbEvent t k grec) else s1

/-- Room for every unit of a copy and its end. -/
def wbFuel : Nat := 2 ^ 14 + 2

/-- The writeback of R78 begins: every sub-block is sent home. -/
def State.writeBack (s : State) (t : Nat) (e : RngEntry) : State :=
  if e.wb then s else
  (s.modTile t (fun T => { T with rng := updWhere (fun x => x == e) (fun x => { x with wb := true, todo := 0 }) T.rng })).wbUnits t e.slot e.grec wbFuel

/-! ### Making an entry (R67, R68, R79, R393) -/

/-- The binding a record shows (R393), from its first 16 bytes. -/
structure Binding where
  bound : Bool
  rbase : Nat
  sbs : Nat
  nsbm1 : Nat
  deriving DecidableEq, Repr

def bindingOf (r : Nat) : Binding := ⟨gBOUND r, gRBASE r, gSBS r, gNSBM1 r⟩
def Binding.len (b : Binding) : Nat := if b.bound then (b.nsbm1 + 1) * sbSize b.sbs else 0

/-- R68: the status that refuses a copy range, if any. `pa` is the record whose own entry is being reused. -/
def Tile.copyBad (T : Tile) (h : Slot) (k pa spoff len : Nat) : Option Nat :=
  if 0 < len && (spoff < h.spbase || h.spbase + h.spsize < spoff + len) then some gPARTITION
  else if T.rng.any (fun e => !(e.mine k && e.grec == pa) && overlaps spoff len e.spoff e.len && decide (0 < len) && decide (0 < e.len)) then some gOVERLAP
  else none

def oldest (l : List RngEntry) : Option RngEntry :=
  l.foldl (fun a e => match a with
    | none => some e
    | some x => if e.relAt < x.relAt then some e else some x) none

/-- Does this tile answer for the copy of an entry (R67, R78)? -/
def RngEntry.owns (e : RngEntry) : Bool := e.own || e.st == 4

/-- The entry R79 evicts: one that is only dropped, else one that goes home first. -/
def Tile.victim (T : Tile) : Option RngEntry :=
  match oldest (T.rng.filter (fun e => e.st == 5 && !e.own && !e.wb)) with
  | some e => some e
  | none => oldest (T.rng.filter (fun e => (e.st == 4 || e.st == 5) && e.owns && !e.wb))

/-- Has an entry this SPOFF and this binding (R67, R393)? -/
def RngEntry.fits (e : RngEntry) (spoff : Nat) (b : Binding) : Bool :=
  e.spoff == spoff && e.bound == b.bound && e.rbase == b.rbase && e.sbs == b.sbs && e.nsbm1 == b.nsbm1

/-- An ACQ or GTRY waits until the tile has written a copy home. -/
def State.awaitPlace (s : State) (t k tag : Nat) : State :=
  s.modSlot t k (fun h => { h with pend := updWhere (fun p => p.tag == tag) (fun p => { p with path := placePath }) h.pend })

/-- Make or reuse the entry of an acquire as PENDING (R67). An entry with another SPOFF or binding is home already. -/
def State.makePending (s : State) (t k pa : Nat) (b : Binding) (spoff : Nat) (excl isTry : Bool) (rd : Nat) : State :=
  let fresh : RngEntry := { st := if excl then 0 else 1, own := false, sbs := b.sbs, nsbm1 := b.nsbm1, slots := s.crewMask t k, asid := (s.slot t k).asid, ver := 0, grec := pa, rbase := b.rbase, spoff := spoff, bound := b.bound, dirty := 0, reqSlot := k, rd := rd, isTry := isTry, known := false, listed := 0, received := 0, granted := false, failedOnce := false, relAt := 0, prev := 0, crc := none, wb := false, demoted := false }
  match (s.tile t).rngAt k pa with
  | some e =>
    if e.fits spoff b then
      s.modTile t (fun T => T.rngMod k pa (fun e => { e with st := if excl then 0 else 1, reqSlot := k, rd := rd, isTry := isTry, known := true, listed := 0, received := 0, granted := false, failedOnce := false, prev := e.st, crc := none, demoted := false }))
    else s.modTile t (fun T => let T1 := T.rngDrop k pa; { T1 with rng := T1.rng ++ [fresh] })
  | none => s.modTile t (fun T => { T with rng := T.rng ++ [fresh] })

/-- Send the acquire request of a PENDING entry (R80, R123). -/
def State.sendAcq (s : State) (t k pa tag : Nat) : State :=
  match (s.tile t).rngAt k pa with
  | some e =>
    let m := s.mgrMsg t k pa tag
    s.send .req .acqreq { m with attr := BitVec.ofNat 32 (b2n (e.st == 0) + b2n e.isTry * 4 + b2n e.known * 8), aux0 := BitVec.ofNat 64 e.rbase, aux1 := BitVec.ofNat 64 (b2n e.bound + e.sbs * 2 + e.nsbm1 * 8), aux2 := BitVec.ofNat 64 e.spoff, aux4 := BitVec.ofNat 64 e.ver }
  | none => s

/-- The acquire ended without a hold: the outcome, and what becomes of the entry. One for which no request took effect is undone: the entry
is what it was before, if it was (R68, R393, R394); any other leaves a copy only to its owner (R67). -/
def State.acqFail (s : State) (t k pa tag status : Nat) : State :=
  match (s.tile t).rngAt k pa, (s.slot t k).getPend tag with
  | some e, some p =>
    let rd := match p.kind with
      | .acquire rd => rd
      | _ => 0
    let undone := decide (status = gBADSPACE ∨ status = gPARTITION ∨ status = gOVERLAP)
    let s1 :=
      if undone && (e.prev == 4 || e.prev == 5) then s.modTile t (fun T => T.rngMod k pa (fun e => { e with st := if e.own then e.prev else 5, prev := 0 }))
      else if undone then s.modTile t (fun T => T.rngDrop k pa)
      else if e.own then s.modTile t (fun T => T.rngMod k pa (fun e => { e with st := 4, prev := 0 }))
      else (s.scramble (s.spPa t e.spoff) e.len).modTile t (fun T => T.rngDrop k pa)
    (s1.outcome t k tag rd (BitVec.ofNat 32 status)).wakeGuard t
  | _, some p => (s.outcome t k tag (match p.kind with | .acquire rd => rd | _ => 0) (BitVec.ofNat 32 status)).wakeGuard t
  | _, none => s

/-! ### The instructions -/

/-- ILL at issue for a register value whose reserved bits are not zero (R228 order 3). -/
def illValue (bad : Bool) (v : Word) (s : State) : M Unit := if bad then .error (s.trap tILL 1 v) else .ok ()

/-- Commit with an outcome known at the tile. -/
def commitOutcome (srcs : List Src) (d : Reg) (status : Nat) (s : State) : M State := .ok (commitWith srcs d (BitVec.ofNat 32 status) s)

def markLater (d : Reg) (s : State) : State := s.modTh (fun h => h.markEmpty d.toNat)
def commitNow (s : State) : State := s.modTh (fun h => h.commit)

/-- BINIT (R62, R238). A stamp array on another die than its record ends as one in a wrong space does (log entry 144). -/
def binit (i : Instr) (d : Reg) (sg : BitVec 3) (a b : Src) (s : State) : M State := do
  enter i .system false 0 s
  let x ← readSrc i [a, b] a.r s
  let y ← readSrc i [a, b] b.r s
  destLater i d s
  let p ← seg rGuardW sg.toNat x.toNat 64 s
  let q ← seg rGuardW sg.toNat y.toNat 1024 s
  aligned p 64 x.toNat s
  aligned q 1024 y.toNat s
  let (pa, s1) ← recAt p 64 s
  if !recSpace pa then commitOutcome [a, b] d gBADSPACE s1 else
  let (arr, s2) ← recAt q 1024 s1
  if !recSpace arr || pa / 2 ^ 37 != arr / 2 ^ 37 then commitOutcome [a, b] d gBADSPACE s2
  else
    let s3 := commitNow (markLater d (consume [a, b] s2))
    .ok (s3.ask .gadmBinit pa (.guardOp d.toNat false) (fun m => { m with aux0 := BitVec.ofNat 64 arr }))
def execBinit (d : Reg) (sg : BitVec 3) (a b : Src) (s : State) : Out := finish (binit (.binit d sg a b) d sg a b s)

/-- Join a piece to the last one when it is contiguous in the same filter (R63). -/
def State.addPiece (s : State) (ps : List (Nat × Nat)) (pa n : Nat) : List (Nat × Nat) :=
  match ps.reverse with
  | (q, l) :: rest => if q + l = pa && q / 2 ^ 37 = pa / 2 ^ 37 && s.filterDie q == s.filterDie pa then (rest.reverse) ++ [(q, l + n)] else ps ++ [(pa, n)]
  | [] => [(pa, n)]

/-- The walk stops at a page, from which BIND resumes (R63). -/
def State.bindStop (s : State) (la e : Nat) (ps : List (Nat × Nat)) (base : Nat) : State := s.modTh (fun h => { h with bindAt := some (base, e, la, ps) })

/-- The region walk of BIND (R63): every page in increasing order with R and W; the pieces, or how it ends. Decoders of space 1 begin and
end at multiples of 2^28 (R351). -/
def bindWalk (base : Nat) : Nat → Nat → Nat → List (Nat × Nat) → State → M (List (Nat × Nat) × State)
  | 0, _, _, ps, s => .ok (ps, s)
  | fuel + 1, la, e, ps, s =>
    if e ≤ la then .ok (ps, s) else
    let stop (s : State) : State := s.bindStop la e ps base
    match s.translate s.cur.1 s.th.asid la 8 with
    | (.ok pa lvl, s1) =>
      let m := min (e - la) (2 ^ leafBits lvl - la % 2 ^ leafBits lvl)
      let n := if spaceOf pa = 1 then min m (2 ^ 28 - pa % 2 ^ 28) else m
      if !s1.decodes (vdOf s.cur.1) pa then .error (faultPark la lvl 7 0 pPAGE 8 (stop s1))
      else bindWalk base fuel (la + n) e (s1.addPiece ps pa n) s1
    | (.fault c l en r, s1) => .error (faultPark la l c en r 8 (stop s1))
    | (.orWait x lvl addr, s1) => .error (leafWait (fun s => s.sendOr s.cur.1 s.cur.2 s.th.asid la 8 x lvl addr) (stop s1))
    | (.askWait addr, s1) => .error (leafWait (fun s => s.askNode s.cur.1 s.cur.2 s.th.asid la addr 8) (stop s1))
    | (.walkWait, s1) => .error ((stop s1).park pWALKWAIT)
    | (.sweepWait, s1) => .error (stop s1).sweepPark
    | (.poisoned, s1) => .error (s1.trap tMCHK 4 0)

/-- Where the walk of a region begins: at its first page, or where it stopped (R63). -/
def Slot.bindFrom (h : Slot) (base e : Nat) : Nat × List (Nat × Nat) :=
  match h.bindAt with
  | some (b, e2, la, ps) => if b = base ∧ e2 = e then (la, ps) else (base, [])
  | none => (base, [])

def pieceBytes (p : Nat × Nat) : List Byte := leBytes 8 (p.1 % 2 ^ 56) ++ leBytes 8 (p.2 % 2 ^ 32)

/-- GADM messages of a BIND, 20 pieces each, LAST on the final one (R124). -/
def bindMsgs (m : Msg) : Nat → Nat → List (Nat × Nat) → List Msg
  | 0, _, _ => []
  | fuel + 1, idx, ps =>
    let last := decide (ps.length ≤ 20)
    { m with attr := BitVec.ofNat 32 (1 + b2n last * 4 + idx * 256), data := (ps.take 20).flatMap pieceBytes } ::
      (if last then [] else bindMsgs m fuel (idx + 20) (ps.drop 20))

def bindRegion (i : Instr) (d : Reg) (sg : BitVec 3) (a b : Src) (s : State) : M State := do
  enter i .system false 0 s
  let srcs := [a] ++ srcPair b
  let x ← readSrc i srcs a.r s
  let off ← readSrc i srcs b.r s
  let ctl ← readSrc i srcs (b.r + 1) s
  destLater i d s
  illValue (wfld ctl 13 19 != 0) ctl s
  let r ← seg rGuardR sg.toNat x.toNat 64 s
  let sbs := wfld ctl 0 2
  let len := (wfld ctl 2 8 + 1) * sbSize sbs
  let p ← seg rGuardW (wfld ctl 10 3) off.toNat len s
  aligned r 64 x.toNat s
  aligned p (sbSize sbs) off.toNat s
  let (pa, s1) ← recAt r 64 s
  if !recSpace pa then commitOutcome srcs d gBADSPACE s1 else
  let from_ := s1.th.bindFrom p.at_ (p.at_ + len)
  let (ps, sw) ← bindWalk p.at_ 1042 from_.1 (p.at_ + len) from_.2 s1
  let s2 := sw.modTh (fun h => { h with bindAt := none })
  if ps.any (fun q => !(spaceOf q.1 == 0 || spaceOf q.1 == 1 || spaceOf q.1 == 4)) then commitOutcome srcs d gBADSPACE s2
  else
    let s3 := commitNow (markLater d (consume srcs s2))
    let (tag, h) := s3.th.addPend noPath pa 0 (.guardOp d.toNat false)
    let s4 := s3.modTh (fun _ => h)
    let m := { s4.mgrMsg s.cur.1 s.cur.2 pa tag with aux0 := BitVec.ofNat 64 p.at_, aux1 := BitVec.ofNat 64 (sbs + wfld ctl 2 8 * 4) }
    .ok ((bindMsgs m 60 0 ps).foldl (fun s m => s.send .req .gadmBind m) s4)
def execBind (d : Reg) (sg : BitVec 3) (a b : Src) (s : State) : Out := finish (bindRegion (.bind d sg a b) d sg a b s)

def unbind (i : Instr) (d : Reg) (sg : BitVec 3) (a b : Src) (s : State) : M State := do
  enter i .system false 0 s
  let x ← readSrc i [a, b] a.r s
  let y ← readSrc i [a, b] b.r s
  destLater i d s
  illValue (wfld y 1 31 != 0) y s
  let (pa, s1) ← recPlace rGuardR sg.toNat x.toNat 64 64 s
  if !recSpace pa then commitOutcome [a, b] d gBADSPACE s1
  else
    let s2 := commitNow (markLater d (consume [a, b] s1))
    let retire := wbit y 0
    .ok (s2.ask (if retire then .gadmUnbindRetire else .gadmUnbind) pa (.guardOp d.toNat false) (fun m => { m with attr := if retire then 3 else 2 }))
def execUnbind (d : Reg) (sg : BitVec 3) (a b : Src) (s : State) : Out := finish (unbind (.unbind d sg a b) d sg a b s)

/-- Has the crew a PENDING or HELD entry for the record? -/
def Tile.engaged (T : Tile) (k pa : Nat) : Bool :=
  match T.rngAt k pa with
  | some e => e.pending || e.held
  | none => false

def acquire (i : Instr) (excl isTry : Bool) (d : Reg) (sg : BitVec 3) (a b : Src) (s : State) : M State := do
  enter i .system false 0 s
  let x ← readSrc i [a, b] a.r s
  let y ← readSrc i [a, b] b.r s
  destLater i d s
  illValue (wfld y 22 10 != 0) y s
  let rights := if excl then rGuardW else rGuardR
  let p ← seg rights sg.toNat x.toNat 64 s
  aligned p 64 x.toNat s
  if wfld y 0 8 != 0 then .error (s.trap tALIGN 0 y) else
  let (pa, s1) ← recPlace rights sg.toNat x.toNat 64 64 s
  if !recSpace pa then commitOutcome [a, b] d gBADSPACE s1
  else if (s1.tile s.cur.1).engaged s.cur.2 pa then commitOutcome [a, b] d gHELD s1
  else
    let (tag, h) := s1.th.addPend noPath pa 0 (.binding d.toNat excl isTry y.toNat [a, b])
    let s2 := (s1.modTh (fun _ => h)).block .answer
    .ok (s2.send .req .rd { s2.mgrMsg s.cur.1 s.cur.2 pa tag with len := 15 })
def execAcqX (d : Reg) (sg : BitVec 3) (a b : Src) (s : State) : Out := finish (acquire (.acqX d sg a b) true false d sg a b s)
def execAcqS (d : Reg) (sg : BitVec 3) (a b : Src) (s : State) : Out := finish (acquire (.acqS d sg a b) false false d sg a b s)
def execGtryX (d : Reg) (sg : BitVec 3) (a b : Src) (s : State) : Out := finish (acquire (.gtryX d sg a b) true true d sg a b s)
def execGtryS (d : Reg) (sg : BitVec 3) (a b : Src) (s : State) : Out := finish (acquire (.gtryS d sg a b) false true d sg a b s)

/-- The blocked ACQ or GTRY of slot k goes on, at commit. -/
def State.unblockCommit (s : State) (t k tag : Nat) (srcs : List Src) : State :=
  let s1 := { s with cur := (t, k) }
  let s2 := consume srcs (s1.modTh (fun h => { h.delPend tag with run := .ready }))
  (commitNow s2).quantumOut t k

/-- The binding of an ACQ or GTRY has been read (R393): the entry is made, the instruction commits, the request goes out. Where a place
must be made free, or the entry's copy lies elsewhere, that copy goes home first (R67, R79). -/
def bindingArrived (t k tag rd : Nat) (excl isTry : Bool) (spoff : Nat) (srcs : List Src) (pa : Nat) (b : Binding) (s : State) : State :=
  let T := s.tile t
  let done (status : Nat) : State := (s.unblockCommit t k tag srcs).modSlot t k (fun h => h.setG rd (BitVec.ofNat 32 status))
  if T.engaged k pa then done gHELD
  else
    let full := (T.rngAt k pa).isNone && 64 ≤ T.rng.length
    if full && T.victim.isNone && !T.rng.any (·.wb) then done gTABLEFULL
    else match T.copyBad (s.slot t k) k pa spoff b.len with
      | some st => done st
      | none =>
        let home := match T.rngAt k pa with
          | some e => if e.wb || (!e.fits spoff b && e.owns) then some e else none
          | none => if full then T.victim.filter RngEntry.owns else none
        if home.isSome || (full && T.victim.isNone) then
          match home with
          | some e => (s.awaitPlace t k tag).writeBack t e
          | none => s.awaitPlace t k tag
        else
        let s1 := if full then s.modTile t (fun T => { T with rng := T.rng.filter (fun x => some x != T.victim) }) else s
        let s2 := s1.makePending t k pa b spoff excl isTry rd
        let s3 := (s2.unblockCommit t k tag srcs).modSlot t k (fun h => h.markEmpty rd)
        let (tag2, h) := (s3.slot t k).addPend noPath pa 0 (.acquire rd)
        (s3.setSlot t k h).sendAcq t k pa tag2

/-- The binding read again after a STALE denial: R68 and the table of R67 once more (R393). -/
def bindingAgain (t k tag pa : Nat) (b : Binding) (s : State) : State :=
  match (s.tile t).rngAt k pa with
  | none => s
  | some e =>
    match (s.tile t).copyBad (s.slot t k) k pa e.spoff b.len with
    | some st => s.acqFail t k pa tag st
    | none =>
      if e.fits e.spoff b then s.sendAcq t k pa tag
      else if e.wb || e.own then (s.awaitPlace t k tag).writeBack t e
      else (s.modTile t (fun T => T.rngMod k pa (fun e => { e with bound := b.bound, rbase := b.rbase, sbs := b.sbs, nsbm1 := b.nsbm1, ver := 0, known := false, prev := 0 }))).sendAcq t k pa tag

/-! ### REL (R76, R82) -/

/-- A write to a copy range that a path of the tile has accepted and that is not performed yet (R76): a store, an atomic or a post of any
slot, or a command, a task or a copy whose write extent overlaps the copy. A linear extent reaches the copy only for the crew whose entry
it is (R69). -/
def State.copyBusy (s : State) (t : Nat) (e : RngEntry) : Bool :=
  let lo := s.spPa t e.spoff
  let T := s.tile t
  let ext (k : Nat) (w : Nat × Nat × Bool) : Bool :=
    if w.2.2 then overlaps w.1 w.2.1 e.spoff e.len else e.mine k && overlaps w.1 w.2.1 e.rbase e.len
  let storing (p : Pend) : Bool :=
    match p.kind with
    | .store n => overlaps p.pa n lo e.len
    | .atomic .. => overlaps p.pa 4 lo e.len
    | .post .. => overlaps p.pa 8 lo e.len
    | .released => overlaps p.pa 4 lo e.len
    | .cw _ => overlaps p.pa 8 lo e.len
    | _ => false
  (List.range 8).any (fun k => (T.slot k).pend.any storing) ||
  T.mq.any (fun c => c.wext.any (ext c.slot)) || T.vq.any (fun c => c.wext.any (ext c.slot)) ||
  (List.range 2).any (fun ch => let L := mget {} T.ladles ch; (L.active.toList ++ L.waiting).any (fun c => c.wext.any (ext c.slot))) ||
  s.dies.any (fun d => d.2.copyq.any (fun q => ctxPkg q.2.ctx == s.pkg && ctxTile q.2.ctx == t && q.2.wext.any (ext q.2.slot)))

/-- Leave HELD and send the release with its dirty map (R67, R76, R77). -/
def State.release (s : State) (t k : Nat) (e : RngEntry) (tag : Nat) : State :=
  let s1 := s.modTile t (fun T => T.rngMod k e.grec (fun x => { x with st := if e.st = 2 then 4 else 5, own := x.own || e.st == 2, relAt := s.clock (vdOf t) }))
  let s2 := if e.st = 2 then s1.modTile t (fun T => { T with rng := updWhere (fun x => x.grec == e.grec) (fun x => { x with demoted := false }) T.rng }) else s1
  let m := s2.mgrMsg t k e.grec tag
  s2.send .req .relreq (msgWithMap { m with attr := BitVec.ofNat 32 (b2n (e.st == 2)) } e.dirty)

def rel (i : Instr) (d : Reg) (sg : BitVec 3) (a : Src) (s : State) : M State := do
  enter i .system false 0 s
  let x ← readSrc i [a] a.r s
  destLater i d s
  let (pa, s1) ← recPlace rGuardR sg.toNat x.toNat 64 64 s
  if !recSpace pa then commitOutcome [a] d gBADSPACE s1
  else match (s1.tile s.cur.1).rngAt s.cur.2 pa with
    | some e =>
      if !e.held then commitOutcome [a] d gNOTHELD s1
      else if s1.copyBusy s.cur.1 e then .error (s1.park pGUARDWAIT)
      else
        let s2 := commitNow (markLater d (consume [a] s1))
        let (tag, h) := s2.th.addPend noPath pa 0 (.guardOp d.toNat true)
        .ok ((s2.modTh (fun _ => h)).release s.cur.1 s.cur.2 e tag)
    | none => commitOutcome [a] d gNOTHELD s1
def execRel (d : Reg) (sg : BitVec 3) (a : Src) (s : State) : Out := finish (rel (.rel d sg a) d sg a s)

/-! ### Answers at the tile -/

/-- An ended crew holds nothing: what it still gets is given back at once (R82). -/
def State.crewGone (s : State) (t : Nat) (e : RngEntry) : Bool :=
  !(List.range 8).any (fun k => e.mine k && (let r := (s.slot t k).run; r != .halted && r != .killed && (s.slot t k).occ != .free))

/-- Ask for the delivery once more, or, after the second failure, tell the manager to release the hold without change (R85). -/
def State.sendRedo (s : State) (t : Nat) (e : RngEntry) (last : Bool) : State :=
  let m := s.mgrMsg t e.reqSlot e.grec 65535
  s.send .req .gredo (msgWithMap { m with attr := BitVec.ofNat 32 (b2n (e.st == 0) + b2n last * 4), aux4 := BitVec.ofNat 64 e.ver } e.listed)

/-- Has everything listed arrived? Then the check of R85 decides. -/
def State.checkDelivery (s : State) (t : Nat) (e : RngEntry) : State :=
  let units := mapUnits e.listed e.size
  if !e.granted || e.received < units.length then s
  else
    let k := e.reqSlot
    let tag? := ((s.slot t k).pend.find? (fun p => p.pa == e.grec && (match p.kind with | .acquire _ => true | _ => false))).map (·.tag)
    let good := units.isEmpty || (e.crc == some (crc32c (units.flatMap (fun u => rdBytes s.mem (s.spPa t (e.spoff + u)) 256))))
    if good then
      let s1 := s.modTile t (fun T => T.rngMod k e.grec (fun x => { x with st := if x.st = 0 then 2 else 3, dirty := 0 }))
      let s2 := match tag? with
        | some tag => s1.outcome t k tag e.rd (BitVec.ofNat 32 (gOK + mapCount e.listed * 16))
        | none => s1
      let s3 := s2.wakeGuard t
      if s3.crewGone t e then
        match s3.crewOf t k with
        | some c => s3.emit (evTK .crewRetire t c.id.toNat)
        | none => s3
      else s3
    else if !e.failedOnce then
      (s.modTile t (fun T => T.rngMod k e.grec (fun x => { x with failedOnce := true, received := 0, crc := none }))).sendRedo t e false
    else
      let s1 := s.sendRedo t e true
      match tag? with
      | some tag => s1.acqFail t k e.grec tag gDELIVERY
      | none => s1.modTile t (fun T => T.rngDrop k e.grec)

/-- GRANT (R67, R74): the granted VERSION and the list. -/
def grant (s : State) : State :=
  let m := s.msg
  let t := s.dstTile
  match (s.tile t).rngAt m.slot m.pa with
  | some e =>
    if !e.pending then s else
    let s1 := s.modTile t (fun T => T.rngMod m.slot m.pa (fun e => { e with ver := dfld m.aux4 0 32, listed := msgMap m, granted := true }))
    s1.checkDelivery t { e with ver := dfld m.aux4 0 32, listed := msgMap m, granted := true }
  | none => s
def execGrant (s : State) : Out := .next (grant s)

/-- A delivered unit, or a writeback performed at its home (R74, R78). It waits for a locked bank (R298). -/
def gdata (s : State) : State :=
  let m := s.msg
  if wbit m.attr 20 then
    let pa := s.canon m.pa
    if !s.decodes (eidDie m.dst) pa then s.refuse 7
    else if s.reserved pa m.data.length then s.waitResv pa m.data.length (evM .gdata m)
    else ((s.performOut (eidDie m.dst) pa m.data).poisonCells pa (wfld m.attr 24 4)).answer .wrack id
  else if (s.tile s.dstTile).bankHeld 8 (nfld m.pa 0 22) m.data.length then s.holdTile s.dstTile (evM .gdata m)
  else
    let t := s.dstTile
    let o := nfld m.pa 0 22
    match (s.tile t).rng.find? (fun e => e.pending && e.inCopy o 1) with
    | none => s
    | some e =>
      let last := wbit m.attr 21
      let upd (x : RngEntry) : RngEntry :=
        { x with received := x.received + 1, crc := if last then some (dfld m.aux0 0 32) else x.crc }
      ((s.homeWrite m.pa m.data).modTile t (fun T => { T with rng := updWhere (fun x => x == e) upd T.rng })).checkDelivery t (upd e)
def execGdata (s : State) : Out := .next (gdata s)

/-- DENY: the outcome, or the binding read again (R393). -/
def deny (s : State) : State :=
  let m := s.msg
  let t := s.dstTile
  if wbit m.attr 22 then s.send .req .rd { s.mgrMsg t m.slot m.pa m.tag with len := 15 }
  else s.acqFail t m.slot m.pa m.tag (wfld m.attr 8 4)
def execDeny (s : State) : Out := .next (deny s)

/-- Service by the manager or the retained owner (R67, R74): the bytes of the listed sub-blocks, the CRC-32C with the last unit (R85,
R123). Bytes with an uncorrectable error make the check fail (R326): the CRC is sent inverted. -/
def State.serveUnits (s : State) (src dstTileEid spoff idxSz : Nat) (list : BitVec 256) (slot ver : Nat) (readU : Nat → List Byte × Bool) : State :=
  let units := mapUnits list idxSz
  let all := units.map readU
  let crc := crc32c (all.flatMap (·.1)) ^^^ (if all.any (·.2) then 0xFFFFFFFF else 0)
  let n := units.length
  ((List.range n).zip (units.zip all)).foldl (fun s q =>
    let (j, u, bs, _) := q
    let m : Msg := { Msg.zero with src := src, dst := dstTileEid, slot := slot, adaptive := true, pa := 3 * 2 ^ 52 + dstTileEid * 2 ^ 24 + spoff + u, attr := BitVec.ofNat 32 (u / idxSz * 2 ^ 12 + b2n (j + 1 == n) * 2 ^ 21), aux0 := if j + 1 = n then BitVec.ofNat 64 crc else 0, aux4 := BitVec.ofNat 64 ver, data := bs }
    s.send .bulk .gdata m) s

/-- The entry that answers forwards for a record on a tile (R67, R78): the latest released where several crews' do (log entry 145). One whose
copy is on its way home answers no more. -/
def Tile.ownerEntry (T : Tile) (grec : Nat) : Option RngEntry :=
  T.rng.foldl (fun a e => if e.grec == grec && e.owns && !e.wb && a.all (fun x => decide (x.relAt ≤ e.relAt)) then some e else a) none

/-- The entry that serves: the owner, or the one that was served from when its owner was demoted (R85); no other crew of the tile has
released the record since (`State.release`). -/
def Tile.serveEntry (T : Tile) (grec : Nat) : Option RngEntry :=
  match T.ownerEntry grec with
  | some e => some e
  | none => T.rng.find? (fun e => e.grec == grec && e.demoted && !e.wb)

/-- The answer of a tile or die to a manager, whose endpoint is a memory channel (R111). -/
def State.answerMgr (s : State) (i : Instr) : State := s.answer i (fun r => { r with memd := true })

/-- FWD at the owner: serve, demote, or both (R67, R74). Without the entry the answer is NOTRETAINED (R78, R333). A locked bank makes it
wait (R298). -/
def fwdOwner (serve demote : Bool) (i : Instr) (s : State) : State :=
  let m := s.msg
  let t := s.dstTile
  let T := s.tile t
  match (if demote then T.ownerEntry m.pa else T.serveEntry m.pa) with
  | none => s.answerMgr .notretained
  | some e =>
    if serve && (mapUnits (msgMap m) e.size).any (fun u => T.bankHeld 8 (e.spoff + u) 256) then s.holdTile t (evM i m) else
    let s0 := if serve then s.readChecks ((mapUnits (msgMap m) e.size).map (fun u => s.spPa t (e.spoff + u))) 256 (s.ctxName t e.slot) else s
    let s1 := if serve then s0.serveUnits m.dst (dfld m.aux4 0 24) (dfld m.aux4 24 22) e.size (msgMap m) m.slot e.ver (fun u => (rdBytes s0.mem (s0.spPa t (e.spoff + u)) 256, s0.eccBad (s0.spPa t (e.spoff + u)) 256)) else s
    let s2 := if demote then s1.modTile t (fun T => { T with rng := updWhere (fun x => x == e) (fun x => { x with own := false, demoted := serve, st := if x.st = 4 then 5 else x.st }) T.rng }) else s1
    s2.answerMgr .served
def execFwdServe (s : State) : Out := .next (fwdOwner true false .fwdServe s)
def execFwdDemote (s : State) : Out := .next (fwdOwner false true .fwdDemote s)
def execFwdServeDemote (s : State) : Out := .next (fwdOwner true true .fwdServeDemote s)

/-- FWD recall: the copy goes home and the entry is dropped; a PENDING one only stops answering (R67, R78). -/
def fwdRecall (s : State) : State :=
  let t := s.dstTile
  match (s.tile t).ownerEntry s.msg.pa with
  | none => s.answerMgr .notretained
  | some e => s.writeBack t e
def execFwdRecall (s : State) : Out := .next (fwdRecall s)

/-- FWD invalidate reaches a package's I/O die, which gathers its tiles' answers into one (R83): every KEPT or RETAINED entry
of the record goes. The record's address is seen from this package. -/
def fwdInvalidate (s : State) : State :=
  let pa := s.canon s.msg.pa
  let keep (e : RngEntry) : Bool := !(e.grec == pa && (e.st == 4 || e.st == 5))
  let drop (p : Nat × Tile) : Nat × Tile := (p.1, { p.2 with rng := p.2.rng.filter keep })
  ({ s with tiles := s.tiles.map drop }).answerMgr .invack
def execFwdInvalidate (s : State) : Out := .next (fwdInvalidate s)

end Sys2Proof.Machine
end

