-- ==== Sys2Proof/Machine/Manager.lean ====
section
/-! DEFINITION. The guard manager (R57-R65, R73, R74, R77, R78, R80, R83-R85) and the bound-range filter (R63, R70). -/

namespace Sys2Proof.Machine
open Sys2Proof

/-! ### Record fields -/

def State.recPut (s : State) (pa lo n x : Nat) : State := s.putRec pa (nput (s.rec_ pa) lo n x)
def State.setGState (s : State) (pa x : Nat) : State := s.recPut pa 3 2 x
def State.setVersion (s : State) (pa x : Nat) : State := s.recPut pa 32 32 x
def State.setOwner (s : State) (pa eid : Nat) : State := (s.recPut pa 128 24 eid).recPut pa 15 1 1
def State.clearOV (s : State) (pa : Nat) : State := s.recPut pa 15 1 0

def State.stamp (s : State) (pa i : Nat) : Nat := rdLE s.mem (gSADDR (s.rec_ pa) + 4 * i) 4
def State.setStamp (s : State) (pa i v : Nat) : State := { s with mem := wrLE s.mem (gSADDR (s.rec_ pa) + 4 * i) 4 v }
def State.allStamps (s : State) (pa v : Nat) : State := (List.range 256).foldl (fun s i => s.setStamp pa i v) s

/-- A record's address as package `p` sees it (R17, R18). -/
def State.paFor (s : State) (p pa : Nat) : Nat := if p = s.pkg || spaceOf pa != 0 then pa else 4 * 2 ^ 52 + s.pkg * 2 ^ 40 + pa

/-- The record a manager's message names, and its die. -/
def State.mrec (s : State) : Nat := s.canon s.msg.pa
def State.mdie (s : State) : Nat := eidDie s.msg.dst

/-- A manager's message to a tile or die of any package. -/
def State.fromMgr (s : State) (pa dst : Nat) : Msg :=
  { Msg.zero with src := s.mgrEid pa, dst := dst, pa := s.paFor (eidPkg dst) pa }

/-- Answer a kept request. -/
def State.reply (s : State) (req : Msg) (i : Instr) (f : Msg → Msg) : State := s.send .rsp i (f (msgReply req))

/-- ACK with a status (R61). -/
def State.ackTo (s : State) (req : Msg) (status : Nat) (ver : Nat) : State :=
  s.reply req .ack (fun r => { r with attr := BitVec.ofNat 32 (status * 256), aux4 := BitVec.ofNat 64 ver })

/-! ### The holder queue (R58, R60, R73) -/

def queueOf (s : State) (vd pa : Nat) : List (Nat × Msg) := (s.die vd).gqueue.filter (fun q => s.canon q.2.pa == pa)

/-- QLEN, QHEAD and QTAIL follow the queue (R58); entries take the lowest free index (log entry 24). -/
def State.syncQueue (s : State) (vd pa : Nat) : State :=
  let q := queueOf s vd pa
  let s1 := s.recPut pa 176 16 q.length
  match q.head?, q.getLast? with
  | some h, some l => (s1.recPut pa 192 12 h.1).recPut pa 204 12 l.1
  | _, _ => s1

def State.enqueue (s : State) (vd pa : Nat) (m : Msg) : State :=
  let used := (s.die vd).gqueue.map (·.1)
  let idx := ((List.range 4096).find? (fun i => !used.contains i)).getD 0
  (s.modDie vd (fun D => { D with gqueue := D.gqueue ++ [(idx, m)] })).syncQueue vd pa

def State.dequeue (s : State) (vd pa : Nat) (q : Nat × Msg) : State :=
  ((s.modDie vd (fun D => { D with gqueue := dropFirst (fun x => x == q) D.gqueue })).syncQueue vd pa).unholdDie vd

/-! ### Granting (R74) -/

/-- The changed sub-blocks of a request. -/
def State.changed (s : State) (pa : Nat) (known : Bool) (ver : Nat) : BitVec 256 :=
  let r := s.rec_ pa
  (List.range 256).foldl (fun b i =>
    if i ≤ gNSBM1 r && (!known || decide (gVERSION r < ver) || decide (ver < s.stamp pa i)) then b ||| (1#256 <<< i) else b) 0

/-- Has software changed the translation of a bound region, or set OWN or MIG on one of its pages (R65)? Only tables in this package's memory
tell (log entry 127). -/
def State.regionMoved (s : State) (pa : Nat) : Bool :=
  let r := s.rec_ pa
  let n := (gNSBM1 r + 1) * sbSize (gSBS r)
  let vd := nfld pa 37 2
  let same (la : Nat) : Bool :=
    match s.walk vd (gASID r) la 7 (fun _ => none), pieceAt (s.boundPieces pa) (la - gRBASE r) with
    | .leaf x _ _ _, some y => s.canon x == y
    | .ask _, _ => true
    | _, _ => false
  gBOUND r && (List.range ((n + gRBASE r % 4096 + 4095) / 4096)).any (fun i => !same (max (gRBASE r) (gRBASE r / 4096 * 4096 + 4096 * i)))

/-- The contents of a bound region are undefined from now on (R65, R84): free values at its home, and in a retained copy. -/
def State.scrambleRegion (s : State) (pa : Nat) : State :=
  let s1 := (s.boundPieces pa).foldl (fun s p => if spaceOf p.pa = 0 then s.scramble p.pa p.len else s) s
  s1.tiles.foldl (fun s p => (p.2.rng.filter (fun e => e.grec == pa && e.owns)).foldl (fun s e => s.scramble (s.spPa p.1 e.spoff) e.len) s) s1

/-- A region whose pages software has moved has undefined contents (R65, log entry 127). -/
def State.checkRegion (s : State) (pa : Nat) : State := if s.regionMoved pa then s.scrambleRegion pa else s

/-- The head of a die's deliveries reads its next units: one in space 0 at once, another by an RD to its home (R87, R89). -/
def State.gatherGo (vd : Nat) : Nat → State → State
  | 0, s => s
  | n + 1, s =>
    match (s.die vd).gathers with
    | [] => s
    | g :: rest =>
      let sz := sbSize (gSBS (s.rec_ g.grec))
      let units := mapUnits g.list sz
      let put (x : List Byte × Bool) (s : State) : State := s.modDie vd (fun D => { D with gathers := { g with got := g.got ++ [x] } :: rest })
      match units.drop g.got.length with
      | [] =>
        let read (u : Nat) : List Byte × Bool := (((units.zip g.got).find? (fun q => q.1 == u)).map (·.2)).getD ([], true)
        ((s.modDie vd (fun D => { D with gathers := rest })).serveUnits (s.mgrEid g.grec) g.req.src g.spoff sz g.list g.req.slot g.ver read).gatherGo vd n
      | u :: _ =>
        match pieceAt (s.boundPieces g.grec) u with
        | none => (put (List.replicate 256 0, true) s).gatherGo vd n
        | some a =>
          if spaceOf a = 0 then let s1 := s.readCheck a 256 0; (put (rdBytes s1.mem a 256, g.lost || s1.eccBad a 256) s1).gatherGo vd n
          else
            let (dst, memd) := s.homeOf vd a
            s.send .req .rd { Msg.zero with src := s.mgrEid g.grec, dst := dst, asid := g.req.asid, memd := memd, adaptive := true, tag := 65535, pa := a, len := 255 }

/-- What a manager asked for has come, or was refused (`bs` empty). -/
def State.gatherGot (s : State) (vd : Nat) (bs : List Byte) (bad : Bool) : State :=
  match (s.die vd).gathers with
  | [] => s
  | g :: rest =>
    let x := if bs.length = 256 then (bs, bad || g.lost) else (List.replicate 256 0, true)
    (s.modDie vd (fun D => { D with gathers := { g with got := g.got ++ [x] } :: rest })).gatherGo vd (wbFuel * (rest.length + 1))

/-- Sub-blocks from home memory (R74): at once where all lie in space 0, and otherwise once the homes have sent them. `lost`: the bytes that
are to be sent are no longer there, and the check of R85 is made to fail. -/
def State.fromHome (s0 : State) (pa : Nat) (req : Msg) (spoff : Nat) (list : BitVec 256) (lost : Bool) : State :=
  let s := s0.checkRegion pa
  let ps := s.boundPieces pa
  let vd := nfld pa 37 2
  let sz := sbSize (gSBS (s.rec_ pa))
  if ps.all (fun p => spaceOf p.pa == 0) then
    let s1 := s.readChecks ((mapUnits list sz).filterMap (pieceAt ps)) 256 0
    let rd (o : Nat) : List Byte × Bool :=
      match pieceAt ps o with
      | some a => (rdBytes s1.mem a 256, lost || s1.eccBad a 256)
      | none => (List.replicate 256 0, true)
    s1.serveUnits (s.mgrEid pa) req.src spoff sz list req.slot (gVERSION (s.rec_ pa)) rd
  else
    let s1 := s.modDie vd (fun D => { D with gathers := D.gathers ++ [⟨pa, req, spoff, list, gVERSION (s.rec_ pa), lost, []⟩] })
    if (s.die vd).gathers.isEmpty then s1.gatherGo vd wbFuel else s1

def opServe : Nat := 7
def opServeWait : Nat := 8
def opBind : Nat := 0
def opBindUndo : Nat := 1
def opRecall : Nat := 2
def opRemove : Nat := 3
def opRetire : Nat := 4
def opWrapRecall : Nat := 5
def opWrap : Nat := 6
/-- What was delivered under a hold, kept so that GREDO can have it repeated from the same source (R85): `left` is the source. -/
def opDelivered : Nat := 9
/-- A repeated delivery from an owner that the first one demoted. -/
def opRedo : Nat := 10

def State.addOp (s : State) (vd : Nat) (o : MgrOp) : State := s.modDie vd (fun D => { D with ops := D.ops ++ [o] })
def State.dropOp (s : State) (vd : Nat) (o : MgrOp) : State := s.modDie vd (fun D => { D with ops := dropFirst (fun x => x == o) D.ops })

/-- The sub-kind of a FWD, ATTR[6:4] (R123). -/
def fwdSub (i : Instr) : Nat :=
  match i with
  | .fwdDemote => 0x10
  | .fwdRecall => 0x20
  | .fwdInvalidate => 0x30
  | .fwdServeDemote => 0x40
  | _ => 0
/-- A manager recalls an owner's copy (R78). -/
def State.sendRecall (s : State) (pa owner : Nat) : State :=
  s.send .fwd .fwdRecall { s.fromMgr pa owner with attr := BitVec.ofNat 32 (fwdSub .fwdRecall) }

/-- Ask an owner to serve: the list, the target tile and its SPOFF (R123). -/
def State.sendServe (s : State) (pa owner : Nat) (i : Instr) (req : Msg) (spoff : Nat) (list : BitVec 256) : State :=
  let m := s.fromMgr pa owner
  s.send .fwd i (msgWithMap { m with slot := req.slot, tag := req.tag, attr := BitVec.ofNat 32 (wfld req.attr 0 1 + fwdSub i), aux4 := BitVec.ofNat 64 (req.src + spoff * 2 ^ 24) } list)

def acqExcl (m : Msg) : Bool := wbit m.attr 0
def acqTry (m : Msg) : Bool := wbit m.attr 2
def acqKnown (m : Msg) : Bool := wbit m.attr 3
/-- Scratchpad offset of the requester's copy, which an ACQREQ carries in AUX2 (log entry 143). -/
def acqSpoff (m : Msg) : Nat := m.aux2.toNat

/-- Is the requester the retained owner, whose copy already matches (R74)? A request with KNOWN = 0, or with an older VER, comes from another
crew of the owner's tile, whose copy does not (R75, log entry 145). -/
def ownRequest (r : Nat) (req : Msg) : Bool := gOV r && gOWNER r == req.src && acqKnown req && dfld req.aux4 0 32 == gVERSION r

/-- Remember a delivery for GREDO (R85). -/
def State.keepDelivery (s : State) (vd pa src : Nat) (req : Msg) (list : BitVec 256) : State :=
  s.modDie vd (fun D => { D with ops := D.ops.filter (fun o => !(o.grec == pa && o.kind == opDelivered && o.req.src == req.src && o.req.slot == req.slot)) ++ [⟨pa, opDelivered, src, list, req⟩] })

/-- Deliver from the source R74 names. -/
def State.deliverFrom (s0 : State) (vd pa : Nat) (req : Msg) (spoff : Nat) (list : BitVec 256) (excl : Bool) : State :=
  let r := s0.rec_ pa
  let away := gOV r && !ownRequest r req
  let s := if list = 0 then s0 else s0.keepDelivery vd pa (if away then gOWNER r else s0.mgrEid pa) req list
  if away then
    if list = 0 && !excl then s
    else
      let i : Instr := if !excl then .fwdServe else if list = 0 then .fwdDemote else .fwdServeDemote
      (s.addOp vd ⟨pa, opServe, gOWNER r, list, req⟩).sendServe pa (gOWNER r) i req spoff list
  else if gOV r || list = 0 then s
  else s.fromHome pa req spoff list false

/-- Grant a request (R73, R74). -/
def State.grantTo (s : State) (vd pa : Nat) (m : Msg) : State :=
  let r := s.rec_ pa
  let excl := acqExcl m
  let list := if ownRequest r m then 0 else s.changed pa (acqKnown m) (dfld m.aux4 0 32)
  let s1 := if excl then (s.setGState pa 2).recPut pa 272 24 m.src else (s.setGState pa 1).recPut pa 160 16 (gSHCOUNT r + 1)
  let s2 := s1.reply m .grant (fun g => msgWithMap { g with attr := m.attr, aux4 := BitVec.ofNat 64 (gVERSION r) } list)
  s2.deliverFrom vd pa m (acqSpoff m) list excl

/-- Serve the queue: an exclusive head alone, a shared head with the shared requests directly behind it (R73). -/
def State.serveQueue (s : State) (vd pa : Nat) : Nat → State
  | 0 => s
  | fuel + 1 =>
    match (queueOf s vd pa).head? with
    | none => s
    | some q =>
      let r := s.rec_ pa
      if acqExcl q.2 then (if gSTATE r = 0 then (s.dequeue vd pa q).grantTo vd pa q.2 else s)
      else if gSTATE r = 2 || 65535 ≤ gSHCOUNT r then s
      else ((s.dequeue vd pa q).grantTo vd pa q.2).serveQueue vd pa fuel

/-! ### Requests -/

def State.isGuard (s : State) (vd pa : Nat) : Bool := (s.die vd).guards.contains pa
def State.isGroup (s : State) (vd pa : Nat) : Bool := (s.die vd).groups.contains pa
/-- A record is busy with an operation of its manager that later requests wait behind (R64, R73, R83). -/
def State.mgrBusy (s : State) (vd pa : Nat) : Bool :=
  (s.isGuard vd pa && gSTATE (s.rec_ pa) == 3) || (s.die vd).ops.any (fun o => o.grec == pa && o.kind ≤ opWrap)

/-- The checks of R73 before its table. -/
def State.acqCheck (s : State) (vd pa : Nat) (m : Msg) : Option Nat :=
  let r := s.rec_ pa
  if !s.isGuard vd pa || !gINIT r then some gNOTINIT
  else if gASID r != m.asid then some gWRONGASID
  else if gPOISON r then some gPOISONED
  else if !gBOUND r then some gNOTBOUND
  else none

def State.denyTo (s : State) (req : Msg) (status : Nat) (stale : Bool) : State :=
  s.reply req .deny (fun r => { r with attr := BitVec.ofNat 32 (wfld req.attr 0 1 + status * 256 + b2n stale * 2 ^ 22) })

/-- Does the binding a request carries differ from the record's (R393)? -/
def stale (r : Nat) (m : Msg) : Bool := dfld m.aux0 0 48 != gRBASE r || dfld m.aux1 0 11 != gBinding r

/-- ACQREQ (R73, R393). -/
def acqreq (s : State) : State :=
  let m := s.msg; let pa := s.mrec; let vd := s.mdie
  if s.mgrBusy vd pa then s.holdDie vd (evM .acqreq m)
  else match s.acqCheck vd pa m with
    | some st => s.denyTo m st false
    | none =>
      let r := s.rec_ pa
      let waiters := (queueOf s vd pa).length != 0
      let queue : State := if 4096 ≤ (s.die vd).gqueue.length then s.holdDie vd (evM .acqreq m) else s.enqueue vd pa m
      if stale r m then s.denyTo m 0 true
      else if gSTATE r = 0 && !waiters then s.grantTo vd pa m
      else if gSTATE r = 1 && !waiters && gSHCOUNT r < 65535 && !acqExcl m then s.grantTo vd pa m
      else if acqTry m then s.denyTo m gBUSY false
      else queue
def execAcqreq (s : State) : Out := .next (acqreq s)

/-- A FREE guard has no delivery to repeat. -/
def State.forgetDeliveries (s : State) (vd pa : Nat) : State :=
  s.modDie vd (fun D => { D with ops := D.ops.filter (fun o => !(o.grec == pa && o.kind == opDelivered)) })

/-- The hold a release ends. Once none is left the guard is FREE and the queue is served (R73). -/
def State.freed (s : State) (vd pa : Nat) (excl : Bool) : State :=
  let r := s.rec_ pa
  if excl then (((s.forgetDeliveries vd pa).setGState pa 0).recPut pa 272 24 0).serveQueue vd pa 4097
  else
    let n := gSHCOUNT r - 1
    let s1 := s.recPut pa 160 16 n
    if n = 0 then ((s1.forgetDeliveries vd pa).setGState pa 0).serveQueue vd pa 4097 else s1

/-- A crew's guards when it cannot be restored (R84): an exclusive hold is poisoned, its region's contents are undefined, and every waiter is
answered; a shared one is released. -/
def State.poisonGuard (s : State) (pa : Nat) (excl : Bool) : State :=
  let vd := nfld pa 37 2
  if excl then
    let s1 := (((s.recPut pa 2 1 1).setGState pa 0).scrambleRegion pa).forgetDeliveries vd pa
    (queueOf s1 vd pa).foldl (fun s q => (s.dequeue vd pa q).denyTo q.2 gPOISONED false) s1
  else s.freed vd pa false

/-- Packages of this package's view of its domain, itself first (R129). -/
def State.domain (s : State) : List Nat :=
  s.pkg :: ((s.die 8).frt.filter (fun p => p.2.getLsbD 0 && p.1 != s.pkg && decide (p.1 < 1024))).map (·.1)

/-- FWD invalidate to every package of the domain view (R64, R83); each answers once. -/
def State.sendInvalidate (s : State) (pa : Nat) : State :=
  s.domain.foldl (fun s p => s.send .fwd .fwdInvalidate { s.fromMgr pa (p * 4096 + 8 * 256) with attr := BitVec.ofNat 32 (fwdSub .fwdInvalidate) }) s

/-- RELREQ (R77). At the top VERSION the wrap of R83 starts. ATTR[4] set comes for a crew of another package that could not be
restored (R84, log entry 42). -/
def relreq (s : State) : State :=
  let m := s.msg; let pa := s.mrec; let vd := s.mdie
  let r := s.rec_ pa
  let dirty := msgMap m
  if wbit m.attr 4 then s.poisonGuard pa (wbit m.attr 0)
  else if wbit m.attr 0 then
    if dirty = 0 then
      ((s.setOwner pa m.src).ackTo m gOK (gVERSION r)).freed vd pa true
    else if gVERSION r = 0xFFFFFFFF then
      let s1 := (s.setGState pa 3).setOwner pa m.src
      (s1.addOp vd ⟨pa, opWrapRecall, m.src, 0, m⟩).sendRecall pa m.src
    else
      let v := gVERSION r + 1
      let s1 := (List.range 256).foldl (fun s i => if dirty.getLsbD i then s.setStamp pa i v else s) (s.setVersion pa v)
      ((s1.setOwner pa m.src).ackTo m gOK v).freed vd pa true
  else (s.ackTo m gOK (gVERSION r)).freed vd pa false
def execRelreq (s : State) : Out := .next (relreq s)

/-- WDRAW (R81): a waiting request is removed and acknowledged; once granted, nothing is answered. ATTR[3] set says that a
hold moved to the tile in AUX0 (live migration, R81). -/
def wdraw (s : State) : State :=
  let m := s.msg; let pa := s.mrec; let vd := s.mdie
  if wbit m.attr 3 then
    if gSTATE (s.rec_ pa) = 2 then s.recPut pa 272 24 (dfld m.aux0 0 24) else s
  else match (queueOf s vd pa).find? (fun q => q.2.src == m.src && q.2.slot == m.slot) with
    | some q => (s.dequeue vd pa q).ackTo m gOK 0
    | none => s
def execWdraw (s : State) : Out := .next (wdraw s)

/-- GREDO (R85): the delivery once more from its source, which is home memory once a source that still owned its copy has written it back
(R78), or, after the second failure (ATTR[2], log entry 25), the hold ends
without change. -/
def gredo (s : State) : State :=
  let m := s.msg; let pa := s.mrec; let vd := s.mdie
  if wbit m.attr 2 then s.freed vd pa (wbit m.attr 0)
  else
    match (s.die vd).ops.find? (fun o => o.grec == pa && o.kind == opDelivered && o.req.src == m.src && o.req.slot == m.slot) with
    | none => s
    | some o =>
      let req := { o.req with attr := 0 }
      let owner := gOV (s.rec_ pa) && gOWNER (s.rec_ pa) == o.left
      if o.left = s.mgrEid pa || (!owner && !acqExcl o.req) then s.fromHome pa req (acqSpoff req) o.list false
      else
        (s.addOp vd { o with kind := if owner then opServe else opRedo, req := req }).sendServe pa o.left .fwdServe req (acqSpoff req) o.list
def execGredo (s : State) : Out := .next (gredo s)

/-! ### Longer operations: UNBIND, RETIRE and wrap (R64, R83) -/

/-- Clear a bound record's filter pieces: FILT remove to each piece's home. -/
def State.sendFilt (s : State) (i : Instr) (grec : Nat) (p : FiltPiece) : State :=
  let (dst, memd) := s.homeOf 0 p.pa
  s.send .fwd i { Msg.zero with src := s.mgrEid grec, dst := dst, memd := memd, tag := p.pa / 4096 % 65536, pa := p.pa, attr := if i = .filtRemove then 1 else 0, aux0 := BitVec.ofNat 64 p.len, aux1 := BitVec.ofNat 64 grec }

/-- Steps 4 and 5 of R64: the binding is gone; a RETIRE goes on to invalidate. -/
def State.unbound (s : State) (vd pa : Nat) (req : Msg) (retire : Bool) : State :=
  let s1 := (s.recPut pa 1 1 0).modDie vd (fun D => { D with pieces := D.pieces.filter (fun p => p.rec_ != pa) })
  if retire then ((s1.setGState pa 3).addOp vd ⟨pa, opRetire, s1.domain.length, 0, req⟩).sendInvalidate pa
  else (s1.ackTo req gOK 0).unholdDie vd

/-- Step 2 of R64. -/
def State.removePieces (s0 : State) (vd pa : Nat) (req : Msg) (retire : Bool) : State :=
  let s := s0.checkRegion pa
  let ps := s.boundPieces pa
  if ps.isEmpty then s.unbound vd pa req retire
  else ps.foldl (fun s p => s.sendFilt .filtRemove pa p) (s.addOp vd ⟨pa, opRemove, ps.length, 0, req⟩)

/-- UNBIND at the manager (R64). -/
def gadmUnbind (retire : Bool) (i : Instr) (s : State) : State :=
  let m := s.msg; let pa := s.mrec; let vd := s.mdie
  let r := s.rec_ pa
  if s.mgrBusy vd pa then s.holdDie vd (evM i m)
  else if !s.isGuard vd pa || !gINIT r then s.ackTo m gNOTINIT 0
  else if gASID r != m.asid then s.ackTo m gWRONGASID 0
  else if gPOISON r && !retire then s.ackTo m gPOISONED 0
  else if gSTATE r != 0 || (queueOf s vd pa).length != 0 then s.ackTo m gBUSY 0
  else if !gBOUND r then (if retire then s.unbound vd pa m true else s.ackTo m gNOTBOUND 0)
  else if gOV r then (s.addOp vd ⟨pa, opRecall, gOWNER r, 0, m⟩).sendRecall pa (gOWNER r)
  else s.removePieces vd pa m retire
def execGadmUnbind (s : State) : Out := .next (gadmUnbind false .gadmUnbind s)
def execGadmUnbindRetire (s : State) : Out := .next (gadmUnbind true .gadmUnbindRetire s)
def isRetire (m : Msg) : Bool := wfld m.attr 0 2 == 3

/-- A retained owner's copy is home (R78): the operations that waited for it go on. -/
def State.ownerDone (s : State) (vd pa eid : Nat) : State :=
  (s.die vd).ops.foldl (fun s o =>
    if o.grec != pa || o.left != eid then s
    else if o.kind = opRecall then (s.dropOp vd o).removePieces vd pa o.req (isRetire o.req)
    else if o.kind = opWrapRecall then ((s.dropOp vd o).addOp vd ⟨pa, opWrap, s.domain.length, 0, o.req⟩).sendInvalidate pa
    else if o.kind = opServeWait then (s.dropOp vd o).fromHome pa o.req (acqSpoff o.req) o.list false
    else s) s

/-- WBNOTE: OV is cleared if OWNER still names the tile (R78). -/
def wbnote (s : State) : State :=
  let m := s.msg; let pa := s.mrec
  let r := s.rec_ pa
  let s1 := if gOV r && gOWNER r = m.src then s.clearOV pa else s
  s1.ownerDone s.mdie pa m.src
def execWbnote (s : State) : Out := .next (wbnote s)

/-- SERVED: an owner demoted for an exclusive grant owns no longer (R74). -/
def served (s : State) : State :=
  let m := s.msg; let pa := s.mrec; let vd := s.mdie
  match (s.die vd).ops.find? (fun o => o.grec == pa && (o.kind == opServe || o.kind == opRedo) && o.left == m.src && o.req.slot == m.slot && o.req.tag == m.tag) with
  | none => s
  | some o =>
    let s1 := s.dropOp vd o
    if acqExcl o.req && gOV (s.rec_ pa) && gOWNER (s.rec_ pa) = m.src then s1.clearOV pa else s1
def execServed (s : State) : Out := .next (served s)

/-- NOTRETAINED (R78): wait for the tile's WBNOTE unless it has come, then serve from home, which is the source from then on. A copy that had been demoted went without a
writeback, so that a repeated delivery of it fails. -/
def notretained (s : State) : State :=
  let m := s.msg; let pa := s.mrec; let vd := s.mdie
  let pending := gOV (s.rec_ pa) && gOWNER (s.rec_ pa) == m.src
  match (s.die vd).ops.find? (fun o => o.grec == pa && o.left == m.src && (o.kind == opServe || o.kind == opRedo) && o.req.slot == m.slot && o.req.tag == m.tag) with
  | some o =>
    let s1 := if o.list = 0 ∨ o.kind = opRedo then s.dropOp vd o else (s.dropOp vd o).keepDelivery vd pa (s.mgrEid pa) o.req o.list
    if pending && o.kind == opServe then s1.addOp vd { o with kind := opServeWait }
    else s1.fromHome pa o.req (acqSpoff o.req) o.list (o.kind == opRedo)
  | none => if pending then s else s.ownerDone vd pa m.src
def execNotretained (s : State) : Out := .next (notretained s)

/-- INVACK: one answer per package (R83). The last one ends a RETIRE (R64 steps 6 and 7) or a wrap (R83 step 3). -/
def invack (s : State) : State :=
  let pa := s.mrec; let vd := s.mdie
  match (s.die vd).ops.find? (fun o => o.grec == pa && (o.kind == opRetire || o.kind == opWrap)) with
  | none => s
  | some o =>
    let s1 := s.dropOp vd o
    if 1 < o.left then s1.addOp vd { o with left := o.left - 1 }
    else if o.kind = opRetire then
      let s2 := { s1 with mem := wrBytes (wrBytes s1.mem (gSADDR (s.rec_ pa)) (List.replicate 1024 0)) pa (List.replicate 64 0) }
      ((s2.modDie vd (fun D => { D with guards := D.guards.filter (· != pa) })).ackTo o.req gOK 0).unholdDie vd
    else
      let s2 := (((s1.setVersion pa 1).allStamps pa 1).clearOV pa).ackTo o.req gOK 1
      (s2.freed vd pa true).unholdDie vd
def execInvack (s : State) : Out := .next (invack s)

/-! ### BINIT and BIND (R60, R62, R63) -/

/-- BINIT at the manager (R60, R62). A VERSION at its top goes on to 0 (log entry 146). -/
def gadmBinit (s : State) : State :=
  let m := s.msg; let pa := s.mrec; let vd := s.mdie
  let arr := s.canon m.aux0.toNat
  let r := s.rec_ pa
  let D := s.die vd
  let full := decide (2 ^ 18 ≤ (D.guards.filter (fun g => gASID (s.rec_ g) == m.asid)).length)
  if s.mgrBusy vd pa then s.holdDie vd (evM .gadmBinit m)
  else if s.isGroup vd pa || D.groups.any (fun g => overlaps arr 1024 g 64 || overlaps arr 1024 (uARRAY (s.rec_ g)) (4 * uCAP (s.rec_ g))) then s.ackTo m gBUSY 0
  else if s.isGuard vd pa then
    if gPOISON r && gSTATE r = 0 && (queueOf s vd pa).length = 0 then
      if gASID r != m.asid && full then s.ackTo m gLIMIT 0 else
      let v := (gVERSION r + 1) % 2 ^ 32
      let s1 := ((((((s.recPut pa 16 9 m.asid).recPut pa 2 1 0).recPut pa 15 1 0).recPut pa 160 16 0).setVersion pa v).recPut pa 224 46 (arr / 1024))
      (s1.allStamps pa v).ackTo m gOK 0
    else s.ackTo m gBUSY 0
  else if full then s.ackTo m gLIMIT 0
  else
    let s1 := s.putRec pa (1 + m.asid % 512 * 2 ^ 16 + arr / 1024 % 2 ^ 46 * 2 ^ 224)
    ((s1.allStamps pa 0).modDie vd (fun D => { D with guards := pa :: D.guards })).ackTo m gOK 0
def execGadmBinit (s : State) : Out := .next (gadmBinit s)

def pieceOfBytes (grec : Nat) (bs : List Byte) : FiltPiece := ⟨leNat (bs.take 7), leNat ((bs.drop 8).take 4), grec⟩
def piecesOfData (grec : Nat) : Nat → List Byte → List FiltPiece
  | 0, _ => []
  | n + 1, bs => if bs.length < 16 then [] else pieceOfBytes grec (bs.take 16) :: piecesOfData grec n (bs.drop 16)

/-- Filter places of a piece's home die (R63). -/
def filterRoom (vd : Nat) : Nat := if vd < 4 then 4096 else 1024

/-- Is any of these bytes in a piece that a manager of the package is installing or has installed (R63)? -/
def State.claimed (s : State) (pa n : Nat) : Bool := s.dies.any (fun d => d.2.pieces.any (fun f => overlaps pa n f.pa f.len))

/-- GADM BIND (R63, R124): the pieces of each binder are gathered until its LAST; then they are installed. -/
def gadmBind (s : State) : State :=
  let m := s.msg; let pa := s.mrec; let vd := s.mdie
  let r := s.rec_ pa
  if s.mgrBusy vd pa then s.holdDie vd (evM .gadmBind m)
  else
    let canonP (p : FiltPiece) : FiltPiece := { p with pa := s.canon p.pa }
    let mine := ((piecesOfData pa 20 m.data).map canonP)
    let asks (q : Nat × Nat × Nat × FiltPiece) : Bool := q.1 == m.src && q.2.1 == m.slot && q.2.2.1 == m.tag && q.2.2.2.rec_ == pa
    let ps := ((s.die vd).bindq.filter asks).map (·.2.2.2) ++ mine
    let clear : State := s.modDie vd (fun D => { D with bindq := D.bindq.filter (fun q => !asks q) })
    if !wbit m.attr 2 then s.modDie vd (fun D => { D with bindq := D.bindq ++ mine.map (fun p => (m.src, m.slot, m.tag, p)) })
    else if !s.isGuard vd pa || !gINIT r then clear.ackTo m gNOTINIT 0
    else if gASID r != m.asid then clear.ackTo m gWRONGASID 0
    else if gPOISON r then clear.ackTo m gPOISONED 0
    else if gBOUND r then clear.ackTo m gALREADYBOUND 0
    else if ps.any (fun p => s.filtered p.pa p.len || s.claimed p.pa p.len) then clear.ackTo m gOVERLAP 0
    else
      let s1 := clear.modDie vd (fun D => { D with pieces := D.pieces.filter (fun p => p.rec_ != pa) ++ ps })
      ps.foldl (fun s p => s.sendFilt .filtInstall pa p) (s1.addOp vd ⟨pa, opBind, ps.length, 0, m⟩)
def execGadmBind (s : State) : Out := .next (gadmBind s)

/-- The die that keeps a piece. -/
def State.pieceDie (s : State) (pa : Nat) : Nat := (s.filterDie pa).getD 8

/-- FILT install (R63, R124): refused when the filter is full, and on an overlap, which only the manager of another package cannot
see itself before it asks (log entry 26). -/
def filtInstall (s : State) : State :=
  let m := s.msg
  let pa := s.canon m.pa
  let vd := s.pieceDie pa
  let p : FiltPiece := ⟨pa, dfld m.aux0 0 32, m.aux1.toNat⟩
  if s.filtered pa p.len then s.answer .ack (fun r => { r with memd := true, attr := 0xA00 })
  else if filterRoom vd ≤ (s.die vd).filter.length then s.answer .ack (fun r => { r with memd := true, attr := 0xB00 })
  else (s.modDie vd (fun D => { D with filter := D.filter ++ [p] })).answerMgr .ack
def execFiltInstall (s : State) : Out := .next (filtInstall s)

def filtRemove (s : State) : State :=
  let m := s.msg
  let pa := s.canon m.pa
  (s.modDie (s.pieceDie pa) (fun D => { D with filter := D.filter.filter (fun f => !(f.pa == pa && f.rec_ == m.aux1.toNat)) })).answerMgr .ack
def execFiltRemove (s : State) : Out := .next (filtRemove s)

/-- A successful BIND (R63). -/
def State.bindDone (s : State) (vd pa : Nat) (req : Msg) : State :=
  let v := (gVERSION (s.rec_ pa) + 1) % 2 ^ 32
  let s1 := (((s.recPut pa 1 1 1).recPut pa 64 48 (dfld req.aux0 0 48)).recPut pa 5 2 (dfld req.aux1 0 2)).recPut pa 7 8 (dfld req.aux1 2 8)
  ((((s1.setVersion pa v).allStamps pa v).ackTo req gOK 0)).unholdDie vd

/-- ACK of a FILT at the manager. A full filter or an overlap undoes the BIND (R63); `list` keeps the first such status. -/
def State.filtAck (s : State) (vd status : Nat) : State :=
  let grecOf (o : MgrOp) : Bool := (o.kind == opBind || o.kind == opBindUndo || o.kind == opRemove) && (s.boundPieces o.grec).any (fun p => p.pa == s.msg.pa)
  match (s.die vd).ops.find? grecOf with
  | none => s
  | some o =>
    let s1 := s.dropOp vd o
    let bad := if o.list != 0 then o.list else BitVec.ofNat 256 status
    if 1 < o.left then s1.addOp vd { o with left := o.left - 1, list := bad }
    else if o.kind = opBind then
      if bad != 0 then
        let ps := s.boundPieces o.grec
        ps.foldl (fun s p => s.sendFilt .filtRemove o.grec p) (s1.addOp vd { o with kind := opBindUndo, left := ps.length, list := bad })
      else s1.bindDone vd o.grec o.req
    else if o.kind = opBindUndo then
      ((s1.modDie vd (fun D => { D with pieces := D.pieces.filter (fun p => p.rec_ != o.grec) })).ackTo o.req o.list.toNat 0).unholdDie vd
    else s1.unbound vd o.grec o.req (isRetire o.req)

/-- The acquires of the entries given are no longer awaited: their crew has ended and withdrawn them (R82). -/
def State.dropAcquires (s : State) (t : Nat) (es : List RngEntry) : State :=
  let gone (j : Nat) (p : Pend) : Bool := es.any (fun e => e.grec == p.pa && e.mine j) && (match p.kind with | .acquire _ => true | _ => false)
  (List.range 8).foldl (fun (s : State) j => s.modSlot t j (fun h => { h with pend := h.pend.filter (fun p => !gone j p) })) s

/-- An ACK at a tile: the outcome of a guard instruction (R61), of a release or withdrawal of an ended crew (tag 65535, R82; its
retained copy goes home), or of a withdrawal before a swap (tag 65534, R81; `prev` 7 marks the request to send again). -/
def State.tileAck (s : State) : State :=
  let m := s.msg
  let t := s.dstTile; let k := m.slot
  if m.tag = 65535 then
    let hit (e : RngEntry) : Bool := e.grec == m.pa && e.mine k && (e.st == 6 || (e.pending && e.prev == 6))
    let s0 := (s.dropAcquires t ((s.tile t).rng.filter hit)).modTile t (fun T => { T with rng := (T.rng.filter (fun e => !hit e || e.own)).map (fun e => if hit e then { e with st := 4, prev := 0 } else e) })
    let s2 := ((s.tile t).rng.filter (fun e => hit e && e.own)).foldl (fun s e => s.writeBack t { e with st := 4, prev := 0 }) s0
    match s2.crewOf t k with
    | some c => s2.emit (evTK .crewRetire t c.id.toNat)
    | none => s2
  else if m.tag = 65534 then
    match (s.tile t).rngAt k m.pa with
    | some e =>
      let s1 := s.modTile t (fun T => T.rngMod k m.pa (fun e => { e with prev := 7 }))
      if e.own then s1.writeBack t { e with prev := 7 } else s1
    | none => s
  else match (s.slot t k).getPend m.tag with
    | some ⟨_, _, _, _, .guardOp rd isRel⟩ =>
      let s1 := if isRel then s.modTile t (fun T => T.rngMod k m.pa (fun e => { e with ver := dfld m.aux4 0 32 })) else s
      s1.outcome t k m.tag rd (BitVec.ofNat 32 (wfld m.attr 8 4))
    | _ => s

/-- ACK. At a manager, a memory channel (R111), it answers a FILT. -/
def ack (s : State) : State :=
  let m := s.msg
  if m.memd then s.filtAck (eidDie m.dst) (wfld m.attr 8 4) else s.tileAck
def execAck (s : State) : Out := .next (ack s)

end Sys2Proof.Machine
end

