-- ==== Sys2Proof/Machine/Group.lean ====
section
/-! DEFINITION. Groups and barriers: the instructions JOIN, LEAVE, ARRIVE, BWAIT, BARW (R240, R241), the group manager (R148,
R150, R151) and releases (R104, R152, R154). -/

namespace Sys2Proof.Machine
open Sys2Proof

/-! ### Status codes of R151 -/

def uOK : Nat := 0
def uNOTMEMBER : Nat := 1
def uMEMBER : Nat := 2
def uFULL : Nat := 3
def uWRONGASID : Nat := 4
def uBADSPACE : Nat := 5
def uARRIVED : Nat := 6
def uRESPAN : Nat := 7

/-- A group's record lies in space 0 of the package of its members (R148, R240). -/
def groupSpace (pa : Nat) : Bool := spaceOf pa == 0

/-! ### GMEM entries (R149) -/

def gmemWord (pa : Nat) (arr : Bool) : DWord := BitVec.ofNat 64 (pa / 64 % 2 ^ 50 + b2n arr * 2 ^ 50 + 2 ^ 63)
def gmemV (w : DWord) : Bool := w.getLsbD 63
def gmemArr (w : DWord) : Bool := w.getLsbD 50
/-- The entry of a slot for a record. -/
def Slot.member (h : Slot) (pa : Nat) : Option Nat :=
  (List.range 8).find? (fun j => let w := mget 0 h.gmem j; gmemV w && gmemRec w == pa)
def Slot.freeGmem (h : Slot) : Option Nat := (List.range 8).find? (fun j => !gmemV (mget 0 h.gmem j))
def Slot.setArr (h : Slot) (j : Nat) (b : Bool) : Slot := { h with gmem := mset 0 h.gmem j (gmemWord (gmemRec (mget 0 h.gmem j)) b) }
def Slot.arrived (h : Slot) (j : Nat) : Bool := gmemArr (mget 0 h.gmem j)
def Slot.span (h : Slot) (j : Nat) : Nat := mget 0 h.gspan j

/-- Kinds of a group request in PendKind.group: 0 JOIN, 1 LEAVE (ARR 0), 5 LEAVE (ARR 1), 2 ARRIVE, 3 BARW. -/
def gqJoin : Nat := 0
def gqLeave : Nat := 1
def gqArrive : Nat := 2
def gqBarw : Nat := 3
def gqLeaveArr : Nat := 5

/-- Joins of a slot not yet answered: each keeps a place of GMEM for its entry, and a second JOIN of its record finds a member (log entry
167). -/
def Slot.joining (h : Slot) : List Nat := (h.pend.filter (fun p => match p.kind with | .group _ 0 _ => true | _ => false)).map (·.pa)
def Slot.gmemUsed (h : Slot) : Nat := ((List.range 8).filter (fun j => gmemV (mget 0 h.gmem j))).length + h.joining.length

/-! ### The instructions -/

def join (i : Instr) (d : Reg) (sg : BitVec 3) (a b : Src) (s : State) : M State := do
  enter i .system false 0 s
  let srcs := [a] ++ srcPair b
  let x ← readSrc i srcs a.r s
  let off ← readSrc i srcs b.r s
  let cap ← readSrc i srcs (b.r + 1) s
  destLater i d s
  illValue (wfld cap 16 16 != 0) cap s
  let n := 4 * max (wfld cap 0 16) 1
  let p ← seg rGroup sg.toNat x.toNat 64 s
  let q ← seg rGroup sg.toNat off.toNat n s
  aligned p 64 x.toNat s
  aligned q 64 off.toNat s
  let (pa, s1) ← recAt p 64 s
  let (arr, s2) ← recAt q n s1
  if !groupSpace pa || !groupSpace arr || pa / 2 ^ 37 != arr / 2 ^ 37 then commitOutcome srcs d uBADSPACE s2
  else if 8 ≤ s2.th.gmemUsed then commitOutcome srcs d uFULL s2
  else if (s2.th.member pa).isSome || s2.th.joining.contains pa then commitOutcome srcs d uMEMBER s2
  else
    let s3 := commitNow (markLater d (consume srcs s2))
    .ok (s3.ask .grpreqJoin pa (.group d.toNat gqJoin 0) (fun m => { m with aux0 := BitVec.ofNat 64 (s.ctxName s.cur.1 s.cur.2), aux1 := BitVec.ofNat 64 arr, aux2 := BitVec.ofNat 64 (wfld cap 0 16) }))
def execJoin (d : Reg) (sg : BitVec 3) (a b : Src) (s : State) : Out := finish (join (.join d sg a b) d sg a b s)

/-- The part LEAVE, ARRIVE, BWAIT and BARW share: the record's address. -/
def groupPlace (i : Instr) (d : Reg) (sg : BitVec 3) (a : Src) (s : State) : M (Nat × State) := do
  enter i .system false 0 s
  let x ← readSrc i [a] a.r s
  destLater i d s
  recPlace rGroup sg.toNat x.toNat 64 64 s

def leave (i : Instr) (d : Reg) (sg : BitVec 3) (a : Src) (s : State) : M State := do
  let (pa, s1) ← groupPlace i d sg a s
  if !groupSpace pa then commitOutcome [a] d uBADSPACE s1
  else match s1.th.member pa with
    | none => commitOutcome [a] d uNOTMEMBER s1
    | some j =>
      let arr := s1.th.arrived j
      let s2 := commitNow (markLater d (consume [a] s1))
      let s3 := s2.ask .grpreqLeave pa (.group d.toNat (if arr then gqLeaveArr else gqLeave) j) (fun m => { m with attr := BitVec.ofNat 32 (1 + b2n arr * 8), aux0 := BitVec.ofNat 64 (s.ctxName s.cur.1 s.cur.2) })
      .ok (s3.modTh (fun h => { h with gmem := mset 0 h.gmem j 0 }))
def execLeave (d : Reg) (sg : BitVec 3) (a : Src) (s : State) : Out := finish (leave (.leave d sg a) d sg a s)

/-- ARRIVE and BARW with ARR = 0: the fence of R104, the arrival, ARR := 1. -/
def arriveWith (what : Nat) (d : Reg) (a : Src) (pa j : Nat) (s : State) : M State := do
  let span := s.th.span j
  fenceFirst 0x0F span s
  let s1 := (commitNow (markLater d (consume [a] s))).modTh (fun h => h.setArr j true)
  .ok (s1.ask .grpreqArrive pa (.group d.toNat what j) (fun m => { m with attr := BitVec.ofNat 32 (2 + span * 16), aux0 := BitVec.ofNat 64 (s.ctxName s.cur.1 s.cur.2) }))

def arrive (i : Instr) (d : Reg) (sg : BitVec 3) (a : Src) (s : State) : M State := do
  let (pa, s1) ← groupPlace i d sg a s
  if !groupSpace pa then commitOutcome [a] d uBADSPACE s1
  else match s1.th.member pa with
    | none => commitOutcome [a] d uNOTMEMBER s1
    | some j => if s1.th.arrived j then commitOutcome [a] d uARRIVED s1 else arriveWith gqArrive d a pa j s1
def execArrive (d : Reg) (sg : BitVec 3) (a : Src) (s : State) : Out := finish (arrive (.arrive d sg a) d sg a s)

/-- A thread parks BARRIER on GMEM entry j, which the model notes in parkReg. -/
def barMark : Nat := 64
def State.parkBarrier (s : State) (j : Nat) : State := (s.park pBARRIER).modTh (fun h => { h with parkReg := barMark + j })
/-- Wake a thread parked BARRIER on entry j, or on an entry the model does not know (a context that was loaded). -/
def State.wakeBarrier (s : State) (t k j : Nat) : State :=
  if (s.slot t k).parkReg < barMark || (s.slot t k).parkReg == barMark + j then s.wakeIf t k pBARRIER else s

/-- BARW commits and then parks BARRIER, its PC at the next instruction (R241). -/
def barw (i : Instr) (d : Reg) (sg : BitVec 3) (a : Src) (s : State) : M State := do
  let (pa, s1) ← groupPlace i d sg a s
  if !groupSpace pa then commitOutcome [a] d uBADSPACE s1
  else match s1.th.member pa with
    | none => commitOutcome [a] d uNOTMEMBER s1
    | some j =>
      if s1.th.arrived j then commitOutcome [a] d uARRIVED s1
      else do
        let s2 ← arriveWith gqBarw d a pa j s1
        .ok (s2.parkBarrier j)
def execBarw (d : Reg) (sg : BitVec 3) (a : Src) (s : State) : Out := finish (barw (.barw d sg a) d sg a s)

def bwait (i : Instr) (d : Reg) (sg : BitVec 3) (a : Src) (s : State) : M State := do
  let (pa, s1) ← groupPlace i d sg a s
  if !groupSpace pa then commitOutcome [a] d uBADSPACE s1
  else match s1.th.member pa with
    | none => commitOutcome [a] d uNOTMEMBER s1
    | some j => if s1.th.arrived j then .error (s1.parkBarrier j) else commitOutcome [a] d uOK s1
def execBwait (d : Reg) (sg : BitVec 3) (a : Src) (s : State) : Out := finish (bwait (.bwait d sg a) d sg a s)

/-! ### The manager (R150, R151) -/

/-- The smallest scope around an anchor tile that holds a tile (R94, R148). -/
def spanOf (anchor eid : Nat) : Nat :=
  if eidPkg anchor != eidPkg eid then 4
  else if eidVd anchor != eidVd eid then 3
  else if anchor = eid then 0
  else if clusterOf (eidTile anchor) = clusterOf (eidTile eid) then 1 else 2

/-- EID of the tile a context name lies on. -/
def ctxEid (c : Nat) : Nat := ctxPkg c * 4096 + ctxTile c

def State.grpAnswer (s : State) (req : Msg) (pa status : Nat) : State :=
  let r := s.rec_ pa
  s.reply req .grprsp (fun m => { m with attr := BitVec.ofNat 32 (status + uSPAN r * 16), aux0 := BitVec.ofNat 64 (uANCHOR r) })

/-- The rearm of R151, or the end of a group nobody is in. -/
def State.rearm (s : State) (vd pa : Nat) : State :=
  let r := s.rec_ pa
  let s1 := ((s.recPut pa 80 16 0).recPut pa 32 16 (uRELOAD r)).recPut pa 1 2 0
  let s2 := if uRELOAD r = 0 then (s1.recPut pa 0 1 0).modDie vd (fun D => { D with groups := D.groups.filter (· != pa) }) else s1
  s2.unholdDie vd

/-- A release (R151): every arrival listed gets a GREL; with none listed the barrier rearms at once. -/
def State.groupRelease (s : State) (vd pa : Nat) : State :=
  let r := s.rec_ pa
  let s1 := ((s.recPut pa 1 2 1).recPut pa 48 16 (uNARR r)).recPut pa 96 32 (nfld r 96 32 + 1)
  let s2 := (List.range (uNARR r)).foldl (fun s i =>
    let c := rdLE s.mem (uARRAY r + 4 * i) 4 % 2 ^ 27
    s.send .fwd .grel { s.fromMgr pa (ctxEid c) with slot := ctxSlot c, aux0 := BitVec.ofNat 64 c, attr := BitVec.ofNat 32 (uSPAN r * 16) }) s1
  if uNARR r = 0 then s2.rearm vd pa else s2

/-- JOIN (R150, R151). -/
def grpreqJoin (s : State) : State :=
  let m := s.msg; let pa := s.mrec; let vd := s.mdie
  let r := s.rec_ pa
  let D := s.die vd
  let arr := s.canon m.aux1.toNat; let cap := dfld m.aux2 0 16
  let who := ctxEid (dfld m.aux0 0 27)
  if s.isGuard vd pa then s.grpAnswer m pa uBADSPACE
  else if s.isGroup vd pa then
    if uASID r != m.asid then s.grpAnswer m pa uWRONGASID
    else if uRELOAD r = uCAP r || (uBST r = 0 && uNARR r + uCOUNT r = uCAP r) then s.grpAnswer m pa uFULL
    else
      let s1 := s.recPut pa 16 16 (uRELOAD r + 1)
      let s2 := if uBST r = 0 then s1.recPut pa 32 16 (uCOUNT r + 1) else s1
      (s2.recPut pa 12 3 (max (uSPAN r) (spanOf (uANCHOR r) who))).grpAnswer m pa uOK
  else if D.guards.any (fun g => overlaps pa 64 g 64 || overlaps pa 64 (gSADDR (s.rec_ g)) 1024 || overlaps arr (4 * cap) g 64 || overlaps arr (4 * cap) (gSADDR (s.rec_ g)) 1024) then s.grpAnswer m pa uBADSPACE
  else if cap = 0 then s.grpAnswer m pa uFULL
  else
    let s1 := s.putRec pa (1 + m.asid % 512 * 2 ^ 3 + 1 * 2 ^ 16 + 1 * 2 ^ 32 + cap * 2 ^ 64 + arr / 64 % 2 ^ 50 * 2 ^ 128 + who % 2 ^ 24 * 2 ^ 192)
    (s1.modDie vd (fun D => { D with groups := pa :: D.groups })).grpAnswer m pa uOK
def execGrpreqJoin (s : State) : Out := .next (grpreqJoin s)

/-- The checks of every request to a live group. -/
def State.groupCheck (s : State) (vd pa : Nat) (m : Msg) : Option Nat :=
  if s.isGuard vd pa then some uBADSPACE
  else if !s.isGroup vd pa then some uNOTMEMBER
  else if uASID (s.rec_ pa) != m.asid then some uWRONGASID else none

/-- LEAVE (R151). -/
def grpreqLeave (s : State) : State :=
  let m := s.msg; let pa := s.mrec; let vd := s.mdie
  match s.groupCheck vd pa m with
  | some st => s.grpAnswer m pa st
  | none =>
    let r := s.rec_ pa
    let s1 := (s.recPut pa 16 16 (uRELOAD r - 1)).grpAnswer m pa uOK
    if wbit m.attr 3 then s1
    else if uBST r = 0 then
      let s2 := s1.recPut pa 32 16 (uCOUNT r - 1)
      if uCOUNT r = 1 then s2.groupRelease vd pa else s2
    else s1
def execGrpreqLeave (s : State) : Out := .next (grpreqLeave s)

/-- An arrival counted: the context is listed, and the last one releases (R151). -/
def State.countArrival (s : State) (vd pa c : Nat) : State :=
  let r := s.rec_ pa
  let s1 := ({ s with mem := wrLE s.mem (uARRAY r + 4 * uNARR r) 4 c }).recPut pa 80 16 (uNARR r + 1)
  let s2 := s1.recPut pa 32 16 (uCOUNT r - 1)
  if uCOUNT r = 1 then s2.groupRelease vd pa else s2

def grpreqArrive (s : State) : State :=
  let m := s.msg; let pa := s.mrec; let vd := s.mdie
  match s.groupCheck vd pa m with
  | some st => s.grpAnswer m pa st
  | none =>
    let r := s.rec_ pa
    if uBST r = 1 then s.holdDie vd (evM .grpreqArrive m)
    else if wfld m.attr 4 3 < uSPAN r then s.grpAnswer m pa uRESPAN
    else (s.grpAnswer m pa uOK).countArrival vd pa (dfld m.aux0 0 27)
def execGrpreqArrive (s : State) : Out := .next (grpreqArrive s)

/-- The tile of a member sends an engine's arrival for the thread (R152): ARR is set, and while it is set already the arrival
is held there. -/
def State.engineArrival (s : State) (m : Msg) : State :=
  let t := eidTile m.src; let k := m.slot
  match (s.slot t k).member m.pa with
  | none => s
  | some j =>
    if (s.slot t k).arrived j then s.holdTile t ⟨.grpreqEngineArrival, { msg := m, ok := false }⟩
    else (s.modSlot t k (fun h => h.setArr j true)).send .req .grpreqEngineArrival { m with attr := 3 }

/-- An engine's arrival for a named thread makes no fence check (R104, R152). `ok` false: one that its tile still holds. -/
def grpreqEngineArrival (s : State) : State :=
  let m := s.msg; let pa := s.mrec; let vd := s.mdie
  if !s.arg.ok then s.engineArrival m
  else match s.groupCheck vd pa m with
  | some st => s.grpAnswer m pa st
  | none =>
    if uBST (s.rec_ pa) = 1 then s.holdDie vd (evM .grpreqEngineArrival m)
    else (s.grpAnswer m pa uOK).countArrival vd pa (dfld m.aux0 0 27)
def execGrpreqEngineArrival (s : State) : Out := .next (grpreqEngineArrival s)

/-- GRELACK (R151): the last acknowledgement rearms the barrier. -/
def grelack (s : State) : State :=
  let pa := s.mrec; let vd := s.mdie
  let r := s.rec_ pa
  if !s.isGroup vd pa || uPEND r = 0 then s
  else
    let s1 := s.recPut pa 48 16 (uPEND r - 1)
    if uPEND r = 1 then s1.rearm vd pa else s1
def execGrelack (s : State) : Out := .next (grelack s)

/-! ### Answers at the tile -/

/-- RESPAN: fence again at the new SPAN and send the arrival again (R104). Until the fence holds, the answer is looked at
again each cycle. -/
def State.respan (s : State) (t k j pa : Nat) (m : Msg) : State :=
  let span := wfld m.attr 4 3
  let s1 := { s.modSlot t k (fun h => { h with gspan := mset 0 h.gspan j span }) with cur := (t, k) }
  if !s1.th.cbuf.isEmpty || s1.fenceWaits 0x0F span then s1.after (vdOf t) 1 (evM .grprsp m)
  else s1.send .req .grpreqArrive { s1.mgrMsg t k pa m.tag with attr := BitVec.ofNat 32 (2 + span * 16), aux0 := BitVec.ofNat 64 (s.ctxName t k) }

/-- GRPRSP (R151, R241). -/
def grprsp (s : State) : State :=
  let m := s.msg
  let t := s.dstTile; let k := m.slot
  let status := wfld m.attr 0 4; let span := wfld m.attr 4 3
  match (s.slot t k).getPend m.tag with
  | some ⟨_, _, pa, _, .group rd what j⟩ =>
    let v := BitVec.ofNat 32 status
    if what = gqJoin then
      let s1 := if status = uOK then
          match (s.slot t k).freeGmem with
          | some n => s.modSlot t k (fun h => { h with gmem := mset 0 h.gmem n (gmemWord pa false), gspan := mset 0 h.gspan n span })
          | none => s
        else s
      s1.outcome t k m.tag rd v
    else if what = gqLeave || what = gqLeaveArr then s.outcome t k m.tag rd v
    else if status = uRESPAN then s.respan t k j pa m
    else
      let s1 := s.modSlot t k (fun h => { h with gspan := mset 0 h.gspan j span })
      if status != uOK then
        (((s1.modSlot t k (fun h => h.setArr j false)).wakeBarrier t k j).outcome t k m.tag rd v).unholdTile t
      else if what = gqArrive then s1.outcome t k m.tag rd v
      else s1.settle t k m.tag
  | _ => s
def execGrprsp (s : State) : Out := .next (grprsp s)

/-- A release delivered to a slot: ARR is cleared, BARW's outcome is written, and the thread wakes (R151, R241). -/
def State.releaseMember (s : State) (t k j span : Nat) : State :=
  let pa := gmemRec (mget 0 (s.slot t k).gmem j)
  let s1 := s.modSlot t k (fun h => { h.setArr j false with gspan := mset 0 h.gspan j span })
  let s2 := match (s1.slot t k).pend.find? (fun p => p.pa == pa && (match p.kind with | .group _ 3 _ => true | _ => false)) with
    | some ⟨tag, _, _, _, .group rd _ _⟩ => s1.outcome t k tag rd (BitVec.ofNat 32 uOK)
    | _ => s1
  (s2.wakeBarrier t k j).unholdTile t

/-- The latched mask of thread k in a save-area header (R154, R332). -/
def State.latchAddr (s : State) (f : FwdEntry) (k : Nat) : Nat := s.canon f.target + 40 + slotIndex f.slots k

/-- The GMEM entry of an absent crew's saved thread that waits for a release of the group: bit j of the latched mask names entry j as the
thread record holds it. -/
def State.latchable (s : State) (f : FwdEntry) (k pa : Nat) : Option Nat :=
  let recAt := s.canon f.target + 0x100 + slotIndex f.slots k * 8192
  let gm (j : Nat) : DWord := BitVec.ofNat 64 (rdLE s.mem (recAt + 268 + 8 * (0x18 + j)) 8)
  if f.toTile then none
  else (List.range 8).find? (fun j => gmemV (gm j) && gmemRec (gm j) == pa && gmemArr (gm j) && !(rdLE s.mem (s.latchAddr f k) 1).testBit j)

/-- GREL (R151, R154, R333): delivered to the thread that waits for it, latched for an absent crew whose thread does, or passed on to its new
tile; then acknowledged. -/
def grel (s : State) : State :=
  let m := s.msg
  let t := s.dstTile; let k := ctxSlot (dfld m.aux0 0 27)
  let fs := (s.tile t).fwd.filter (fun f => f.slots.testBit k)
  let done (s : State) (latched : Nat) : State := s.answer .grelack (fun r => { r with memd := true, aux0 := m.aux0, attr := BitVec.ofNat 32 latched })
  if s.settling t k then s.holdTile t (evM .grel m)
  else match ((s.slot t k).member m.pa).filter (s.slot t k).arrived with
    | some j => done (s.releaseMember t k j (wfld m.attr 4 3)) 0
    | none => match fs.findSome? (fun f => (s.latchable f k m.pa).map (fun j => (f, j))) with
      | some (f, j) =>
        let a := s.latchAddr f k
        done { s with mem := wrLE s.mem a 1 (rdLE s.mem a 1 ||| 2 ^ j) } 1
      | none => match fs.find? (·.toTile) with
        | some f =>
          let k2 := f.newSlot k
          s.sendFrom (vdOf t) false .fwd .grel { m with dst := f.target, slot := k2, aux0 := BitVec.ofNat 64 (eidPkg f.target * 2 ^ 15 + eidTile f.target * 8 + k2) }
        | none => done s 0
def execGrel (s : State) : Out := .next (grel s)

/-- A group request that could not be routed (R394). -/
def State.groupUnreachable (s : State) (t k tag rd what j pa : Nat) : State :=
  let v := BitVec.ofNat 32 uBADSPACE
  if what = gqLeave || what = gqLeaveArr then
    (s.modSlot t k (fun h => { h with gmem := mset 0 h.gmem j (gmemWord pa (what == gqLeaveArr)) })).outcome t k tag rd v
  else if what = gqJoin then s.outcome t k tag rd v
  else (((s.modSlot t k (fun h => h.setArr j false)).wakeBarrier t k j).outcome t k tag rd v).unholdTile t

end Sys2Proof.Machine
end

