-- ==== Sys2Proof/Machine/Regs.lean ====
section
/-! DEFINITION. CSRs (R170-R174, R361) and the MMIO map (R346): what each register reads, and what a write to it does. -/

namespace Sys2Proof.Machine
open Sys2Proof

/-! ### TIMER and counters (R172, R173) -/

/-- A write to TIMER loads the count and clears a pending TIMER of SUB 0 (R173). -/
def State.timerWrite (s : State) (t k : Nat) (v : Word) : State :=
  let s1 := s.modSlot t k (fun h => { h with timer := v, pendTimer := false })
  { s1 with pool := s1.pool.filter (fun e => e != evTK .timerExpire t k) }
def execTimerWrite (s : State) : Out := .next (s.timerWrite s.arg.t s.arg.k (BitVec.ofNat 32 s.arg.v))

/-- TIMER reached 0 by counting (R173); a thread that is away returns for it (R55). -/
def timerExpire (s : State) : State :=
  let t := s.arg.t; let k := s.arg.k
  let s1 := s.modSlot t k (fun h => { h with pendTimer := true })
  match s1.visitorOf (s1.ctxName t k) with
  | some (v, j) => ((s1.modSlot v j (fun h => { h with pendTimer := true })).wakeIf v j pSYNCREAD)
  | none => s1
def execTimerExpire (s : State) : Out := .next (timerExpire s)

/-- Reading CYCLE latches its high half (R172). -/
def State.latchCycle (s : State) (t k : Nat) : State :=
  s.modSlot t k (fun h => { h with cycleh := BitVec.ofNat 32 (s.clock (vdOf t) / 2 ^ 32) })
def State.latchInstret (s : State) (t k : Nat) : State :=
  s.modSlot t k (fun h => { h with instreth := BitVec.ofNat 32 (h.instret.toNat / 2 ^ 32) })
def execCycleRead (s : State) : Out := .next (s.latchCycle s.arg.t s.arg.k)
def execInstretRead (s : State) : Out := .next (s.latchInstret s.arg.t s.arg.k)

/-! ### CSR values (R171) -/

/-- LSTAT of a ladle channel (R49). -/
def Ladle.stat (L : Ladle) : Nat := b2n L.active.isSome + L.waiting.length * 2 + L.cause * 16 + L.next % 2 ^ 16 * 2 ^ 16

/-- Per-slot CSRs 0x000-0x1FF as 64-bit numbers; PARK reads 0 by the thread itself (R167). -/
def State.csrSlot (s : State) (t k n : Nat) : Nat :=
  let h := s.slot t k
  match n with
  | 0x000 => s.ctxName t k
  | 0x001 => h.lcoord.toNat
  | 0x002 => h.crewid.toNat
  | 0x003 => (stSetPARK (stBits h.st) 0).toNat
  | 0x004 => (pfxBits h.pfx).toNat
  | 0x005 => h.rngs.toNat
  | 0x006 => h.mxcnan.toNat
  | 0x007 => h.mxcinf.toNat
  | 0x008 => h.mxcsat.toNat
  | 0x009 => s.clock (vdOf t) % 2 ^ 32
  | 0x00A => h.cycleh.toNat
  | 0x00B => h.instret.toNat % 2 ^ 32
  | 0x00C => h.instreth.toNat
  | 0x010 => h.chmap.toNat
  | 0x100 => h.tvec.toNat
  | 0x101 => h.epc.toNat
  | 0x102 => h.ecause.toNat
  | 0x103 => h.eval.toNat
  | 0x104 => h.estat.toNat
  | 0x105 => h.timer.toNat
  | 0x106 => h.escr.toNat
  | 0x107 => h.epfx.toNat
  | 0x108 => h.asid
  | 0x10A => h.spbase
  | 0x10B => h.spsize
  | 0x10C => h.osbase
  | 0x10D => h.ossize
  | 0x10E => h.savea.toNat
  | 0x10F => h.vstat.toNat
  | 0x110 => h.accmask.toNat
  | n => if 0x011 ≤ n && n ≤ 0x014 then (mget 0 h.chpeer (n - 0x011)).toNat
         else if 0x018 ≤ n && n ≤ 0x01F then (mget 0 h.gmem (n - 0x018)).toNat else 0

/-- Per-tile CSRs 0x200-0x2FF. -/
def State.csrTile (s : State) (t n : Nat) : Nat :=
  let T := s.tile t
  match n with
  | 0x200 => T.rot.toNat
  | 0x201 => T.lamask.toNat % 256
  | 0x202 => T.fmax.toNat
  | 0x210 => (mget {} T.ladles 0).stat
  | 0x211 => (mget {} T.ladles 1).stat
  | 0x230 => T.vlstat.toNat
  | 0x240 => T.roletb.toNat
  | 0x241 => T.rolectl.toNat
  | 0x242 => T.rdry.toNat
  | n => if 0x220 ≤ n && n ≤ 0x227 then (mget 0 T.vla (n - 0x220)).toNat
         else if 0x228 ≤ n && n ≤ 0x22F then (mget 0 T.vpa (n - 0x228)).toNat else 0

/-- Per-die CSRs 0x300-0x3FF (R15, R41, R113, R174, R361). AGEP reads zero on compute dies. -/
def State.csrDie (s : State) (vd n : Nat) : Nat :=
  let D := s.die vd
  match n with
  | 0x300 => D.swapt.toNat
  | 0x301 => if vd < 8 then 0 else D.agep.toNat
  | 0x310 => D.atbase.toNat
  | 0x340 => D.pathr.toNat
  | 0x341 => D.plimit.toNat
  | 0x342 => D.pcap.toNat
  | 0x343 => D.pleave.toNat
  | 0x344 => D.vfstat.toNat
  | 0x345 => D.vfmax.toNat
  | 0x346 => D.pwr.toNat
  | 0x347 => D.temp.toNat
  | 0x348 => D.grants.toNat
  | 0x349 => D.throt.toNat
  | n => if 0x320 ≤ n && n ≤ 0x327 then (mget (BitVec.ofNat 64 (leNat ((List.range 8).map (fun k => BitVec.ofNat 8 (4 * (8 * (n - 0x320) + k)))))) D.dockmap (n - 0x320)).toNat
         else if 0x330 ≤ n && n ≤ 0x33B then (s.drt vd (n - 0x330)).toNat else 0

/-- The whole CSR n as its 64-bit value. -/
def State.csr64 (s : State) (t k n : Nat) : Nat :=
  if n < 0x200 then s.csrSlot t k n else if n < 0x300 then s.csrTile t n else s.csrDie (vdOf t) n

/-- The half a CSR number names (R170). -/
def csrBase (c : Nat) : Nat := c % 0x400
def csrHigh (c : Nat) : Bool := 0x400 ≤ c
def halfOf (v : Nat) (hi : Bool) : Word := BitVec.ofNat 32 (if hi then v / 2 ^ 32 else v)
def State.csrRead (s : State) (t k c : Nat) : Word := halfOf (s.csr64 t k (csrBase c)) (csrHigh c)

/-! ### Writable bits at a level (R170) -/

/-- RW bits of CSR n at level pl, over its 64 bits. SPSIZE keeps a multiple of 256 and OSSIZE what is written, and a size over its maximum
stays as it is (log entry 147). -/
def csrRw (pl n : Nat) : Nat :=
  if n < 0x100 then
    match n with
    | 0x003 => if pl = 0 then 0x7FE else 0x27FE
    | 0x004 => if pl = 0 then 0 else 0x1FFFF
    | 0x005 => 0xFFFFFFFF
    | 0x006 => 0xFFFFFFFF
    | 0x007 => 0xFFFFFFFF
    | 0x008 => 0xFFFFFFFF
    | 0x010 => 0xF
    | 0x011 => 0x1FFFFFFF
    | 0x012 => 0x1FFFFFFF
    | 0x013 => 0x1FFFFFFF
    | 0x014 => 0x1FFFFFFF
    | _ => 0
  else if n < 0x300 then
    if pl = 0 then 0 else
    match n with
    | 0x100 => 0xFFFFFFFC
    | 0x101 => 0xFFFFFFFF
    | 0x102 => 0xFFFF
    | 0x103 => 0xFFFFFFFF
    | 0x104 => 0xFFFFFFFF
    | 0x105 => 0xFFFFFFFF
    | 0x106 => 0xFFFFFFFF
    | 0x107 => 0xFFFFFFFF
    | 0x108 => 0x1FF
    | 0x10A => 0x3FFF00
    | 0x10B => 0x7FFF00
    | 0x10C => 0x7FF00
    | 0x10D => 0xFFFFF
    | 0x10E => 0x00FFFFFFFFFF0000
    | 0x110 => 0xF
    | 0x200 => 1
    | 0x202 => 0x1FF
    | 0x240 => 0x00FFFFFFFFFFFFC0
    | 0x241 => 0x1C
    | 0x242 => 0xFFFFFF
    | _ => 0
  else if pl < 2 then 0
  else
    match n with
    | 0x300 => 0xFFFFFFFF
    | 0x301 => 0xFFFFFFFF
    | 0x310 => 0x00FFFFFFFFFFE000
    | 0x340 => 0xFFFFFF
    | 0x341 => 0xFFF
    | 0x342 => 0xFFFFFFFF
    | 0x345 => 0xFFF
    | _ => if 0x320 ≤ n && n ≤ 0x327 then 2 ^ 64 - 1 else if 0x330 ≤ n && n ≤ 0x33B then 0xF7 else 0

/-- W1C bits of CSR n (R72). -/
def csrW1c (pl n : Nat) : Nat :=
  if pl = 0 then 0 else if 0x220 ≤ n && n ≤ 0x227 then 2 ^ 63 else if n = 0x230 then 1 else 0

/-- Bits that land: enabled bits take the value in RW fields; a written 1 clears a W1C bit (R175). -/
def landBits (old en v rw w1c : Nat) : Nat :=
  let e := en &&& rw
  let o := (old ^^^ (old &&& e)) ||| (v &&& e)
  o ^^^ (o &&& (en &&& v &&& w1c))

/-! ### Writing a CSR -/

/-- Accumulator banks may have come free: the cluster's task queue is looked at again (R266). -/
def State.banksFreed (s : State) (t : Nat) : State :=
  if (s.die (vdOf t)).tasks.isEmpty then s else s.emitOnce (evTK .taskRecordStart (vdOf t) (clusterOf t))

/-- A slot CSR takes a new 64-bit value; the rules on particular values are those of R167, R169 and R173. -/
def State.putSlot (s : State) (t k n v : Nat) : State :=
  let w := BitVec.ofNat 32 v
  let up (f : Slot → Slot) : State := s.modSlot t k f
  match n with
  | 0x003 => up (fun h => { h with st := stSetPARK (if 5 < wfld w 3 3 then wput w 3 3 0 else w) (stPARK h.st) })
  | 0x004 => up (fun h => { h with pfx := w })
  | 0x005 => up (fun h => { h with rngs := if w = 0 then 1 else w })
  | 0x006 => up (fun h => { h with mxcnan := w })
  | 0x007 => up (fun h => { h with mxcinf := w })
  | 0x008 => up (fun h => { h with mxcsat := w })
  | 0x010 => up (fun h => { h with chmap := w })
  | 0x100 => up (fun h => { h with tvec := w })
  | 0x101 => up (fun h => { h with epc := w, joined := if h.joined == some w then h.joined else none })
  | 0x102 => up (fun h => { h with ecause := w })
  | 0x103 => up (fun h => { h with eval := w })
  | 0x104 => up (fun h => { h with estat := w })
  | 0x105 => s.timerWrite t k w
  | 0x106 => up (fun h => { h with escr := w })
  | 0x107 => up (fun h => { h with epfx := w })
  | 0x108 => up (fun h => { h with asid := v })
  | 0x10A => up (fun h => { h with spbase := v })
  | 0x10B => up (fun h => { h with spsize := v })
  | 0x10C => up (fun h => { h with osbase := v })
  | 0x10D => up (fun h => { h with ossize := v })
  | 0x10E => up (fun h => { h with savea := BitVec.ofNat 64 v })
  | 0x110 => (up (fun h => { h with accmask := w })).banksFreed t
  | n => if 0x011 ≤ n && n ≤ 0x014 then up (fun h => { h with chpeer := mset 0 h.chpeer (n - 0x011) w }) else s

/-- A tile CSR (R72, R155, R160, R174). -/
def State.putTile (s : State) (t n v : Nat) : State :=
  let w := BitVec.ofNat 32 v
  let up (f : Tile → Tile) : State := s.modTile t f
  match n with
  | 0x200 => up (fun T => { T with rot := w })
  | 0x202 => up (fun T => { T with fmax := if w = 0 then 1 else if 256 < v then 256 else w })
  | 0x230 => up (fun T => { T with vlstat := if wbit w 0 then w else 0 })
  | 0x240 => up (fun T => { T with roletb := BitVec.ofNat 64 v })
  | 0x241 => up (fun T => { T with rolectl := w })
  | 0x242 => up (fun T => { T with rdry := w })
  | n => if 0x220 ≤ n && n ≤ 0x227 then up (fun T => { T with vla := mset 0 T.vla (n - 0x220) (BitVec.ofNat 64 v) }) else s

/-- A route table was written: whoever depends on a route looks again (R135, R138, R139). -/
def routesChanged : Ev := ⟨.registerWrite, { k := 3 }⟩

/-- A die CSR (R174, R361). -/
def State.putDie (s : State) (vd n v : Nat) : State :=
  let w := BitVec.ofNat 32 v
  let nz : Word := if w = 0 then 1 else w
  let up (f : Die → Die) : State := s.modDie vd f
  match n with
  | 0x300 => up (fun D => { D with swapt := nz })
  | 0x301 => if vd < 8 then s else up (fun D => { D with agep := nz })
  | 0x310 => up (fun D => { D with atbase := BitVec.ofNat 64 v })
  | 0x340 => up (fun D => { D with pathr := nz })
  | 0x341 => let s1 := up (fun D => { D with plimit := w }); if (s.die vd).pwr.toNat < 1000 * v then s1 else s1.clockBack vd
  | 0x342 => up (fun D => { D with pcap := w })
  | 0x345 => up (fun D => { D with vfmax := if 2000 ≤ v && v ≤ 2200 then w else 2000 })
  | n => if 0x320 ≤ n && n ≤ 0x327 then up (fun D => { D with dockmap := mput D.dockmap (n - 0x320) (BitVec.ofNat 64 v) })
         else if 0x330 ≤ n && n ≤ 0x33B then (up (fun D => { D with drt := mput D.drt (n - 0x330) w })).emit routesChanged else s

/-- Deliver a write with enables `en` and values `v`, both over the CSR's 64 bits, at a level. A CSR none of whose writable
bits is enabled is left alone. -/
def State.csrPut (s : State) (pl t k vd n en v : Nat) : State :=
  let rw := csrRw pl n; let w1 := csrW1c pl n
  if en &&& (rw ||| w1) = 0 then s else
  if n < 0x200 then s.putSlot t k n (landBits (if n = 0x003 then (s.slot t k).st.toNat else s.csrSlot t k n) en v rw w1)
  else if n < 0x300 then s.putTile t n (landBits (s.csrTile t n) en v rw w1)
  else s.putDie vd n (landBits (s.csrDie vd n) en v rw w1)

/-- The same for the 32 bits a CSR number names. -/
def State.csrWrite (s : State) (pl t k vd c : Nat) (en v : Word) : State :=
  let sh := if csrHigh c then 2 ^ 32 else 1
  s.csrPut pl t k vd (csrBase c) (en.toNat * sh) (v.toNat * sh)

/-! ### The MMIO map (R346) -/

/-- Reset of an MMIO register (R131, R328, R346). ADMASK admits every die (log entry 27). -/
def regReset (off : Nat) : Nat :=
  if off = 0x121020 then 0xF
  else if off = 0x180000 then 4 * 2 ^ 56
  else if 0x210000 ≤ off && off < 0x230000 then
    (if off % 256 = 8 then 1 else if off % 256 = 16 then 0x01000000 * 2 ^ 32 else 0)
  else 0

/-- A register, kept as its difference from its reset value. -/
def State.reg (s : State) (iod off : Nat) : Nat := (mget 0 s.mmio (mkey iod off)).toNat ^^^ regReset off
def State.setReg (s : State) (iod off v : Nat) : State :=
  { s with mmio := mset 0 s.mmio (mkey iod off) (BitVec.ofNat 64 (v ^^^ regReset off)) }

def iodVd (iod : Nat) : Nat := 8 + iod

/-- RW bits of the register at an 8-byte-aligned offset. -/
def regRw (off : Nat) : Nat :=
  if 0x100000 ≤ off && off < 0x120000 then
    (match off % 32 with
     | 0 => 0xFFFFFF
     | 8 => 2 ^ 56 - 1
     | 16 => 0xFFFFFFFF00000000
     | _ => 2 ^ 56 - 1)
  else if 0x120000 ≤ off && off < 0x121000 then 0xFFFF
  else if off = 0x121020 then 0xF
  else if off = 0x180000 then 2 ^ 61 - 1
  else if off = 0x180010 then 0xFFFFFFFF
  else if off = 0x180018 then 1
  else if 0x200000 ≤ off && off < 0x208000 then 0x7FFFFFF
  else if 0x210000 ≤ off && off < 0x230000 then
    (match off % 256 with
     | 0 => 0x1FFF9
     | 16 => 0xFFFFFFFF00000000
     | _ => 0)
  else if 0x230000 ≤ off && off < 0x270000 then
    (match off % 64 with
     | 0 => 0xFFFFFFFF9
     | 8 => 2 ^ 61 - 1
     | 24 => 2 ^ 56 - 1
     | _ => 0)
  else if 0x400000 ≤ off && off < 0x404000 then
    (match off % 32 with
     | 0 => 0x3FFF
     | 8 => 2 ^ 64 - 1
     | 16 => 0xFF
     | _ => 0)
  else if 0x408000 ≤ off && off < 0x418000 then
    (match off % 32 with
     | 0 => 0x3FF
     | 8 => 2 ^ 48 - 1
     | 16 => 0xFFFFFFFF
     | _ => 2 ^ 56 - 1)
  else if 0x500000 ≤ off && off < 0x500200 then
    (match off % 32 with
     | 0 => 0x7F
     | _ => 0xFFFFFF)
  else 0

/-- W1C bits: FULLSEEN and ERRSUM. -/
def regW1c (off : Nat) : Nat := if off = 0x180018 then 2 else if off = 0x28 then 2 ^ 64 - 1 else 0

/-- FQBASE keeps SLOG in 4-16 (R328). -/
def regFix (off v : Nat) : Nat :=
  if off = 0x180000 then nput v 56 5 (max 4 (min 16 (nfld v 56 5))) else v

/-- What the 8 bytes at an aligned offset read: zero for a die the package does not have. -/
def State.mmio64 (s : State) (iod off : Nat) : Nat :=
  if off = 0x00 then 0x00014E59
  else if off = 0x08 then (Config.serial (iodVd iod)).toNat
  else if off = 0x10 then s.pkg
  else if 0x10000 ≤ off && off < 0x14000 then nfld (mget 0 (s.die ((off - 0x10000) / 0x400)).banks (off / 32 % 32)).toNat (64 * (off / 8 % 4)) 64
  else if 0x20000 ≤ off && off < 0x26000 then (let vd := (off - 0x20000) / 0x800; if isDie vd then s.csrDie vd (0x300 + off % 0x800 / 8) else 0)
  else s.reg iod off

/-- A device or host read of n bytes inside 8 aligned ones (R346). -/
def State.mmioRead (s : State) (pa n : Nat) : Nat :=
  s.mmio64 (nfld pa 28 1) (nfld pa 0 28 / 8 * 8) / 2 ^ (8 * (pa % 8)) % 2 ^ (8 * n)

/-! ### Descriptor windows (R348) -/

/-- The window an offset lies in: its base and its descriptor's size. -/
def windowOf (off : Nat) : Option (Nat × Nat) :=
  if 0x121000 ≤ off && off < 0x121010 then some (0x121000, 16)
  else if 0x121010 ≤ off && off < 0x121020 then some (0x121010, 16)
  else if 0x180020 ≤ off && off < 0x180030 then some (0x180020, 16)
  else if 0x181000 ≤ off && off < 0x181020 then some (0x181000, 32)
  else if 0x270000 ≤ off && off < 0x270010 then some (0x270000, 16)
  else if 0x300000 ≤ off && off < 0x308000 then some (off / 64 * 64, 64)
  else none

/-- The event a completed descriptor becomes. -/
def windowEvent (iod base : Nat) (d : Desc) : Ev :=
  let v := d.toNat
  let i : Instr :=
    if base = 0x121000 then .launchCancel
    else if base = 0x121010 then .liveMigration
    else if base = 0x180020 then .wakeDescriptor
    else if base = 0x181000 then (if nfld v 0 2 = 1 then .invAsid else if nfld v 0 2 = 2 then .invAll else .invRange)
    else if base = 0x270000 then (if v.testBit 16 then .mcLeaveDescriptor else .mcJoinDescriptor)
    else .checkpointSweep
  ⟨i, { t := iod, k := (base - 0x300000) / 64 % 64, n := (base - 0x300000) / 0x1000, desc := d }⟩

/-- Bytes of a staging buffer, bytes never written being zero. -/
def stagedDesc (b : SMap Byte) (size : Nat) : Desc := BitVec.ofNat 512 (leNat ((List.range size).map (fun i => mget 0 b i)))

/-- A write of bytes into a window by a writer (R348): none while all 32 buffers are others'. -/
def State.windowPut (s : State) (iod base size writer off : Nat) (bs : List Byte) : Option State :=
  let vd := iodVd iod
  if off = 0 && bs.length = size then some (s.emit (windowEvent iod base (BitVec.ofNat 512 (leNat bs))))
  else
    let D := s.die vd
    let mine (b : Staging) : Bool := b.win == base && b.writer == writer
    let old := D.staging.find? mine
    if old.isNone && 32 ≤ (D.staging.filter (fun b => b.win == base)).length then none
    else
      let b0 := ((old.map (·.bytes)).getD [])
      let b1 := ((List.range bs.length).zip bs).foldl (fun m p => mset 0 m (off + p.1) p.2) b0
      let rest := D.staging.filter (fun b => !mine b)
      if decide (off ≤ size - 8) && decide (size ≤ off + bs.length) then
        some (((s.setDie vd { D with staging := rest }).unholdDie vd).emit (windowEvent iod base (stagedDesc b1 size)))
      else
        let due : Ev := ⟨.descriptorBufferTimeout, { t := iod, k := base, n := writer }⟩
        some (((s.setDie vd { D with staging := rest ++ [⟨base, writer, b1, s.clock vd⟩] }).unTimer due).after vd 65536 due)

/-! ### Writing the MMIO map -/

/-- Who writes: a slot of a tile, or a host port (R348). -/
def deviceWriter (seid slot : Nat) : Nat := seid * 8 + slot
def hostWriter (port : Nat) : Nat := 2 ^ 32 + port

/-- A register takes a write: enabled bytes land by access (R170). -/
def State.regWrite (s : State) (iod off en v : Nat) : State :=
  s.setReg iod off (regFix off (landBits (s.reg iod off) en v (regRw off) (regW1c off)))

/-- A write of 4 or 8 bytes at a space 5 address: none while a window has no buffer for it (R346, R348). -/
def State.mmioWrite (s : State) (writer pa : Nat) (bs : List Byte) : Option State :=
  let iod := nfld pa 28 1; let off := nfld pa 0 28
  let a := off / 8 * 8
  let sh := 2 ^ (8 * (off % 8))
  let en := (2 ^ (8 * bs.length) - 1) * sh % 2 ^ 64; let v := leNat bs * sh % 2 ^ 64
  match windowOf off with
  | some (base, size) => s.windowPut iod base size writer (off - base) bs
  | none =>
    if a = 0x30 then some (if 4 ≤ bs.length && off = 0x30 && leNat (bs.take 4) = 1 then s.emit ⟨.packageReset, { v := 1 }⟩ else s)
    else if 0x800000 ≤ off && off < 0x1800000 then
      some (if off % 4096 = 0 && bs.length = 4 then s.emit ⟨.doorbell, { t := iod, k := (off - 0x800000) / 4096, v := leNat bs }⟩ else s)
    else if 0x10000 ≤ off && off < 0x14000 then
      some (if a % 32 = 0 && (en &&& v).testBit 0 then s.emit ⟨.errorBankClear, { t := (off - 0x10000) / 0x400, k := off / 32 % 32 }⟩ else s)
    else if 0x20000 ≤ off && off < 0x26000 then some (let vd := (off - 0x20000) / 0x800; if isDie vd then s.csrPut 1 0 0 vd (0x300 + off % 0x800 / 8) en v else s)
    else
      let s1 := s.regWrite iod a en v
      let s2 := if off = 0x121020 then s1.emitOnce capacityEvent else s1
      some (if 0x100000 ≤ off && off < 0x122000 then s2.emit (evT .admissionChoice (iodVd iod)) else s2)

/-- Clearing V clears the record (R339, R340). -/
def errorBankClear (s : State) : State := s.clearBank s.arg.t s.arg.k
def execErrorBankClear (s : State) : Out := .next (errorBankClear s)

/-- A piece of a descriptor arrives (R348): t the I/O die, k the window's base, n the offset, v the writer. With no buffer free
it waits. -/
def descriptorPiece (s : State) : State :=
  let a := s.arg
  match windowOf a.k with
  | none => s
  | some (base, size) => (s.windowPut a.t base size a.v a.n a.bytes).getD (s.holdDie (iodVd a.t) ⟨.descriptorPiece, a⟩)
def execDescriptorPiece (s : State) : Out := .next (descriptorPiece s)

/-- The bank of a window's unit (R338): the launch unit's, the multicast unit's, the copy engines', or that of the fault queue and the
invalidation window. -/
def windowBank (base : Nat) : Nat := if base < 0x180000 then 23 else if base = 0x270000 then 22 else if 0x300000 ≤ base then 21 else 24

/-- 65,536 cycles without a write: the buffer is freed, and its window's unit records it (R348). -/
def descriptorBufferTimeout (s : State) : State :=
  let a := s.arg
  let vd := iodVd a.t
  let hit (b : Staging) : Bool := b.win == a.k && b.writer == a.n
  if (s.die vd).staging.any hit then
    ((s.modDie vd (fun D => { D with staging := D.staging.filter (fun b => !hit b) })).logError vd (windowBank a.k) false cDOORBELL 0 0).unholdDie vd
  else s
def execDescriptorBufferTimeout (s : State) : Out := .next (descriptorBufferTimeout s)

/-! ### CSR instructions (R175) -/

/-- May level pl read or write the range of CSR c (R170)? -/
def csrReadable (pl c : Nat) : Bool := csrBase c < 0x100 || 1 ≤ pl
def csrWritable (pl c : Nat) : Bool := csrReadable pl c && (csrBase c < 0x300 || 2 ≤ pl)

/-- op 0 exchange, 1 set, 2 clear: the bits that receive a write, and their values. -/
def csrEnable (op : Nat) (v : Word) : Word := if op = 0 then 0xFFFFFFFF else v
def csrValue (op : Nat) (v : Word) : Word := if op = 2 then 0 else v

/-- The effect at commit: old value to rd with its side effects, then the write. -/
def csrEffect (op : Nat) (srcs : List Src) (d : Reg) (c : Nat) (v : Word) (s : State) : State :=
  let t := s.cur.1; let k := s.cur.2
  let old := s.csrRead t k c
  let s1 := consume srcs s
  let s2 := if d = 0 then s1 else
    let s2 := if c = 0x009 then s1.latchCycle t k else if c = 0x00B then s1.latchInstret t k else s1
    writeResult d old s2
  (s2.csrWrite (stPL s.th.st) t k (vdOf t) c (csrEnable op v) (csrValue op v)).modTh (fun h => h.commit)

def csrReg (i : Instr) (op : Nat) (d : Reg) (a : Src) (c : BitVec 12) (s : State) : M State := do
  enter i .system false 0 s
  let pl := stPL s.th.st
  if !csrReadable pl c.toNat || (op = 0 && !csrWritable pl c.toNat) then .error (s.trap tPRIV 0 (insnWord i))
  else do
    let v ← readSrc i [a] a.r s
    destReady d s
    if v != 0 && !csrWritable pl c.toNat then .error (s.trap tPRIV 1 (insnWord i))
    else .ok (csrEffect op [a] d c.toNat v s)

def csrImm (i : Instr) (op : Nat) (d : Reg) (c : BitVec 12) (u : BitVec 7) (s : State) : M State := do
  enter i .system false 0 s
  let pl := stPL s.th.st
  if !csrReadable pl c.toNat || ((op = 0 || u != 0) && !csrWritable pl c.toNat) then .error (s.trap tPRIV 0 (insnWord i))
  else do
    destReady d s
    .ok (csrEffect op [] d c.toNat (u.zeroExtend 32) s)

def execCsrxch (d : Reg) (a : Src) (c : BitVec 12) (s : State) : Out := finish (csrReg (.csrxch d a c) 0 d a c s)
def execCsrbs (d : Reg) (a : Src) (c : BitVec 12) (s : State) : Out := finish (csrReg (.csrbs d a c) 1 d a c s)
def execCsrbc (d : Reg) (a : Src) (c : BitVec 12) (s : State) : Out := finish (csrReg (.csrbc d a c) 2 d a c s)
def execCsrxchi (d : Reg) (c : BitVec 12) (u : BitVec 7) (s : State) : Out := finish (csrImm (.csrxchi d c u) 0 d c u s)
def execCsrbsi (d : Reg) (c : BitVec 12) (u : BitVec 7) (s : State) : Out := finish (csrImm (.csrbsi d c u) 1 d c u s)
def execCsrbci (d : Reg) (c : BitVec 12) (u : BitVec 7) (s : State) : Out := finish (csrImm (.csrbci d c u) 2 d c u s)

end Sys2Proof.Machine
end

