-- ==== Sys2Proof/Machine/Sync.lean ====
section
/-! DEFINITION. Completion words and watches (R242, R243), messages and channels (R158-R160, R244, R245), and the tile's side
of multicast (R246-R249). -/

namespace Sys2Proof.Machine
open Sys2Proof

/-! ### WAITC and watches (R242) -/

def dwordOf (lo hi : Word) : Nat := lo.toNat + wfld hi 0 31 * 2 ^ 32

/-- A pair source for which g0 is allowed (R229). -/
def readPairZ (i : Instr) (srcs : List Src) (b : Src) (s : State) : M (Word × Word) := do
  let lo ← readSrc i srcs b.r s
  if b.r = 0 then .ok (0, 0)
  else
    let hi ← readSrc i srcs (b.r + 1) s
    .ok (lo, hi)

def Slot.watching (h : Slot) : Bool := h.pend.any (fun p => match p.kind with | .watch .. => true | _ => false)
def Slot.sequencing (h : Slot) : Bool := h.pend.any (fun p => match p.kind with | .mcseq .. => true | _ => false)

/-- Spaces in which a completion word may be watched: not 2, not 5, not an operand store. -/
def watchSpace (pa : Nat) : Bool := spaceOf pa != 2 && spaceOf pa != 5 && !(spaceOf pa == 3 && pa.testBit 22)

/-- The place of a watched word: a read that never moves the thread. -/
def watchPlace (sn off : Nat) (s : State) : M (Nat × State) := do
  let p ← seg rGroup sn off 8 s
  aligned p 8 off s
  let t := s.cur.1
  if p.sp then match (s.tile t).rngCopy s.cur.2 p.at_ 8 false with
    | .wait => .error (s.park pGUARDWAIT)
    | .violation c => .error (rangeTrap c 0 0 (s.spPa t p.at_) s)
    | _ => .ok (s.spPa t p.at_, s)
  else match (s.tile t).rngRegion s.cur.2 p.at_ 8 false with
    | .wait => .error (s.park pGUARDWAIT)
    | .violation c => .error (rangeTrap c 0 p.at_ 0 s)
    | .redirect o => .ok (s.spPa t o, s)
    | .pass => portTranslate (fun s1 pa => s1.decodes (vdOf s.cur.1) pa && watchSpace pa) p.at_ 1 s

def waitc (i : Instr) (d : Reg) (sg : BitVec 3) (a b : Src) (s : State) : M State := do
  enter i .system false 0 s
  let srcs := [a] ++ srcPair b
  let x ← readSrc i srcs a.r s
  let (lo, hi) ← readPairZ i srcs b s
  destLater i d s
  if s.th.watching then .error (s.block .watch)
  else
    let (pa, s1) ← watchPlace sg.toNat x.toNat s
    let s2 := commitNow (markLater d (consume srcs s1))
    .ok (s2.ask .watchInstall pa (.watch d.toNat (dwordOf lo hi)) (fun m => { m with aux0 := BitVec.ofNat 64 (dwordOf lo hi) }))
def execWaitc (d : Reg) (sg : BitVec 3) (a b : Src) (s : State) : Out := finish (waitc (.waitc d sg a b) d sg a b s)

/-- A watch whose word has been read: answered at once when satisfied, refused when the home's 256 watches are in use (R242). -/
def State.watchWith (s : State) (pa v : Nat) : State :=
  let m := s.msg
  let vd := s.watchDie pa
  let t := dfld m.aux0 0 63
  if cwHit v t then s.answer .watchrsp (fun r => { r with aux0 := BitVec.ofNat 64 v })
  else if spaceOf pa != 3 && 256 ≤ ((s.die vd).watches.filter (fun w => w.req.dst == m.dst)).length then s.answer .watchrsp (fun r => { r with attr := 1 })
  else s.modDie vd (fun D => { D with watches := D.watches ++ [⟨pa, t, m⟩] })

/-- WATCH install at the word's home (R242): a word that cannot be watched is answered BADPA (R124); one of a CXL device is read there. -/
def watchInstall (s : State) : State :=
  let m := s.msg
  let pa := s.canon m.pa
  if !s.decodes (eidDie m.dst) pa || !watchSpace pa then
    (s.logError (max 8 (eidVd m.dst)) 20 false cBADPA m.pa (m.src * 8 + m.slot)).answer .watchrsp (fun r => { r with attr := 3 })
  else match atHome .watchInstall 0 8 false false s with
  | .error s1 => s1
  | .ok pa =>
    if outside pa then s.ioAsk (eidDie m.dst) .watchInstall (fun tag s => s.ethOut (.cxlRead (eidDie m.dst) tag pa 8))
    else s.watchWith pa (rdLE s.mem pa 8)
def execWatchInstall (s : State) : Out := .next (watchInstall s)

/-- WATCH cancel: the watch of the same source is removed and answered cancelled (R124, R250). -/
def watchCancel (s : State) : State :=
  let m := s.msg
  let vd := s.watchDie (s.canon m.pa)
  let mine (w : Watch) : Bool := w.req.src == m.src && w.req.slot == m.slot && w.req.tag == m.tag
  (s.modDie vd (fun D => { D with watches := D.watches.filter (fun w => !mine w) })).answer .watchrsp (fun r => { r with attr := 2 })
def execWatchCancel (s : State) : Out := .next (watchCancel s)

/-- The tile sends a refused watch again after 1,024 cycles (R242). -/
def watchRetry (s : State) : State :=
  let t := s.arg.t; let k := s.arg.k
  match (s.slot t k).getPend s.arg.n with
  | some ⟨tag, 9, pa, _, .watch _ tv⟩ => s.send .req .watchInstall { s.mgrMsg t k pa tag with aux0 := BitVec.ofNat 64 tv }
  | _ => s
def execWatchRetry (s : State) : Out := .next (watchRetry s)

/-- WATCHRSP at a tile. -/
def State.tileWatchrsp (s : State) : State :=
  let m := s.msg; let t := s.dstTile; let k := m.slot
  match (s.slot t k).getPend m.tag with
  | some ⟨tag, _, pa, _, .watch rd _⟩ =>
    let st := wfld m.attr 0 2
    if st = 0 then (s.outcome t k tag rd (b2w (m.aux0.getLsbD 63))).notifyAll t
    else if st = 1 then s.after (vdOf t) 1024 (evTKN .watchRetry t k tag)
    else if st = 3 then (((s.fillReg t k rd 0 true).donePend t k tag).logError (vdOf t) 20 true cBADPA pa (s.ctxName t k))
    else if st = 2 then s.settle t k tag
    else s
  | _ => s

/-! ### POSTC (R243) -/

/-- Atomic rights R, W, A; a word of space 2 or 5 is refused BADPA. -/
def postc (i : Instr) (err : Bool) (d : Reg) (sg : BitVec 3) (a b : Src) (s : State) : M State := do
  enter i .system false 0 s
  let x ← readSrc i [a, b] a.r s
  let v ← readSrc i [a, b] b.r s
  destLater i d s
  let (p, s1) ← p0Place rAtomic 3 sg.toNat x.toNat 8 99 s
  if s1.th.lineHeld (s1.tileEid s1.cur.1) p.pa then .error (s1.block .fence)
  else
    let s2 := markLater d (consume [a, b] s1)
    .ok (commitNow (s2.p0Send .rsv p.pa p.la 8 (.post d.toNat v err) 0))
def execPostc (d : Reg) (sg : BitVec 3) (a b : Src) (s : State) : Out := finish (postc (.postc d sg a b) false d sg a b s)
def execPostce (d : Reg) (sg : BitVec 3) (a b : Src) (s : State) : Out := finish (postc (.postce d sg a b) true d sg a b s)

/-- The new value of a completion word (R50). -/
def postValue (old add : Nat) (err : Bool) : Nat :=
  (old % 2 ^ 63 + add) % 2 ^ 63 + (if err || old.testBit 63 then 2 ^ 63 else 0)

/-! ### SEND, CHON, CHOFF (R244) -/

def send (i : Instr) (a b : Src) (kind : BitVec 3) (s : State) : M State := do
  enter i .system false 0 s
  let x ← readSrc i [a, b] a.r s
  let w ← readSrc i [a, b] b.r s
  illValue (wfld x 29 3 != 0) x s
  if 4 ≤ s.th.sendOut then .error (s.block .sends)
  else
    let s1 := consume [a, b] s
    let (tag, h) := s1.th.addPend 0 (3 * 2 ^ 52 + wfld x 0 24 * 2 ^ 24) 0 .send
    let s2 := commitNow (s1.modTh (fun _ => { h with sendOut := h.sendOut + 1 }))
    let mk : Instr := if kind = 0 then .msgData else if kind = 1 then .msgRecast else .msgQueue
    .ok (s2.send .req mk { Msg.zero with src := s.tileEid s.cur.1, dst := wfld x 0 24, slot := s.cur.2, asid := s.th.asid, tag := tag, attr := BitVec.ofNat 32 (wfld x 24 5 + kind.toNat * 32), aux0 := BitVec.ofNat 64 w.toNat })
def execSend (a b : Src) (k : BitVec 3) (s : State) : Out := finish (send (.send a b k) a b k s)

def chon (i : Instr) (a : Src) (k : BitVec 2) (s : State) : M State := do
  enter i .system false 0 s
  let x ← readSrc i [a] a.r s
  if wbit s.th.prod (28 + k.toNat) then .error (s.block .register) else
  illValue (wfld x 29 3 != 0) x s
  .ok (commitNow ((consume [a] s).modTh (fun h => { h with chpeer := mset 0 h.chpeer k.toNat (x &&& 0x1FFFFFFF), chmap := wsetb h.chmap k.toNat true })))
def execChon (a : Src) (k : BitVec 2) (s : State) : Out := finish (chon (.chon a k) a k s)

def choff (i : Instr) (k : BitVec 2) (s : State) : M State := do
  enter i .system false 0 s
  .ok (commitNow (s.modTh (fun h => { h with chmap := wsetb h.chmap k.toNat false })))
def execChoff (k : BitVec 2) (s : State) : Out := finish (choff (.choff k) k s)

/-! ### Delivery of messages (R158-R160, R245, R333) -/

/-- The save area's mailbox (R56, R333): append an entry, or drop it when full. MHEAD and MTAIL count modulo 256 (R332), and equal ones mean
an empty mailbox, which so holds 255 entries (log entry 169). -/
def State.mailbox (s : State) (vd : Nat) (f : FwdEntry) (kind k : Nat) (m : Msg) : State :=
  let sa := s.canon f.target
  let head := rdLE s.mem (sa + 32) 2; let tail := rdLE s.mem (sa + 34) 2
  if (tail + 1) % 256 = head then
    ({ s with mem := wrLE s.mem (sa + 36) 4 (min (2 ^ 32 - 1) (rdLE s.mem (sa + 36) 4 + 1)) }).logError vd 22 false cMAILBOX sa 0
  else
    let at_ := sa + 0xF100 + 64 * tail
    let ent := kind + msgCh m * 2 ^ 8 + slotIndex f.slots k * 2 ^ 16 + (m.src + m.slot * 2 ^ 24) * 2 ^ 32 + m.aux0.toNat % 2 ^ 64 * 2 ^ 64
    { s with mem := wrLE (wrLE s.mem at_ 64 ent) (sa + 34) 2 ((tail + 1) % 256) }

/-- A message whose slot's crew left (R333, R334): into its mailbox, or on to its new slot. -/
def State.passOn (s : State) (i : Instr) (kind : Nat) (f : FwdEntry) (k : Nat) : State :=
  let m := s.msg
  if f.toTile then s.sendFrom (vdOf s.dstTile) false .req i { m with dst := f.target, attr := wput m.attr 0 5 (4 * f.newSlot k + msgCh m % 4) }
  else (s.mailbox (vdOf s.dstTile) f kind k m).wrackTo m

/-- The kind of a mailbox entry: 2 for a channel word, which only its sender's own record tells from SEND data (log entry 47). -/
def State.wordKind (s : State) (m : Msg) : Nat := if (s.pendOf m).any (fun p => match p.kind with | .channel _ => true | _ => false) then 2 else 0

/-- A message to something that takes none is discarded, logged and acknowledged (R245). -/
def State.discardMsg (s : State) (vd : Nat) : State := (s.logError vd 20 false cLINKPROTO 0 0).wrackTo s.msg

/-- A word enters the FIFO of its channel, or waits for it in the message queue; none where neither has room. -/
def State.takeWord (s : State) (t : Nat) (m : Msg) : Option State :=
  let T := s.tile t; let ch := msgCh m
  if (s.fifo t ch).length < 4 && !T.msgq.any (fun q => msgKind q.2 == 0 && msgCh q.2 == ch) then some ((s.wordIn m).fifoPush t ch m)
  else if T.msgq.length < 32 then some ((s.wordIn m).modTile t (fun T => { T with msgq := T.msgq ++ [(s.clock (vdOf t), m)] }))
  else none

/-- A data or channel word (R158, R159, R245). -/
def msgData (s : State) : State :=
  let m := s.msg
  let t := s.dstTile; let ch := msgCh m; let k := ch / 4
  if !isComputeTile t then s.discardMsg (eidDie m.dst)
  else match s.fwdSlot t k m.asid with
    | some f => if s.fwdAsid f k = m.asid then s.passOn .msgData (s.wordKind m) f k else s.discardMsg (vdOf t)
    | none =>
      if s.settling t k || s.mailing t k then s.holdTile t (evM .msgData m)
      else if (s.slot t k).asid != m.asid then s.discardMsg (vdOf t)
      else (s.takeWord t m).getD (s.holdTile t (evM .msgData m))
def execMsgData (s : State) : Out := .next (msgData s)

/-- Wake slot 7 for the message queue, once it has been loaded (R145). -/
def State.wakeSlot7 (s : State) (t : Nat) : State := if (s.slot t 7).loaded then s.wakeIf t 7 pPARK else s

/-- RQPOP marks the park of a thread by its SEL (R294). -/
def rqMark : Nat := 200
/-- Wake the threads parked in RQPOP with one of these SEL values. -/
def State.wakeRq (s : State) (t : Nat) (sels : List Nat) : State :=
  (List.range 8).foldl (fun s k => if sels.any (fun x => (s.slot t k).parkReg == rqMark + x) then s.wakeIf t k pPARK else s) s

/-- A tag wake at its tile (R295): the ready queue has 64 entries, the latch table 8. -/
def State.tagWake (s : State) (t tag : Nat) : State :=
  let T := s.tile t
  match T.rq.find? (fun e => e.tag == tag) with
  | some e =>
    if e.sleep then
      (s.setTile t { T with rq := updWhere (fun e => e.tag == tag) (fun e => { e with sleep := false, order := T.rqOrder }) T.rq, rqOrder := T.rqOrder + 1 }).wakeRq t [0, 2]
    else s
  | none => if T.latch.contains tag || 8 ≤ T.latch.length then s else s.setTile t { T with latch := T.latch ++ [tag] }

/-- A message enters the message queue, and slot 7 looks (R145). -/
def State.takeQueued (s : State) (t : Nat) (m : Msg) : Option State :=
  if (s.tile t).msgq.length < 32 then
    let s1 := (s.wordIn m).modTile t (fun T => { T with msgq := T.msgq ++ [(s.clock (vdOf t), m)] })
    let s2 := (s1.wakeSlot7 t).wakeRq t [1, 2]
    some (if m.aux0.getLsbD 31 then s2.tagWake t (dfld m.aux0 0 16) else s2)
  else none

/-- A queue message (R245): slot 7 wakes, and so does a thread parked in RQPOP (R294); bit 31 makes it a tag wake as well (R295). -/
def msgQueue (s : State) : State :=
  let m := s.msg
  let t := s.dstTile; let k := msgCh m / 4
  if !isComputeTile t then s.discardMsg (eidDie m.dst)
  else match s.fwdSlot t k m.asid with
    | some f => s.passOn .msgQueue 1 f k
    | none =>
      if s.settling t k || s.mailing t k then s.holdTile t (evM .msgQueue m)
      else (s.takeQueued t m).getD (s.holdTile t (evM .msgQueue m))
def execMsgQueue (s : State) : Out := .next (msgQueue s)

/-- The role slot's thread is dry (R160): parked SYNCREAD on an enabled channel register whose FIFO has been empty for RDRY
cycles. -/
def State.dry (s : State) (t k : Nat) : Bool :=
  let h := s.slot t k; let T := s.tile t
  h.run == .parked && stPARK h.st == pSYNCREAD && h.isChan h.parkReg &&
  (let ch := chanOf k h.parkReg
   (s.fifo t ch).isEmpty && decide (mget 0 T.dryAt ch + T.rdry.toNat ≤ s.clock (vdOf t)))

/-- A recast (R160): the role table's entry is loaded, or RECASTBUSY answered. A role outside 1-3, and a table that lies outside space 0 or
cannot be read, are answered busy (log entry 28). A crew that moved to another tile is sent it there (R334). -/
def msgRecast (s : State) : State :=
  let m := s.msg
  let t := s.dstTile; let r := m.aux0.toNat % 2 ^ 32
  let T := s.tile t; let k := wfld T.rolectl 2 3
  if !isComputeTile t then s.discardMsg (eidDie m.dst)
  else if s.settling t k then s.holdTile t (evM .msgRecast m)
  else match s.fwdSlot t k m.asid with
  | some f => if f.toTile then s.passOn .msgRecast 1 f k else s.answer .msgref id
  | none =>
  let a := dfld T.roletb 0 56 + 32 * r
  if !s.dry t k || r = 0 || 3 < r || spaceOf a != 0 || !s.decodes (vdOf t) a then s.answer .msgref id
  else if s.eccBad a 24 then (s.readCheck a 24 (s.ctxName t k)).answer .msgref id
  else
    let s := s.readCheck a 24 (s.ctxName t k)
    let w (j : Nat) : Word := BitVec.ofNat 32 (rdLE s.mem (a + 4 * j) 4)
    let peers : SMap Word := (List.range 4).foldl (fun p j => mset 0 p j (w (2 + j) &&& 0x1FFFFFFF)) []
    let s1 := s.modSlot t k (fun h => ({ h with chmap := w 1 &&& 0xF, chpeer := peers, pc := w 0 }.setG 1 (BitVec.ofNat 32 r)).wake)
    (s1.modTile t (fun T => { T with rolectl := wput T.rolectl 0 2 r })).wrackTo m
def execMsgRecast (s : State) : Out := .next (msgRecast s)

/-- An acknowledged SEND or channel word (R159, R245). -/
def Slot.wordDone (kind : PendKind) (h : Slot) : Slot :=
  match kind with
  | .send => { h with sendOut := h.sendOut - 1 }
  | .channel j => { h with chOut := mset 0 h.chOut j (mget 0 h.chOut j - 1) }
  | _ => h
def State.sendDone (s : State) (t k tag : Nat) (kind : PendKind) : State := (s.modSlot t k (Slot.wordDone kind)).donePend t k tag

/-- The slot a word was sent from, as the record of it keeps it when its crew moves (R159: the count moves with the crew). -/
def sentFrom (t k : Nat) : Nat := 1 + 8 * t + k
def Pend.isWord (p : Pend) : Bool :=
  match p.kind with
  | .send => true
  | .channel _ => true
  | _ => false
/-- The acknowledgement of a word whose sender's crew has left that slot since. -/
def State.movedWord (s : State) : State :=
  let it (p : Pend) : Bool := p.isWord && p.la == sentFrom s.dstTile s.msg.slot && p.tag == s.msg.tag
  match s.tiles.findSome? (fun T => T.2.slots.findSome? (fun h => (h.2.pend.find? it).map (fun p => (T.1, h.1, p)))) with
  | some (t, k, p) => s.sendDone t k p.tag p.kind
  | none =>
    let ack (h : Slot) : Slot := match h.pend.find? it with
      | some p => (h.wordDone p.kind).delPend p.tag
      | none => h
    { s with images := s.images.map (fun im => { im with slots := im.slots.map ack }) }

/-- MSGREF: the refused recast no longer counts (R124, R245). -/
def msgref (s : State) : State :=
  let m := s.msg; let t := s.dstTile
  match (s.slot t m.slot).getPend m.tag with
  | some p => s.sendDone t m.slot m.tag p.kind
  | none => s
def execMsgref (s : State) : Out := .next (msgref s)

/-! ### Multicast at the tile (R246, R247, R249) -/

/-- The relay: the multicast unit of vd8, or of vd9 if vd8 is not routable (R246). -/
def State.relay (s : State) (t : Nat) : Nat := s.eid (if wbit (s.drt (vdOf t) 8) 0 then 8 else 9) 0x38

def mcst (i : Instr) (cond : Bool) (d : Reg) (sg : BitVec 3) (a b : Src) (s : State) : M State := do
  enter i .system false 0 s
  let srcs := [a] ++ srcPair b
  let x ← readSrc i srcs a.r s
  let ctl ← readSrc i srcs b.r s
  let off ← readSrc i srcs (b.r + 1) s
  destLaterPair i d s
  illValue (wfld ctl 17 15 != 0) ctl s
  illValue (wfld off 0 3 != 0) off s
  let len := (wfld ctl 12 5 + 1) * 8
  let ext := if cond then len + 16 else len
  let p ← seg (fun g => g.r && g.s) sg.toNat x.toNat ext s
  aligned p 8 x.toNat s
  let t := s.cur.1
  match (s.tile t).rngCopy s.cur.2 p.at_ ext false with
  | .wait => .error (s.park pGUARDWAIT)
  | .violation c => .error (rangeTrap c 0 0 (s.spPa t p.at_) s)
  | _ => do
    bankFree p.at_ ext s
    let pa := s.spPa t p.at_
    let s := s.readCheck pa ext (s.ctxName t s.cur.2)
    if s.eccBad pa ext then .error (s.trap tMCHK 1 0)
    else
      let s1 := (consume srcs s).modTh (fun h => if d = 0 then h else (h.markEmpty d.toNat).markEmpty (d.toNat + 1))
      let (tag, h) := s1.th.addPend 6 (wfld ctl 0 12) 0 (.mcast d.toNat false)
      let e := if cond then rdLE s.mem pa 8 else 0
      let c := if cond then rdLE s.mem (pa + 8) 8 else 0
      let body := rdBytes s.mem (if cond then pa + 16 else pa) len
      let m : Msg := { Msg.zero with src := s.tileEid t, dst := s.relay t, slot := s.cur.2, asid := s.th.asid, tag := tag, len := len - 1, attr := BitVec.ofNat 32 (wfld ctl 0 12 + b2n cond * 4096), aux0 := BitVec.ofNat 64 off.toNat, aux1 := BitVec.ofNat 64 e, aux2 := BitVec.ofNat 64 c, data := body }
      .ok ((commitNow (s1.modTh (fun _ => h))).send .req .mcreq m)
def execMcst (d : Reg) (sg : BitVec 3) (a b : Src) (s : State) : Out := finish (mcst (.mcst d sg a b) false d sg a b s)
def execMcstc (d : Reg) (sg : BitVec 3) (a b : Src) (s : State) : Out := finish (mcst (.mcstc d sg a b) true d sg a b s)

def mcseq (i : Instr) (d : Reg) (a b : Src) (s : State) : M State := do
  enter i .system false 0 s
  let srcs := [a] ++ srcPair b
  let g ← readSrc i srcs a.r s
  let (lo, hi) ← readPairZ i srcs b s
  destLaterPair i d s
  illValue (wfld g 12 20 != 0) g s
  if s.th.sequencing then .error (s.block .watch)
  else
    let t := s.cur.1
    let s1 := (consume srcs s).modTh (fun h => (h.markEmpty d.toNat).markEmpty (d.toNat + 1))
    let (tag, h) := s1.th.addPend noPath (wfld g 0 12) 0 (.mcseq d.toNat (dwordOf lo hi))
    .ok ((commitNow (s1.modTh (fun _ => h))).send .req .mcseqreq { Msg.zero with src := s.tileEid t, dst := s.relay t, slot := s.cur.2, asid := s.th.asid, tag := tag, attr := BitVec.ofNat 32 (wfld g 0 12), aux0 := BitVec.ofNat 64 (dwordOf lo hi) })
def execMcseq (d : Reg) (a b : Src) (s : State) : Out := finish (mcseq (.mcseq d a b) d a b s)

/-- Fill a destination pair with a 64-bit value and end the request. -/
def State.outcomePair (s : State) (t k tag rd v : Nat) : State :=
  (s.fillPair t k rd (BitVec.ofNat 32 v) (BitVec.ofNat 32 (v / 2 ^ 32)) false).donePend t k tag

/-- MCSTAMP at the sender (R133, R247): the stamp or the status with ALL = 0; with ALL = 1 the store is applied everywhere. -/
def mcstamp (s : State) : State :=
  let m := s.msg; let t := s.dstTile; let k := m.slot
  match (s.slot t k).getPend m.tag with
  | some ⟨tag, _, _, _, .mcast rd stamped⟩ =>
    let st := wfld m.attr 4 4
    if st != 0 then
      if stamped then s.donePend t k tag else s.outcomePair t k tag rd (st * 2 ^ 32)
    else if wbit m.attr 0 then s.donePend t k tag
    else
      let v := m.aux3.toNat
      let upd (p : Pend) : Pend := if p.tag = tag then { p with kind := .mcast rd true } else p
      ((s.fillPair t k rd (BitVec.ofNat 32 v) (BitVec.ofNat 32 (v / 2 ^ 32)) false).modSlot t k (fun h => { h with pend := h.pend.map upd })).notify t k
  | _ => s
def execMcstamp (s : State) : Out := .next (mcstamp s)

/-- MCSEQRSP: APPLIED, and bit 63 when the entry is not one to wait on (R249). -/
def mcseqrsp (s : State) : State :=
  let m := s.msg; let t := s.dstTile; let k := m.slot
  match (s.slot t k).getPend m.tag with
  | some ⟨tag, _, _, _, .mcseq rd _⟩ => (s.outcomePair t k tag rd (dfld m.aux0 0 63 + b2n (wbit m.attr 0) * 2 ^ 63)).notifyAll t
  | _ => s
def execMcseqrsp (s : State) : Out := .next (mcseqrsp s)

end Sys2Proof.Machine
end

