-- ==== Sys2Proof/Machine/Multicast.lean ====
section
/-! DEFINITION. The multicast units: relay, headgate and member apply (R131-R139, R246, R248, R249, R395). -/

namespace Sys2Proof.Machine
open Sys2Proof

/-! ### Records and entries (R131, R132, R246, R347) -/

def hgBase (g : Nat) : Nat := 0x210000 + 256 * (g % 512)
def memBase (g : Nat) : Nat := 0x230000 + 64 * g
def stRUN : Nat := 0
def stJOINHOLD : Nat := 1
def stDEAD : Nat := 2
def meJOINING : Nat := 0
def meACTIVE : Nat := 1
def meLEFT : Nat := 2
def meFAILED : Nat := 3

def wlogOk (w : Nat) : Bool := 12 ≤ w && w ≤ 26
/-- The multicast unit's I/O die, 0 or 1. -/
def iodOf (vd : Nat) : Nat := vd - 8

def State.hgW (s : State) (iod g j : Nat) : Nat := s.reg iod (hgBase g + 8 * j)
def State.hgValid (s : State) (iod g : Nat) : Bool := (s.hgW iod g 0).testBit 0 && wlogOk (nfld (s.hgW iod g 0) 12 5)
def State.hgState (s : State) (iod g : Nat) : Nat := nfld (s.hgW iod g 0) 1 2
def State.hgSetState (s : State) (iod g x : Nat) : State := s.setReg iod (hgBase g) (nput (s.hgW iod g 0) 1 2 x)
def State.hgNext (s : State) (iod g : Nat) : Nat := s.hgW iod g 1
def State.hgNmem (s : State) (iod g : Nat) : Nat := nfld (s.hgW iod g 2) 0 11
def State.hgMcto (s : State) (iod g : Nat) : Nat := nfld (s.hgW iod g 2) 32 32
def State.hgIn (s : State) (iod g p : Nat) : Bool := (s.reg iod (hgBase g + 0x40 + 8 * (p / 64))).testBit (p % 64)
/-- Put a package in or out of the member map, with NMEM. -/
def State.hgPut (s : State) (iod g p : Nat) (b : Bool) : State :=
  if s.hgIn iod g p == b then s else
  let a := hgBase g + 0x40 + 8 * (p / 64)
  let s1 := s.setReg iod a (nput (s.reg iod a) (p % 64) 1 (b2n b))
  let n := s.hgNmem iod g
  s1.setReg iod (hgBase g + 16) (nput (s.hgW iod g 2) 0 11 (if b then n + 1 else n - 1))
def State.hgMembers (s : State) (iod g : Nat) : List Nat := (List.range 1024).filter (fun p => s.hgIn iod g p)

def State.meW (s : State) (iod g j : Nat) : Nat := s.reg iod (memBase g + 8 * j)
def State.meValid (s : State) (iod g : Nat) : Bool := (s.meW iod g 0).testBit 0 && wlogOk (nfld (s.meW iod g 1) 56 5)
def State.meState (s : State) (iod g : Nat) : Nat := nfld (s.meW iod g 0) 1 2
def State.meSet (s : State) (iod g x : Nat) : State := s.setReg iod (memBase g) (nput (s.meW iod g 0) 1 2 x)
def State.meWbase (s : State) (iod g : Nat) : Nat := nfld (s.meW iod g 1) 0 56
def State.meApplied (s : State) (iod g : Nat) : Nat := s.meW iod g 4
def State.meHg (s : State) (iod g : Nat) : Nat := nfld (s.meW iod g 0) 12 24
def State.meAsid (s : State) (iod g : Nat) : Nat := nfld (s.meW iod g 0) 3 9

def State.mcMod (s : State) (vd : Nat) (f : McUnit → McUnit) : State := s.modDie vd (fun D => { D with mc := f D.mc })
def msgGroup (m : Msg) : Nat := wfld m.attr 0 12

/-- A multicast unit of this package (R111). Both I/O dies report HG. -/
def isMcUnit (e : Nat) : Bool := 8 ≤ eidVd e && eidVd e ≤ 9 && e % 256 == 0x38

/-! ### MCSTAMP answers (R133) -/

def State.stampTo (s : State) (m : Msg) (status stamp : Nat) (all : Bool) : State :=
  s.reply m .mcstamp (fun r => { r with attr := BitVec.ofNat 32 (b2n all + status * 16), aux3 := BitVec.ofNat 64 stamp })

/-- Send a control message of a group (R122): kind 0 SNAP, 1 JOINED, 2 EVICT, 3 LEFT. -/
def State.mcctl (s : State) (vd : Nat) (i : Instr) (kind dst g peer stamp : Nat) : State :=
  s.send .fwd i { Msg.zero with src := s.eid vd 0x38, dst := dst, attr := BitVec.ofNat 32 (g + kind * 4096), aux0 := BitVec.ofNat 64 peer, aux3 := BitVec.ofNat 64 stamp }

def memberEid (M : McUnit) (g p : Nat) : Nat := mget (p * 4096 + 8 * 256 + 0x38) M.members (g * 1024 + p)

/-- Everyone has acknowledged these stores: MCSTAMP with ALL = 1 (R133). -/
def State.settleStores (s : State) (vd : Nat) : State :=
  let done := (s.die vd).mc.outstanding.filter (fun a => a.acks.isEmpty)
  done.foldl (fun s a => s.stampTo a.msg 0 a.stamp true) (s.mcMod vd (fun M => { M with outstanding := M.outstanding.filter (fun a => !a.acks.isEmpty) }))

/-- A join refused or abandoned: the member's entry becomes FAILED (R137). -/
def State.refuseJoin (s : State) (req : Msg) : State :=
  s.reply req .mcctlrsp (fun r => { r with attr := BitVec.ofNat 32 (msgGroup req + 1 * 4096 + 1 * 65536) })

def State.dropJoin (s : State) (vd g : Nat) : State := s.mcMod vd (fun M => { M with joins := M.joins.filter (fun j => j.group != g) })
/-- The time-out of a member, for stamp v of a group, or for a step of a join with v = 2^64. -/
def memberTimer (vd g p v : Nat) : Ev := ⟨.memberTimeout, { t := vd, k := g, n := p, v := v }⟩
def State.joinTimersOff (s : State) (vd : Nat) (j : McJoin) : State :=
  (s.unTimer (memberTimer vd j.group (eidPkg j.source) (2 ^ 64))).unTimer (memberTimer vd j.group j.member (2 ^ 64))
def State.abandonJoin (s : State) (vd : Nat) (j : McJoin) : State :=
  ((((s.joinTimersOff vd j).dropJoin vd j.group).hgSetState (iodOf vd) j.group stRUN).refuseJoin j.req).unholdDie vd

/-- Eviction (R135): out of the map, counted as having applied everything; a join it takes part in is abandoned. -/
def State.evictMember (s : State) (vd g p : Nat) : State :=
  let iod := iodOf vd
  let eid := memberEid (s.die vd).mc g p
  let drop (a : McApply) : McApply := if a.group = g then { a with acks := a.acks.filter (· != p) } else a
  let s1 := (s.hgPut iod g p false).mcMod vd (fun M => { M with outstanding := M.outstanding.map drop })
  let s2 := (s1.settleStores vd).mcctl vd .mcctlEvict 2 eid g 0 0
  match (s.die vd).mc.joins.find? (fun j => j.group == g && (eidPkg j.source == p || j.member == p)) with
  | some j => s2.abandonJoin vd j
  | none => s2

/-- A join waits for the source's acknowledgement of J, then asks it for its window (R137 steps 3 and 4). -/
def State.joinSnap (s : State) (vd : Nat) (j : McJoin) : State :=
  let waiting := (s.die vd).mc.outstanding.any (fun a => a.group == j.group && a.acks.contains (eidPkg j.source))
  if j.phase != 0 || waiting then s
  else
    let upd (x : McJoin) : McJoin := if x == j then { x with phase := 1 } else x
    let s1 := s.mcMod vd (fun M => { M with joins := M.joins.map upd })
    let s2 := s1.mcctl vd .mcctlSnap 0 j.source j.group j.req.src j.point
    s2.after vd (s.hgMcto (iodOf vd) j.group) (memberTimer vd j.group (eidPkg j.source) (2 ^ 64))

/-- JOINED to the new member (R137 step 5). -/
def State.joinJoined (s : State) (vd : Nat) (j : McJoin) : State :=
  let upd (x : McJoin) : McJoin := if x.group = j.group then { x with phase := 2 } else x
  let s1 := s.mcMod vd (fun M => { M with joins := M.joins.map upd })
  let s2 := s1.mcctl vd .mcctlJoined 1 j.req.src j.group 0 j.point
  s2.after vd (s.hgMcto (iodOf vd) j.group) (memberTimer vd j.group j.member (2 ^ 64))

/-! ### MCREQ at the headgate and the relay (R133, R246, R395) -/

def State.headgate (s : State) (vd : Nat) (m : Msg) : State :=
  let iod := iodOf vd; let g := msgGroup m
  let w0 := s.hgW iod g 0
  if !s.hgValid iod g then s.stampTo m 4 0 false
  else if s.hgState iod g = stDEAD then s.stampTo m 3 0 false
  else if s.hgState iod g = stJOINHOLD then s.holdDie vd (evM .mcreq m)
  else if 2 ^ nfld w0 12 5 < m.aux0.toNat + m.len + 1 then s.stampTo m 1 0 false
  else if nfld w0 3 9 != m.asid then s.stampTo m 2 0 false
  else
    let n := s.hgNext iod g
    let ps := s.hgMembers iod g
    let s1 := (s.setReg iod (hgBase g + 8) (n + 1)).stampTo m 0 n false
    let s2 := s1.mcMod vd (fun M => { M with outstanding := M.outstanding ++ [⟨g, n, m, ps, 0, 0⟩] })
    let s3 := ps.foldl (fun s p =>
      let eid := memberEid (s.die vd).mc g p
      match s.pass vd false .mcapply { m with dst := eid, aux3 := BitVec.ofNat 64 n } with
      | .ok s1 => s1.after vd (s.hgMcto iod g) (memberTimer vd g p n)
      | .error _ => s.evictMember vd g p) s2
    s3.settleStores vd

/-- Does a message from a tile of this package reach its relay here? -/
def State.atRelay (s : State) (m : Msg) : Bool := eidPkg m.src == s.pkg && eidVd m.src < 4 && m.dst == s.relay (eidTile m.src)

/-- The map entry of a group on the relay's die (R246). -/
def State.groupMap (s : State) (iod g : Nat) : Nat := s.reg iod (0x200000 + 8 * g)

def mcreq (s : State) : State :=
  let m := s.msg
  let vd := eidDie m.dst
  if !isMcUnit m.dst then s.stampTo m 4 0 false
  else if s.atRelay m then
    let e := s.groupMap (iodOf vd) (msgGroup m)
    if !e.testBit 0 then s.stampTo m 4 0 false
    else if nfld e 1 24 = m.dst then s.headgate vd m
    else s.sendFrom vd false .req .mcreq { m with dst := nfld e 1 24 }
  else s.headgate vd m
def execMcreq (s : State) : Out := .next (mcreq s)

/-! ### MCAPPLY at a member (R134, R248) -/

/-- Cells of a bulk write (R122): 64-byte-aligned groups of up to four cells with byte enables, for n bytes at pa. -/
def wrbParts (pa : Nat) (bs : List Byte) : Nat → List (Nat × List Byte × Nat × Nat)
  | 0 => []
  | fuel + 1 =>
    if bs.isEmpty then []
    else
      let base := pa / 64 * 64
      let lead := pa - base
      let n := min bs.length (256 - lead)
      (base, bs.take n, lead, n) :: wrbParts (base + 256) (bs.drop n) fuel

/-- A WRB message: data in its cells, enables in AUX0-AUX3. -/
def wrbMsg (src dst : Nat) (memd : Bool) (tag base lead n : Nat) (bs : List Byte) : Msg :=
  let en := (2 ^ n - 1) * 2 ^ lead
  let cells := cdiv (lead + n) 64
  let body := List.replicate lead (0 : Byte) ++ bs ++ List.replicate (64 * cells - lead - n) (0 : Byte)
  { Msg.zero with src := src, dst := dst, memd := memd, adaptive := true, tag := tag, pa := base, aux0 := BitVec.ofNat 64 en, aux1 := BitVec.ofNat 64 (en / 2 ^ 64), aux2 := BitVec.ofNat 64 (en / 2 ^ 128), aux3 := BitVec.ofNat 64 (en / 2 ^ 192), data := body }

/-- MCSEQ waiters of a group that can be answered now (R249). -/
def State.answerSeq (s : State) (vd g : Nat) : State :=
  let iod := iodOf vd
  let act := s.meState iod g == meACTIVE
  let ap := s.meApplied iod g
  let ready (w : Nat × Msg) : Bool := w.1 == g && (!act || decide (dfld w.2.aux0 0 63 ≤ ap))
  let ws := (s.die vd).mc.waiters.filter ready
  ws.foldl (fun s w => s.reply w.2 .mcseqrsp (fun r => { r with aux0 := BitVec.ofNat 64 ap, attr := BitVec.ofNat 32 (b2n (!act)) }))
    (s.mcMod vd (fun M => { M with waiters := M.waiters.filter (fun w => !ready w) }))

/-- A leaver whose last stamp is applied is LEFT (R136). -/
def State.checkLeft (s : State) (vd g : Nat) : State :=
  let iod := iodOf vd
  let l := mget 0 (s.die vd).mc.leaving g
  if l != 0 && s.meApplied iod g + 1 = l then
    ((s.meSet iod g meLEFT).mcMod vd (fun M => { M with leaving := mset 0 M.leaving g 0 })).answerSeq vd g
  else s

/-- The writes of group g have tags from 8 g: a group has one job at a time, of at most 7 writes (R126). -/
def mcTag (g j : Nat) : Nat := 8 * g + j

/-- A write of the unit leaves for its home (P6, R134). -/
def State.sendPart (s : State) (vd tag : Nat) (q : Nat × List Byte × Nat × Nat) : State :=
  let pa := s.canon q.1
  let (dst, memd) := s.homeOf vd pa
  s.send .bulk .wrb (wrbMsg (s.eid vd 0x38) dst memd tag pa q.2.2.1 q.2.2.2 q.2.1)

/-- The unit begins to write bytes at pa for a group, in a phase of a job. -/
def State.sendParts (s : State) (vd g stamp phase pa : Nat) (m : Msg) (bs : List Byte) : State :=
  let parts := wrbParts pa bs 3
  let tags := (List.range parts.length).map (mcTag g)
  (tags.zip parts).foldl (fun s q => s.sendPart vd q.1 q.2) (s.mcMod vd (fun M => { M with applying := M.applying ++ [⟨g, stamp, m, tags, phase, 0⟩] }))

/-- The bytes of a stamp are written: its applied-sequence word is next (R134). -/
def State.sendApplied (s : State) (vd g stamp phase : Nat) (m : Msg) : State :=
  s.sendParts vd g stamp phase (s.canon (nfld (s.meW (iodOf vd) g 3) 0 56)) m (leBytes 8 stamp)

/-- The applied-sequence word is written: APPLIED advances and MCACK is sent (R134). -/
def State.applied (s : State) (vd g stamp : Nat) : State :=
  let iod := iodOf vd
  let s1 := s.setReg iod (memBase g + 32) stamp
  let s2 := s1.send .rsp .mcack { Msg.zero with src := s.eid vd 0x38, dst := s.meHg iod g, attr := BitVec.ofNat 32 g, aux3 := BitVec.ofNat 64 stamp }
  (((s2.checkLeft vd g).answerSeq vd g)).unholdDie vd

/-- JOINED is done (R137 step 5): APPLIED is J and the entry ACTIVE, unless the join has been abandoned meanwhile. -/
def State.joinApplied (s : State) (vd g j : Nat) (m : Msg) : State :=
  let iod := iodOf vd
  if s.meState iod g != meJOINING then s
  else ((s.setReg iod (memBase g + 32) j).meSet iod g meACTIVE).reply m .mcctlrsp (fun r => { r with attr := BitVec.ofNat 32 (g + 1 * 4096), aux3 := m.aux3 })

/-- The decision of R248 against the replica after every lower stamp. -/
def State.mcDecide (s : State) (m : Msg) (wbase stamp : Nat) : Bool :=
  !wbit m.attr 12 ||
  ((m.aux1.toNat == 2 ^ 64 - 1 || m.aux1.toNat + 1 == stamp) && rdLE s.mem (s.canon (wbase + m.aux0.toNat)) 8 == m.aux2.toNat)

/-- A read or write of the unit that a home refuses is not performed (R70); the unit records it and goes on (log entry 148). -/
def State.mcRefused (s : State) (vd pa : Nat) : State := s.logError vd 22 false cBOUND pa 0

/-- Stores are applied one stamp at a time, in stamp order; a later one waits (R106, R134). -/
def mcapply (s : State) : State :=
  let m := s.msg
  let vd := eidDie m.dst; let iod := iodOf vd; let g := msgGroup m
  let stamp := m.aux3.toNat
  if !s.meValid iod g || s.meState iod g != meACTIVE then s
  else if stamp ≤ s.meApplied iod g then s
  else if stamp != s.meApplied iod g + 1 || (s.die vd).mc.applying.any (fun a => a.group == g) then s.holdDie vd (evM .mcapply m)
  else
    let at_ := s.meWbase iod g + m.aux0.toNat
    let pa := s.canon at_
    if wbit m.attr 12 && s.reserved pa 8 then s.waitResv pa 8 (evM .mcapply m)
    else if wbit m.attr 12 && (s.refuses 6 pa 8 false false).isSome then (s.mcRefused vd pa).sendApplied vd g stamp 1 m
    else
      let s1 := if wbit m.attr 12 then s.readCheck pa 8 0 else s
      if s.mcDecide m (s.meWbase iod g) stamp then s1.sendParts vd g stamp 0 at_ m (m.data.take (m.len + 1)) else s1.sendApplied vd g stamp 1 m
def execMcapply (s : State) : Out := .next (mcapply s)

/-- Answer to SNAP: status 0, or 1 where the window could not be read. -/
def State.snapAnswer (s : State) (m : Msg) (status : Nat) : State :=
  s.reply m .mcctlrsp (fun r => { r with attr := BitVec.ofNat 32 (msgGroup m + status * 65536), aux0 := m.aux0, aux3 := m.aux3 })

/-- 256-byte lines of a member's window. -/
def State.meLines (s : State) (iod g : Nat) : Nat := 2 ^ nfld (s.meW iod g 1) 56 5 / 256

/-- Line i of a window is read at pa and leaves for the new member's unit; PA is the window offset (log entry 29), and a cell with an
uncorrectable error is marked (log entry 165). -/
def State.sendLine (s : State) (vd tag i pa : Nat) (m : Msg) : State :=
  (s.readCheck pa 256 0).send .bulk .wrb
    { wrbMsg (s.eid vd 0x38) (dfld m.aux0 0 24) false tag (256 * i) 0 256 (rdBytes s.mem pa 256) with
      attr := BitVec.ofNat 32 (msgGroup m + s.badCells pa 256 * 2 ^ 24) }

/-- A job of the unit has no write outstanding (R134, R137). -/
def State.mcJobDone (s : State) (vd : Nat) (a : McApply) : State :=
  let s1 := s.mcMod vd (fun M => { M with applying := dropFirst (fun x => x == a) M.applying })
  match a.phase with
  | 0 => s1.sendApplied vd a.group a.stamp 1 a.msg
  | 1 => s1.applied vd a.group a.stamp
  | 2 => (s1.snapAnswer a.msg 0).unholdDie vd
  | 4 => (s1.snapAnswer a.msg 1).unholdDie vd
  | _ => (s1.joinApplied vd a.group a.stamp a.msg).unholdDie vd

/-- The tag of a job is free. -/
def State.mcTagFree (s : State) (vd tag : Nat) (a : McApply) : State :=
  if a.acks == [tag] then s.mcJobDone vd a
  else s.mcMod vd (fun M => { M with applying := updWhere (fun x => x == a) (fun b => { b with acks := b.acks.filter (· != tag) }) M.applying })

/-- A write of the unit is acknowledged: the copy of a window reads its next line, which waits for a reserved word (R99) and ends the copy
where its home does not let the unit read (R70, phase 4, log entry 148). -/
def State.mcAck (s : State) (vd tag : Nat) : State :=
  match (s.die vd).mc.applying.find? (fun a => a.acks.contains tag) with
  | none => s
  | some a =>
    let put (s : State) (b : McApply) : State := s.mcMod vd (fun M => { M with applying := updWhere (fun x => x == a) (fun _ => b) M.applying })
    let pa := s.canon (s.meWbase (iodOf vd) a.group + 256 * a.next)
    if a.phase != 2 || s.meLines (iodOf vd) a.group ≤ a.next then s.mcTagFree vd tag a
    else if (s.refuses 6 pa 256 false false).isSome then ((put s { a with phase := 4 }).mcRefused vd pa).mcTagFree vd tag { a with phase := 4 }
    else if s.reserved pa 256 then s.waitResv pa 256 (evM .wrack { Msg.zero with dst := s.eid vd 0x38, tag := tag })
    else (put s { a with next := a.next + 1 }).sendLine vd tag a.next pa a.msg

/-- MCACK at the headgate (R133). -/
def mcack (s : State) : State :=
  let m := s.msg
  let vd := eidDie m.dst; let g := msgGroup m; let p := eidPkg m.src
  let upd (a : McApply) : McApply := if a.group = g && a.stamp = m.aux3.toNat then { a with acks := a.acks.filter (· != p) } else a
  let s1 := (s.mcMod vd (fun M => { M with outstanding := M.outstanding.map upd })).unTimer (memberTimer vd g p m.aux3.toNat)
  let s2 := s1.settleStores vd
  match (s2.die vd).mc.joins.find? (fun j => j.group == g) with
  | some j => s2.joinSnap vd j
  | none => s2
def execMcack (s : State) : Out := .next (mcack s)

/-- MEMBER_TIMEOUT (R135, R137): t the headgate's die, k the group, n the package, v the stamp, or 2^64 for a join. -/
def memberTimeout (s : State) : State :=
  let a := s.arg
  let late := if a.v = 2 ^ 64 then (s.die a.t).mc.joins.any (fun j => j.group == a.k && (if j.phase = 1 then eidPkg j.source == a.n else j.member == a.n))
    else (s.die a.t).mc.outstanding.any (fun x => x.group == a.k && x.stamp == a.v && x.acks.contains a.n)
  if !late then s
  else if a.v = 2 ^ 64 then
    match (s.die a.t).mc.joins.find? (fun j => j.group == a.k) with
    | some j => s.abandonJoin a.t j
    | none => s
  else s.evictMember a.t a.k a.n
def execMemberTimeout (s : State) : Out := .next (memberTimeout s)

/-! ### Joining and leaving (R136-R138) -/

def mcjoinJoin (s : State) : State :=
  let m := s.msg
  let vd := eidDie m.dst; let iod := iodOf vd; let g := msgGroup m
  let src := dfld m.aux0 0 24; let p := eidPkg m.src
  if !isMcUnit m.dst || !s.hgValid iod g then s.refuseJoin m
  else if s.hgState iod g != stRUN then s.holdDie vd (evM .mcjoinJoin m)
  else if s.hgIn iod g p || (src = 0 && s.hgNmem iod g != 0) || (src != 0 && (!s.hgIn iod g (eidPkg src) || src != memberEid (s.die vd).mc g (eidPkg src))) || dfld m.aux1 0 5 != nfld (s.hgW iod g 0) 12 5 then s.refuseJoin m
  else
    let j : McJoin := ⟨g, p, src, s.hgNext iod g - 1, 0, m⟩
    let s1 := (s.hgSetState iod g stJOINHOLD).mcMod vd (fun M => { M with joins := M.joins ++ [j] })
    if s.hgNmem iod g = 0 then s1.joinJoined vd j else s1.joinSnap vd j
def execMcjoinJoin (s : State) : Out := .next (mcjoinJoin s)

/-- A package that is no member cannot leave: it is refused, and FAILED as an evicted member is (log entry 149). -/
def mcjoinLeave (s : State) : State :=
  let m := s.msg
  let vd := eidDie m.dst; let iod := iodOf vd; let g := msgGroup m
  if !isMcUnit m.dst || !s.hgValid iod g then s.refuseJoin m
  else if s.hgState iod g != stRUN then s.holdDie vd (evM .mcjoinLeave m)
  else if !s.hgIn iod g (eidPkg m.src) then s.refuseJoin m
  else (s.hgPut iod g (eidPkg m.src) false).mcctl vd .mcctlLeft 3 m.src g 0 (s.hgNext iod g - 1)
def execMcjoinLeave (s : State) : Out := .next (mcjoinLeave s)

/-- SNAP at the source (R137 step 4): its window, 256 bytes a message and 7 messages at a time, to the new member's unit. -/
def mcctlSnap (s : State) : State :=
  let m := s.msg
  let vd := eidDie m.dst; let iod := iodOf vd; let g := msgGroup m
  if !s.meValid iod g || s.meState iod g != meACTIVE then s.snapAnswer m 1
  else
    let tags := (List.range 7).map (mcTag g)
    tags.foldl (fun s tag => s.mcAck vd tag) (s.mcMod vd (fun M => { M with applying := M.applying ++ [⟨g, m.aux3.toNat, m, tags, 2, 0⟩] }))
def execMcctlSnap (s : State) : Out := .next (mcctlSnap s)

/-- JOINED (R137 step 5): J goes to the applied-sequence word first. An entry that is not JOINING has been abandoned: it stays. -/
def mcctlJoined (s : State) : State :=
  let m := s.msg
  if !s.meValid (iodOf (eidDie m.dst)) (msgGroup m) || s.meState (iodOf (eidDie m.dst)) (msgGroup m) != meJOINING then s
  else s.sendApplied (eidDie m.dst) (msgGroup m) m.aux3.toNat 3 m
def execMcctlJoined (s : State) : Out := .next (mcctlJoined s)

def mcctlEvict (s : State) : State :=
  let m := s.msg
  let vd := eidDie m.dst; let g := msgGroup m
  (s.meSet (iodOf vd) g meFAILED).answerSeq vd g
def execMcctlEvict (s : State) : Out := .next (mcctlEvict s)

def mcctlLeft (s : State) : State :=
  let m := s.msg
  let vd := eidDie m.dst; let g := msgGroup m
  (s.mcMod vd (fun M => { M with leaving := mset 0 M.leaving g (m.aux3.toNat + 1) })).checkLeft vd g
def execMcctlLeft (s : State) : Out := .next (mcctlLeft s)

/-- MCCTLRSP: at the headgate the answer to SNAP or JOINED, the next step of a join (R137); at an apply die the refusal of its join. -/
def mcctlrsp (s : State) : State :=
  let m := s.msg
  let vd := eidDie m.dst; let iod := iodOf vd; let g := msgGroup m
  let bad := wfld m.attr 16 4 != 0
  let snap := wfld m.attr 12 4 == 0
  let waits (j : McJoin) : Bool :=
    j.group == g && j.point == m.aux3.toNat && (if snap then j.phase == 1 && j.source == m.src else j.phase == 2 && j.req.src == m.src)
  if bad && !snap then (s.meSet iod g meFAILED).answerSeq vd g
  else match (s.die vd).mc.joins.find? waits with
    | none => s
    | some j =>
      if bad then s.abandonJoin vd j
      else if snap then (s.joinTimersOff vd j).joinJoined vd j
      else
        let s1 := ((s.joinTimersOff vd j).dropJoin vd g).mcMod vd (fun M => { M with members := mset 0 M.members (g * 1024 + j.member) j.req.src })
        ((s1.hgPut iod g j.member true).hgSetState iod g stRUN).unholdDie vd
def execMcctlrsp (s : State) : Out := .next (mcctlrsp s)

/-- The join window (R138). A descriptor that fails its checks is discarded and logged. -/
def joinDescriptor (isLeave : Bool) (s : State) : State :=
  let d := s.arg.desc.toNat
  let vd := iodVd s.arg.t; let iod := s.arg.t; let g := nfld d 0 12
  let bad : State := s.logError vd 22 false cDOORBELL 0 0
  if nfld d 12 4 != 0 || nfld d 17 47 != 0 || nfld d 88 40 != 0 then bad
  else if isLeave then
    if !s.meValid iod g || s.meState iod g != meACTIVE then bad
    else s.send .req .mcjoinLeave { Msg.zero with src := s.eid vd 0x38, dst := s.meHg iod g, tag := 0x8000 + g, attr := BitVec.ofNat 32 (g + 4096) }
  else if !s.meValid iod g || s.meState iod g = meACTIVE then bad
  else
    let s1 := s.meSet iod g meJOINING
    s1.send .req .mcjoinJoin { Msg.zero with src := s.eid vd 0x38, dst := s.meHg iod g, tag := 0x8000 + g, attr := BitVec.ofNat 32 g, aux0 := BitVec.ofNat 64 (nfld d 64 24), aux1 := BitVec.ofNat 64 (nfld (s.meW iod g 1) 56 5) }
def execMcJoinDescriptor (s : State) : Out := .next (joinDescriptor false s)
def execMcLeaveDescriptor (s : State) : Out := .next (joinDescriptor true s)

/-- ERR for an MCJOIN: the entry is FAILED, and UNREACH is logged (R138). -/
def State.joinUnreachable (s : State) (vd g : Nat) : State :=
  ((s.meSet (iodOf vd) g meFAILED).logError vd 22 false cUNREACH 0 0).answerSeq vd g

/-! ### MCSEQ (R249) -/

def State.seqAtMember (s : State) (vd : Nat) (m : Msg) : State :=
  let iod := iodOf vd; let g := msgGroup m
  let ok := s.meValid iod g && s.meState iod g == meACTIVE && s.meAsid iod g == m.asid
  let ap := s.meApplied iod g
  if !ok || dfld m.aux0 0 63 ≤ ap then s.reply m .mcseqrsp (fun r => { r with aux0 := BitVec.ofNat 64 ap, attr := BitVec.ofNat 32 (b2n (!ok)) })
  else s.mcMod vd (fun M => { M with waiters := M.waiters ++ [(g, m)] })

def mcseqreq (s : State) : State :=
  let m := s.msg
  let vd := eidDie m.dst
  if s.atRelay m then
    let e := s.groupMap (iodOf vd) (msgGroup m)
    if !e.testBit 0 || !e.testBit 25 then s.answer .mcseqrsp (fun r => { r with attr := 1 })
    else if 8 + nfld e 26 1 = vd then s.seqAtMember vd m
    else s.sendFrom vd false .req .mcseqreq { m with dst := s.eid (8 + nfld e 26 1) 0x38 }
  else s.seqAtMember vd m
def execMcseqreq (s : State) : Out := .next (mcseqreq s)

end Sys2Proof.Machine
end

