-- ==== Sys2Proof/Machine/Access.lean ====
section
/-! DEFINITION. Memory messages (R122): reads, writes, reservations and completion-word posts performed at their homes, and
their answers at the tile that asked. -/

namespace Sys2Proof.Machine
open Sys2Proof

/-- Context name of the slot a message came from. -/
def msgCtx (m : Msg) : Nat := eidPkg m.src * 2 ^ 15 + m.src % 4096 * 8 + m.slot

/-! ### Waiting for a bank -/

/-- The requester of a message at a bank: its slot, for a P0 access of the bank's own tile, else 8, an engine's post too (R298). -/
def bankAsker (s : State) (t : Nat) : Nat :=
  if s.msg.src = s.tileEid t ∧ (s.pendOf s.msg).any (fun p => p.path == 0) then s.msg.slot else 8

/-- A locked bank keeps the access waiting in the tile's ingress (R298). -/
def bankWait (i : Instr) (pa n : Nat) (s : State) : M Unit :=
  if spaceOf pa = 3 && !pa.testBit 22 then
    let t := eidTile (nfld pa 24 24)
    if (s.tile t).bankHeld (bankAsker s t) (nfld pa 0 22) n then .error (s.holdTile t (evM i s.msg)) else .ok ()
  else .ok ()

/-! ### Units of I/O dies: their accesses and answers (R111, R126) -/

/-- What goes on with an access nobody waits for. -/
def noEvent : Ev := evTK .engineStep 0 9

def Die.unitTags (D : Die) (ag : Nat) : List Nat := (D.outs.filter (fun o => o.agent == ag)).map (·.tag)
/-- A tag no access of the agent holds; tags below 0x8000 are its requests of other kinds. -/
def Die.unitTag (D : Die) (ag : Nat) : Nat :=
  let used := D.unitTags ag
  let t := used.foldl (fun a x => max a (x + 1)) 0x8000
  if t < 65535 then t else ((List.range 65535).find? (fun x => 0x8000 ≤ x && !used.contains x)).getD 65535
/-- An agent with all its tags outstanding waits (R126). -/
def State.unitFull (s : State) (vd ag : Nat) : Bool := decide (32767 ≤ ((s.die vd).unitTags ag).length)

/-- For whom a unit makes an access: die, agent, path, context, address space, and the event that goes on with it. -/
structure Unit_ where
  vd : Nat
  ag : Nat
  path : Nat
  ctx : Nat
  asid : Nat
  ev : Ev
  deriving DecidableEq, Repr

def State.unitOut (s : State) (u : Unit_) (pa n la : Nat) (write : Bool) : Nat × State :=
  let tag := (s.die u.vd).unitTag u.ag
  (tag, s.modDie u.vd (fun D => { D with outs := D.outs ++ [⟨u.ag, tag, u.path, pa, n, la, u.ctx, write, u.ev, none⟩] }))

/-- A unit reads n bytes at their home. -/
def State.unitGet (s : State) (u : Unit_) (pa n la : Nat) : State :=
  let (tag, s1) := s.unitOut u pa n la false
  let (dst, memd) := s.homeOf u.vd pa
  s1.send .req .rd { Msg.zero with src := s.eid u.vd u.ag, dst := dst, asid := u.asid, memd := memd, tag := tag, adaptive := true, pa := pa, len := n - 1 }

/-- A unit writes bytes of one 256-byte line at their home (R90). -/
def State.unitPut (s : State) (u : Unit_) (pa la : Nat) (bs : List Byte) : State :=
  let (tag, s1) := s.unitOut u pa bs.length la true
  let (dst, memd) := s.homeOf u.vd pa
  s1.send .bulk .wrb { wrbMsg (s.eid u.vd u.ag) dst memd tag (pa / 64 * 64) (pa % 64) bs.length bs with asid := u.asid }

/-- A unit posts to a completion word (R50). -/
def State.unitPost (s : State) (u : Unit_) (pa la add : Nat) (err : Bool) : State :=
  let (tag, s1) := s.unitOut { u with ev := noEvent } pa 8 la true
  let (dst, memd) := s.homeOf u.vd pa
  s1.send .req .cwpost { Msg.zero with src := s.eid u.vd u.ag, dst := dst, asid := u.asid, memd := memd, tag := tag, pa := pa, aux0 := BitVec.ofNat 64 add, attr := BitVec.ofNat 32 (b2n err) }

/-- The answer to an access of a unit that is still there for it. -/
def State.unitGot (s : State) (u : Unit_) (pa : Nat) : Option (List Byte × Nat) :=
  ((s.die u.vd).outs.find? (fun o => o.agent == u.ag && o.ev == u.ev && o.pa == pa && !o.write && o.got.isSome)).bind (·.got)
/-- Accesses without an answer. -/
def State.unitBusy (s : State) (u : Unit_) : Bool := (s.die u.vd).outs.any (fun o => o.agent == u.ag && o.ev == u.ev && o.got.isNone)
/-- An access to the same 256-byte line without an answer. -/
def State.unitLine (s : State) (u : Unit_) (pa : Nat) : Bool := (s.die u.vd).outs.any (fun o => o.agent == u.ag && o.ev == u.ev && o.got.isNone && o.pa / 256 == pa / 256)
/-- A write that was refused. -/
def State.unitBad (s : State) (u : Unit_) : Option UnitOut := (s.die u.vd).outs.find? (fun o => o.agent == u.ag && o.ev == u.ev && o.path < 16 && o.write && o.got.isSome)
/-- The path number of a unit's read of a node of a walk. -/
def nodePath : Nat := 8
/-- Answers no longer needed. -/
def State.unitClear (s : State) (u : Unit_) : State :=
  s.modDie u.vd (fun D => { D with outs := D.outs.filter (fun o => !(o.agent == u.ag && o.ev == u.ev && o.got.isSome)) })

/-- An answer reaches the unit: a write that was performed, or a post, is forgotten; other answers are kept for it. -/
def State.unitAnswer (s : State) (vd ag tag : Nat) (got : Option (List Byte × Nat)) : State :=
  match (s.die vd).outs.find? (fun o => o.agent == ag && o.tag == tag && o.got.isNone) with
  | none => s
  | some o =>
    let keep := got.isSome && o.ev != noEvent
    let upd (l : List UnitOut) : List UnitOut := if keep then updWhere (fun x => x == o) (fun x => { x with got := got.map (fun g => (g.1.take o.n, g.2)) }) l else dropFirst (fun x => x == o) l
    let s1 := s.modDie vd (fun D => { D with outs := upd D.outs })
    if o.ev == noEvent then s1 else s1.emitOnce o.ev

/-! ### At the home -/

/-- Read data to the requester: RDATA up to 8 bytes, RDATAB above, with the poison of each cell that was read (R122, R39). -/
def State.readAnswer (s : State) (bs : List Byte) (bad : Nat) : State :=
  if bs.length ≤ 8 then s.answer .rdata (fun r => { r with aux0 := BitVec.ofNat 64 (leNat bs), attr := BitVec.ofNat 32 (min bad 1) })
  else s.send .bulk .rdatab { msgReply s.msg with memd := s.fromManager s.msg, adaptive := s.msg.adaptive, data := bs, attr := BitVec.ofNat 32 bad }

/-- Is a read by a thread's port, which records let read (R59, R70)? Walks and engines are no thread's ports; another package's engines
and ladles are known by the adaptive class (R90). -/
def State.byP0 (s : State) (m : Msg) : Bool :=
  isComputeTile (eidTile m.src) &&
  (if eidPkg m.src = s.pkg then (s.pendOf m).any (fun p => match p.kind with
    | .pull .. => false
    | .node .. => false
    | _ => true)
  else !m.adaptive)

def rd (s : State) : State :=
  let m := s.msg
  let n := m.len + 1
  let r : M State := do
    let pa ← atHome .rd (if s.fromManager m then 4 else 0) n (s.byP0 m) false s
    bankWait .rd pa n s
    let vd := eidDie m.dst
    let bad := s.badCells pa n
    .ok (match spaceOf pa with
      | 1 => s.ioAsk vd .rd (fun tag s => s.ethOut (.cxlRead vd tag pa n))
      | 2 => s.ioAsk vd .rd (fun tag s => s.hostOut (.pcieRead vd tag pa n))
      | 5 => s.readAnswer (leBytes n (s.mmioRead pa n)) 0
      | _ => ((if bad != 0 then s.recordEcc pa (msgCtx m) else s).scrub pa n (msgCtx m)).readAnswer (rdBytes s.mem pa n) bad)
  match r with
  | .ok s1 => s1
  | .error s1 => s1
def execRd (s : State) : Out := .next (rd s)

def wr (s : State) : State :=
  let m := s.msg
  let n := m.len + 1
  let bs := leBytes n m.aux0.toNat
  let r : M State := do
    let pa ← atHome .wr 0 n false true s
    bankWait .wr pa n s
    if spaceOf pa = 5 then match s.mmioWrite (deviceWriter m.src m.slot) pa bs with
      | some s1 => .ok (s1.answer .wrack id)
      | none => .ok (s.holdDie (eidDie m.dst) (evM .wr m))
    else .ok ((s.performOut (eidDie m.dst) pa bs).answer .wrack id)
  match r with
  | .ok s1 => s1
  | .error s1 => s1
def execWr (s : State) : Out := .next (wr s)

/-- Enables of a WRB, bit i for byte i. -/
def wrbEnables (m : Msg) : Nat := m.aux0.toNat + m.aux1.toNat * 2 ^ 64 + m.aux2.toNat * 2 ^ 128 + m.aux3.toNat * 2 ^ 192

/-- Runs of enabled bytes: offset and bytes of each. -/
def enabledRuns (en : Nat) : Nat → Nat → List Byte → List (Nat × List Byte)
  | 0, _, _ => []
  | fuel + 1, o, bs =>
    if bs.isEmpty then []
    else if en.testBit o then
      let run := (List.range bs.length).takeWhile (fun j => en.testBit (o + j))
      (o, bs.take run.length) :: enabledRuns en fuel (o + run.length) (bs.drop run.length)
    else enabledRuns en fuel (o + 1) (bs.drop 1)

/-- Bytes as they arrive when some bits were damaged on the way. -/
def damaged (d bs : List Byte) : List Byte :=
  match d with
  | [] => bs
  | d => bs.mapIdx (fun i b => b ^^^ d.getD i 0)

/-- WRB (R122): an adaptive write at its home, or a piece of a window at a joining member (log entry 29). The home computes the CRC-32C
tag of R48 over the bytes it performs, damaged as the event says, and reports a mismatch with the tag sent (log entry 151). -/
def wrb (s : State) : State :=
  let m := s.msg
  let vd := eidDie m.dst
  let snap := isMcUnit m.dst
  let base := s.canon (if snap then s.meWbase (iodOf vd) (msgGroup m) + m.pa else m.pa)
  let data := damaged s.arg.bytes m.data
  let runs := enabledRuns (wrbEnables m) 257 0 data
  let mismatch := !s.arg.bytes.isEmpty && crc32c data != crc32c m.data
  let poison := wfld m.attr 24 4
  match s.fwdWrite base with
  | some pa2 =>
    let (dst, memd) := s.homeOf (vdOf (eidTile m.dst)) pa2
    s.sendFrom (vdOf (eidTile m.dst)) false .bulk .wrb { m with pa := pa2, dst := dst, memd := memd, adaptive := m.adaptive && spaceOf pa2 == 3 }
  | none =>
  if s.settlingPart base then s.holdTile (eidTile (nfld base 24 24)) (evM .wrb m) else
  match runs.findSome? (fun q => s.refuses 6 (base + q.1) q.2.length false true) with
  | some c => s.refuse c
  | none =>
    if !s.decodes vd base then s.refuse 7
    else match runs.find? (fun q => s.reserved (base + q.1) q.2.length) with
      | some q => s.waitResv (base + q.1) q.2.length (evM .wrb m)
      | none =>
        if runs.any (fun q => spaceOf base = 3 && !base.testBit 22 && (s.tile (eidTile (nfld base 24 24))).bankHeld 8 (nfld base 0 22 + q.1) q.2.length)
        then s.holdTile (eidTile (nfld base 24 24)) (evM .wrb m)
        else ((runs.foldl (fun s q => s.performOut vd (base + q.1) q.2) s).poisonCells base poison).answer .wrack (fun r => if mismatch then { r with attr := 1 } else r)
def execWrb (s : State) : Out := .next (wrb s)

/-- RSV (R99): the word is held for its requester, or for the AtomicOp that the host performs (R43, R91): the operands of that are the
requester's, looked up there, since R122 gives RSV no field for them (log entry 138). -/
def rsv (s : State) : State :=
  let m := s.msg
  let n := m.len + 1
  let r : M State := do
    let pa ← atHome .rsv 0 n false true s
    bankWait .rsv pa n s
    let vd := eidDie m.dst
    let hold (s : State) : State := s.modDie (s.watchDie pa) (fun D => { D with resvs := D.resvs ++ [⟨pa, m, []⟩] })
    let bad := s.eccBad pa n
    let ask : Nat × Word × Word := match s.pendOf m with
      | some ⟨_, _, _, _, .atomic _ op v e⟩ => (op, v, e)
      | _ => (0, 0, 0)
    .ok (match spaceOf pa with
      | 2 => (hold s).ioAsk vd .rsv (fun tag s => s.hostOut (.pcieAtomic vd tag pa ask.1 ask.2.1 ask.2.2))
      | 1 => (hold s).ioAsk vd .rsv (fun tag s => s.ethOut (.cxlRead vd tag pa n))
      | _ => (hold ((if bad then s.recordEcc pa (msgCtx m) else s).scrub pa n (msgCtx m))).answer .rsvgnt
          (fun r => { r with aux0 := BitVec.ofNat 64 (rdLE s.mem pa n), attr := BitVec.ofNat 32 (b2n bad) }))
  match r with
  | .ok s1 => s1
  | .error s1 => s1
def execRsv (s : State) : Out := .next (rsv s)

/-- The atomic of a released word is performed (R87): a thread of this package is told at once, since no message answers RSVREL and the
word is held until then (log entry 140). -/
def State.atomicDone (s : State) (m : Msg) : State :=
  let t := eidTile m.src
  if eidPkg m.src = s.pkg && isComputeTile t && ((s.slot t (m.slot % 8)).getPend m.tag).any (fun p => p.kind == .released) then s.donePend t (m.slot % 8) m.tag else s

/-- A reservation ends, and the accesses that waited go on. -/
def State.unreserve (s : State) (pa : Nat) (m : Msg) : State :=
  let vd := s.watchDie pa
  let mine (r : Resv) : Bool := r.pa == pa && r.holder.src == m.src && r.holder.slot == m.slot
  match (s.die vd).resvs.find? mine with
  | none => s
  | some r =>
    let s2 := s.modDie vd (fun D => { D with resvs := dropFirst mine D.resvs })
    ({ s2 with pool := r.waiters ++ s2.pool } : State).atomicDone r.holder

/-- RSVREL (R99): the new value is written if ATTR[0] is set. A word has one holder at a time, so no tag names it. -/
def rsvrel (s : State) : State :=
  let m := s.msg
  let pa := s.canon m.pa
  let mine (r : Resv) : Bool := r.pa == pa && r.holder.src == m.src && r.holder.slot == m.slot
  match (s.die (s.watchDie pa)).resvs.find? mine with
  | none => s
  | some r => (if wbit m.attr 0 then s.performOut (eidDie m.dst) pa (leBytes (r.holder.len + 1) m.aux0.toNat) else s).unreserve pa m
def execRsvrel (s : State) : Out := .next (rsvrel s)

/-- The word of a post in a device has been read: it is written with the value added, unless it came with an error (R43, R50). -/
def State.postOutside (s : State) (pa v : Nat) (bad : Bool) : State :=
  let m := s.msg
  ((if bad then s else s.performOut (eidDie m.dst) pa (leBytes 8 (postValue v m.aux0.toNat (wbit m.attr 0)))).unreserve pa { m with len := 7 }).answer .wrack id

/-- CWPOST (R50, R392): AUX0 the value added, ATTR[0] err. A word of host memory, which only units of I/O dies post to, is read and
written by the host link, as no PCIe AtomicOp adds and keeps bit 63 (R29, R43, log entry 158). -/
def cwpost (s : State) : State :=
  let m := s.msg
  let pa := s.canon m.pa
  match s.fwdWrite pa with
  | some pa2 =>
    let (dst, memd) := s.homeOf (vdOf (eidTile m.dst)) pa2
    s.sendFrom (vdOf (eidTile m.dst)) false .req .cwpost { m with pa := pa2, dst := dst, memd := memd }
  | none =>
    if !s.decodes (eidDie m.dst) pa || (spaceOf pa == 2 && isComputeTile (eidTile m.src)) then s.refuse 7
    else match s.refuses 1 pa 8 false true with
      | some c => s.refuse c
      | none =>
        if s.reserved pa 8 then s.waitResv pa 8 (evM .cwpost m)
        else match bankWait .cwpost pa 8 s with
          | .error s1 => s1
          | .ok () =>
            if outside pa then
              (s.modDie (s.watchDie pa) (fun D => { D with resvs := D.resvs ++ [⟨pa, { m with len := 7 }, []⟩] })).ioAsk (eidDie m.dst) .cwpost
                (fun tag s => if spaceOf pa = 1 then s.ethOut (.cxlRead (eidDie m.dst) tag pa 8) else s.hostOut (.pcieRead (eidDie m.dst) tag pa 8))
            else if s.eccBad pa 8 then (s.recordEcc pa (msgCtx m)).answer .wrack id
            else ((s.scrub pa 8 (msgCtx m)).performOut (eidDie m.dst) pa (leBytes 8 (postValue (rdLE s.mem pa 8) m.aux0.toNat (wbit m.attr 0)))).answer .wrack id
def execCwpost (s : State) : Out := .next (cwpost s)

/-! ### At the tile -/

/-- Load data for its register, a pair as a whole (R229, R230). -/
def State.fillLoad (s : State) (t k rd size : Nat) (sx : Bool) (v : Nat) (bad : Bool) : State :=
  if size = 8 then s.fillPair t k rd (BitVec.ofNat 32 v) (BitVec.ofNat 32 (v / 2 ^ 32)) bad
  else s.fillReg t k rd (if sx then BitVec.ofInt 32 (sgn (8 * size) v) else BitVec.ofNat 32 v) bad

/-- Source bytes of a ladle's copy have come (R46). -/
def State.pulled (s : State) (t k tag ctx ch pa : Nat) (bs : List Byte) (st : Nat) : State :=
  let put (c : Copy) : Copy := if c.ctx = ctx then { c with got := some (pa, bs, st) } else c
  ((s.donePend t k tag).modTile t (fun T => { T with ladles := mset {} T.ladles ch (let L := mget {} T.ladles ch; { L with active := L.active.map put }) })).emitOnce (evTK .ladleSegmentCheck t ch)

/-- Steps of a tile's engines, ladles and copies that may go on. -/
def State.pokeSteps (s : State) (t : Nat) : State :=
  let s1 := (stepEvents t).foldl State.emitOnce s
  [8, 9].foldl (fun (s : State) vd => (s.die vd).copyq.foldl (fun (s : State) q =>
    if ctxTile q.2.ctx = t then s.emitOnce ⟨.engineStep, { t := vd, k := 5, v := q.1 }⟩ else s) s) s1

/-- What a walk waited for has come: the slot that asked, or the step of its engine, walks again (R22). -/
def State.walkAgain (s : State) (t k tag : Nat) : State :=
  (s.modSlot t k (fun h => { h.delPend tag with run := if h.run == .blocked .leaf then .ready else h.run })).pokeSteps t

/-- A node of a walk has been read at its home: 2^64 with an uncorrectable error, more where the home refused the read. -/
def State.nodeGot (s : State) (t k tag asid la pa val : Nat) : State :=
  (s.modTile t (fun T => { T with nodes := T.nodes ++ [⟨asid, la, pa, val⟩] })).walkAgain t k tag

/-- RDATA answers a load or a walk, or carries the old value of an AtomicOp (R122, R43). -/
def rdata (s : State) : State :=
  let m := s.msg
  let t := s.dstTile; let k := m.slot
  let v := m.aux0.toNat; let bad := wbit m.attr 0
  if !isComputeTile t then s.unitAnswer (eidDie m.dst) (m.dst % 256) m.tag (some (leBytes 8 v, b2n bad)) else
  match (s.slot t k).getPend m.tag with
  | some ⟨tag, _, _, _, .load rd size sx⟩ => (s.fillLoad t k rd size sx v bad).donePend t k tag
  | some ⟨tag, _, _, _, .atomic rd _ _ _⟩ => (s.fillReg t k rd (BitVec.ofNat 32 v) bad).donePend t k tag
  | some ⟨tag, _, pa, _, .pull ctx ch n⟩ => s.pulled t k tag ctx ch pa (leBytes n v) (b2n bad)
  | some ⟨tag, _, pa, _, .node asid la⟩ => s.nodeGot t k tag asid la pa (if bad then 2 ^ 64 else v)
  | _ => s
def execRdata (s : State) : Out := .next (rdata s)

/-- A segment descriptor arrives (R13, R233). -/
def State.segArrived (s : State) (t k tag d sgm r md pa la : Nat) (v : Nat) (bad : Bool) : State :=
  let h := s.slot t k
  let sg := segOfNat v
  let M := h.seg sgm
  let task := stPL h.st == 0
  let subset := (sg.rights ||| M.rights) == M.rights
  let inside := decide (M.base.toNat ≤ sg.base.toNat) && decide (sg.base.toNat + sg.limit.toNat ≤ M.base.toNat + M.limit.toNat)
  let ok := segReservedZero v && (!task || (sg.s == M.s && subset && inside))
  let s1 := (({ s with cur := (t, k) } : State).modTh (fun h => { h with run := .ready })).donePend t k tag
  if bad then s1.trap tMCHK 1 0
  else if !ok then s1.trap tSEG 4 (BitVec.ofNat 32 (if M.s then nfld pa 0 22 - M.base.toNat % 2 ^ 22 else la - M.base.toNat))
  else (s.unblockCommit t k tag [⟨BitVec.ofNat 5 r, BitVec.ofNat 2 md⟩]).modSlot t k (fun h => { h with sg := mset {} h.sg d sg })

/-- The binding in a record as it was read. The record of a live group has none: its manager answers NOTINIT (R150, log entry 170). -/
def State.bindingRead (s : State) (pa v : Nat) : Binding :=
  bindingOf (if spaceOf pa = 0 && (s.die (nfld pa 37 2)).groups.contains pa then 0 else v)

/-- RDATAB answers a segment load, the binding read of an acquire (R233, R393), or a guard's manager (R87). -/
def rdatab (s : State) : State :=
  let m := s.msg
  let t := s.dstTile; let k := m.slot
  let v := leNat m.data; let bad := m.attr != 0
  if m.memd then s.gatherGot (eidVd m.dst) m.data bad else
  if !isComputeTile t then s.unitAnswer (eidDie m.dst) (m.dst % 256) m.tag (some (m.data, b2n bad)) else
  match (s.slot t k).getPend m.tag with
  | some ⟨tag, _, pa, la, .segld d sg r md⟩ => s.segArrived t k tag d sg r md pa la v bad
  | some ⟨tag, _, pa, _, .record second⟩ =>
    let got (h : Slot) : Option (Nat × List Byte) := if second then h.fetched.map (fun q => (q.1, q.2 ++ m.data)) else some (pa, m.data)
    let s1 := (s.donePend t k tag).modSlot t k (fun h => { h with run := .ready, fetched := if bad then none else got h })
    if bad then ({ s1 with cur := (t, k) } : State).trap tMCHK 1 0 else s1
  | some ⟨tag, _, pa, _, .binding rd excl isTry spoff srcs⟩ => bindingArrived t k tag rd excl isTry spoff srcs pa (s.bindingRead pa v) s
  | some ⟨tag, _, pa, _, .acquire _⟩ => bindingAgain t k tag pa (s.bindingRead pa v) s
  | some ⟨tag, _, pa, _, .pull ctx ch n⟩ => s.pulled t k tag ctx ch pa (m.data.take n) (b2n bad)
  | _ => s
def execRdatab (s : State) : Out := .next (rdatab s)

/-- A write of an engine or a ladle is performed: its command goes on, and a thread that waits for it looks again. A segment of a drain
whose tag did not match is sent once more (R48), and a mismatch of that stops the copy. `kk` is twice the segment's number, and 1 more for
a part of a segment that was sent again. -/
def State.engAck (s : State) (t k tag path ctx ch kk : Nat) (bad : Bool) : State :=
  let seg := kk / 2
  let s1 := s.donePend t k tag
  let s2 := if ctxPkg ctx = s.pkg then s1.notify (ctxTile ctx) (ctxSlot ctx) else s1
  let put (c : Copy) : Copy :=
    if c.ctx != ctx || !bad then c
    else if kk % 2 = 1 then (if c.err = 0 then { c with err := 101 } else c)
    else if c.resent.contains seg then c
    else { c with resent := c.resent ++ [seg], again := c.again ++ [256 * seg] }
  if path = 1 then
    (s2.modTile t (fun T => { T with ladles := mset {} T.ladles ch (let L := mget {} T.ladles ch; { L with active := L.active.map put }) })).emitOnce (evTK .ladleSegmentCheck t ch)
  else s2.emitOnce (evTK .engineStep t (path - 2))

/-- The context that stands for no thread: a post that a tile makes for its crew. -/
def noCtx : Nat := 2 ^ 27
/-- The context that stands for the map words of a launch (R315). -/
def mapCtx (lu id : Nat) : Nat := noCtx + 1 + 2 * id + (lu - 8)

/-- The crews of a launch on a die issue once its map words are written (R315). -/
def State.mapDone (s : State) (t ctx : Nat) : State :=
  if ctx ≤ noCtx || (s.slot t 7).pend.any (fun p => p.kind == .cw ctx) then s
  else (s.die (vdOf t)).crews.foldl (fun (s : State) c =>
    if mapCtx c.lu c.launch = ctx && c.state == 0 then c.slots.foldl (fun (s : State) k => s.modSlot c.tile k (fun h => { h with frozen := false })) s else s) s

/-- WRACK at the tile that asked (R126). -/
def State.tileWrack (s : State) : State :=
  let m := s.msg
  let t := s.dstTile; let k := m.slot
  match (s.slot t k).getPend m.tag with
  | some ⟨tag, _, _, _, .store _⟩ => s.donePend t k tag
  | some ⟨tag, _, _, _, .wb grec⟩ => (s.donePend t k tag).wbStep t k grec
  | some ⟨tag, _, _, _, .cw ctx⟩ => let s1 := s.donePend t k tag; if ctxPkg ctx = s.pkg then s1.notify (ctxTile ctx) (ctxSlot ctx) else s1.mapDone t ctx
  | some ⟨tag, path, _, _, .eng ctx ch seg⟩ => s.engAck t k tag path ctx ch seg (wbit m.attr 0)
  | some ⟨tag, _, _, _, .send⟩ => s.sendDone t k tag .send
  | some ⟨tag, _, _, _, .channel j⟩ => s.sendDone t k tag (.channel j)
  | some _ => s
  | none => s.movedWord

/-- Release the reservation of a word to the home that granted it. -/
def State.release_ (s : State) (pa : Nat) (write : Bool) (v : Nat) : State :=
  s.send .rsp .rsvrel { msgReply s.msg with tag := 0, pa := pa, memd := spaceOf pa == 0 || spaceOf pa == 4, attr := BitVec.ofNat 32 (b2n write), aux0 := BitVec.ofNat 64 v }

/-- The word is released; the access is performed when its home has written it (R87). Another package does not say when. -/
def State.released (s : State) (t k tag : Nat) : State :=
  if eidPkg s.msg.src = s.pkg then s.modSlot t k (fun h => { h with pend := updWhere (fun p => p.tag == tag) (fun p => { p with kind := .released }) h.pend })
  else s.donePend t k tag

/-- A leaf is granted to a unit of an I/O die: its bits are set if it still has the value the walk read (R26). `path` of the access is 16
and the kind of access the bits are for; 64 clears D for a sweep (R343). -/
def State.leafGranted (s : State) : State :=
  let m := s.msg; let vd := eidDie m.dst; let ag := m.dst % 256
  match (s.die vd).outs.find? (fun o => o.agent == ag && o.tag == m.tag && 16 ≤ o.path && o.got.isNone) with
  | none => s
  | some o =>
    let same := !wbit m.attr 0 && m.aux0.toNat == o.la
    (s.release_ o.pa same (if o.path = 64 then o.la - 2 ^ 56 else leafMarked (o.path - 16) o.la)).unitAnswer vd ag m.tag (if same then some ([], 0) else none)

/-- RSVGNT: the requesting core makes the new value and releases the word (R99, R235). A word with an uncorrectable error is
not written (R326). The bits of a leaf are set if it still has the value the walk read, and the access walks again (R26). -/
def rsvgnt (s : State) : State :=
  let m := s.msg
  let t := s.dstTile; let k := m.slot
  let bad := wbit m.attr 0
  let old := m.aux0.toNat
  if !isComputeTile t then s.leafGranted else
  match (s.slot t k).getPend m.tag with
  | some ⟨tag, _, pa, _, .atomic rd op v e⟩ =>
    let w := BitVec.ofNat 32 old
    ((s.release_ pa (!bad && (op != 12 || w == e)) (atomicOp op w v e).toNat).fillReg t k rd w bad).released t k tag
  | some ⟨tag, _, pa, _, .post rd add err⟩ =>
    ((s.release_ pa (!bad) (postValue old add.toNat err)).fillReg t k rd (BitVec.ofNat 32 old) bad).released t k tag
  | some ⟨tag, _, pa, la, .leafOr asid kind e lvl⟩ =>
    let same := !bad && old == e
    let s1 := s.release_ pa same (leafMarked kind e)
    let s2 := if same then s1.cacheLeaf t asid la kind e lvl else s1
    s2.walkAgain t k tag
  | _ => s
def execRsvgnt (s : State) : Out := .next (rsvgnt s)

end Sys2Proof.Machine
end

