-- ==== Sys2Proof/Machine/Visitor.lean ====
section
/-! DEFINITION. Threads that move to their data (R51-R55): departure, arrival, the visitor queue, refusals and returns. -/

namespace Sys2Proof.Machine
open Sys2Proof

/-! ### The context packet (R52) -/

def wordBytes (w : Word) : List Byte := leBytes 4 w.toNat

/-- The 320 bytes of a slot's context. `o` is the origin context name. A thread killed on departure leaves zeros for its registers, but the
number of the poisoned one for g1: its EVAL is to show it (R323, log entry 31). -/
def Slot.packet (h : Slot) (o : Nat) (grd : Bool) (dead : Option Nat) : List Byte :=
  let st := if dead.isSome then stSetPARK h.st pKILLED else stSetPARK h.st 0
  let reg (r : Nat) : List Byte := wordBytes (match dead with
    | some n => if r = 1 then BitVec.ofNat 32 n else 0
    | none => mget 0 h.g r)
  wordBytes h.pc ++ wordBytes st ++ wordBytes h.pfx ++ wordBytes h.rngs ++ wordBytes (if dead.isSome then 0xFFFFFFFF else h.fe) ++
  wordBytes h.chmap ++ leBytes 4 o ++ leBytes 2 h.asid ++ [BitVec.ofNat 8 (b2n grd), 0] ++ wordBytes h.crewid ++
  leBytes 4 h.spbase ++ leBytes 4 h.spsize ++ List.replicate 20 0 ++
  (List.range 31).flatMap (fun i => reg (i + 1)) ++ List.replicate 4 0 ++
  (List.range 8).flatMap (fun i => leBytes 16 (mget {} h.sg i).toNat)

def pkField (bs : List Byte) (o n : Nat) : Nat := leNat ((bs.drop o).take n)
def pkWord (bs : List Byte) (o : Nat) : Word := BitVec.ofNat 32 (pkField bs o 4)
def pkOrigin (bs : List Byte) : Nat := pkField bs 24 4 % 2 ^ 27
def pkReg (bs : List Byte) (r : Nat) : Word := pkWord bs (64 + 4 * (r - 1))
def pkSegs (bs : List Byte) : SMap Seg := (List.range 8).foldl (fun m i => mset {} m i (segOfNat (pkField bs (192 + 16 * i) 16))) []
def pkRegs (bs : List Byte) : SMap Word := (List.range 31).foldl (fun m i => mset 0 m (i + 1) (pkReg bs (i + 1))) []

/-! ### Departure -/

/-- The message that carries a context (R52, R122), with the PA of the load. -/
def ctxMsg (src slot dst pa : Nat) (memd : Bool) (asid : Nat) (bs : List Byte) : Msg :=
  { Msg.zero with src := src, dst := dst, slot := slot, asid := asid, memd := memd, tag := ctxTag, pa := pa, data := bs }

/-- INSTRET counts what a visitor commits (R172). The packet has no room for the count (R52), so it reaches the origin slot of this
package when the visitor leaves, and is lost to a thread of another package (log entry 30). -/
def State.creditInstret (s : State) (o : Nat) (n : DWord) : State :=
  if ctxPkg o = s.pkg then s.modSlot (ctxTile o) (ctxSlot o) (fun h => { h with instret := h.instret + n }) else s

/-- A visitor's slot is free again. -/
def State.vacateVisit (s : State) (t k : Nat) : State :=
  ((((s.creditInstret (s.slot t k).origin (s.slot t k).instret).setSlot t k {})).dropDivide t k).emit (evT .visitorSlotFree t)

/-- A thread leaves its slot when none of its P0 accesses and no producer of a register is outstanding (R51, R165). A poisoned
register does not leave (R326): at the origin the thread is killed there, a visitor returns killed. -/
def visitorDepart (s : State) : State :=
  let t := s.arg.t; let k := s.arg.k
  let h := s.slot t k
  match h.move with
  | none => s
  | some (dst, pa, _) =>
    if h.pend.any (fun p => p.path == 0) || h.prod != 0 then s
    else
      let away := h.isVisitor
      match h.poisoned with
      | some n =>
        if away then
          let o := h.origin
          (s.vacateVisit t k).send .req .ctx (ctxMsg (s.tileEid t) k (ctxEid o) 0 false h.asid (h.packet o h.grd (some n)))
        else
          let s1 := s.modSlot t k (fun h => { h with move := none, run := .ready })
          ({ s1 with cur := (t, k) } : State).trap tMCHK 1 (BitVec.ofNat 32 n)
      | none =>
        if away then
          let o := h.origin
          (s.vacateVisit t k).send .req .ctx (ctxMsg (s.tileEid t) k dst pa (spaceOf pa == 4) h.asid (h.packet o h.grd none))
        else
          let grd := (s.tile t).rng.any (fun e => e.mine k && (e.pending || e.held))
          let o := s.ctxName t k
          let s1 := s.modSlot t k (fun h => { (h.parkAs pVISITOR (s.clock (vdOf t))) with occ := .reserved, move := none })
          s1.send .req .ctx (ctxMsg (s.tileEid t) k dst pa (spaceOf pa == 4) h.asid (h.packet o grd none))
def execVisitorDepart (s : State) : Out := .next (visitorDepart s)

/-! ### Arrival -/

/-- Load a context into a free slot (R53). A TIMER that fell due on the way sends the visitor home before it issues (R55). -/
def State.visit (s : State) (t k : Nat) (m : Msg) : State :=
  let bs := m.data
  let o := pkOrigin bs
  let due := ctxPkg o = s.pkg && (s.slot (ctxTile o) (ctxSlot o)).hasCause
  let h : Slot :=
    { occ := .visitor, run := .ready, pc := pkWord bs 0, st := pkWord bs 4, pfx := pkWord bs 8, rngs := pkWord bs 12, fe := pkWord bs 16,
      chmap := pkWord bs 20, asid := m.asid, crewid := pkWord bs 32, spbase := pkField bs 36 4, spsize := pkField bs 40 4,
      g := pkRegs bs, sg := pkSegs bs, vstat := BitVec.ofNat 32 (1 + pkOrigin bs * 2), grd := (bs.getD 30 0).getLsbD 0, pendLock := if due then some 0 else none }
  s.setSlot t k h

def Tile.freeSlot (T : Tile) : Option Nat := (List.range 7).find? (fun k => (T.slot k).occ == .free)

/-- A context refused: to its origin as CTXREF, ATTR 0 queue full, 1 time-out, 2 no ASID, 3 BADPA; one that came from another visit
goes home whole (log entry 31). -/
def State.refuseCtx (s : State) (m : Msg) (status : Nat) : State :=
  match ctxHome (if status ≤ 1 then pVISITOR else if status = 2 then pTABLE else pPAGE) .ctx m with
  | some h => s.sendFrom (eidVd m.dst) false .req .ctx h
  | none => s.send .rsp .ctxref { msgReply m with attr := BitVec.ofNat 32 status }

/-- A context is back in its reserved slot (R53). Sticky flags that its engine commands set here meanwhile stay (R167). The count of
what it committed in another package is not known here (log entry 30). -/
def State.homeAgain (s : State) (t k : Nat) (m : Msg) : State :=
  let bs := m.data
  let (n, s1) := if eidPkg m.src = s.pkg then (0, s) else s.freshWord
  s1.modSlot t k (fun h =>
    { h with occ := .thread, run := .ready, pc := pkWord bs 0, st := stSetPARK (pkWord bs 4) 0 ||| (h.st &&& 0x7C0), pfx := pkWord bs 8, rngs := pkWord bs 12, fe := pkWord bs 16,
             g := pkRegs bs, sg := pkSegs bs, move := none, quantum := 0, instret := h.instret + n.setWidth 64 })

/-- The tile a context packet is for: the dock of its load's channel, or the tile its address names. -/
def State.ctxTarget (s : State) (m : Msg) : Nat :=
  let pa := s.canon m.pa
  if spaceOf pa = 0 then nfld pa 37 2 * 256 + s.dock (nfld pa 37 2) (chanOfPa pa) else eidTile m.dst

/-- Is the ASID's table entry usable here (R16)? -/
def State.asidLive (s : State) (vd a : Nat) : Bool :=
  let e := s.asidEntry vd a
  e.testBit 0 && nfld e 2 10 == 0 && nfld e 56 72 == 0

/-- A load into a partition whose crew has left (R333). -/
def State.partitionGone (s : State) (t pa : Nat) : Bool :=
  spaceOf pa == 3 && !s.crewHas t (nfld pa 0 22) (pa.testBit 22) && (s.tile t).fwd.any (fun f => f.has (nfld pa 0 22) (pa.testBit 22))

/-! ### At the origin -/

/-- Park a thread of this package with a fault record for a load it could not move to (R16, R21). -/
def State.moveFault (s : State) (t k la cause lvl reason : Nat) : State :=
  let s1 := s.modSlot t k (fun h => h.parkAs reason (s.clock (vdOf t)))
  s1.sendFrec t k la (s1.slot t k).asid lvl cause 0 1 0

/-- A refused context (R53): the load reissues after 1,024 cycles, or the thread parks for its fault, at the level of the leaf its
translation came from (R31). -/
def State.refusedAt (s : State) (t k status : Nat) : State :=
  let s1 := s.modSlot t k (fun h => { h with occ := .thread })
  let (la, lvl) := (s.slot t k).away
  if status ≤ 1 then (s1.modSlot t k (fun h => h.parkAs pVISITOR (s.clock (vdOf t)))).after (vdOf t) 1024 (evTK .visitorRetry t k)
  else if status = 2 then s1.moveFault t k la 10 4 pTABLE
  else s1.moveFault t k la 7 lvl pPAGE

/-- CTX at its origin, at a tile it visits, or at a tile that refuses it. One that comes home refused parks as its reason says; the fault's
linear address is kept at the origin by a visitor of this package, and a thread that was in another package issues its load again to find
it (log entry 31). -/
def ctx (s : State) : State :=
  let m := s.msg
  let o := pkOrigin m.data
  let pa := s.canon m.pa
  if ctxPkg o = s.pkg && m.dst = ctxEid o then
    let t := ctxTile o; let k := ctxSlot o
    let s1 := s.homeAgain t k m
    let park := stPARK (pkWord m.data 4)
    if park = pKILLED then s1.kill t k 1 (pkReg m.data 1).toNat
    else if park = pVISITOR || (park != 0 && eidPkg m.src != s.pkg) then s1.refusedAt t k 0
    else if park = pTABLE then s1.refusedAt t k 2
    else if park = pPAGE then s1.refusedAt t k 3
    else s1
  else
    let t := s.ctxTarget m
    if !isComputeTile t || !s.decodes (vdOf t) pa then s.refuseCtx m 3
    else if !s.asidLive (vdOf t) m.asid then s.refuseCtx m 2
    else if s.partitionGone t pa || s.settlingPart pa then s.refuseCtx m 0
    else
      let T := s.tile t
      match (if T.visq.isEmpty then T.freeSlot else none) with
      | some k => s.visit t k m
      | none =>
        if T.visq.length < 4 then
          (s.modTile t (fun T => { T with visq := T.visq ++ [(s.clock (vdOf t), m)] })).after (vdOf t) 16384 ⟨.visitorQueueTimeout, { msg := m, t := t }⟩
        else s.refuseCtx m 0
def execCtx (s : State) : Out := .next (ctx s)

/-- The head of the visitor queue takes a freed slot (R53). -/
def State.seatVisitor (s : State) (t : Nat) : State :=
  match (s.tile t).visq, (s.tile t).freeSlot with
  | q :: rest, some k =>
    ((s.modTile t (fun T => { T with visq := rest })).unTimer ⟨.visitorQueueTimeout, { msg := q.2, t := t }⟩).visit t k q.2
  | _, _ => s
/-- A visitor has left its slot: the queue's head takes it, and the package's capacity has changed (R53, R307). -/
def visitorSlotFree (s : State) : State := (s.seatVisitor s.arg.t).emitOnce capacityEvent
def execVisitorSlotFree (s : State) : Out := .next (visitorSlotFree s)

/-- 16,384 cycles in the queue (R53). -/
def visitorQueueTimeout (s : State) : State :=
  let t := s.arg.t
  if (s.tile t).visq.any (fun q => q.2 == s.msg) then
    (s.modTile t (fun T => { T with visq := dropFirst (fun q => q.2 == s.msg) T.visq })).refuseCtx s.msg 1
  else s
def execVisitorQueueTimeout (s : State) : Out := .next (visitorQueueTimeout s)

/-- CTXREF: the thread has stayed in its reserved slot with its registers (R53, R127). -/
def ctxref (s : State) : State :=
  let m := s.msg
  let t := s.dstTile; let k := m.slot
  if (s.slot t k).occ != .reserved then s else s.refusedAt t k (wfld m.attr 0 2)
def execCtxref (s : State) : Out := .next (ctxref s)

/-- The retry delay has ended: the load at PC reissues (R53). -/
def visitorRetry (s : State) : State :=
  let t := s.arg.t; let k := s.arg.k
  if (s.slot t k).occ = .thread then s.wakeIf t k pVISITOR else s
def execVisitorRetry (s : State) : Out := .next (visitorRetry s)

/-- 4,096 instructions without a local access: the visitor returns home (R55). -/
def visitorQuantum (s : State) : State :=
  let t := s.arg.t; let k := s.arg.k
  let h := s.slot t k
  if h.isVisitor && h.run == .ready && decide (4096 ≤ h.quantum) then ({ s with cur := (t, k) } : State).goHome else s
def execVisitorQuantum (s : State) : Out := .next (visitorQuantum s)

/-- A recall for swap or live migration brings a visiting thread home (R55); one that waits for an answer is asked again later. -/
def State.recall (s : State) (t k : Nat) : State :=
  match s.visitorOf (s.ctxName t k) with
  | none => s
  | some (v, j) =>
    match (s.slot v j).run with
    | .blocked .answer => s
    | .blocked .dividing => s
    | .blocked .drain => s
    | _ => ({ s with cur := (v, j) } : State).goHome

end Sys2Proof.Machine
end

