-- ==== Sys2Proof/Machine/Engine.lean ====
section
/-! DEFINITION. What the matrix, vector, ladle and copy engines share: where operands lie and how a step reaches them (R28,
R69, R258), completion posts (R50, R392), queues and power admission (R146, R252, R253, R278), and how a command stops and
ends (R254). -/

namespace Sys2Proof.Machine
open Sys2Proof

/-! ### How a step stops -/

/-- Why a step stops: a translation fault; a walk or sweep it waits for; an error of R254; a word or bank another agent
holds; bytes that have to come from afar first; U or D to be set in a leaf, or a node to be read, at its home (R22, R26); no tag left (R126);
or its own writes, which have to be performed first. -/
inductive EStop where
  | fault (la cause lvl entry reason kind : Nat)
  | wait (reason : Nat)
  | err (cause : Nat)
  | resv (pa n : Nat)
  | bank (t : Nat)
  | fetch (pa n la : Nat)
  | leaf (la kind e lvl addr : Nat)
  | node (la addr : Nat)
  | tags
  | held
  deriving DecidableEq, Repr

abbrev EM (α : Type) := Except (EStop × State) α

def eBADOPND : Nat := 1
def eBOUND : Nat := 2
def ePOISON : Nat := 3
def eCHECKSUM : Nat := 4
def eCANCEL : Nat := 5
def eNOTMEMBER : Nat := 6
def eRECORD : Nat := 7
def eFAULT : Nat := 8
def eREFUSED : Nat := 9

/-- Who makes an access: the tile whose port translates, the slot whose range-table entries count, its context, its path,
whether it may reach only scratchpads of its own cluster (0, R258), whatever a ladle reaches (1) or the copy engine (2, R20); the channel
and the iteration byte of a copy, and the unit of an I/O die that makes the accesses in the tile's place. -/
structure EngWho where
  t : Nat
  slot : Nat
  ctx : Nat
  asid : Nat
  path : Nat
  reach : Nat
  ch : Nat := 0
  k : Nat := 0
  unit : Option Unit_ := none
  deriving DecidableEq, Repr

/-- The slot that keeps the accesses; those of a tile task are kept beside slot 7's. -/
def EngWho.home (w : EngWho) : Nat := if w.slot = 8 then 7 else w.slot

/-! ### Places -/

/-- A byte of an operand: in the scratchpad, in the operand store, or at a linear address. -/
inductive EPlace where
  | sp (o : Nat)
  | os (o : Nat)
  | la (a : Nat)
  deriving DecidableEq, Repr

def EPlace.addr : EPlace → Nat
  | .sp o => o
  | .os o => o
  | .la a => a
def EPlace.move (p : EPlace) (a : Nat) : EPlace :=
  match p with
  | .sp _ => .sp a
  | .os _ => .os a
  | .la _ => .la a

/-- The place at an offset of a segment, or of the operand store. -/
def opPlace (os : Bool) (g : Seg) (off : Int) : EPlace :=
  if os then .os off.toNat
  else if g.s then .sp (g.base.toNat % 2 ^ 22 + off).toNat
  else .la (g.base.toNat + off).toNat

/-- Pieces of n bytes from an address, none crossing a 256-byte line. -/
def linePieces : Nat → Nat → Nat → List (Nat × Nat)
  | 0, _, _ => []
  | f + 1, a, n =>
    if n = 0 then []
    else
      let m := min n (256 - a % 256)
      (a, m) :: linePieces f (a + m) (n - m)
def EPlace.pieces (p : EPlace) (n : Nat) : List (EPlace × Nat) :=
  (linePieces (n / 256 + 2) p.addr n).map (fun q => (p.move q.1, q.2))

def EngWho.reaches (w : EngWho) (pa : Nat) : Bool :=
  if w.reach = 0 then
    spaceOf pa == 3 && !pa.testBit 22 && vdOf (eidTile (nfld pa 24 24)) == vdOf w.t &&
    clusterOf (eidTile (nfld pa 24 24)) == clusterOf w.t
  else spaceOf pa != 5

/-- A linear address translated through the tile's port. A fault names the first byte of the step's page (R32, log entry 150), and
`shown` is the KIND of its record. -/
def engTranslate (w : EngWho) (a kind shown : Nat) (s : State) : EM ((Nat × Nat) × State) :=
  match s.translate w.t w.asid a kind with
  | (.ok pa lvl, s1) => .ok ((pa, lvl), s1)
  | (.fault c l e r, s1) => .error (.fault (a / 4096 * 4096) c l e r shown, s1)
  | (.orWait e l addr, s1) => .error (.leaf a kind e l addr, s1)
  | (.askWait addr, s1) => .error (.node a addr, s1)
  | (.walkWait, s1) => .error (.wait pWALKWAIT, s1)
  | (.sweepWait, s1) => .error (.wait sweepStop, s1)
  | (.poisoned, s1) => .error (.err ePOISON, s1)

/-- The address translated faults with BADPA at its leaf's level (R21, R31). -/
def engBadpa {α : Type} (a lvl kind : Nat) (s : State) : EM α := .error (.fault (a / 4096 * 4096) 7 lvl 0 pPAGE kind, s)

/-- The physical address of a place at this step: the copy of a held region, or translated through the tile's port (R28, R258). -/
def engPa (w : EngWho) (kind : Nat) (p : EPlace) (s : State) : EM (Nat × State) :=
  match p with
  | .sp o => .ok (s.spPa w.t o, s)
  | .os o => .ok (s.osPa w.t o, s)
  | .la a =>
    match (s.tile w.t).rng.find? (fun e => e.mine w.slot && e.inRegion a 1 && e.held) with
    | some e => .ok (s.spPa w.t (e.spoff + (a - e.rbase)), s)
    | none => do
      let (r, s1) ← engTranslate w a kind kind s
      if !s1.decodes (vdOf w.t) r.1 then engBadpa a r.2 kind s1
      else if w.reaches r.1 && (w.reach != 0 || eidPkg (nfld r.1 24 24) == s1.pkg) then .ok (r.1, s1)
      else if w.reach = 1 then engBadpa a r.2 kind s1
      else .error (.err eBADOPND, s1)

def EPlace.la0 : EPlace → Nat
  | .la a => a
  | _ => 0

/-- A refused access ends the command, and the issuing tile logs it (R70). A copy range that its bank found is logged with LA 0 (R72) in the
log of that bank's tile; `told`: the bank has told it in an answer, and its tile has made the entry (log entry 139). -/
def engRefused (w : EngWho) (cause : Nat) (p : EPlace) (pa : Nat) (told : Bool) (s : State) : EStop × State :=
  let u := eidTile (nfld pa 24 24)
  (.err eBOUND,
    if spaceOf pa = 3 && nfld pa 24 24 != s.tileEid w.t then (if told then s else (s.logViolation u 0 0 cause w.path true pa).2)
    else (s.logViolation w.t (if spaceOf pa = 3 then 0 else p.la0) (ctxSlot w.ctx) cause w.path true pa).2)

/-- Does an access leave the tile as a message (R90): every one of a ladle or of an I/O die's unit beyond the tile's own storage, and every
write of an engine there? What an engine reads in its cluster comes over the crossbar (R258). -/
def EngWho.away (w : EngWho) (s : State) (pa : Nat) (write : Bool) : Bool :=
  outside pa || spaceOf pa == 4 || (spaceOf pa == 3 && eidPkg (nfld pa 24 24) != s.pkg) || w.unit.isSome ||
  ((write || w.path == 1) && !(spaceOf pa == 3 && nfld pa 24 24 == s.tileEid w.t))

/-- Accesses of an engine, or of one channel of the ladle, that are not performed. -/
def isEng (c : Nat) (kind : PendKind) : Bool :=
  match kind with
  | .eng _ ch _ => ch == c
  | .pull _ ch _ => ch == c
  | _ => false
def State.remoteBusy (s : State) (t k path ch : Nat) : Bool := (s.slot t k).pend.any (fun p => p.path == path && isEng ch p.kind)
def EngWho.busy (w : EngWho) (s : State) : Bool :=
  match w.unit with
  | some u => s.unitBusy u
  | none => s.remoteBusy w.t w.home w.path w.ch
/-- One of its accesses to the 256-byte line of pa is not performed: adaptive writes keep no order (R90). -/
def EngWho.lineBusy (w : EngWho) (s : State) (pa : Nat) : Bool :=
  match w.unit with
  | some u => s.unitLine u pa
  | none => (s.slot w.t w.home).pend.any (fun p => p.path == w.path && isEng w.ch p.kind && p.pa / 256 == pa / 256)
/-- Are n tags left (R126)? -/
def EngWho.room (w : EngWho) (s : State) (n : Nat) : Bool :=
  match w.unit with
  | some u => decide (((s.die u.vd).unitTags u.ag).length + n ≤ 32767)
  | none => decide ((s.tile w.t).tagsUsed + n ≤ tagLimit)

/-- Everything between an address and the access itself: its own writes, refusals, reservations and locked banks. What leaves as a
message meets the last three at its home. -/
def engGate (w : EngWho) (write : Bool) (p : EPlace) (n : Nat) (s : State) : EM (Nat × State) := do
  let (pa, s1) ← engPa w (if write then 5 else 4) p s
  if w.lineBusy s1 pa then .error (.held, s1)
  else if w.away s1 pa write then (if w.room s1 1 then .ok (pa, s1) else .error (.tags, s1))
  else match s1.refuses w.path pa n false write with
  | some c => .error (engRefused w c p pa false s1)
  | none =>
    if s1.reserved pa n then .error (.resv pa n, s1)
    else if spaceOf pa == 3 && !pa.testBit 22 && (s1.tile (eidTile (nfld pa 24 24))).bankHeld 8 (nfld pa 0 22) n then
      .error (.bank (eidTile (nfld pa 24 24)), s1)
    else .ok (pa, s1)

/-- Bytes whose values the manual leaves open. -/
def State.freeBytes (s : State) (n : Nat) : List Byte × State :=
  ((List.range n).map (fun i => Config.freeByte (s.freeCtr + i)), { s with freeCtr := s.freeCtr + n })

/-- The bytes at a physical address of this package (R39). -/
def engGet (w : EngWho) (pa n : Nat) (s : State) : EM (List Byte × State) :=
  if s.eccBad pa n then .error (.err ePOISON, s.recordEcc pa w.ctx) else .ok (rdBytes s.mem pa n, s.scrub pa n w.ctx)

def engReadPiece (w : EngWho) (p : EPlace) (n : Nat) (s : State) : EM (List Byte × State) := do
  let (pa, s1) ← engGate w false p n s
  engGet w pa n s1

/-- n bytes at a place. -/
def engRead (w : EngWho) (p : EPlace) (n : Nat) (s : State) : EM (List Byte × State) :=
  (p.pieces n).foldlM (fun (acc : List Byte × State) q => do
    let (b, s1) ← engReadPiece w q.1 q.2 acc.2
    .ok (acc.1 ++ b, s1)) ([], s)

/-- A write that leaves the tile: a WRB of the adaptive class, which its home acknowledges, remembered on the engine's path (R90). -/
def State.remotePut (w : EngWho) (s : State) (pa la : Nat) (bs : List Byte) : State :=
  match w.unit with
  | some u => s.unitPut u pa la bs
  | none =>
    let (tag, h) := (s.slot w.t w.home).addPend w.path pa la (.eng w.ctx w.ch w.k)
    let (dst, memd) := s.homeOf (vdOf w.t) pa
    (s.setSlot w.t w.home h).send .bulk .wrb { wrbMsg (s.tileEid w.t) dst memd tag (pa / 64 * 64) (pa % 64) bs.length bs with slot := w.home, asid := w.asid }

/-- A write to the tile's own storage, or to a home elsewhere. -/
def State.engPut (w : EngWho) (s : State) (pa la : Nat) (bs : List Byte) : State :=
  if w.away s pa true then s.remotePut w pa la bs else s.performOut (vdOf w.t) pa bs

/-- Ask for bytes from afar; the event of the copy goes on when they have come. -/
def State.remoteGet (w : EngWho) (s : State) (pa n la : Nat) : State :=
  match w.unit with
  | some u => s.unitGet u pa n la
  | none =>
    let (tag, h) := (s.slot w.t w.home).addPend w.path pa la (.pull w.ctx w.ch n)
    let (dst, memd) := s.homeOf (vdOf w.t) pa
    (s.setSlot w.t w.home h).send .req .rd { Msg.zero with src := s.tileEid w.t, dst := dst, slot := w.home, asid := w.asid, memd := memd, tag := tag, adaptive := true, pa := pa, len := n - 1 }

/-- The atomic OR of R26 for a step; one is enough. Without a tag the step looks again when one is free (R126). -/
def State.engLeaf (w : EngWho) (s : State) (la kind e lvl addr : Nat) : State :=
  if (s.slot w.t w.home).pend.any (fun p => p.pa == addr && (match p.kind with | .leafOr .. => true | _ => false)) || (s.tile w.t).tagsFull then s
  else s.sendOr w.t w.home w.asid la kind e lvl addr

/-- The read of a node for the walk of a step (R22). -/
def State.engNode (w : EngWho) (s : State) (la addr : Nat) : State :=
  if (s.slot w.t w.home).pend.any (fun p => p.pa == addr && p.kind == .node w.asid la) || (s.tile w.t).tagsFull then s
  else s.askNode w.t w.home w.asid la addr 8

/-- What a step that waits asks for or waits at; its event looks again. -/
def State.engPause (w : EngWho) (ev : Ev) (s : State) (st : EStop) : State :=
  match st with
  | .resv pa n => s.waitResv pa n ev
  | .bank b => s.holdTile b ev
  | .fetch pa n la => s.remoteGet w pa n la
  | .leaf la kind e lvl addr => s.engLeaf w la kind e lvl addr
  | .node la addr => s.engNode w la addr
  | .tags => (s.unTimer ev).after (vdOf w.t) 64 ev
  | _ => s

def cutBytes (bs : List Byte) : List (EPlace × Nat) → List (EPlace × List Byte)
  | [] => []
  | q :: qs => (q.1, bs.take q.2) :: cutBytes (bs.drop q.2) qs

/-- Writes of a step, once there is a tag for each that leaves the tile (R126). -/
def engPuts (w : EngWho) (acc : List (Nat × Nat × List Byte)) (s : State) : EM State :=
  if w.room s (acc.filter (fun q => w.away s q.1 true)).length then .ok (acc.foldl (fun s q => s.engPut w q.1 q.2.1 q.2.2) s) else .error (.tags, s)

/-- Write pieces in order. A word or bank somebody holds makes the whole step wait; a fault or an error comes after the writes
before it (R254). -/
def engWriteGo (w : EngWho) : List (EPlace × List Byte) → List (Nat × Nat × List Byte) → State → EM State
  | [], acc, s => engPuts w acc s
  | q :: qs, acc, s =>
    match engGate w true q.1 q.2.length s with
    | .ok (pa, s1) => engWriteGo w qs (acc ++ [(pa, q.1.la0, q.2)]) s1
    | .error (.resv pa n, s1) => .error (.resv pa n, s1)
    | .error (.bank t, s1) => .error (.bank t, s1)
    | .error (.held, s1) => .error (.held, s1)
    | .error (.tags, s1) => .error (.tags, s1)
    | .error (.node la addr, s1) => .error (.node la addr, s1)
    | .error (.leaf la kind e lvl addr, s1) => .error (.leaf la kind e lvl addr, s1)
    | .error (st, s1) => do
      let s2 ← engPuts w acc s1
      .error (st, s2)
def engWrite (w : EngWho) (ws : List (EPlace × List Byte)) (s : State) : EM State :=
  engWriteGo w (ws.flatMap (fun q => cutBytes q.2 (q.1.pieces q.2.length))) [] s

/-! ### Completion posts (R50, R392) -/

/-- A CWPOST of an engine, remembered on its path: AUX0 the value, ATTR the error bit. -/
def postMsg (w : EngWho) (pa la add : Nat) (err : Bool) (s : State) : State :=
  match w.unit with
  | some u => s.unitPost u pa la add err
  | none =>
    let (tag, h) := (s.slot w.t w.home).addPend w.path pa la (.cw w.ctx)
    let (dst, memd) := s.homeOf (vdOf w.t) pa
    (s.setSlot w.t w.home h).send .req .cwpost { Msg.zero with src := s.tileEid w.t, dst := dst, slot := w.home, asid := w.asid, memd := memd, tag := tag, pa := pa, aux0 := BitVec.ofNat 64 add, attr := BitVec.ofNat 32 (b2n err) }

/-- Where a post goes: an address, nowhere because the range table refuses it, or a stop. It is an atomic, whose leaf grants R, W and A (R24),
and its fault is recorded with KIND 5 (R392). -/
def engPostPlace (w : EngWho) (p : EPlace) (s : State) : EM (Option Nat × State) :=
  match p with
  | .sp o => .ok (some (s.spPa w.t o), s)
  | .os o => .ok (some (s.osPa w.t o), s)
  | .la a =>
    match (s.tile w.t).rng.find? (fun e => e.mine w.slot && e.inRegion a 8) with
    | some e =>
      if e.st = 2 then .ok (some (s.spPa w.t (e.spoff + (a - e.rbase))), s)
      else .ok (none, (s.logViolation w.t a (ctxSlot w.ctx) (if e.st = 3 then 3 else if e.pending then 1 else 2) w.path true 0).2)
    | none => do
      let (r, s1) ← engTranslate w a 3 5 s
      if s1.decodes (vdOf w.t) r.1 && spaceOf r.1 != 5 && spaceOf r.1 != 2 && !(spaceOf r.1 == 3 && r.1.testBit 22) then .ok (some r.1, s1)
      else engBadpa a r.2 5 s1

/-- Make the post of a command, if it has one. -/
def engPost (w : EngWho) (en : Bool) (p : EPlace) (add : Nat) (err : Bool) (s : State) : EM State :=
  if !en then .ok s else if !w.room s 1 then .error (.tags, s) else do
    let (q, s1) ← engPostPlace w p s
    match q with
    | some pa => .ok (postMsg w pa p.la0 add err s1)
    | none => .ok s1

/-! ### Issue (R252) -/

/-- Checks common to engine commands: R252 order 1, the commit buffer of R161, and a command of the thread that slot 7 paused and that has
not ended yet (R146). -/
def EngCmd.held (s : State) (c : EngCmd) : Bool :=
  c.paused || c.members.any (fun m => (s.tile m.1).mq.any (fun x => x.op == 7 && x.ctx == c.ctx && x.paused))
def cmdEnter (i : Instr) (fmt : Bool) (s : State) : M Unit := do
  enter i .engine fmt 0 s
  let T := s.tile s.cur.1
  if s.th.shadow.isNone && !s.th.cbuf.isEmpty then .error (s.block .predicted)
  else if (T.mq ++ T.vq).any (fun c => c.slot == s.cur.2 && c.op != 7 && c.held s) then .error (s.block .fence)
  else .ok ()
/-- The same for a move of an engine register, which no commit buffer holds: it blocks on a predicted path (log entry 32). -/
def cmdEnterNow (i : Instr) (s : State) : M Unit := do
  cmdEnter i false s
  if s.th.shadow.isSome then .error (s.block .predicted) else .ok ()

/-- ILL at issue for register values the entry forbids; EVAL holds the word (R252 order 3). -/
def illWord (i : Instr) (bad : Bool) (s : State) : M Unit := if bad then .error (s.trap tILL 1 (insnWord i)) else .ok ()

/-- One operand extent: from byte lo to byte hi - 1, and what it needs. -/
structure Extent where
  write : Bool
  os : Bool
  sn : Nat
  lo : Int
  hi : Int
  deriving DecidableEq, Repr

/-- Segment and partition check of one extent (R10-R12, R38). -/
def extentSeg (rights : Seg → Bool) (x : Extent) (s : State) : M Unit :=
  let v := BitVec.ofInt 32 x.lo
  if x.os then
    if x.lo < 0 ∨ 2 ^ 32 < x.hi then .error (s.trap tSEG 2 v)
    else if (s.th.osbase : Int) ≤ x.lo ∧ x.hi ≤ ((s.th.osbase + s.th.ossize : Nat) : Int) then .ok () else .error (s.trap tSEG 5 v)
  else
    let g := s.th.seg x.sn
    if !rights g then .error (s.trap tSEG 1 v)
    else if x.lo < 0 then .error (s.trap tSEG 2 v)
    else match segBounds g s.th.spbase s.th.spsize x.lo.toNat (x.hi - x.lo).toNat with
      | .ok _ => .ok ()
      | .error c => .error (s.trap tSEG c v)
def extentsSeg (xs : List Extent) (s : State) : M Unit :=
  xs.forM (fun x => extentSeg (if x.write then rEngW else rEngR) x s)

/-- The linear range of an extent with S = 0. -/
def Extent.linear (x : Extent) (h : Slot) : Option (Nat × Nat) :=
  let g := h.seg x.sn
  if x.os || g.s then none else some (g.base.toNat + x.lo.toNat, (x.hi - x.lo).toNat)

/-- Range table at issue (R69, R252 order 6). -/
def extentRange (path : Nat) (x : Extent) (s : State) : M Unit :=
  match x.linear s.th with
  | none => .ok ()
  | some (la, n) =>
    ((s.tile s.cur.1).rng.filter (fun e => e.mine s.cur.2 && e.inRegion la n)).forM (fun e =>
      if e.pending then .error (if s.th.shadow.isSome then s.block .predicted else s.park pGUARDWAIT)
      else if e.st = 4 ∨ e.st = 5 then .error (rangeTrap 2 path la 0 s)
      else if x.write && e.st = 3 then .error (rangeTrap 3 path la 0 s)
      else .ok ())
def extentsRange (path : Nat) (xs : List Extent) (s : State) : M Unit := xs.forM (fun x => extentRange path x s)

/-- What a command will write, for the guard release that waits for it (R76): address, bytes, whether in the scratchpad. -/
def Extent.wext (x : Extent) (h : Slot) : List (Nat × Nat × Bool) :=
  let g := h.seg x.sn
  if !x.write || x.os then []
  else if g.s then [((g.base.toNat % 2 ^ 22 + x.lo).toNat, (x.hi - x.lo).toNat, true)]
  else [((g.base.toNat + x.lo).toNat, (x.hi - x.lo).toNat, false)]
/-- Alignment of an offset or stride; EVAL holds it (R252 order 5). -/
def alignedTo (n : Nat) (v : Nat) (s : State) : M Unit :=
  if n = 0 ∨ v % n = 0 then .ok () else .error (s.trap tALIGN 0 (BitVec.ofNat 32 v))

/-- The completion word of a command, when it has one: one 8-byte access, 8-byte aligned (R11). -/
def cwSeg (en : Bool) (sn off : Nat) (s : State) : M Unit :=
  if en then extentSeg rCw ⟨true, false, sn, off, off + 8⟩ s else .ok ()

def cwAligned (en : Bool) (off : Nat) (s : State) : M Unit := if en then alignedTo 8 off s else .ok ()
/-- A check that applies only in some cases. -/
def checkIf (b : Bool) (r : M Unit) : M Unit := if b then r else .ok ()

/-! ### Formats (R181, R194, R256, R259) -/

/-- The format word that governs a command: the prefix, or its engine's register, with RND 6 resolved by ST.RM. -/
def cmdFmt (i : Instr) (regv : DWord) (s : State) : M Word := do
  let v : Word := if stPP s.th.st then s.th.pfx else BitVec.ofNat 32 regv.toNat
  illWord i (!stPP s.th.st && regv.toNat / 2 ^ 17 != 0) s
  let r := wfld v 12 3
  let r1 := if r = 6 then stRM s.th.st else r
  illWord i (5 < r1) s
  .ok (wput v 12 3 r1)
def fmFA (f : Word) : Nat := wfld f 0 4
def fmFB (f : Word) : Nat := wfld f 4 4
def fmFO (f : Word) : Nat := wfld f 8 4
def fmRND (f : Word) : Nat := wfld f 12 3
def fmSC (f : Word) : Nat := wfld f 15 2
/-- A format a command reads: reserved codes and scaled TB are ILL. -/
def fmtBad (f sc : Nat) : Bool := 11 < f || sc == 3 || (isTb f && sc != 0)
def fmtAlign (f : Nat) : Nat := if f = 0 then 4 else if f ≤ 2 then 2 else 1
/-- Does scale mode 10 apply a tensor scale to this format, and is T no positive finite normal value (R194)? -/
def scaled10 (f sc : Nat) : Bool := sc == 2 && 3 ≤ f && f ≤ 8
def tensorBad (v : Nat) : Bool := 0x7F800000 ≤ v % 2 ^ 32 || v % 2 ^ 32 < 0x00800000
def tensorOf (v : Nat) : Num := fpRead 0 false (v % 2 ^ 32)

/-! ### Queues -/

def Tile.engq (T : Tile) (e : Nat) : List EngCmd := if e = 0 then T.mq else T.vq
def Tile.setEngq (T : Tile) (e : Nat) (q : List EngCmd) : Tile := if e = 0 then { T with mq := q } else { T with vq := q }
/-- The die clock's controller (R278, R362): ask for leave once, in arrival order. -/
def State.askPower (s : State) (t k e : Nat) : State :=
  let D := s.die (vdOf t)
  if D.powerq.any (fun q => q.1 == t && q.2.1 == k) then s
  else ((s.setDie (vdOf t) { D with powerq := D.powerq ++ [(t, k, e)] }).clockBack (vdOf t)).emitOnce (evT .powerGrant (vdOf t))
def State.dropPower (s : State) (t k : Nat) : State :=
  s.modDie (vdOf t) (fun D => { D with powerq := D.powerq.filter (fun q => !(q.1 == t && q.2.1 == k)) })
/-- A leave comes back; the head request is looked at again. -/
def State.giveLeave (s : State) (vd e : Nat) : State :=
  (s.modDie vd (fun D => { D with pleave := D.pleave - BitVec.ofNat 32 e })).emitOnce (evT .powerGrant vd)
/-- Estimates above the die's threshold need leave (R278). -/
def State.needsLeave (s : State) (t e : Nat) : Bool := decide ((s.die (vdOf t)).pathr.toNat < e)

/-- The head of an engine's queue goes on with its next step: after power admission if it stopped before (R278); a share of
MMAG goes on with its lead (R263). -/
def State.kick (s : State) (t e : Nat) : State :=
  match (s.tile t).engq e with
  | [] => s
  | c :: _ =>
    if c.op = 7 then
      match c.members with
      | m :: _ => s.emitOnce (evTK .engineStep m.1 0)
      | [] => s
    else if c.stopped != 0 then s
    else if c.ask && !c.leave && s.needsLeave t c.energy && c.err == 0 then s.askPower t (8 + e) c.energy
    else s.emitOnce (evTK .engineStep t e)

/-- The slot 7 commands go first (R146). -/
def EngCmd.top (c : EngCmd) : Bool := ctxSlot c.ctx == 7 && c.op != 6

/-- A head that gives way stops at its step boundary: paused, its leave returned (R146, R278). -/
def pauseHead : List EngCmd → List EngCmd
  | [] => []
  | c :: r => { c with paused := true, ask := true, leave := false } :: r

/-- A paused share holds its MMAG on every member (R263): the lead's leave is returned as well. -/
def State.holdLead (s : State) (x : EngCmd) : State :=
  match x.op, x.members with
  | 7, m :: _ =>
    match (s.tile m.1).mq.find? (fun c => c.ctx == x.ctx && c.op == 2) with
    | some c =>
      let s1 := if c.leave then s.giveLeave (vdOf m.1) c.energy else s
      s1.modTile m.1 (fun T => { T with mq := updWhere (fun q => q.ctx == x.ctx && q.op == 2) (fun q => { q with leave := false, ask := true }) T.mq })
    | none => s
  | _, _ => s

def State.enqueue7 (s : State) (t e : Nat) (c : EngCmd) : State :=
  let q := (s.tile t).engq e
  if c.top then
    let mine := q.takeWhile EngCmd.top
    let rest := q.drop mine.length
    match mine, rest with
    | [], x :: _ =>
      let s1 := (if x.leave then s.giveLeave (vdOf t) x.energy else s).holdLead x
      s1.modTile t (fun T => T.setEngq e (c :: pauseHead rest))
    | _, _ => s.modTile t (fun T => T.setEngq e (mine ++ c :: rest))
  else s.modTile t (fun T => T.setEngq e (q ++ [c]))

/-- Members' queues with a place free (R253, R263). -/
def State.room (s : State) (t e : Nat) (c : EngCmd) : Bool :=
  decide (((s.tile t).engq e).length < 8) &&
  c.members.all (fun m => m.1 == t || decide (((s.tile m.1).engq 0).length < 8))

/-- The share of a member in its own queue; `members` names the lead. -/
def EngCmd.share (c : EngCmd) (t : Nat) : EngCmd := { c with op := 7, slot := 8, members := [(t, c.slot)], energy := 0, leave := false, ask := false }

/-- An accepted command enters its queue, an MMAG the queue of every member. -/
def State.accept (s : State) (t e : Nat) (c : EngCmd) : State :=
  let s1 := s.enqueue7 t e c
  let s2 := c.members.foldl (fun s m => if m.1 = t then s else s.enqueue7 m.1 0 (c.share t)) s1
  let s3 := s2.modSlot t c.slot (fun h => { h with qx := mset 0 h.qx 2 (BitVec.ofNat 64 (c.energy % 2 ^ 32)) })
  s3.kick t e

/-- A command captured from the issuing slot (R166). ST's SAT and FTZ are captured with it (log entry 171). -/
def State.newCmd (s : State) (op : Nat) (a b fmt : Word) (regs : SMap DWord) (energy : Nat) (wext : List (Nat × Nat × Bool)) : EngCmd :=
  let h := s.th
  { op := op, slot := s.cur.2, crew := h.crewid, ctx := s.ctxName s.cur.1 s.cur.2, a := a, b := b, regs := regs, fmt := fmt, segs := h.sg,
    st := h.st, asid := h.asid, spbase := h.spbase, spsize := h.spsize, osbase := h.osbase, ossize := h.ossize,
    lanes := if fmRND fmt = 5 then laneSeeds h.rngs else [], step := 0, stopped := 0, paused := false, cancelled := false, replayed := false,
    err := 0, energy := energy, leave := false, ask := false, part := [], members := [], wext := wext }

/-- A leave granted for another estimate than this command's goes back (R278). -/
def State.oddLeave (s : State) (e : Nat) : State :=
  match s.th.leave with
  | some g => if g = e then s else (s.modTh (fun h => { h with leave := none })).giveLeave (vdOf s.cur.1) g
  | none => s

/-- A command on a predicted path takes a place in the commit buffer, or waits for one (R161); its next cycle's draws go to the shadow. -/
def defer (draws : Bool) (srcs : List Src) (d : Deferred) (s : State) : M State :=
  if 4 ≤ s.th.cbuf.length then .error (s.block .predicted)
  else .ok ((consume srcs s).modTh (fun h => { h.commit with rngs := if draws then xorshift h.rngs else h.rngs, cbuf := h.cbuf ++ [d] }))

/-- A command that its engine accepts, if it has room for it, and else parks its thread (R252, orders 8 and 9); or a deferred one. -/
def submit (draws : Bool) (srcs : List Src) (d : Deferred) (go : State → Option State) (s : State) : M State :=
  if s.th.shadow.isSome then defer draws srcs d s
  else match go ((consume srcs s).modTh (fun h => { h.commit with rngs := if draws then xorshift h.rngs else h.rngs })) with
    | some s1 => .ok s1
    | none => .error (s.park pENGINE)

/-- Orders 7 to 9 of R252, or a place in the commit buffer on a predicted path (R161). -/
def admitCmd (e : Nat) (srcs : List Src) (c : EngCmd) (s : State) : M State :=
  let t := s.cur.1
  let book (s : State) : State := (consume srcs s).modTh (fun h => { h.commit with rngs := if fmRND c.fmt = 5 then xorshift h.rngs else h.rngs })
  if s.th.shadow.isSome then defer (fmRND c.fmt = 5) srcs (.engine c) s
  else
    let s0 := s.oddLeave c.energy
    if s0.needsLeave t c.energy && s0.th.leave.isNone then .error ((s0.park pPOWER).askPower t s0.cur.2 c.energy)
    else if !s0.room t e c then .error (s0.park pENGINE)
    else
      let lv := s0.th.leave.isSome
      let s1 := (book s0).modTh (fun h => { h with leave := none })
      .ok (s1.accept t e { c with leave := lv })

/-! ### The issuing thread of a command -/

/-- Tile and slot of the thread a command belongs to, while that thread is still there (R207, R254). -/
def State.cmdOwner (s : State) (t : Nat) (c : EngCmd) : Option (Nat × Nat) :=
  let o := if c.slot = 8 then (ctxTile c.ctx, ctxSlot c.ctx) else (t, c.slot)
  let h := s.slot o.1 o.2
  if h.occ != .free && h.crewid == c.crew then some o else none

def satAdd (w : Word) (n : Nat) : Word := BitVec.ofNat 32 (min (w.toNat + n) 0xFFFFFFFF)

/-- Sticky flags and counters of a step (R207, R208). -/
structure Tally where
  flags : Word := 0
  nan : Nat := 0
  inf : Nat := 0
  sat : Nat := 0
  deriving DecidableEq, Repr
def Tally.add (a b : Tally) : Tally := ⟨a.flags ||| b.flags, a.nan + b.nan, a.inf + b.inf, a.sat + b.sat⟩

def State.tally (s : State) (t : Nat) (c : EngCmd) (y : Tally) : State :=
  match s.cmdOwner t c with
  | none => s
  | some o => s.modSlot o.1 o.2 (fun h =>
    let sh := h.shadow.map (fun sh => { sh with st := sh.st ||| y.flags })
    { h with st := h.st ||| y.flags, mxcnan := satAdd h.mxcnan y.nan, mxcinf := satAdd h.mxcinf y.inf, mxcsat := satAdd h.mxcsat y.sat, shadow := sh })

/-- QERR of a slot (R274). -/
def qerr (eng cause : Nat) : DWord := BitVec.ofNat 64 (eng + 8 + cause * 16)

def EngCmd.who (c : EngCmd) (t e : Nat) : EngWho := { t := t, slot := c.slot, ctx := c.ctx, asid := c.asid, path := e + 2, reach := 0 }
def EngCmd.reg (c : EngCmd) (n : Nat) : Nat := (mget 0 c.regs n).toNat
def EngCmd.seg (c : EngCmd) (n : Nat) : Seg := mget {} c.segs n
def EngCmd.rnd (c : EngCmd) (w : Nat) : RndEnv := ⟨fmRND c.fmt, stSAT c.st, stFTZ c.st, w⟩

/-- The next stochastic words of elements n0, n0 + 1, … and the lanes after them (R198). -/
def laneWords (c : EngCmd) (lanes : List Word) (n0 cnt : Nat) : List Nat × List Word :=
  if fmRND c.fmt != 5 then (List.replicate cnt 0, lanes)
  else
    (List.range cnt).foldl (fun (a : List Nat × List Word) i =>
      let l := (n0 + i) % 64
      let g := xorshift (a.2.getD l 0)
      (a.1 ++ [srWord g], a.2.set l g)) ([], lanes)

/-! ### Stops and ends -/

/-- The tile of cluster index c in t's cluster (R258). -/
def clusterTile (t c : Nat) : Nat := t / 32 * 32 + t % 16 / 2 * 2 + c / 2 * 16 + c % 2

/-- Look again at threads that wait for a command's end (R275), and at those of the cluster that wait for a place: an MMAG for one on every
member, MQPUT for one in the cluster's queue (R253, R263). -/
def State.engFreed (s : State) (t : Nat) : State :=
  let s1 := (List.range 4).foldl (fun (s : State) c => (List.range 8).foldl (fun (s : State) k => s.wakeIf (clusterTile t c) k pENGINE) s) s
  ((List.range 8).foldl (fun (s : State) k => s.notify t k) s1).wakeGuard t

/-- A retiring crew is looked at again when a command ends (R253). -/
def State.cmdGone (s : State) (t : Nat) (slot : Nat) : State := (s.checkRetire t slot).engFreed t

def State.modCmd (s : State) (t e i : Nat) (f : EngCmd → EngCmd) : State :=
  s.modTile t (fun T => T.setEngq e ((T.engq e).modify i f))

/-- Command i of a queue stopped (R28): a fault record, and the thread parks before its next issue. A tile task parks nobody. -/
def State.stopCmd (s : State) (t e i : Nat) (c : EngCmd) (ev : Ev) (st : EStop) : State :=
  let lay (s : State) (r : Nat) : State :=
    let s1 := if c.leave then s.giveLeave (vdOf t) c.energy else s
    (s1.modCmd t e i (fun c => { c with stopped := r, leave := false, ask := true })).notify t c.slot
  match st with
  | .fault la cause lvl entry reason kind =>
    if c.op = 6 then (s.modCmd t e i (fun c => { c with err := eFAULT })).emitOnce (evTK .engineCommandEnd t e)
    else (lay s reason).sendFrec t (ctxSlot c.ctx) la c.asid lvl cause (e + 2) kind entry
  | .wait r => lay s r
  | .err cause => (s.modCmd t e i (fun c => { c with err := cause })).emitOnce (evTK .engineCommandEnd t e)
  | st => s.engPause (c.who t e) ev st

/-! ### Values that arrive after the commit (R163, R251, R257) -/

/-- The value of register rd, or of the pair from rd, is on its way for n cycles: the destination is empty until then. -/
def State.valueLater (s : State) (t k rd : Nat) (pair : Bool) (v : DWord) (n : Nat) : State :=
  if rd = 0 then s
  else (s.modSlot t k (fun h =>
    let h1 := h.markEmpty rd
    { (if pair then h1.markEmpty (rd + 1) else h1) with pend := h.pend ++ [⟨2 ^ 16 + rd, valuePath, 0, 0, .value rd pair v⟩] })).after (vdOf t) n
      ⟨.engineStep, { t := t, k := 8, n := k, v := 2 ^ 16 + rd }⟩

/-- The value arrives. -/
def State.valueArrived (s : State) (t k tag : Nat) : State :=
  match (s.slot t k).getPend tag with
  | some ⟨_, _, _, _, .value rd pair v⟩ =>
    let s1 := s.modSlot t k (fun h => h.delPend tag)
    if !wbit (s.slot t k).prod rd then s1.departAgain t k
    else if pair then s1.fillPair t k rd (halfOf v.toNat false) (halfOf v.toNat true) false
    else s1.fillReg t k rd (halfOf v.toNat false) false
  | _ => s

/-! ### Engine register moves (R257) -/

def ereg (h : Slot) (eng r : Nat) : DWord :=
  match eng with
  | 0 => mget 0 h.mx r
  | 1 => mget 0 h.vx r
  | 2 => mget 0 h.lx r
  | _ => mget 0 h.qx r

/-- What a move reads: QPEND and QLEAVE are made from the queues (R274). -/
def State.eregRead (s : State) (t k eng r : Nat) : DWord :=
  let T := s.tile t
  let inq (q : List EngCmd) : Nat := (q.filter (fun c => c.slot == k && c.op != 7)).length
  let lad (ch : Nat) : Nat := let L := mget {} T.ladles ch; ((L.active.toList ++ L.waiting).filter (fun c => c.slot == k)).length
  if eng = 3 && r = 1 then BitVec.ofNat 64 (inq T.mq + inq T.vq * 16 + lad 0 * 256 + lad 1 * 2048)
  else if eng = 3 && r = 3 then BitVec.ofNat 64 (b2n ((T.slot k).leave.isSome || (T.mq ++ T.vq).any (fun c => c.slot == k && c.leave)))
  else ereg (T.slot k) eng r

def setEreg (h : Slot) (eng r : Nat) (v : DWord) : Slot :=
  match eng with
  | 0 => { h with mx := mset 0 h.mx r v }
  | 1 => { h with vx := mset 0 h.vx r v }
  | 2 => { h with lx := mset 0 h.lx r v }
  | _ => if r < 4 then h else { h with qx := mset 0 h.qx r v }

/-- EWR, EWRS and EWRH: new value from the register's old one and the source. -/
def ewrite (i : Instr) (a : Src) (eng : BitVec 3) (r : BitVec 8) (f : DWord → Word → DWord) (s : State) : M State := do
  cmdEnterNow i s
  let x ← readSrc i [a] a.r s
  .ok ((consume [a] s).modTh (fun h => (setEreg h eng.toNat r.toNat (f (ereg h eng.toNat r.toNat) x)).commit))
def execEwr (a : Src) (eng : BitVec 3) (ereg : BitVec 8) (s : State) : Out :=
  finish (ewrite (.ewr a eng ereg) a eng ereg (fun _ x => x.zeroExtend 64) s)
def execEwrs (a : Src) (eng : BitVec 3) (ereg : BitVec 8) (s : State) : Out :=
  finish (ewrite (.ewrs a eng ereg) a eng ereg (fun _ x => x.signExtend 64) s)
def execEwrh (a : Src) (eng : BitVec 3) (ereg : BitVec 8) (s : State) : Out :=
  finish (ewrite (.ewrh a eng ereg) a eng ereg (fun old x => BitVec.ofNat 64 (old.toNat % 2 ^ 32 + x.toNat * 2 ^ 32)) s)

/-- ERD and ERDH: the value at commit is on its way for 2 cycles. -/
def eread (i : Instr) (d : Reg) (eng : BitVec 3) (r : BitVec 8) (hi : Bool) (s : State) : M State := do
  cmdEnterNow i s
  destLater i d s
  let v := halfOf (s.eregRead s.cur.1 s.cur.2 eng.toNat r.toNat).toNat hi
  .ok ((commitNow s).valueLater s.cur.1 s.cur.2 d.toNat false (v.zeroExtend 64) 2)
def execErd (a : Reg) (eng : BitVec 3) (ereg : BitVec 8) (s : State) : Out := finish (eread (.erd a eng ereg) a eng ereg false s)
def execErdh (a : Reg) (eng : BitVec 3) (ereg : BitVec 8) (s : State) : Out := finish (eread (.erdh a eng ereg) a eng ereg true s)

/-- FMTP (R255): the prefix of the next instruction. A visitor goes home first. -/
def fmtp (fa fb fo : BitVec 4) (rnd : BitVec 3) (sc : BitVec 2) (s : State) : M State := do
  if s.th.isVisitor then .error (if s.th.shadow.isSome then s.block .predicted else s.goHome)
  else .ok (s.modTh (fun h => { h.commit with
    pfx := BitVec.ofNat 32 (fa.toNat + fb.toNat * 16 + fo.toNat * 256 + rnd.toNat * 4096 + sc.toNat * 32768)
    st := wsetb h.st 0 true }))
def execFmtp (fa fb fo : BitVec 4) (rnd : BitVec 3) (sc : BitVec 2) (s : State) : Out := finish (fmtp fa fb fo rnd sc s)

end Sys2Proof.Machine
end

