-- ==== Sys2Proof/Machine/Matrix.lean ====
section
/-! DEFINITION. The matrix engine (R260-R267, R276-R278): issue of its commands, and what each of their steps does. -/

namespace Sys2Proof.Machine
open Sys2Proof

def opMZERO : Nat := 0
def opMMA : Nat := 1
def opMMAG : Nat := 2
def opMSTORE : Nat := 3
def opMREDUCE : Nat := 4
def opTASK : Nat := 6
def opSHARE : Nat := 7

/-! ### Registers (R260) -/

def EngCmd.mctl (c : EngCmd) (lo n : Nat) : Nat := nfld (c.reg 0) lo n
def EngCmd.bank (c : EngCmd) : Nat := c.mctl 0 2
def EngCmd.kdim (c : EngCmd) : Nat := c.reg 2 % 2 ^ 17
def EngCmd.rows (c : EngCmd) : Nat := nfld (c.reg 3) 0 6 + 1
def EngCmd.cols (c : EngCmd) : Nat := nfld (c.reg 3) 8 6 + 1
def EngCmd.astr (c : EngCmd) : Nat := c.reg 4 % 2 ^ 32
def EngCmd.bstr (c : EngCmd) : Nat := c.reg 5 % 2 ^ 32
def EngCmd.cstr (c : EngCmd) : Nat := c.reg 6 % 2 ^ 32
def EngCmd.pstr (c : EngCmd) : Nat := c.reg 15 % 2 ^ 32
def EngCmd.nsl (c : EngCmd) : Nat := nfld (c.reg 14) 0 13

def Slot.mxn (h : Slot) (n : Nat) : Nat := (mget 0 h.mx n).toNat

/-- Must-be-zero bits of a matrix register (R260). -/
def mxMbz (n v : Nat) : Bool :=
  match n with
  | 0 => v / 2 ^ 22 != 0
  | 2 => v / 2 ^ 17 != 0
  | 3 => nfld v 6 2 != 0 || v / 2 ^ 14 != 0
  | 4 => v / 2 ^ 32 != 0
  | 7 => v / 2 ^ 32 != 0
  | 8 => v / 2 ^ 32 != 0
  | 9 => v / 2 ^ 32 != 0
  | 11 => v.testBit 63
  | 12 => v.testBit 7 || v.testBit 11 || v.testBit 15 || v / 2 ^ 19 != 0
  | 14 => nfld v 13 3 != 0 || v / 2 ^ 17 != 0
  | 15 => v / 2 ^ 32 != 0
  | _ => false
def mxBad (h : Slot) (ns : List Nat) : Bool := ns.any (fun n => mxMbz n (h.mxn n))
/-- Completion registers, read only with CWEN = 1. -/
def cwRegs (h : Slot) : List Nat := if (h.mxn 0).testBit 3 then [11] else []

/-! ### Arithmetic of a step (R201, R202, R204) -/

/-- k-steps per clock of a format, and the k values one step covers (R261, R276). -/
def kpcOf (f : Nat) : Nat := if f ≤ 2 then 1 else if fmtWidth f = 8 then 2 else 4
def EngCmd.kStep (c : EngCmd) : Nat := 64 * min (kpcOf (fmFA c.fmt)) (kpcOf (fmFB c.fmt))
def EngCmd.intAcc (c : EngCmd) : Bool := fmFA c.fmt == 8 && fmFB c.fmt == 8 && fmSC c.fmt == 0

/-- Bytes of elements k0 to k1 - 1 of a row: offset and length; k0 is a multiple of 32. -/
def rowPart (f sc k0 k1 : Nat) : Nat × Nat :=
  if isBlk f sc then (k0 / 32 * blockBytes f sc, cdiv (k1 - k0) 32 * blockBytes f sc)
  else (fmtWidth f * k0 / 8, cdiv (fmtWidth f * (k1 - k0)) 8)

/-- The values of n elements whose first byte begins the list. -/
def rowVals (f sc : Nat) (ftz : Bool) (T : Num) (n : Nat) (bs : List Byte) : List Num :=
  (List.range n).map (fun i => let p := elemSpan f sc i; spanRead f sc ftz T i ((bs.drop p.1).take p.2))

/-- A row's blocks of 32, padded with +0 (R201). -/
def blocksOf : Nat → List Num → List (List Num)
  | 0, _ => []
  | f + 1, vs => if vs.isEmpty then [] else (vs.take 32 ++ List.replicate (32 - min 32 vs.length) Num.zero) :: blocksOf f (vs.drop 32)

def accKey (bank i j : Nat) : Nat := bank * 4096 + i * 64 + j
def fpNanBits (w : Word) : Bool := 0x7F800000 < w.toNat % 2 ^ 31
def fpInfBits (w : Word) : Bool := w.toNat % 2 ^ 31 == 0x7F800000

/-- One FP32 accumulator update, RNE, never NX or UF (R201, R207, R208). -/
def accAdd (ftz : Bool) (old : Word) (x : Num × Word) : Word × Tally :=
  let r := numAdd false (fpRead 0 ftz old.toNat) x.1
  let q := roundFp 0 ⟨0, false, ftz, 0⟩ r.1
  let v : Word := BitVec.ofNat 32 q.bits
  (v, ⟨(x.2 ||| r.2 ||| q.flags) &&& (fNV ||| fOF), b2n (fpNanBits v && !fpNanBits old), b2n (fpInfBits v && !fpInfBits old && !fpNanBits old), 0⟩)

/-- One integer update (R202). -/
def accAddInt (sat : Bool) (old : Word) (x : Int) : Word × Tally :=
  let v := old.toInt + x
  if sat then (sat32 v, ⟨0, 0, 0, b2n (v < -(2 ^ 31) || 2 ^ 31 - 1 < v)⟩) else (BitVec.ofInt 32 v, {})

def intOf : Num → Int
  | .fin n m e _ => (if n then -1 else 1) * (m * 2 ^ e.toNat : Nat)
  | _ => 0

/-- Every block of a step on one element. -/
def accBlocks (c : EngCmd) (old : Word) (as bs : List (List Num)) : Word × Tally :=
  (as.zip bs).foldl (fun (a : Word × Tally) p =>
    let d := blockDot (p.1.zip p.2)
    let r := if c.intAcc then accAddInt (stSAT c.st) a.1 (intOf d.1) else accAdd (stFTZ c.st) a.1 d
    (r.1, a.2.add r.2)) (old, {})

/-- Update rows × cols accumulator elements of a tile. -/
def State.accMap (s : State) (t bank rows cols : Nat) (f : Nat → Nat → Word → Word × Tally) : State × Tally :=
  let r := (List.range rows).foldl (fun (a : SMap Word × Tally) i =>
    (List.range cols).foldl (fun (a : SMap Word × Tally) j =>
      let k := accKey bank i j
      let v := f i j (mget 0 a.1 k)
      (mset 0 a.1 k v.1, a.2.add v.2)) a) ((s.tile t).acc, {})
  (s.modTile t (fun T => { T with acc := r.1 }), r.2)

/-- Rows of an operand for k0 to k1 - 1, as blocks. -/
def readRows (w : EngWho) (os : Bool) (g : Seg) (off str cnt f sc k0 k1 : Nat) (ftz : Bool) (T : Num) (s : State) : EM (List (List (List Num)) × State) :=
  let p := rowPart f sc k0 k1
  (List.range cnt).foldlM (fun (a : List (List (List Num)) × State) i => do
    let (bs, s1) ← engRead w (opPlace os g ((off + i * str + p.1 : Nat) : Int)) p.2 a.2
    .ok (a.1 ++ [blocksOf (k1 - k0) (rowVals f sc ftz T (k1 - k0) bs)], s1)) ([], s)

/-- A tensor scale of scale mode 10. -/
def EngCmd.scaleT (c : EngCmd) (n f : Nat) : Num := if scaled10 f (fmSC c.fmt) then tensorOf (c.reg n) else Num.one

/-- The MMA work of step n on tile t for a command's rows: A read by `wa`, B by `wb` (R201, R261, R263). -/
def mmaStep (c : EngCmd) (n : Nat) (wb : EngWho) (tiles : List (EngWho × Seg)) (s : State) : EM (State × Tally) := do
  let k0 := n * c.kStep
  let k1 := min c.kdim (k0 + c.kStep)
  let fa := fmFA c.fmt; let fb := fmFB c.fmt; let sc := fmSC c.fmt; let ftz := stFTZ c.st
  let (bb, s1) ← readRows wb ((c.reg 0).testBit 11) (c.seg (c.mctl 8 3)) c.b.toNat c.bstr c.cols fb sc k0 k1 ftz (c.scaleT 8 fb) s
  let (as, s2) ← tiles.foldlM (fun (a : List (Nat × List (List (List Num))) × State) q => do
    let (x, s2) ← readRows q.1 ((c.reg 0).testBit 7) q.2 c.a.toNat c.astr c.rows fa sc k0 k1 ftz (c.scaleT 7 fa) a.2
    .ok (a.1 ++ [(q.1.t, x)], s2)) ([], s1)
  let zero := n == 0 && (c.reg 0).testBit 2
  .ok (as.foldl (fun (a : State × Tally) q =>
    let r := a.1.accMap q.1 c.bank c.rows c.cols (fun i j old => accBlocks c (if zero then 0 else old) (q.2.getD i []) (bb.getD j []))
    (r.1, a.2.add r.2)) (s2, {}))

/-! ### Output (R203, R264) -/

/-- A row of output: its bytes, flags and counters, and the lanes after it. -/
structure RowOut where
  bytes : List Byte
  tally : Tally
  lanes : List Word
  deriving DecidableEq, Repr

/-- Is an element code NaN, or infinite, in its format? -/
def codeNan (f bits : Nat) : Bool :=
  f ≤ 4 && (let F := fmtOf f; let m := bits % 2 ^ (F.mant + F.exp); if F.top = 1 then m == F.nanCode else decide (F.infCode < m))
def codeInf (f bits : Nat) : Bool :=
  f ≤ 4 && (let F := fmtOf f; F.top == 0 && bits % 2 ^ (F.mant + F.exp) == F.infCode)

/-- Plain elements: one rounding each. -/
def plainRow (c : EngCmd) (f n0 : Nat) (lanes : List Word) (vs : List Num) : RowOut :=
  let (ws, ls) := laneWords c lanes n0 vs.length
  let rs := (vs.zip ws).map (fun p => roundTo f (c.rnd p.2) p.1)
  let w := fmtWidth f
  ⟨leBytes (cdiv (w * vs.length) 8) (packBits w (rs.map (·.bits))),
   rs.foldl (fun a r => a.add ⟨r.flags, b2n (codeNan f r.bits), b2n (codeInf f r.bits), b2n r.clamped⟩) {}, ls⟩

/-- One block of 32 (R199, R200). A block written as NaN rounds no element. -/
def blockRow (c : EngCmd) (f n0 : Nat) (lanes : List Word) (vs : List Num) : RowOut :=
  let (ws, ls) := laneWords c lanes n0 vs.length
  let o := if isTb f then tbEncode f (c.rnd 0) ws vs else blkEncode f (c.rnd 0) ws vs
  ⟨o.bytes, ⟨o.flags, o.nans, 0, o.clamped⟩, if o.rounded then ls else lanes⟩

/-- Elements n0, n0 + 1, … of a row, in the layout of R259. -/
def encodeRow (c : EngCmd) (f sc : Nat) : Nat → Nat → List Word → List Num → RowOut
  | 0, _, lanes, _ => ⟨[], {}, lanes⟩
  | fuel + 1, n0, lanes, vs =>
    if vs.isEmpty then ⟨[], {}, lanes⟩
    else if isBlk f sc then
      let r := blockRow c f n0 lanes (vs.take 32)
      let q := encodeRow c f sc fuel (n0 + 32) r.lanes (vs.drop 32)
      ⟨r.bytes ++ q.bytes, r.tally.add q.tally, q.lanes⟩
    else plainRow c f n0 lanes vs

/-- x / T of scale mode 10, exact (R194). -/
def unscale (c : EngCmd) (n f : Nat) (x : Num) : Num :=
  if scaled10 f (fmSC c.fmt) then (match x with | .fin .. => divFin x (tensorOf (c.reg n)) | y => y) else x

/-- MSTORE's work: every row of the bank, converted and written (R264). A signalling NaN it reads sets NV (R189). -/
def mstoreStep (c : EngCmd) (w : EngWho) (s : State) : EM (EngCmd × State × Tally) := do
  let fo := fmFO c.fmt; let sc := fmSC c.fmt
  let ints := fmFA c.fmt == 8 && fmFB c.fmt == 8 && (c.op != opTASK || sc == 0)
  let val (i j : Nat) : Num :=
    let v := mget 0 (s.tile w.t).acc (accKey c.bank i j)
    unscale c 9 fo (if ints then Num.ofInt v.toInt else fpRead 0 (stFTZ c.st) v.toNat)
  let rows := (List.range c.rows).foldl (fun (a : List (EPlace × List Byte) × Tally × List Word) i =>
    let vs := (List.range c.cols).map (fun j => val i j)
    let r := encodeRow c fo sc 3 (i * c.cols) a.2.2 vs
    (a.1 ++ [(opPlace ((c.reg 0).testBit 15) (c.seg (c.mctl 12 3)) ((c.a.toNat + i * c.cstr : Nat) : Int), r.bytes)], (a.2.1.add r.tally).add ⟨nvIf (vs.any Num.isSig), 0, 0, 0⟩, r.lanes)) ([], {}, c.lanes)
  let s1 ← engWrite w rows.1 s
  .ok ({ c with lanes := rows.2.2 }, s1, rows.2.1)

/-- One partial of MREDUCE (R204, R265): the first replaces, the others are added. The first is stored as it was read: no operation has
consumed it (log entry 174). -/
def mreduceStep (c : EngCmd) (n : Nat) (w : EngWho) (s : State) : EM (State × Tally) := do
  let (rows, s1) ← (List.range c.rows).foldlM (fun (a : List (List Byte) × State) i => do
    let (bs, s1) ← engRead w (opPlace ((c.reg 0).testBit 7) (c.seg (c.mctl 4 3)) ((c.a.toNat + n * c.pstr + i * c.astr : Nat) : Int)) (4 * c.cols) a.2
    .ok (a.1 ++ [bs], s1)) (([] : List (List Byte)), s)
  let part (i j : Nat) : Word := BitVec.ofNat 32 (leNat (((rows.getD i []).drop (4 * j)).take 4))
  .ok (s1.accMap w.t c.bank c.rows c.cols (fun i j old =>
    let p := part i j
    if n = 0 then (p, {})
    else if (c.reg 14).testBit 16 then accAddInt (stSAT c.st) old p.toInt
    else
      let v := fpRead 0 (stFTZ c.st) p.toNat
      accAdd (stFTZ c.st) old (v, nvIf v.isSig)))

/-- MZERO's work. -/
def mzeroStep (mask t : Nat) (s : State) : State :=
  s.modTile t (fun T => { T with acc := T.acc.filter (fun q => !mask.testBit (q.1 / 4096)) })

/-! ### Steps of a matrix command (R276) -/

def EngCmd.msteps (c : EngCmd) : Nat :=
  if c.op = opMMA ∨ c.op = opMMAG then cdiv c.kdim c.kStep
  else if c.op = opMREDUCE then c.nsl
  else if c.op = opTASK then cdiv c.kdim c.kStep + 1
  else 1

/-- Do the steps of a command carry checksum lanes (R277)? -/
def EngCmd.checked (c : EngCmd) : Bool :=
  c.op == opMMA || c.op == opMMAG || c.op == opMREDUCE || (c.op == opTASK && decide (c.step + 1 < c.msteps))

/-- A member reads A at the lead's scratchpad offset, in its own scratchpad (R12, R263). -/
def EngCmd.memberA (c : EngCmd) (m : Nat × Nat) : EngWho × Seg := ({ t := m.1, slot := m.2, ctx := c.ctx, asid := c.asid, path := 2, reach := 0 }, c.seg (c.mctl 4 3))

/-- One step of the head of a matrix queue. -/
def matrixStep (c : EngCmd) (t : Nat) (s : State) : EM (EngCmd × State × Tally) := do
  let w := c.who t 0
  if c.op = opMZERO then .ok (c, mzeroStep (c.a.toNat % 16) t s, {})
  else if c.op = opMMA then do
    let (s1, y) ← mmaStep c c.step w [(w, c.seg (c.mctl 4 3))] s
    .ok (c, s1, y)
  else if c.op = opMMAG then do
    let (s1, y) ← mmaStep c c.step w (c.members.map c.memberA) s
    .ok (c, s1, y)
  else if c.op = opMREDUCE then do
    let (s1, y) ← mreduceStep c c.step w s
    .ok (c, s1, y)
  else if c.op = opTASK && c.step + 1 < c.msteps then do
    let (s1, y) ← mmaStep c c.step w [(w, c.seg 0)] s
    .ok (c, s1, y)
  else if c.op = opTASK then do
    let (c1, s1, y) ← mstoreStep { c with a := 0 } w s
    .ok ({ c with lanes := c1.lanes }, s1, y)
  else mstoreStep c w s

/-! ### Issue -/

/-- A bank outside ACCMASK (R38). EVAL holds the first register operand. -/
def bankOk (mask v : Nat) (s : State) : M Unit :=
  if mask &&& s.th.accmask.toNat = mask then .ok () else .error (s.trap tSEG 5 (BitVec.ofNat 32 v))

/-- Extent of cnt rows of a given length. -/
def rowsExtent (write os : Bool) (sn off str cnt len : Nat) : Extent := ⟨write, os, sn, off, off + (cnt - 1) * str + len⟩

def mzero (i : Instr) (a : Src) (s : State) : M State := do
  cmdEnter i false s
  let x ← readSrc i [a] a.r s
  illWord i (wfld x 4 28 != 0) s
  bankOk (x.toNat % 16) x.toNat s
  admitCmd 0 [a] (s.newCmd opMZERO x 0 0 [] 0 []) s
def execMzero (a : Src) (s : State) : Out := finish (mzero (.mzero a) a s)

/-- Checks 3 of MMA and MMAG. -/
def mmaIll (h : Slot) (fmt : Word) : Bool :=
  let fa := fmFA fmt; let fb := fmFB fmt; let sc := fmSC fmt
  mxBad h ([0, 2, 3, 4] ++ (if scaled10 fa sc then [7] else []) ++ (if scaled10 fb sc then [8] else []) ++ cwRegs h) ||
  h.mxn 2 == 0 || 65536 < h.mxn 2 || fmtBad fa sc || fmtBad fb sc || fa == 0 || fb == 0 ||
  ((isBlk fa sc || isBlk fb sc) && h.mxn 2 % 32 != 0) ||
  (scaled10 fa sc && tensorBad (h.mxn 7)) || (scaled10 fb sc && tensorBad (h.mxn 8))

def mmaC (f : Nat) : Nat := if f ≤ 2 then 4 else if fmtWidth f = 8 then 2 else 1
/-- Estimate of MMA (R278). -/
def mmaEnergy (rows cols k fa fb : Nat) : Nat := cdiv (rows * cols * k * max (mmaC fa) (mmaC fb)) 4096

/-- Operand extents of a command, from what it captured; the operand store for A only where `os`. -/
def EngCmd.extA (c : EngCmd) (os : Bool) : Extent := rowsExtent false (os && (c.reg 0).testBit 7) (c.mctl 4 3) c.a.toNat c.astr c.rows (rowBytes (fmFA c.fmt) (fmSC c.fmt) c.kdim)
def EngCmd.extB (c : EngCmd) : Extent := rowsExtent false ((c.reg 0).testBit 11) (c.mctl 8 3) c.b.toNat c.bstr c.cols (rowBytes (fmFB c.fmt) (fmSC c.fmt) c.kdim)
def EngCmd.extC (c : EngCmd) : Extent := rowsExtent true ((c.reg 0).testBit 15) (c.mctl 12 3) c.a.toNat c.cstr c.rows (rowBytes (fmFO c.fmt) (fmSC c.fmt) c.cols)
def EngCmd.extP (c : EngCmd) : Extent := rowsExtent false ((c.reg 0).testBit 7) (c.mctl 4 3) c.a.toNat c.pstr c.nsl ((c.rows - 1) * c.astr + 4 * c.cols)
/-- The group record of an MMAG. -/
def EngCmd.grec (c : EngCmd) : Nat := c.reg 13 % 2 ^ 32
def EngCmd.extG (c : EngCmd) : Extent := ⟨false, false, c.mctl 19 3, c.grec, c.grec + 64⟩

/-- Segment check and alignment of a matrix command's completion word. -/
def mcwSeg (c : EngCmd) (s : State) : M Unit := cwSeg ((c.reg 0).testBit 3) (c.mctl 16 3) (c.reg 10 % 2 ^ 32) s
def mcwAligned (c : EngCmd) (s : State) : M Unit := cwAligned ((c.reg 0).testBit 3) (c.reg 10 % 2 ^ 32) s

/-- Alignment of A and B (R259). -/
def abAligned (c : EngCmd) (s : State) : M Unit := do
  alignedTo (fmtAlign (fmFA c.fmt)) c.a.toNat s
  alignedTo (fmtAlign (fmFA c.fmt)) c.astr s
  alignedTo (fmtAlign (fmFB c.fmt)) c.b.toNat s
  alignedTo (fmtAlign (fmFB c.fmt)) c.bstr s

/-- Orders 4 to 6 of R252 for MMA. -/
def mmaChecks (c : EngCmd) (s : State) : M Unit := do
  extentsSeg [c.extA true, c.extB] s
  mcwSeg c s
  bankOk (2 ^ c.bank) c.a.toNat s
  abAligned c s
  mcwAligned c s
  extentsRange 2 [c.extA true, c.extB] s

def mma (i : Instr) (a b : Src) (s : State) : M State := do
  cmdEnter i true s
  let x ← readSrc i [a, b] a.r s
  let y ← readSrc i [a, b] b.r s
  let fmt ← cmdFmt i (mget 0 s.th.mx 1) s
  illWord i (mmaIll s.th fmt) s
  let c := s.newCmd opMMA x y fmt s.th.mx 0 []
  mmaChecks c s
  admitCmd 0 [a, b] { c with energy := mmaEnergy c.rows c.cols c.kdim (fmFA fmt) (fmFB fmt) } s
def execMma (a b : Src) (s : State) : Out := finish (mma (.mma a b) a b s)

/-- Members of an MMAG: tile and slot, from TMASK and SLOT0-SLOT3, in cluster order (R258, R263). -/
def gangMembers (t gang : Nat) : List (Nat × Nat) :=
  ((List.range 4).filter (fun c => gang.testBit c)).map (fun c => (clusterTile t c, nfld gang (4 + 4 * c) 3))

/-- A member must hold a thread of the lead's ASID, and its partition and banks the share (R263). -/
def memberOk (lead : Slot) (off hi : Nat) (g : Seg) (bank : Nat) (s : State) (m : Nat × Nat) : M Unit :=
  let h := s.slot m.1 m.2
  let v := BitVec.ofNat 32 off
  if !((h.occ == .thread || h.occ == .reserved) && h.asid == lead.asid) then .error (s.trap tSEG 1 v)
  else
    let lo := g.base.toNat % 2 ^ 22
    if lo + off < h.spbase || h.spbase + h.spsize < lo + hi then .error (s.trap tSEG 5 v)
    else if wbit h.accmask bank then .ok () else .error (s.trap tSEG 5 v)

/-- Orders 4 to 6 of R252 for MMAG. -/
def mmagChecks (c : EngCmd) (s : State) : M Unit := do
  let ga := c.seg (c.mctl 4 3)
  let gg := c.seg (c.mctl 19 3)
  checkIf ((c.reg 0).testBit 7 || !ga.s) (.error (s.trap tSEG 1 c.a))
  extentsSeg [c.extA false, c.extB] s
  checkIf gg.s (.error (s.trap tSEG 1 (BitVec.ofNat 32 c.grec)))
  extentSeg (fun g => g.k && g.r && g.w) c.extG s
  mcwSeg c s
  bankOk (2 ^ c.bank) c.a.toNat s
  c.members.forM (fun m => memberOk s.th c.a.toNat (c.extA false).hi.toNat ga c.bank s m)
  abAligned c s
  alignedTo 64 c.grec s
  mcwAligned c s
  extentsRange 2 [c.extB, c.extG] s

def mmag (i : Instr) (a b : Src) (s : State) : M State := do
  cmdEnter i true s
  let x ← readSrc i [a, b] a.r s
  let y ← readSrc i [a, b] b.r s
  let fmt ← cmdFmt i (mget 0 s.th.mx 1) s
  let ms := gangMembers s.cur.1 (s.th.mxn 12)
  illWord i (mmaIll s.th fmt || mxBad s.th [12] || ms.length < 2 || !(ms.map (·.1)).contains s.cur.1) s
  let c := { s.newCmd opMMAG x y fmt s.th.mx 0 [] with members := ms }
  mmagChecks c s
  admitCmd 0 [a, b] { c with energy := mmaEnergy c.rows c.cols c.kdim (fmFA fmt) (fmFB fmt) * ms.length } s
def execMmag (a b : Src) (s : State) : Out := finish (mmag (.mmag a b) a b s)

/-- Checks 3 of MSTORE. -/
def mstoreIll (c : EngCmd) (h : Slot) : Bool :=
  let fo := fmFO c.fmt; let sc := fmSC c.fmt
  mxBad h ([0, 3] ++ (if scaled10 fo sc then [9] else []) ++ cwRegs h) || 11 < fmFA c.fmt || 11 < fmFB c.fmt || fmtBad fo sc ||
  (isBlk fo sc && c.cols % 32 != 0) || (scaled10 fo sc && tensorBad (h.mxn 9))

/-- Orders 4 to 6 of R252 for MSTORE. -/
def mstoreChecks (c : EngCmd) (s : State) : M Unit := do
  extentsSeg [c.extC] s
  mcwSeg c s
  bankOk (2 ^ c.bank) c.a.toNat s
  alignedTo (fmtAlign (fmFO c.fmt)) c.a.toNat s
  alignedTo (fmtAlign (fmFO c.fmt)) c.cstr s
  mcwAligned c s
  extentsRange 2 [c.extC] s

def mstore (i : Instr) (a : Src) (s : State) : M State := do
  cmdEnter i true s
  let x ← readSrc i [a] a.r s
  let fmt ← cmdFmt i (mget 0 s.th.mx 1) s
  let c := s.newCmd opMSTORE x 0 fmt s.th.mx 0 []
  illWord i (mstoreIll c s.th) s
  mstoreChecks c s
  admitCmd 0 [a] { c with wext := c.extC.wext s.th } s
def execMstore (a : Src) (s : State) : Out := finish (mstore (.mstore a) a s)

/-- Orders 4 to 6 of R252 for MREDUCE. -/
def mreduceChecks (c : EngCmd) (s : State) : M Unit := do
  extentsSeg [c.extP] s
  mcwSeg c s
  bankOk (2 ^ c.bank) c.a.toNat s
  alignedTo 4 c.a.toNat s
  alignedTo 4 c.astr s
  alignedTo 4 c.pstr s
  mcwAligned c s
  extentsRange 2 [c.extP] s

def mreduce (i : Instr) (a : Src) (s : State) : M State := do
  cmdEnter i false s
  let x ← readSrc i [a] a.r s
  let c := s.newCmd opMREDUCE x 0 0 s.th.mx 0 []
  illWord i (mxBad s.th ([0, 3, 4, 14, 15] ++ cwRegs s.th) || c.nsl == 0 || 4096 < c.nsl) s
  mreduceChecks c s
  admitCmd 0 [a] { c with energy := cdiv (c.rows * c.cols * c.nsl) 64 } s
def execMreduce (a : Src) (s : State) : Out := finish (mreduce (.mreduce a) a s)

end Sys2Proof.Machine
end

