-- ==== Sys2Proof/Machine/Vector.lean ====
section
/-! DEFINITION. The vector engine (R205, R206, R268-R270, R276): issue of a VOP, and what each of its steps does. -/

namespace Sys2Proof.Machine
open Sys2Proof

/-! ### Registers (R268) -/

def EngCmd.vop (c : EngCmd) : Nat := c.op - 256
def EngCmd.vctl (c : EngCmd) (lo n : Nat) : Nat := nfld (c.reg 0) lo n
def EngCmd.ndm1 (c : EngCmd) : Nat := c.vctl 16 2
/-- COUNT[j], 1 for a dimension the command has not. -/
def EngCmd.count (c : EngCmd) (j : Nat) : Nat := if j ≤ c.ndm1 then c.reg (9 + j) % 2 ^ 25 else 1
def EngCmd.total (c : EngCmd) : Nat := c.count 0 * c.count 1 * c.count 2 * c.count 3
def EngCmd.vrows (c : EngCmd) : Nat := c.count 1 * c.count 2 * c.count 3

def vReadsX (o : Nat) : Bool := o < 0x1E
def vReadsY (o : Nat) : Bool := [0x01, 0x02, 0x03, 0x04, 0x05, 0x06, 0x07, 0x08, 0x0B, 0x16, 0x17, 0x18, 0x1D].contains o
def vReadsW (o : Nat) : Bool := [0x07, 0x08, 0x18].contains o
def vReduces (o : Nat) : Bool := decide (0x19 ≤ o) && decide (o ≤ 0x1D)

/-- Offset of row r of an operand: base + sum over j of i_j × STRIDE[j], j = 1 to 3 (R269); `b` the first stride register. -/
def EngCmd.rowOff (c : EngCmd) (base b r : Nat) : Int :=
  let i1 := r % c.count 1
  let i2 := r / c.count 1 % c.count 2
  let i3 := r / c.count 1 / c.count 2
  let st (j : Nat) : Int := if j ≤ c.ndm1 then sgn 64 (c.reg (b + j)) else 0
  (base : Int) + i1 * st 1 + i2 * st 2 + i3 * st 3

/-! ### Element operations (R205, R269) -/

def numAbs (x : Num) : Num × Word := (x.setNeg false, nvIf x.isSig)
def numRelu (x : Num) : Num × Word := if x.isNan then (.nan false, nvIf x.isSig) else if 0 < x.cmp Num.zero then (x, 0) else (Num.zero, 0)
def numClamp (x a b : Num) : Num × Word :=
  let p := numMinMax true x a
  let q := numMinMax false p.1 b
  (q.1, p.2 ||| q.2)
def numCmpLt (x y : Num) : Num × Word :=
  if x.isNan || y.isNan then (Num.zero, fNV) else (if x.cmp y < 0 then Num.one else Num.zero, 0)
def numCmpEq (x y : Num) : Num × Word :=
  if x.isNan || y.isNan then (Num.zero, nvIf (x.isSig || y.isSig)) else (if x.cmp y = 0 then Num.one else Num.zero, 0)
def numSel (x y w : Num) : Num × Word :=
  let r := if w.isNan || !w.isZero then x else y
  (r, nvIf (r.isSig || w.isSig))

/-- The exact result of an element operation, with the flags of its special cases. -/
def vecOp (o : Nat) (rd : Bool) (x y w s0 s1 : Num) (i0 : Nat) : Num × Word :=
  match o with
  | 0x00 => (x, nvIf x.isSig)
  | 0x01 => numAdd rd x y
  | 0x02 => numSub rd x y
  | 0x03 => numMul x y
  | 0x04 => numDiv x y
  | 0x05 => numMinMax false x y
  | 0x06 => numMinMax true x y
  | 0x07 => numFma rd x y w
  | 0x08 => numFma rd x y w.flip
  | 0x09 => numAdd rd x s0
  | 0x0A => numMul x s0
  | 0x0B => numFma rd x s0 y
  | 0x0C => numAbs x
  | 0x0D => (x.flip, nvIf x.isSig)
  | 0x0E => numRelu x
  | 0x0F => numClamp x s0 s1
  | 0x10 => numExp2 x
  | 0x11 => numLog2 x
  | 0x12 => numRcp x
  | 0x13 => numRsq x
  | 0x14 => numSqrt x
  | 0x15 => numTanh x
  | 0x16 => numCmpLt x y
  | 0x17 => numCmpEq x y
  | 0x18 => numSel x y w
  | 0x1E => (s0, nvIf s0.isSig)
  | _ => (Num.ofInt i0, 0)

/-! ### Runs: the elements of one row that a step visits -/

/-- A run: row, first element, elements. -/
structure VRun where
  row : Nat
  i0 : Nat
  n : Nat
  deriving DecidableEq, Repr

/-- The runs of visit elements a to b - 1, rows of c0 elements. -/
def runsOf : Nat → Nat → Nat → Nat → List VRun
  | 0, _, _, _ => []
  | f + 1, c0, a, b =>
    if b ≤ a then []
    else
      let n := min (c0 - a % c0) (b - a)
      ⟨a / c0, a % c0, n⟩ :: runsOf f c0 (a + n) b
def EngCmd.runs (c : EngCmd) : List VRun :=
  let a := 4096 * c.step
  runsOf 4097 (c.count 0) a (min c.total (a + 4096))

/-- Byte range of a run in its row. -/
def runBytes (f sc : Nat) (r : VRun) : Nat × Nat :=
  let lo := (elemSpan f sc r.i0).1
  let e := elemSpan f sc (r.i0 + r.n - 1)
  (lo, e.1 + e.2 - lo)

/-- The values of a run of one operand. -/
def readRun (c : EngCmd) (w : EngWho) (sn base b f : Nat) (T : Num) (r : VRun) (s : State) : EM (List Num × State) := do
  let sc := fmSC c.fmt
  let p := runBytes f sc r
  let (bs, s1) ← engRead w (opPlace false (c.seg sn) (c.rowOff base b r.row + p.1)) p.2 s
  .ok ((List.range r.n).map (fun j =>
    let q := elemSpan f sc (r.i0 + j)
    spanRead f sc (stFTZ c.st) T (r.i0 + j) ((bs.drop (q.1 - p.1)).take q.2)), s1)

def EngCmd.scal (c : EngCmd) (hi : Bool) : Num := fpRead 0 (stFTZ c.st) (if hi then c.reg 4 / 2 ^ 32 else c.reg 4 % 2 ^ 32)

/-- X, Y and W of a run; an operand the operation does not read is empty. -/
def readSources (c : EngCmd) (w : EngWho) (r : VRun) (s : State) : EM ((List Num × List Num × List Num) × State) := do
  let fa := fmFA c.fmt; let fb := fmFB c.fmt
  let (xs, s1) ← if vReadsX c.vop then readRun c w (c.vctl 0 3) c.a.toNat 16 fa (c.scaleT 7 fa) r s else .ok ([], s)
  let (ys, s2) ← if vReadsY c.vop then readRun c w (c.vctl 3 3) (c.reg 2 % 2 ^ 32) 20 fb (c.scaleT 7 fb) r s1 else .ok ([], s1)
  let (zs, s3) ← if vReadsW c.vop then readRun c w (c.vctl 6 3) (c.reg 3 % 2 ^ 32) 24 fa (c.scaleT 7 fa) r s2 else .ok ([], s2)
  .ok ((xs, ys, zs), s3)

/-- All reads of a step come before its writes (R269). -/
def readAll (c : EngCmd) (w : EngWho) (s : State) : EM (List (VRun × List Num × List Num × List Num) × State) :=
  c.runs.foldlM (fun (a : List (VRun × List Num × List Num × List Num) × State) r => do
    let (q, s1) ← readSources c w r a.2
    .ok (a.1 ++ [(r, q)], s1)) ([], s)

/-! ### Elementwise steps -/

/-- Low bits of the first byte of a run that belong to elements before it stay as they are. -/
def mergeFirst (f sc i0 : Nat) (old new : List Byte) : List Byte :=
  let sh := if isBlk f sc then 0 else fmtWidth f * i0 % 8
  match old, new with
  | o :: _, n :: ns => if sh = 0 then n :: ns else BitVec.ofNat 8 (o.toNat % 2 ^ sh + n.toNat) :: ns
  | _, ns => ns

/-- Result bytes of a run, shifted to the bit its first element begins at. -/
def shiftBytes (f sc i0 : Nat) (bs : List Byte) : List Byte :=
  let sh := if isBlk f sc then 0 else fmtWidth f * i0 % 8
  if sh = 0 then bs else leBytes (bs.length + 1) (leNat bs * 2 ^ sh)

/-- Bytes a run of Z occupies. -/
def zLen (f sc : Nat) (r : VRun) : Nat := (runBytes f sc r).2

def zPlace (c : EngCmd) (row o : Nat) : EPlace := opPlace false (c.seg (c.vctl 9 3)) (c.rowOff c.b.toNat 28 row + o)

/-- The bits of a run's last byte that belong to it, where elements of its row that a later step writes share the byte, else 0. -/
def cutBits (c : EngCmd) (f sc : Nat) (r : VRun) : Nat := if isBlk f sc || c.count 0 ≤ r.i0 + r.n then 0 else fmtWidth f * (r.i0 + r.n) % 8

/-- The bits of those elements stay as they are until their step. -/
def mergeLast (cut : Nat) (old new : List Byte) : List Byte :=
  match old with
  | o :: _ => if cut = 0 then new else new.dropLast ++ (new.drop (new.length - 1)).map (fun n => BitVec.ofNat 8 (n.toNat % 2 ^ cut + o.toNat / 2 ^ cut * 2 ^ cut))
  | [] => new

/-- The old last byte of a run that ends within a byte of its row. -/
def oldLast (c : EngCmd) (w : EngWho) (f sc : Nat) (r : VRun) (s : State) : EM (List Byte × State) :=
  if cutBits c f sc r = 0 then .ok ([], s) else engRead w (zPlace c r.row ((runBytes f sc r).1 + (runBytes f sc r).2 - 1)) 1 s

/-- The old first byte of a run, where an element boundary does not fall on a byte. -/
def oldFirst (c : EngCmd) (w : EngWho) (f sc : Nat) (r : VRun) (s : State) : EM (List Byte × State) :=
  if !isBlk f sc && fmtWidth f * r.i0 % 8 != 0 then engRead w (zPlace c r.row (runBytes f sc r).1) 1 s else .ok ([], s)

/-- Results of a run, encoded to FO. -/
def encodeRun (c : EngCmd) (lanes : List Word) (r : VRun) (vs : List (Num × Word)) : RowOut :=
  let fo := fmFO c.fmt; let sc := fmSC c.fmt
  let o := encodeRow c fo sc 129 (r.row * c.count 0 + r.i0) lanes (vs.map (fun v => unscale c 8 fo v.1))
  ⟨((shiftBytes fo sc r.i0 o.bytes).take (zLen fo sc r)), ⟨o.tally.flags ||| vs.foldl (fun a v => a ||| v.2) 0, 0, 0, 0⟩, o.lanes⟩

def vecResults (c : EngCmd) (q : VRun × List Num × List Num × List Num) : List (Num × Word) :=
  (List.range q.1.n).map (fun j =>
    vecOp c.vop (fmRND c.fmt == 3) (q.2.1.getD j Num.zero) (q.2.2.1.getD j Num.zero) (q.2.2.2.getD j Num.zero) (c.scal false) (c.scal true) (q.1.i0 + j))

def elementStep (c : EngCmd) (w : EngWho) (s : State) : EM (EngCmd × State × Tally) := do
  let (ins, s1) ← readAll c w s
  let fo := fmFO c.fmt; let sc := fmSC c.fmt
  let (out, lanes, y, s2) ← ins.foldlM (fun (a : List (EPlace × List Byte) × List Word × Tally × State) q => do
    let o := encodeRun c a.2.1 q.1 (vecResults c q)
    let (old, s2) ← oldFirst c w fo sc q.1 a.2.2.2
    let (last, s3) ← oldLast c w fo sc q.1 s2
    .ok (a.1 ++ [(zPlace c q.1.row (runBytes fo sc q.1).1, mergeLast (cutBits c fo sc q.1) last (mergeFirst fo sc q.1.i0 old o.bytes))], o.lanes, a.2.2.1.add o.tally, s3))
    (([], c.lanes, {}, s1) : List (EPlace × List Byte) × List Word × Tally × State)
  let s3 ← engWrite w out s2
  .ok ({ c with lanes := lanes }, s3, y)

/-! ### Reductions (R206, R270) -/

/-- The state of a reduction: lane results of the row in progress, generators, flags. -/
structure RedSt where
  part : SMap Num
  lanes : List Word
  flags : Word
  deriving DecidableEq, Repr

/-- The format that a sum's combinations round to: FO, or FP32 for TB (log entry 34). -/
def EngCmd.redFmt (c : EngCmd) : Nat := if isTb (fmFO c.fmt) then 0 else fmFO c.fmt

/-- The element a reduction combines. -/
def redTerm (o : Nat) (x y : Num) : Num × Word :=
  if o = 0x1C then numMul x x else if o = 0x1D then numMul x y else (x, 0)

def codeNum (f bits : Nat) : Num := elemRead f false false bits

/-- One combination: a sum rounds once with generator l, a maximum or minimum rounds nothing (R206). -/
def combine (c : EngCmd) (l : Nat) (a b : Num) (lanes : List Word) : Num × Word × List Word :=
  if c.vop = 0x1A then let r := numMinMax true a b; (r.1, r.2, lanes)
  else if c.vop = 0x1B then let r := numMinMax false a b; (r.1, r.2, lanes)
  else
    let r := numAdd (fmRND c.fmt == 3) a b
    let (ws, ls) := laneWords c lanes l 1
    let q := roundTo c.redFmt (c.rnd (ws.headD 0)) r.1
    (codeNum c.redFmt q.bits, r.2 ||| q.flags, ls)

def redIdentity (o : Nat) : Num := if o = 0x1A then .inf true else if o = 0x1B then .inf false else Num.zero

/-- Element j of the row joins its lane. -/
def redPut (c : EngCmd) (j : Nat) (x : Num × Word) (R : RedSt) : RedSt :=
  let l := j % 64
  match R.part.find? (fun p => p.1 == l) with
  | none => { R with part := mput R.part l x.1, flags := R.flags ||| x.2 }
  | some p =>
    let r := combine c l p.2 x.1 R.lanes
    { part := mput R.part l r.1, lanes := r.2.2, flags := R.flags ||| x.2 ||| r.2.1 }

/-- One level of the tree. -/
def redLevel (c : EngCmd) : Nat → List Num → List Word → Word → List Num × List Word × Word
  | i, a :: b :: rest, lanes, fl =>
    let r := combine c i a b lanes
    let q := redLevel c (i + 1) rest r.2.2 (fl ||| r.2.1)
    (r.1 :: q.1, q.2.1, q.2.2)
  | _, vs, lanes, fl => (vs, lanes, fl)

def redTree (c : EngCmd) : Nat → List Num → List Word → Word → Num × List Word × Word
  | 0, vs, lanes, fl => (vs.headD Num.zero, lanes, fl)
  | n + 1, vs, lanes, fl =>
    let q := redLevel c 0 vs lanes fl
    redTree c n q.1 q.2.1 q.2.2

/-- The end of a row: the tree over 64 lanes, and the result in FO as output number `row`; a block format gives one block
padded with zeros (log entry 34). Under a scale mode the combinations of a sum have been rounded to the element format FO, unscaled, and the
result is then scaled and rounded again (log entry 173). -/
def redFinish (c : EngCmd) (row : Nat) (R : RedSt) : RedSt × List Byte :=
  let vs := (List.range 64).map (fun l => mget (redIdentity c.vop) R.part l)
  let (v, lanes, fl) := redTree c 6 vs R.lanes R.flags
  let fo := fmFO c.fmt; let sc := fmSC c.fmt
  let exact := !(c.vop = 0x1A || c.vop = 0x1B) && !isBlk fo sc && !scaled10 fo sc
  if exact then
    let q := roundTo fo ⟨0, stSAT c.st, false, 0⟩ v
    (⟨[], lanes, fl⟩, leBytes (cdiv (fmtWidth fo) 8) q.bits)
  else
    let o := encodeRow c fo sc 2 row lanes (unscale c 8 fo v :: (if isBlk fo sc then List.replicate 31 Num.zero else []))
    (⟨[], o.lanes, fl ||| o.tally.flags⟩, o.bytes)

def redRun (c : EngCmd) (q : VRun × List Num × List Num × List Num) (R : RedSt) : RedSt :=
  (List.range q.1.n).foldl (fun R j => redPut c (q.1.i0 + j) (redTerm c.vop (q.2.1.getD j Num.zero) (q.2.2.1.getD j Num.zero)) R) R

def reduceStep (c : EngCmd) (w : EngWho) (s : State) : EM (EngCmd × State × Tally) := do
  let (ins, s1) ← readAll c w s
  let (R, out) := ins.foldl (fun (a : RedSt × List (EPlace × List Byte)) q =>
    let R := redRun c q a.1
    if q.1.i0 + q.1.n = c.count 0 then
      let f := redFinish c q.1.row R
      (f.1, a.2 ++ [(zPlace c q.1.row 0, f.2)])
    else (R, a.2)) (⟨c.part, c.lanes, 0⟩, [])
  let s2 ← engWrite w out s1
  .ok ({ c with lanes := R.lanes, part := R.part }, s2, ⟨R.flags, 0, 0, 0⟩)

def EngCmd.vsteps (c : EngCmd) : Nat := cdiv c.total 4096
def vectorStep (c : EngCmd) (t : Nat) (s : State) : EM (EngCmd × State × Tally) :=
  if vReduces c.vop then reduceStep c (c.who t 1) s else elementStep c (c.who t 1) s

/-! ### Issue -/

def Slot.vxn (h : Slot) (n : Nat) : Nat := (mget 0 h.vx n).toNat

/-- A stride register holds the sign extension of its low half (R268). -/
def strideBad (v : Nat) : Bool := BitVec.ofInt 64 (sgn 32 v) != BitVec.ofNat 64 v

/-- First stride registers of the operands an operation uses. -/
def vStrides (o : Nat) : List Nat := (if vReadsX o then [16] else []) ++ (if vReadsY o then [20] else []) ++ (if vReadsW o then [24] else []) ++ [28]

/-- Checks 3 of a VOP. -/
def vopIll (h : Slot) (o : Nat) (fmt : Word) : Bool :=
  let fa := fmFA fmt; let fb := fmFB fmt; let fo := fmFO fmt; let sc := fmSC fmt
  let nd := nfld (h.vxn 0) 16 2
  let dims := List.range (nd + 1)
  let x := vReadsX o; let y := vReadsY o
  let blk := (x && isBlk fa sc) || (y && isBlk fb sc) || isBlk fo sc
  let inScaled := (x && scaled10 fa sc) || (y && scaled10 fb sc)
  h.vxn 0 / 2 ^ 18 != 0 || ((h.vxn 0).testBit 15 && (h.vxn 6).testBit 63) ||
  (y && h.vxn 2 / 2 ^ 32 != 0) || (vReadsW o && h.vxn 3 / 2 ^ 32 != 0) ||
  dims.any (fun j => h.vxn (9 + j) == 0 || 2 ^ 24 < h.vxn (9 + j)) ||
  (vStrides o).any (fun b => (List.range nd).any (fun j => strideBad (h.vxn (b + j + 1)))) ||
  (x && fmtBad fa sc) || (y && fmtBad fb sc) || fmtBad fo sc || sc == 3 || (blk && h.vxn 9 % 32 != 0) ||
  (inScaled && tensorBad (h.vxn 7)) || (scaled10 fo sc && tensorBad (h.vxn 8))

/-- Extent of an operand: its lowest and highest byte over every row (R11). -/
def vExtent (c : EngCmd) (write : Bool) (sn base b len : Nat) : Extent :=
  let span (j : Nat) : Int := if j ≤ c.ndm1 then sgn 64 (c.reg (b + j)) * ((c.count j : Int) - 1) else 0
  let lo (x : Int) : Int := min x 0
  let hi (x : Int) : Int := max x 0
  ⟨write, false, sn, (base : Int) + lo (span 1) + lo (span 2) + lo (span 3), (base : Int) + hi (span 1) + hi (span 2) + hi (span 3) + len⟩

/-- Alignment of an operand's offset and strides (R259). -/
def vAligned (c : EngCmd) (f base b : Nat) (s : State) : M Unit := do
  alignedTo (fmtAlign f) base s
  (List.range c.ndm1).forM (fun j => alignedTo (fmtAlign f) (c.reg (b + j + 1) % 2 ^ 32) s)

/-- Estimate of a VOP (R278). -/
def vopEnergy (o total : Nat) : Nat := cdiv total 16 * (if 0x10 ≤ o ∧ o ≤ 0x15 then 4 else 1)

/-- The extents of a VOP. -/
def EngCmd.vextX (c : EngCmd) : Extent := vExtent c false (c.vctl 0 3) c.a.toNat 16 (rowBytes (fmFA c.fmt) (fmSC c.fmt) (c.count 0))
def EngCmd.vextY (c : EngCmd) : Extent := vExtent c false (c.vctl 3 3) (c.reg 2) 20 (rowBytes (fmFB c.fmt) (fmSC c.fmt) (c.count 0))
def EngCmd.vextW (c : EngCmd) : Extent := vExtent c false (c.vctl 6 3) (c.reg 3) 24 (rowBytes (fmFA c.fmt) (fmSC c.fmt) (c.count 0))
def EngCmd.vextZ (c : EngCmd) : Extent := vExtent c true (c.vctl 9 3) c.b.toNat 28 (rowBytes (fmFO c.fmt) (fmSC c.fmt) (if vReduces c.vop then 1 else c.count 0))
def EngCmd.vexts (c : EngCmd) : List Extent :=
  (if vReadsX c.vop then [c.vextX] else []) ++ (if vReadsY c.vop then [c.vextY] else []) ++ (if vReadsW c.vop then [c.vextW] else []) ++ [c.vextZ]

/-- Orders 4 to 6 of R252 for a VOP. -/
def vecChecks (c : EngCmd) (s : State) : M Unit := do
  let cw := (c.reg 0).testBit 15
  extentsSeg c.vexts s
  cwSeg cw (c.vctl 12 3) (c.reg 5 % 2 ^ 32) s
  checkIf (vReadsX c.vop) (vAligned c (fmFA c.fmt) c.a.toNat 16 s)
  checkIf (vReadsY c.vop) (vAligned c (fmFB c.fmt) (c.reg 2) 20 s)
  checkIf (vReadsW c.vop) (vAligned c (fmFA c.fmt) (c.reg 3) 24 s)
  vAligned c (fmFO c.fmt) c.b.toNat 28 s
  cwAligned cw (c.reg 5 % 2 ^ 32) s
  extentsRange 3 c.vexts s

def vecCmd (i : Instr) (o : Nat) (srcs : List Src) (a b : Src) (s : State) : M State := do
  cmdEnter i true s
  let x ← if srcs.contains a then readSrc i srcs a.r s else .ok 0
  let z ← readSrc i srcs b.r s
  let fmt ← cmdFmt i (mget 0 s.th.vx 1) s
  illWord i (vopIll s.th o fmt) s
  let c := s.newCmd (256 + o) x z fmt s.th.vx 0 []
  vecChecks c s
  admitCmd 1 srcs { c with energy := vopEnergy o c.total, wext := c.vextZ.wext s.th } s

def execVcvt (a b : Src) (s : State) : Out := finish (vecCmd (.vcvt a b) 0x00 [a, b] a b s)
def execVadd (a b : Src) (s : State) : Out := finish (vecCmd (.vadd a b) 0x01 [a, b] a b s)
def execVsub (a b : Src) (s : State) : Out := finish (vecCmd (.vsub a b) 0x02 [a, b] a b s)
def execVmul (a b : Src) (s : State) : Out := finish (vecCmd (.vmul a b) 0x03 [a, b] a b s)
def execVdiv (a b : Src) (s : State) : Out := finish (vecCmd (.vdiv a b) 0x04 [a, b] a b s)
def execVmin (a b : Src) (s : State) : Out := finish (vecCmd (.vmin a b) 0x05 [a, b] a b s)
def execVmax (a b : Src) (s : State) : Out := finish (vecCmd (.vmax a b) 0x06 [a, b] a b s)
def execVfma (a b : Src) (s : State) : Out := finish (vecCmd (.vfma a b) 0x07 [a, b] a b s)
def execVfms (a b : Src) (s : State) : Out := finish (vecCmd (.vfms a b) 0x08 [a, b] a b s)
def execVadds (a b : Src) (s : State) : Out := finish (vecCmd (.vadds a b) 0x09 [a, b] a b s)
def execVmuls (a b : Src) (s : State) : Out := finish (vecCmd (.vmuls a b) 0x0A [a, b] a b s)
def execVfmas (a b : Src) (s : State) : Out := finish (vecCmd (.vfmas a b) 0x0B [a, b] a b s)
def execVabs (a b : Src) (s : State) : Out := finish (vecCmd (.vabs a b) 0x0C [a, b] a b s)
def execVneg (a b : Src) (s : State) : Out := finish (vecCmd (.vneg a b) 0x0D [a, b] a b s)
def execVrelu (a b : Src) (s : State) : Out := finish (vecCmd (.vrelu a b) 0x0E [a, b] a b s)
def execVclamp (a b : Src) (s : State) : Out := finish (vecCmd (.vclamp a b) 0x0F [a, b] a b s)
def execVexp2 (a b : Src) (s : State) : Out := finish (vecCmd (.vexp2 a b) 0x10 [a, b] a b s)
def execVlog2 (a b : Src) (s : State) : Out := finish (vecCmd (.vlog2 a b) 0x11 [a, b] a b s)
def execVrcp (a b : Src) (s : State) : Out := finish (vecCmd (.vrcp a b) 0x12 [a, b] a b s)
def execVrsq (a b : Src) (s : State) : Out := finish (vecCmd (.vrsq a b) 0x13 [a, b] a b s)
def execVsqrt (a b : Src) (s : State) : Out := finish (vecCmd (.vsqrt a b) 0x14 [a, b] a b s)
def execVtanh (a b : Src) (s : State) : Out := finish (vecCmd (.vtanh a b) 0x15 [a, b] a b s)
def execVcmplt (a b : Src) (s : State) : Out := finish (vecCmd (.vcmplt a b) 0x16 [a, b] a b s)
def execVcmpeq (a b : Src) (s : State) : Out := finish (vecCmd (.vcmpeq a b) 0x17 [a, b] a b s)
def execVsel (a b : Src) (s : State) : Out := finish (vecCmd (.vsel a b) 0x18 [a, b] a b s)
def execVrsum (a b : Src) (s : State) : Out := finish (vecCmd (.vrsum a b) 0x19 [a, b] a b s)
def execVrmax (a b : Src) (s : State) : Out := finish (vecCmd (.vrmax a b) 0x1A [a, b] a b s)
def execVrmin (a b : Src) (s : State) : Out := finish (vecCmd (.vrmin a b) 0x1B [a, b] a b s)
def execVrsumsq (a b : Src) (s : State) : Out := finish (vecCmd (.vrsumsq a b) 0x1C [a, b] a b s)
def execVdot (a b : Src) (s : State) : Out := finish (vecCmd (.vdot a b) 0x1D [a, b] a b s)
def execVfill (b : Src) (s : State) : Out := finish (vecCmd (.vfill b) 0x1E [b] ⟨0, 3⟩ b s)
def execViota (b : Src) (s : State) : Out := finish (vecCmd (.viota b) 0x1F [b] ⟨0, 3⟩ b s)

end Sys2Proof.Machine
end

