-- ==== Sys2Proof/Machine/Command.lean ====
section
/-! DEFINITION. What runs engine commands after their issue: steps (R276, R277), ends and arrivals (R254, R263), queue control
(R275), tile tasks (R266, R267), and power, clock and heat (R278, R345, R362). -/

namespace Sys2Proof.Machine
open Sys2Proof

/-! ### Ends (R254, R263) -/

def EngCmd.steps (c : EngCmd) (e : Nat) : Nat := if e = 0 then c.msteps else c.vsteps

/-- Has command i of a queue nothing left to do but end? -/
def EngCmd.over (c : EngCmd) (e i : Nat) : Bool :=
  c.op != opSHARE && c.stopped == 0 && (c.err != 0 || (i == 0 && decide (c.steps e ≤ c.step)))

/-- The completion word of a command: enable, place, value. -/
def EngCmd.cw (c : EngCmd) (e : Nat) : Bool × EPlace × Nat :=
  if e = 0 then ((c.reg 0).testBit 3, opPlace false (c.seg (c.mctl 16 3)) ((c.reg 10 % 2 ^ 32 : Nat) : Int), c.reg 11)
  else ((c.reg 0).testBit 15, opPlace false (c.seg (nfld (c.reg 0) 12 3)) ((c.reg 5 % 2 ^ 32 : Nat) : Int), c.reg 6)

/-- Does a message that die vd sends find its way through the package (R129)? The first argument bounds the dies on the way. -/
def State.routed (s : State) : Nat → Nat → Msg → Bool
  | 0, _, _ => false
  | n + 1, vd, m => match s.way vd false m with
    | .here => true
    | .lost _ => false
    | .link key => 512 ≤ key || (match sluicePeer (key / 32) (key % 32 / 8) with
      | some (v, _) => s.routed n v m
      | none => false)

/-- The group record of an MMAG, translated through the lead's port when its arrivals are due. Its manager cannot be reached where the way
of a member's arrival ends at some die (R394). -/
def gangRecord (c : EngCmd) (t : Nat) (s : State) : EM (Nat × State) :=
  let la := (c.seg (c.mctl 19 3)).base.toNat + c.reg 13 % 2 ^ 32
  do
    let (r, s1) ← engTranslate (c.who t 0) la 5 5 s
    let lost := !s1.routed 12 (vdOf t) { Msg.zero with src := s1.tileEid t, dst := (s1.homeOf (vdOf t) r.1).1 }
    if !s1.decodes (vdOf t) r.1 then engBadpa la r.2 5 s1
    else if spaceOf r.1 != 0 || lost then .error (.err eRECORD, s1)
    else .ok (r.1, s1)

/-- What an ended MMAG has to send: its arrivals, and whether a named thread is no member. -/
def gangEnd (c : EngCmd) (t : Nat) (s : State) : EM (List Msg × Bool × State) :=
  if c.op != opMMAG || c.err != 0 then .ok ([], false, s) else do
    let (pa, s1) ← gangRecord c t s
    let ins := c.members.filter (fun m => ((s1.slot m.1 m.2).member pa).isSome)
    let msg (m : Nat × Nat) : Msg := { s1.mgrMsg m.1 m.2 pa 65535 with aux0 := BitVec.ofNat 64 (s1.ctxName m.1 m.2) }
    .ok (ins.map msg, decide (ins.length < c.members.length), s1)

/-- The posts of an ended command: its completion word, and the arrivals of an MMAG. -/
def endPosts (c : EngCmd) (t e : Nat) (s : State) : EM (Nat × State) := do
  let (ms, missing, s1) ← gangEnd c t s
  let err := if c.err != 0 then c.err else if missing then eNOTMEMBER else 0
  let w := c.cw e
  let s2 ← engPost (c.who t e) w.1 w.2.1 w.2.2 (err != 0) s1
  .ok (err, ms.foldl (fun s m => s.engineArrival m) s2)

/-- Look at a cluster's task queue again. -/
def State.pokeTasks (s : State) (t : Nat) : State :=
  if (s.die (vdOf t)).tasks.any (fun q => q.1 == clusterOf t) then s.emitOnce (evTK .taskRecordStart (vdOf t) (clusterOf t)) else s

/-- Take an ended command out of its queues, and let what waited for it go on. -/
def State.dropCmd (s : State) (t e i : Nat) (c : EngCmd) : State :=
  let s1 := s.modTile t (fun T => T.setEngq e ((T.engq e).eraseIdx i))
  let s2 := c.members.foldl (fun s m =>
    let s1 := s.modTile m.1 (fun T => { T with mq := dropFirst (fun x => x.op == opSHARE && x.ctx == c.ctx && x.members == [(t, c.slot)]) T.mq })
    if m.1 = t then s1 else (((s1.kick m.1 0).engFreed m.1).pokeTasks m.1)) s1
  let s3 := if c.leave then s2.giveLeave (vdOf t) c.energy else s2
  let s4 := (s3.kick t e).pokeTasks t
  if c.op = opTASK then s4.cmdGone (ctxTile c.ctx) (ctxSlot c.ctx) else s4.cmdGone t c.slot

/-- A post of a tile task that cannot be made is dropped and recorded. -/
def State.taskLost (s : State) (t : Nat) (c : Nat) : State := s.logError (vdOf t) 23 false cFAULT 0 c

def engineCommandEnd (s : State) : State :=
  let t := s.arg.t; let e := s.arg.k
  let q := (s.tile t).engq e
  match ((List.range q.length).zip q).find? (fun p => p.2.over e p.1) with
  | none => s
  | some (i, c) =>
    let again (s : State) : State := s.emitOnce (evTK .engineCommandEnd t e)
    let fin (s : State) (err : Nat) : State :=
      let s1 := if err = 0 then s else match s.cmdOwner t c with
        | some o => s.modSlot o.1 o.2 (fun h => { h with qx := mset 0 h.qx 0 (qerr e err) })
        | none => s
      let s2 := s1.dropCmd t e i c
      let q2 := (s2.tile t).engq e
      if ((List.range q2.length).zip q2).any (fun p => p.2.over e p.1) then again s2 else s2
    if (c.who t e).busy s then s else
    match endPosts c t e s with
    | .ok (err, s1) => fin s1 err
    | .error (.err cz, s1) =>
      if c.op = opTASK then fin (s1.taskLost t c.ctx) (if c.err = 0 then eFAULT else c.err)
      else if c.err = 0 then again (s1.modCmd t e i (fun c => { c with err := cz }))
      else s1.after (vdOf t) 64 (evTK .engineCommandEnd t e)
    | .error (.fault la cause lvl entry reason kind, s1) =>
      if c.op = opTASK then fin (s1.taskLost t c.ctx) (if c.err = 0 then eFAULT else c.err)
      else s1.stopCmd t e i c (evTK .engineCommandEnd t e) (.fault la cause lvl entry reason kind)
    | .error (st, s1) => s1.stopCmd t e i c (evTK .engineCommandEnd t e) st
def execEngineCommandEnd (s : State) : Out := .next (engineCommandEnd s)

/-! ### Steps (R276, R277) -/

/-- Does the share of an MMAG head every member's queue (R263)? -/
def State.gangReady (s : State) (t : Nat) (c : EngCmd) : Bool :=
  c.op != opMMAG || c.members.all (fun m => m.1 == t || (match (s.tile m.1).mq with
    | x :: _ => x.op == opSHARE && x.ctx == c.ctx && x.members == [(t, c.slot)]
    | [] => false))

/-- A command that goes on, and its shares, ask no more for power. -/
def State.unask (s : State) (t e : Nat) (c : EngCmd) : State :=
  let s1 := s.modCmd t e 0 (fun c => { c with ask := false })
  if c.op = opMMAG then c.members.foldl (fun s m => if m.1 = t then s else s.modCmd m.1 0 0 (fun c => { c with ask := false })) s1 else s1

/-- A bank left undefined takes free values. -/
def State.scrambleBank (s : State) (t bank : Nat) : State :=
  let n := s.freeCtr
  { s.modTile t (fun T => { T with acc := (List.range 4096).foldl (fun m i => mset 0 m (bank * 4096 + i) (Config.freeWord (n + i))) T.acc }) with freeCtr := n + 4096 }

/-- A checksum mismatch (R277): the step is replayed once; a second one ends the command. -/
def State.mismatch (s : State) (t e : Nat) (c : EngCmd) : State :=
  let bank := 4 + quadrant t
  if !c.replayed then
    ((s.logError (vdOf t) bank false cCHECKSUM 0 c.ctx).modCmd t e 0 (fun c => { c with replayed := true })).emit (evTK .engineStep t e)
  else
    let s1 := s.logError (vdOf t) bank true cCHECKSUM 0 c.ctx
    let tiles := if c.op = opMMAG then c.members.map (·.1) else [t]
    let s2 := tiles.foldl (fun s u => s.scrambleBank u c.bank) s1
    let s3 := if c.op = opTASK then s2 else match s2.cmdOwner t c with
      | some o => s2.modSlot o.1 o.2 (fun h => { h with pendMchk := some 3 })
      | none => s2
    (s3.modCmd t e 0 (fun c => { c with err := eCHECKSUM })).emitOnce (evTK .engineCommandEnd t e)

/-- A sequencer step of the matrix (0) or vector (1) engine of tile t. `ok` false: its checksum lanes mismatched. -/
def cmdStep (t e : Nat) (ok : Bool) (s : State) : State :=
  match (s.tile t).engq e with
  | [] => s
  | c :: _ =>
    let fin : State := s.emitOnce (evTK .engineCommandEnd t e)
    if (s.die (vdOf t)).stopped || c.stopped != 0 || (s.slot t c.slot).frozen then s
    else if c.op = opSHARE then s.kick t e
    else if c.err != 0 || c.steps e ≤ c.step then fin
    else if c.cancelled then (s.modCmd t e 0 (fun c => { c with err := eCANCEL })).emitOnce (evTK .engineCommandEnd t e)
    else if !s.gangReady t c then s
    else if c.ask && !c.leave && s.needsLeave t c.energy then s.askPower t (8 + e) c.energy
    else
      let s0 := s.unask t e c
      if !ok && c.checked then s0.mismatch t e c
      else match (if e = 0 then matrixStep c t s0 else vectorStep c t s0) with
        | .error (st, s1) => s1.stopCmd t e 0 c (evTK .engineStep t e) st
        | .ok (c1, s1, y) =>
          let c2 := { c1 with step := c.step + 1, replayed := false, ask := false, done := decide (c.steps e ≤ c.step + 1) }
          let s2 := (s1.tally t c y).modCmd t e 0 (fun _ => c2)
          s2.emitOnce (evTK (if c2.steps e ≤ c2.step then .engineCommandEnd else .engineStep) t e)

/-! ### QSYNC and QCANCEL (R275) -/

/-- Commands of slot k that QSYNC with this mask waits for. Records that MQPUT queued are in no engine's queue (log entry 177). -/
def State.syncWaits (s : State) (t k mask : Nat) : Bool :=
  let T := s.tile t
  let mine (q : List EngCmd) : Bool := q.any (fun c => c.slot == k && c.op != opSHARE)
  let lad (ch : Nat) : Bool := let L := mget {} T.ladles ch; (L.active.toList ++ L.waiting).any (fun c => c.slot == k)
  (mask.testBit 0 && mine T.mq) || (mask.testBit 1 && mine T.vq) || (mask.testBit 2 && lad 0) || (mask.testBit 3 && lad 1)

/-- QSYNC's other effect: bit 4 clears qx0.V. -/
def State.syncClear (s : State) (t k mask : Nat) : State :=
  if mask.testBit 4 then s.modSlot t k (fun h => { h with qx := mset 0 h.qx 0 (mget 0 h.qx 0 &&& ~~~8#64) }) else s

def qsync (i : Instr) (a : Src) (s : State) : M State := do
  cmdEnter i false s
  let x ← readSrc i [a] a.r s
  illWord i (wfld x 5 27 != 0) s
  if s.th.shadow.isSome then defer false [a] (.qsync x.toNat) s
  else if s.syncWaits s.cur.1 s.cur.2 x.toNat then .error (s.block .fence)
  else .ok (commitNow ((consume [a] s).syncClear s.cur.1 s.cur.2 x.toNat))
def execQsync (a : Src) (s : State) : Out := finish (qsync (.qsync a) a s)

/-- Every command of the slot in a queue ends with CANCEL; a running one has reached a step boundary. -/
def State.cancelQueue (s : State) (t k e : Nat) : State :=
  let mine (c : EngCmd) : Bool := c.slot == k && c.op != opSHARE && c.op != opTASK && c.err == 0
  if ((s.tile t).engq e).any mine then
    (s.modTile t (fun T => T.setEngq e (updWhere mine (fun c => { c with err := eCANCEL, cancelled := true, stopped := 0 }) (T.engq e)))).emitOnce (evTK .engineCommandEnd t e)
  else s

def State.cancelQueues (s : State) (t k mask : Nat) : State :=
  let s1 := if mask.testBit 0 then s.cancelQueue t k 0 else s
  if mask.testBit 1 then s1.cancelQueue t k 1 else s1

def qcancel (i : Instr) (a : Src) (s : State) : M State := do
  cmdEnter i false s
  let x ← readSrc i [a] a.r s
  illWord i (wfld x 2 30 != 0) s
  submit false [a] (.qcancel x.toNat) (fun s => some (s.cancelQueues s.cur.1 s.cur.2 x.toNat)) s
def execQcancel (a : Src) (s : State) : Out := finish (qcancel (.qcancel a) a s)

/-! ### Tile tasks (R266, R267) -/

def TaskRec.fld (r : TaskRec) (lo n : Nat) : Nat := nfld (leNat r.bytes) lo n
def TaskRec.dla (r : TaskRec) (d : Nat) : Nat := if d = 0 then r.fld 288 48 else r.fld 336 48
def TaskRec.dt (r : TaskRec) (d : Nat) : Nat := if d = 0 then r.fld 384 32 else r.fld 416 32
def TaskRec.k (r : TaskRec) : Nat := r.fld 240 17
def TaskRec.rows (r : TaskRec) : Nat := r.fld 257 6 + 1
def TaskRec.cols (r : TaskRec) : Nat := r.fld 263 6 + 1

/-- A reserved format, RND, SC or K; formats, blocks and alignments that MMA and MSTORE forbid (R201, R260-R264, log entry 35). -/
def TaskRec.malformed (r : TaskRec) : Bool :=
  let fa := r.fld 269 4; let fb := r.fld 273 4; let fo := r.fld 277 4; let sc := r.fld 284 2
  5 < r.fld 281 3 || 1 < sc || r.fld 286 2 != 0 || fmtBad fa sc || fmtBad fb sc || fmtBad fo sc || fa == 0 || fb == 0 ||
  r.k == 0 || 65536 < r.k || ((isBlk fa sc || isBlk fb sc) && r.k % 32 != 0) || (isBlk fo sc && r.cols % 32 != 0) ||
  r.fld 0 48 % fmtAlign fa != 0 || r.fld 48 48 % fmtAlign fb != 0 || r.fld 96 48 % fmtAlign fo != 0 ||
  r.fld 144 32 % fmtAlign fa != 0 || r.fld 176 32 % fmtAlign fb != 0 || r.fld 208 32 % fmtAlign fo != 0 ||
  r.fld 448 48 % 8 != 0 || r.dla 0 % 8 != 0 || r.dla 1 % 8 != 0

/-- Lowest tile of a cluster; its port serves the cluster's scheduler. -/
def clusterBase (vd cl : Nat) : Nat := vd * 256 + cl / 8 * 32 + cl % 8 * 2
def isClusterBase (t : Nat) : Bool := t == clusterBase (vdOf t) (clusterOf t)

/-- First tag of the scheduler's watches; a record's two follow its number. -/
def taskTag : Nat := 16384

def State.taskMod (s : State) (vd cl id : Nat) (f : TaskRec → TaskRec) : State :=
  s.modDie vd (fun D => { D with tasks := D.tasks.map (fun q => if q.1 = cl ∧ q.2.id = id then (q.1, f q.2) else q) })

/-- Watch a dependence of a record as WAITC does. In `wait`, d is one that is watched, d + 2 one not yet sent, and d + 4 one whose walk waits
for an invalidation with WAKE (R31). -/
def State.taskWatch (s : State) (vd cl : Nat) (r : TaskRec) (d : Nat) : State :=
  let t := clusterBase vd cl
  let la := r.dla d
  let drop (s : State) (cause : Nat) : State := s.taskMod vd cl r.id (fun r => { r with wait := r.wait.filter (· != d + 2), bad := if r.bad = 0 then cause else r.bad })
  match s.translate t r.asid la 1 with
  | (.ok pa _, s1) =>
    if !s1.decodes vd pa || !watchSpace pa then drop s1 eFAULT
    else
      let s2 := s1.taskMod vd cl r.id (fun r => { r with wait := r.wait.map (fun x => if x = d + 2 then d else x) })
      let (dst, memd) := s2.homeOf vd pa
      s2.send .req .watchInstall { Msg.zero with src := s2.tileEid t, dst := dst, asid := r.asid, memd := memd, tag := taskTag + 2 * r.id + d, pa := pa, aux0 := BitVec.ofNat 64 (r.dt d) }
  | (.fault _ _ _ _, s1) => drop s1 eFAULT
  | (.orWait e lvl addr, s1) => (s1.engLeaf { t := t, slot := 8, ctx := r.ctx, asid := r.asid, path := 2, reach := 0 } la 1 e lvl addr).after vd 64 (evTK .taskRecordStart vd cl)
  | (.askWait addr, s1) => (s1.engNode { t := t, slot := 8, ctx := r.ctx, asid := r.asid, path := 2, reach := 0 } la addr).after vd 64 (evTK .taskRecordStart vd cl)
  | (.walkWait, s1) => s1.taskMod vd cl r.id (fun r => { r with wait := r.wait.map (fun x => if x = d + 2 then d + 4 else x) })
  | (.sweepWait, s1) => s1.after vd 64 (evTK .taskRecordStart vd cl)
  | (.poisoned, s1) => drop s1 ePOISON

/-- Every watch not yet sent. -/
def State.taskWatches (s : State) (vd cl : Nat) : State :=
  ((s.die vd).tasks.filter (fun q => q.1 == cl)).foldl (fun s q =>
    q.2.wait.foldl (fun s x => if x = 2 ∨ x = 3 then s.taskWatch vd cl q.2 (x - 2) else s) s) s

/-- Walks of the schedulers that wait for an invalidation with WAKE start again. -/
def State.wakeTasks (s : State) : State :=
  let again (x : Nat) : Nat := if 4 ≤ x then x - 2 else x
  (List.range 4).foldl (fun (s : State) vd =>
    ((s.die vd).tasks.filter (fun q => q.2.wait.any (4 ≤ ·))).foldl (fun (s : State) q => s.emitOnce (evTK .taskRecordStart vd q.1))
      (s.modDie vd (fun D => { D with tasks := D.tasks.map (fun q => (q.1, { q.2 with wait := q.2.wait.map again })) }))) s

/-- A watch of the scheduler is answered: satisfied, refused (again after 1,024 cycles), or in an error. -/
def State.taskWatchrsp (s : State) : State :=
  let m := s.msg; let t := s.dstTile
  let vd := vdOf t; let cl := clusterOf t
  let id := (m.tag - taskTag) / 2; let d := (m.tag - taskTag) % 2
  let st := wfld m.attr 0 2
  if st = 1 then (s.taskMod vd cl id (fun r => { r with wait := r.wait.map (fun x => if x = d then d + 2 else x) })).after vd 1024 (evTK .taskRecordStart vd cl)
  else
    let bad := st = 3 || m.aux0.getLsbD 63
    (s.taskMod vd cl id (fun r => { r with wait := r.wait.filter (· != d), bad := if bad && r.bad = 0 then eRECORD else r.bad })).pokeTasks t

/-- The tile of lowest index that qualifies, and a bank no crew owns (R267). -/
def State.taskTile (s : State) (vd cl : Nat) : Option (Nat × Nat) :=
  ((List.range 4).map (clusterTile (clusterBase vd cl))).findSome? (fun t =>
    let T := s.tile t
    let used := (List.range 8).foldl (fun a k => let h := T.slot k; if h.occ = .thread ∨ h.occ = .reserved then a ||| h.accmask.toNat else a) 0
    let used2 := (s.die vd).crews.foldl (fun a c => if c.tile = t then a ||| c.accmask.toNat else a) used
    if T.mq.isEmpty then ((List.range 4).find? (fun b => !used2.testBit b)).map (fun b => (t, b)) else none)

/-- The command that runs a record: matrix registers and segments made from its fields. -/
def TaskRec.cmd (r : TaskRec) (bank : Nat) (needs : Nat → Bool) : EngCmd :=
  let lin (la : Nat) : Seg := { base := BitVec.ofNat 48 la, limit := 0xFFFFFFFF, r := true, w := true, a := true, k := true }
  let e := mmaEnergy r.rows r.cols r.k (r.fld 269 4) (r.fld 273 4)
  let cw := r.fld 448 48
  let fmt : Word := BitVec.ofNat 32 (r.fld 269 4 + r.fld 273 4 * 2 ^ 4 + r.fld 277 4 * 2 ^ 8 + r.fld 281 3 * 2 ^ 12 + r.fld 284 2 * 2 ^ 15)
  let ctl := bank + 4 + (if cw = 0 then 0 else 8) + 1 * 2 ^ 8 + 2 * 2 ^ 12 + 3 * 2 ^ 16
  let regs : List (Nat × Nat) := [(0, ctl), (2, r.k), (3, r.rows - 1 + (r.cols - 1) * 256), (4, r.fld 144 32), (5, r.fld 176 32), (6, r.fld 208 32), (11, r.fld 496 16)]
  { op := opTASK, slot := 8, crew := r.crew, ctx := r.ctx, a := 0, b := 0, regs := regs.foldl (fun m p => mset 0 m p.1 (BitVec.ofNat 64 p.2)) [], fmt := fmt,
    segs := [(0, lin (r.fld 0 48)), (1, lin (r.fld 48 48)), (2, lin (r.fld 96 48)), (3, lin cw)], st := r.st, asid := r.asid, spbase := 0, spsize := 0, osbase := 0, ossize := 0,
    lanes := if r.fld 281 3 = 5 then laneSeeds r.rngs else [], step := 0, stopped := 0, paused := false, cancelled := false, replayed := false, err := 0,
    energy := e, leave := false, ask := needs e, part := [], members := [], wext := [] }

/-- A record that is not run ends at once: its post, and the issuing slot's qx0. -/
def State.taskEnd (s : State) (vd cl : Nat) (r : TaskRec) (cause : Nat) : State :=
  let t := clusterBase vd cl
  let cw := r.fld 448 48
  let c := r.cmd 0 (fun _ => false)
  let w : EngWho := { t := t, slot := 8, ctx := r.ctx, asid := r.asid, path := 2, reach := 0 }
  let fin (s : State) : State :=
    let s1 := s.modDie vd (fun D => { D with tasks := D.tasks.filter (fun q => !(q.1 == cl && q.2.id == r.id)) })
    let s2 := match s1.cmdOwner t c with
      | some o => s1.modSlot o.1 o.2 (fun h => { h with qx := mset 0 h.qx 0 (qerr 0 cause) })
      | none => s1
    ((s2.cmdGone (ctxTile r.ctx) (ctxSlot r.ctx)).notifyAll (ctxTile r.ctx)).pokeTasks t
  if cw % 8 != 0 then fin (s.taskLost t r.ctx)
  else match engPost w (cw != 0) (.la cw) (r.fld 496 16) true s with
    | .ok s1 => fin s1
    | .error (.err _, s1) => fin (s1.taskLost t r.ctx)
    | .error (.fault .., s1) => fin (s1.taskLost t r.ctx)
    | .error (st, s1) =>
      let ev := evTK .taskRecordStart vd cl
      ((s1.engPause w ev st).unTimer ev).after vd 64 ev

/-- TASK_RECORD_START: t the die, k the cluster. -/
def taskRecordStart (s : State) : State :=
  let vd := s.arg.t; let cl := s.arg.k
  let s1 := s.taskWatches vd cl
  if (s1.die vd).stopped then s1
  else match (s1.die vd).tasks.find? (fun q => q.1 == cl && q.2.wait.isEmpty) with
    | none => s1
    | some (_, r) =>
      if r.bad != 0 then s1.taskEnd vd cl r r.bad
      else if r.malformed then s1.taskEnd vd cl r eRECORD
      else match s1.taskTile vd cl with
        | none => s1
        | some (t, bank) =>
          let s2 := s1.modDie vd (fun D => { D with tasks := D.tasks.filter (fun q => !(q.1 == cl && q.2.id == r.id)) })
          let s3 := (mzeroStep (2 ^ bank) t s2).modTile t (fun T => { T with mq := T.mq ++ [r.cmd bank (s2.needsLeave t)] })
          ((s3.kick t 0).engFreed (ctxTile r.ctx)).pokeTasks t
def execTaskRecordStart (s : State) : Out := .next (taskRecordStart s)

/-- The place of a record or descriptor a command reads before it commits: K is not asked for (log entry 36). Words that an atomic holds are
waited for (R99). -/
def recordPlace (sn off n : Nat) (s : State) : M (List Byte × State) := do
  let g := s.th.seg sn
  if !(g.s && g.r) then .error (s.trap tSEG 1 (BitVec.ofNat 32 off))
  else
    let p ← seg (fun g => g.s && g.r) sn off n s
    alignedTo 64 off s
    match (s.tile s.cur.1).rngCopy s.cur.2 p.at_ n false with
    | .wait => .error (s.park pGUARDWAIT)
    | .violation c => .error (rangeTrap c 0 0 (s.spPa s.cur.1 p.at_) s)
    | _ =>
      bankFree p.at_ n s
      let pa := s.spPa s.cur.1 p.at_
      if s.reserved pa n then .error ((s.block .lock).waitResv pa n (evTK .blockCleared s.cur.1 s.cur.2))
      else
        let s1 := s.readCheck pa n (s.ctxName s.cur.1 s.cur.2)
        if s1.eccBad pa n then .error (s1.trap tMCHK 1 0) else .ok (rdBytes s1.mem pa n, s1)

/-- A record enters the queue of tile t's cluster, if there is a place. -/
def State.taskAccept (s : State) (t k : Nat) (r : TaskRec) : Option State :=
  let vd := vdOf t; let cl := clusterOf t
  if 64 ≤ ((s.die vd).tasks.filter (fun q => q.1 == cl)).length then none
  else
    let used := (s.die vd).tasks.map (fun q => q.2.id)
    let id := ((List.range 4097).find? (fun n => !used.contains n)).getD 0
    let deps := (List.range 2).filter (fun d => r.dla d != 0 && r.dla d % 8 == 0)
    let s1 := s.modSlot t k (fun h => { h with qx := mset 0 h.qx 2 0 })
    some ((s1.modDie vd (fun D => { D with tasks := D.tasks ++ [(cl, { r with id := id, wait := deps.map (· + 2) })] })).pokeTasks t)

def mqput (i : Instr) (a b : Src) (s : State) : M State := do
  cmdEnter i false s
  let x ← readSrc i [a, b] a.r s
  let y ← readSrc i [a, b] b.r s
  illWord i (wfld y 3 29 != 0) s
  let (bs, s) ← recordPlace (wfld y 0 3) x.toNat 64 s
  let h := s.th
  let r : TaskRec := { id := 0, wait := [], bad := 0, ctx := s.ctxName s.cur.1 s.cur.2, crew := h.crewid, asid := h.asid, st := h.st, rngs := h.rngs, bytes := bs }
  submit (r.fld 281 3 = 5) [a, b] (.task r) (fun s => s.taskAccept s.cur.1 s.cur.2 r) s
def execMqput (a b : Src) (s : State) : Out := finish (mqput (.mqput a b) a b s)

/-! ### Power, clock and heat (R278, R345, R362) -/

/-- The head request's leave reaches its thread (k a slot) or its command (k = 8 or 9, the engine). -/
def State.leaveTo (s : State) (t k e : Nat) : State :=
  if k < 8 then (s.modSlot t k (fun h => { h with leave := some e })).wakeIf t k pPOWER
  else
    let q := (s.tile t).engq (k - 8)
    match q.findIdx? (fun c => c.ask && !c.leave && c.energy == e && c.err == 0) with
    | some i => (s.modCmd t (k - 8) i (fun c => { c with leave := true })).kick t (k - 8)
    | none => s.giveLeave (vdOf t) e

/-- POWER_GRANT at die t. -/
def powerGrant (s : State) : State :=
  let vd := s.arg.t
  let D := s.die vd
  match D.powerq with
  | [] => s
  | (t, k, e) :: rest =>
    if (decide (D.pleave.toNat + e ≤ D.pcap.toNat) && decide (D.pwr.toNat < 1000 * D.plimit.toNat)) || D.pleave = 0 then
      let s1 := (s.setDie vd { D with powerq := rest, pleave := D.pleave + BitVec.ofNat 32 e, grants := D.grants + 1 }).leaveTo t k e
      if rest.isEmpty then s1 else s1.emitOnce (evT .powerGrant vd)
    else s
def execPowerGrant (s : State) : Out := .next (powerGrant s)

/-- VF_CLOCK_CHANGE at die t (R345): v the power in mW over the last 1 ms, n the clock the controller would take. -/
def vfClockChange (s : State) : State :=
  let vd := s.arg.t
  let s1 := s.modDie vd (fun D => { D with pwr := BitVec.ofNat 32 s.arg.v })
  let D := s1.die vd
  let free := decide (D.pwr.toNat < 1000 * D.plimit.toNat) && D.powerq.isEmpty
  let s2 := if 4 ≤ vd || dieMhz D < 2000 then s1
    else s1.setMhz vd (if free then max 2000 (min s.arg.n D.vfmax.toNat) else 2000)
  if D.powerq.isEmpty then s2 else s2.emitOnce (evT .powerGrant vd)
def execVfClockChange (s : State) : Out := .next (vfClockChange s)

end Sys2Proof.Machine
end

