-- ==== Sys2Proof/Machine/Ladle.lean ====
section
/-! DEFINITION. The ladles (R44-R50, R271) and the package copy engines (R272). -/

namespace Sys2Proof.Machine
open Sys2Proof

/-! ### A captured descriptor (R44, R46) -/

/-- Causes with which a copy stops, beside those of R254: a failed tag and an index above IDXMAX. -/
def eTAG : Nat := 101
def eGATHERIDX : Nat := 102
/-- LSTAT's number for a cause (R49). A stop that LSTAT has no number for is reported as CANCEL (log entry 38). -/
def ladleCause (e : Nat) : Nat := if e = eTAG then 1 else if e = eGATHERIDX then 2 else if e = eBOUND then 3 else if e = ePOISON then 4 else 5

def Copy.seg (c : Copy) (n : Nat) : Seg := mget {} c.segs n
def Copy.drain (c : Copy) : Bool := (c.reg 0).testBit 0
def Copy.gather (c : Copy) : Bool := (c.reg 0).testBit 1
def Copy.os (c : Copy) : Bool := (c.reg 0).testBit 3
def Copy.sstr (c : Copy) (j : Nat) : Int := sgn 32 (c.reg (32 + j))
def Copy.dstr (c : Copy) (j : Nat) : Int := sgn 32 (c.reg (48 + j))
/-- The iteration byte at which the step that holds byte k starts (R276). -/
def Copy.stepAt (c : Copy) (size : Nat) : Nat := c.k / size * size

/-- i[1], i[2], … of a row. -/
def Copy.coords (c : Copy) (row : Nat) : List Nat :=
  ((List.range (c.ndim - 1)).foldl (fun (a : List Nat × Nat) j => (a.1 ++ [a.2 % c.count (j + 1)], a.2 / c.count (j + 1))) ([], row)).1

/-- Source and destination offsets of a row; x the index of a gathered one. -/
def Copy.offsets (c : Copy) (row : Nat) (x : Option Nat) : Int × Int :=
  let is := c.coords row
  ((List.range is.length).zip is).foldl (fun (a : Int × Int) q =>
    match (if q.1 = 0 then x else none) with
    | some x => (a.1 + x * c.sstr 1, a.2 + q.2 * c.count 0)
    | none => (a.1 + q.2 * c.sstr (q.1 + 1), a.2 + q.2 * c.dstr (q.1 + 1))) (((c.reg 1 % 2 ^ 32 : Nat) : Int), ((c.reg 2 % 2 ^ 32 : Nat) : Int))

def Copy.srcAt (c : Copy) (o : Int) : EPlace := opPlace (c.os && c.drain) (c.seg (c.ctl 8 3)) o
def Copy.dstAt (c : Copy) (o : Int) : EPlace := opPlace (c.os && !c.drain) (c.seg (c.ctl 12 3)) o

/-! ### Moving bytes -/

/-- The index of a gathered row, read once when the row begins (R46). -/
def copyIndex (w : EngWho) (c : Copy) (row : Nat) (s : State) : EM (Copy × State) :=
  if !c.gather || (c.idx.map (·.1)) == some row then .ok (c, s)
  else do
    let (bs, s1) ← engRead w (opPlace false (c.seg (c.ctl 12 3)) ((c.reg 5 % 2 ^ 32 + 4 * (c.coords row).headD 0 : Nat) : Int)) 4 s
    if c.reg 6 % 2 ^ 32 < leNat bs then .error (.err eGATHERIDX, s1) else .ok ({ c with idx := some (row, leNat bs) }, s1)

/-- Source bytes that came from afar for this address, with their status. -/
def EngWho.got (w : EngWho) (s : State) (c : Copy) (pa : Nat) : Option (List Byte × Nat) :=
  match w.unit with
  | some u => s.unitGot u pa
  | none => c.got.bind (fun g => if g.1 = pa then some g.2 else none)

/-- The source's bytes: in the tile's own storage, or as their home sent them. A status above 1 is a refusal with the cause below it. -/
def copySource (w : EngWho) (c : Copy) (p : EPlace) (ps m : Nat) (s : State) : EM (List Byte × State) :=
  if !w.away s ps false then engGet w ps m s
  else match w.got s c ps with
    | none => .error (.fetch ps m p.la0, s)
    | some (bs, st) =>
      if st = 0 then .ok (bs.take m, s)
      else if 2 ≤ st ∧ st ≤ 6 then .error (engRefused w (st - 1) p ps true s)
      else .error (.err ePOISON, if st = 1 then s else s.logError (vdOf w.t) 20 true (if st = 16 then cUNREACH else cBADPA) ps w.ctx)

/-- The running tags of a fill (R48): of the agent that sent the bytes, over them and over what is read back from the local store. -/
def Copy.tagged (c : Copy) (agent : Nat) (sent back : List Byte) : Copy :=
  if c.drain then c
  else { c with sent := mset 0xFFFFFFFF c.sent agent (crc32cGo (mget 0xFFFFFFFF c.sent agent) sent),
                back := mset 0xFFFFFFFF c.back agent (crc32cGo (mget 0xFFFFFFFF c.back agent) back) }

/-- The next unit of a copy from iteration byte k on: at most n bytes, of one row and of one line on either side, and no more than a
destination that overlaps its source lies ahead of it, so that later bytes read what earlier ones wrote (R46). The run of a fill carries
the CRC-32C tag of the bytes its agent read; `d` damages them on the way, and a tag that does not match is told (R48). Answers the
bytes moved. `w0.k` is 1 for a segment that is sent again (R48). -/
def copyUnit (w0 : EngWho) (c : Copy) (d : List Byte) (k n : Nat) (s : State) : EM ((Nat × Copy) × State) := do
  let w := { w0 with k := 2 * (k / 256) + w0.k }
  let i := k % c.count 0
  let o := c.offsets (k / c.count 0) (if c.gather then c.idx.map (·.2) else none)
  let src := c.srcAt (o.1 + i)
  let dst := c.dstAt (o.2 + i)
  let m := min (min n (c.count 0 - i)) (min (256 - src.addr % 256) (256 - dst.addr % 256))
  let (ps, s1) ← engGate w false src m s
  let (bs, s2) ← copySource w c src ps m s1
  let arrived := damaged d bs
  if !d.isEmpty && crc32c arrived != crc32c bs then .error (.err eTAG, s2)
  else
    let (pd, s3) ← engGate w true dst arrived.length s2
    let out := if ps < pd ∧ pd < ps + m then arrived.take (pd - ps) else arrived
    let s4 := s3.engPut w pd dst.la0 out
    .ok ((out.length, if w.path = 1 then c.tagged (s.homeOf (vdOf w.t) ps).1 (bs.take out.length) (rdBytes s4.mem pd out.length) else c), s4)

/-- What a run of units did: the bytes moved, and what stopped it. -/
structure CopyRun where
  moved : Nat
  stop : Option EStop
  c : Copy
  s : State

/-- Move n iteration bytes from k on, in iteration order (R46); the first argument bounds the units. What moved before a stop stays. -/
def copyMove (w : EngWho) : Nat → Copy → List Byte → Nat → Nat → State → CopyRun
  | 0, c, _, _, _, s => ⟨0, none, c, s⟩
  | f + 1, c, d, k, n, s =>
    if n = 0 then ⟨0, none, c, s⟩
    else match copyIndex w c (k / c.count 0) s with
      | .error (st, s1) => ⟨0, some st, c, s1⟩
      | .ok (c1, s1) => match copyUnit w c1 d k n s1 with
        | .error (st, s2) => ⟨0, some st, c1, s2⟩
        | .ok ((m, c2), s2) =>
          let r := copyMove w f c2 [] (k + m) (n - m) s2
          { r with moved := m + r.moved }

/-! ### Ladle channels -/

def Tile.ladle (T : Tile) (ch : Nat) : Ladle := mget {} T.ladles ch
def State.modLadle (s : State) (t ch : Nat) (f : Ladle → Ladle) : State :=
  s.modTile t (fun T => { T with ladles := mset {} T.ladles ch (f (T.ladle ch)) })
def Copy.who (c : Copy) (t ch : Nat) : EngWho := { t := t, slot := c.slot, ctx := c.ctx, asid := c.asid, path := 1, reach := 1, ch := ch }
def segEvent (t ch : Nat) : Ev := evTK .ladleSegmentCheck t ch

/-- The channel starts its next accepted copy (R46), and a waiting place is free (R45). -/
def ladleCopyStart (s : State) : State :=
  let t := s.arg.t; let ch := s.arg.k
  let L := (s.tile t).ladle ch
  match L.active, L.waiting with
  | none, c :: rest =>
    ((s.modLadle t ch (fun L => { L with active := some c, waiting := rest, bytes := BitVec.ofNat 32 c.bytes, seq := c.seq, done := false, err := false, retried := false })).emit (segEvent t ch)).engFreed t
  | _, _ => s
def execLadleCopyStart (s : State) : Out := .next (ladleCopyStart s)

/-- Where a copy that stopped goes on: at the start of its step, every byte of which it writes again (R46, R109, log entry 152). A post that
stopped is the only thing left (R392), of a copy that ended early too. -/
def Copy.resumeAt (c : Copy) (size : Nat) : Nat := if c.total ≤ c.k || c.err != 0 then c.k else c.stepAt size

/-- The active copy stops within a step, or waits (R28, R46). -/
def State.stopLadle (s : State) (t ch : Nat) (c : Copy) (st : EStop) : State :=
  let lay (s : State) (r : Nat) : State := (s.modLadle t ch (fun L => { L with active := some { c with k := c.resumeAt 4096, stopped := r } })).notify t c.slot
  match st with
  | .fault la cause lvl entry reason kind => (lay s reason).sendFrec t (ctxSlot c.ctx) la c.asid lvl cause 1 kind entry
  | .wait r => lay s r
  | .err e => (s.modLadle t ch (fun L => { L with active := some { c with err := e } })).emitOnce (evTK .ladleCopyEnd t ch)
  | st => s.engPause (c.who t ch) (segEvent t ch) st

/-- A segment of a drain is sent once more from the local store (R48). -/
def ladleResend (t ch : Nat) (c : Copy) (k : Nat) (rest : List Nat) (s : State) : State :=
  let n := min (256 - k % 256) (c.total - k)
  let r := copyMove { c.who t ch with k := 1 } (n + 1) c [] k n s
  let c1 := { r.c with again := if r.moved = n then rest else (k + r.moved) :: rest, got := if r.moved = 0 then r.c.got else none }
  let s1 := r.s.modLadle t ch (fun L => { L with active := some c1 })
  match r.stop with
  | some st => s1.stopLadle t ch c1 st
  | none => s1.emitOnce (segEvent t ch)

/-- Some bytes of a 256-byte segment, how many is left open (R49): read, checked and written; `bytes` of the event: how the source's bytes
were damaged on the way. A recall stops the copy between two steps of 4 KiB (R108, R276). A segment whose tag fails is read again once from its start (R47, R48). BYTES is kept modulo 2^32 (log entry 153). -/
def ladleSegmentCheck (s : State) : State :=
  let t := s.arg.t; let ch := s.arg.k
  let L := (s.tile t).ladle ch
  match L.active with
  | none => s
  | some c =>
    if (s.die (vdOf t)).stopped || c.stopped != 0 || ((s.slot t c.slot).frozen && c.k % 4096 == 0 && c.again.isEmpty) then s
    else if c.err != 0 then s.emitOnce (evTK .ladleCopyEnd t ch)
    else match c.again with
    | k :: rest => ladleResend t ch c k rest s
    | [] =>
      if c.total ≤ c.k then s.emitOnce (evTK .ladleCopyEnd t ch)
      else
        let left := min (256 - c.k % 256) (c.total - c.k)
        let (f, s0) := s.freshWord
        let n := 1 + f.toNat % left
        let r := copyMove (c.who t ch) (n + 1) c (if c.drain then [] else s.arg.bytes) c.k n s0
        let k1 := c.k + r.moved
        let c1 := { r.c with k := k1, bytes := max c.bytes (k1 / 256 * 256), got := if r.moved = 0 then r.c.got else none }
        if r.stop = some (.err eTAG) && !L.retried then
          (r.s.modLadle t ch (fun L => { L with active := some { c1 with k := k1 / 256 * 256, got := none }, retried := true })).emitOnce (segEvent t ch)
        else
          let s1 := r.s.modLadle t ch (fun L => { L with active := some c1, bytes := BitVec.ofNat 32 c1.bytes, retried := L.retried && k1 / 256 == c.k / 256 })
          match r.stop with
          | some st => s1.stopLadle t ch c1 st
          | none => s1.emitOnce (if c1.total ≤ c1.k then evTK .ladleCopyEnd t ch else segEvent t ch)
def execLadleSegmentCheck (s : State) : Out := .next (ladleSegmentCheck s)

/-- How a copy ends: its own cause, or TAG where the copy tags of some agent differ (R48); `ok` false: bytes read back were damaged. -/
def Copy.ending (c : Copy) (ok : Bool) : Nat := if c.err != 0 then c.err else if !c.drain && (!ok || c.sent != c.back) then eTAG else 0

/-- A copy finishes, stops or is cancelled (R47-R50), once all its writes are performed. -/
def ladleCopyEnd (s : State) : State :=
  let t := s.arg.t; let ch := s.arg.k
  match ((s.tile t).ladle ch).active with
  | none => s
  | some c =>
    let err := c.ending s.arg.ok
    let c1 := { c with err := err }
    if c.stopped != 0 || (err = 0 && (c.k < c.total || !c.again.isEmpty)) then s
    else if s.remoteBusy t c.slot 1 ch then s.modLadle t ch (fun L => { L with active := some c1 })
    else
      match engPost (c.who t ch) c.cwen (opPlace false (c.seg (c.ctl 16 3)) ((c.reg 3 % 2 ^ 32 : Nat) : Int)) (c.reg 4) (err != 0) s with
      | .error (.err e, s1) =>
        (s1.modLadle t ch (fun L => { L with active := some { c1 with err := if err = 0 then e else err } })).after (vdOf t) 64 (evTK .ladleCopyEnd t ch)
      | .error (st, s1) => s1.stopLadle t ch c1 st
      | .ok s1 =>
        let s2 := s1.modLadle t ch (fun L => { L with
          active := none, done := true, err := err != 0, cause := if err = 0 then L.cause else ladleCause err,
          bytes := BitVec.ofNat 32 (if err = 0 || c.total ≤ c.k then c.total else if err = eTAG then c.bytes else max c.bytes c.k) })
        (s2.emit (evTK .ladleCopyStart t ch)).cmdGone t c.slot
def execLadleCopyEnd (s : State) : Out := .next (ladleCopyEnd s)

/-! ### Issue (R45, R271) -/

/-- The captured set of the issuing slot. -/
def captureSet (b : Nat) (h : Slot) : SMap DWord := (List.range 64).foldl (fun m i => mset 0 m i (mget 0 h.lx (b + i))) []

def notSext (v : Nat) : Bool := BitVec.ofInt 64 (sgn 32 v) != BitVec.ofNat 64 v

/-- R45 order 1. -/
def Copy.ill (c : Copy) : Bool :=
  (c.reg 0).testBit 11 || (c.reg 0).testBit 15 || c.reg 0 / 2 ^ 19 != 0 ||
  (List.range 3).any (fun i => c.reg (1 + i) / 2 ^ 32 != 0) || (c.reg 4).testBit 63 ||
  (c.gather && (c.reg 5 / 2 ^ 32 != 0 || c.reg 6 / 2 ^ 32 != 0)) || (List.range 9).any (fun i => c.reg (7 + i) != 0) ||
  (List.range c.ndim).any (fun j => c.count j == 0 || 2 ^ 24 < c.count j) ||
  (List.range (c.ndim - 1)).any (fun j => notSext (c.reg (33 + j)) || (!(c.gather && j == 0) && notSext (c.reg (49 + j)))) ||
  (c.gather && c.drain) || (c.gather && c.ndim == 1)

/-- The offsets one side can touch (R45 order 3). -/
def Copy.extent (c : Copy) (write : Bool) : Extent :=
  let span (j : Nat) : Int :=
    if c.gather && j == 0 then (if write then ((c.count 1 - 1) * c.count 0 : Nat) else (c.reg 6 % 2 ^ 32 : Nat) * c.sstr 1)
    else (if write then c.dstr (j + 1) else c.sstr (j + 1)) * ((c.count (j + 1) : Int) - 1)
  let base : Int := ((if write then c.reg 2 % 2 ^ 32 else c.reg 1 % 2 ^ 32 : Nat) : Int)
  let lo := (List.range (c.ndim - 1)).foldl (fun a j => a + min (span j) 0) base
  let hi := (List.range (c.ndim - 1)).foldl (fun a j => a + max (span j) 0) base
  ⟨write, c.os && (c.drain != write), if write then c.ctl 12 3 else c.ctl 8 3, lo, hi + c.count 0⟩

/-- R45 orders 2 and 3, alignment, and the range table (R69). Of several extents that fail, the local side is told first, then the remote
side, the index list and the completion word (log entry 154). -/
def copyChecks (c : Copy) (path : Nat) (local_ : Bool) (s : State) : M Unit := do
  let src := c.extent false
  let dst := c.extent true
  let v := BitVec.ofInt 32 (if c.drain then src.lo else dst.lo)
  let lseg := if c.drain then c.seg (c.ctl 8 3) else c.seg (c.ctl 12 3)
  let lx := if c.drain then src else dst
  checkIf (local_ && !c.os && !lseg.s) (.error (s.trap tSEG 5 v))
  checkIf (local_ && c.os) (extentSeg (fun _ => true) lx s)
  checkIf (c.gather && !(c.seg (c.ctl 12 3)).s) (.error (s.trap tSEG 5 (BitVec.ofNat 32 (c.reg 5))))
  extentsSeg (if c.drain then [src, dst] else [dst, src]) s
  checkIf c.gather (extentSeg rEngR ⟨false, false, c.ctl 12 3, c.reg 5 % 2 ^ 32, c.reg 5 % 2 ^ 32 + 4 * c.count 1⟩ s)
  cwSeg c.cwen (c.ctl 16 3) (c.reg 3 % 2 ^ 32) s
  checkIf c.gather (alignedTo 4 (c.reg 5 % 2 ^ 32) s)
  cwAligned c.cwen (c.reg 3 % 2 ^ 32) s
  extentsRange path [src, dst] s

/-- The copy a command captures. -/
def State.newCopy (s : State) (regs : SMap DWord) (seq : Nat) : Copy :=
  let h := s.th
  let c : Copy := { slot := s.cur.2, crew := h.crewid, ctx := s.ctxName s.cur.1 s.cur.2, regs := regs, segs := h.sg, asid := h.asid, spbase := h.spbase, osbase := h.osbase, seq := seq, k := 0, bytes := 0, stopped := 0, err := 0, wext := [] }
  { c with wext := (c.extent true).wext h }

/-- A channel holds four waiting copies (R45, R253). -/
def Ladle.full (L : Ladle) : Bool := decide (4 ≤ L.waiting.length)

/-- The channel accepts a copy, if it has a place for it; its number is the count of copies accepted before (R47). -/
def State.ladleAccept (s : State) (t ch : Nat) (c : Copy) : Option State :=
  let L := (s.tile t).ladle ch
  if L.full then none
  else some (((s.modSlot t c.slot (fun h => { h with qx := mset 0 h.qx 2 0 })).modLadle t ch (fun L =>
    { L with waiting := L.waiting ++ [{ c with seq := L.next }], next := (L.next + 1) % 2 ^ 16 })).emitOnce (evTK .ladleCopyStart t ch))

/-- LFILL, LGATHER and LDRAIN. -/
def ladleIssue (i : Instr) (dir gather : Bool) (a : Src) (s : State) : M State := do
  cmdEnter i false s
  let x ← readSrc i [a] a.r s
  illWord i (wfld x 2 30 != 0) s
  let t := s.cur.1
  let ch := wfld x 0 1
  let L := (s.tile t).ladle ch
  let c := s.newCopy (captureSet (64 * wfld x 1 1) s.th) L.next
  illWord i (c.drain != dir || c.gather != gather || c.ill) s
  copyChecks c 1 true s
  submit false [a] (.ladle ch c) (fun s => s.ladleAccept t ch c) s
def execLfill (a : Src) (s : State) : Out := finish (ladleIssue (.lfill a) false false a s)
def execLgather (a : Src) (s : State) : Out := finish (ladleIssue (.lgather a) false true a s)
def execLdrain (a : Src) (s : State) : Out := finish (ladleIssue (.ldrain a) true false a s)

/-- A pair written at commit. -/
def commitPair (srcs : List Src) (d : Reg) (v : Nat) (s : State) : State :=
  (consume srcs s).modTh (fun h => ((h.setG d.toNat (halfOf v false)).setG (d.toNat + 1) (halfOf v true)).commit)

/-- The write pointer of R47. -/
def Ladle.wptr (L : Ladle) : Nat := L.bytes.toNat + L.seq % 2 ^ 16 * 2 ^ 32 + b2n L.done * 2 ^ 48 + b2n L.err * 2 ^ 63

/-- LWPTR samples the pointer when it commits; the pair is filled 4 cycles later (R251, R271). QEST stays as it was (log entry 178). -/
def State.sampleWptr (s : State) (t k rd ch : Nat) : State := s.valueLater t k rd true (BitVec.ofNat 64 ((s.tile t).ladle ch).wptr) 4

/-- A command that returns a value on a predicted path: its pair is empty from its issue on (R251). -/
def State.pairLater (s : State) (rd : Nat) : State := s.modTh (fun h => (h.markEmpty rd).markEmpty (rd + 1))

def lwptr (i : Instr) (a : Src) (d : Reg) (s : State) : M State := do
  cmdEnter i false s
  let x ← readSrc i [a] a.r s
  destLaterPair i d s
  illWord i (wfld x 1 31 != 0) s
  if s.th.shadow.isSome then (defer false [a] (.wptr d.toNat (wfld x 0 1)) s).map (fun s => s.pairLater d.toNat)
  else .ok ((commitNow (consume [a] s)).sampleWptr s.cur.1 s.cur.2 d.toNat (wfld x 0 1))
def execLwptr (a : Src) (d : Reg) (s : State) : Out := finish (lwptr (.lwptr a d) a d s)

/-- The active copy is cancelled if a thread of this slot's crew issued it and it has not finished (R271). -/
def State.ladleCancel (s : State) (t k ch : Nat) : State :=
  match ((s.tile t).ladle ch).active with
  | some c =>
    if c.crew = (s.slot t k).crewid && c.err = 0 && c.k < c.total then
      (s.modLadle t ch (fun L => { L with active := some { c with err := eCANCEL, stopped := 0 } })).emitOnce (evTK .ladleCopyEnd t ch)
    else s
  | none => s

def lcancel (i : Instr) (a : Src) (s : State) : M State := do
  cmdEnter i false s
  let x ← readSrc i [a] a.r s
  illWord i (wfld x 1 31 != 0) s
  submit false [a] (.lcancel (wfld x 0 1)) (fun s => some (s.ladleCancel s.cur.1 s.cur.2 (wfld x 0 1))) s
def execLcancel (a : Src) (s : State) : Out := finish (lcancel (.lcancel a) a s)

/-! ### Package copy engines (R272) -/

/-- The registers of R44 from a descriptor: SSEG, DSEG, CWSEG, CWEN, NDM1 and the dimensions. -/
def xcopyRegs (d : Nat) : SMap DWord :=
  let ctl := nfld d 16 1 * 4 + nfld d 0 4 * 16 + nfld d 4 3 * 2 ^ 8 + nfld d 8 3 * 2 ^ 12 + nfld d 12 3 * 2 ^ 16
  let base : List (Nat × Nat) := [(0, ctl), (1, nfld d 32 32), (2, nfld d 64 32), (3, nfld d 96 32), (4, nfld d 128 64)]
  let dim (j : Nat) : List (Nat × Nat) := [(16 + j, nfld d (256 + 96 * j) 32), (32 + j, nfld d (288 + 96 * j) 32), (48 + j, nfld d (320 + 96 * j) 32)]
  (base ++ (List.range 16).flatMap dim).foldl (fun m p => mset 0 m p.1 (BitVec.ofNat 64 p.2)) []

/-- Must-be-zero fields and counts of a descriptor. Bytes 224 to 255 carry no field. -/
def xcopyIll (d : Nat) : Bool :=
  d.testBit 7 || d.testBit 11 || d.testBit 15 || nfld d 17 3 != 0 || nfld d 29 3 != 0 || d.testBit 191 || nfld d 192 64 != 0 ||
  (List.range 16).any (fun j => nfld d (281 + 96 * j) 7 != 0) ||
  (List.range (nfld d 0 4 + 1)).any (fun j => nfld d (256 + 96 * j) 25 == 0 || 2 ^ 24 < nfld d (256 + 96 * j) 25)

/-- The I/O die and the channel a descriptor names. -/
def xcopyDie (d : Nat) : Nat := 8 + nfld d 23 1
def xcopyChan (d : Nat) : Nat := nfld d 20 3 * 32 + nfld d 24 5
def copyEvent (vd ch : Nat) : Ev := ⟨.engineStep, { t := vd, k := 5, v := ch }⟩

/-- A copy-engine channel accepts a copy, if it has a place for it. -/
def State.copyAccept (s : State) (vd ch : Nat) (c : Copy) : Option State :=
  if 64 ≤ ((s.die vd).copyq.filter (fun q => q.1 == ch)).length then none
  else some (((s.modSlot (ctxTile c.ctx) c.slot (fun h => { h with qx := mset 0 h.qx 2 0 })).modDie vd (fun D =>
    { D with copyq := D.copyq ++ [(ch, c)] })).emitOnce (copyEvent vd ch))

def xcopy (i : Instr) (a b : Src) (s : State) : M State := do
  cmdEnter i false s
  let x ← readSrc i [a, b] a.r s
  let y ← readSrc i [a, b] b.r s
  illWord i (wfld y 3 29 != 0) s
  let (bs, s) ← recordPlace (wfld y 0 3) x.toNat 256 s
  let d := leNat bs
  illWord i (xcopyIll d) s
  let c := s.newCopy (xcopyRegs d) 0
  copyChecks c 5 false s
  let vd := xcopyDie d; let ch := xcopyChan d
  submit false [a, b] (.copy vd ch c) (fun s => s.copyAccept vd ch c) s
def execXcopy (a b : Src) (s : State) : Out := finish (xcopy (.xcopy a b) a b s)

def Die.copyHead (D : Die) (ch : Nat) : Option Copy := (D.copyq.find? (fun q => q.1 == ch)).map (·.2)
def setFirst (ch : Nat) (c : Copy) : List (Nat × Copy) → List (Nat × Copy)
  | [] => []
  | q :: r => if q.1 = ch then (ch, c) :: r else q :: setFirst ch c r
def State.setCopy (s : State) (vd ch : Nat) (c : Copy) : State := s.modDie vd (fun D => { D with copyq := setFirst ch c D.copyq })
def Copy.tile (c : Copy) : Nat := ctxTile c.ctx
/-- The copy engine of a channel: 32 channels each (R111, R272). -/
def Copy.unit (c : Copy) (vd ch : Nat) : Unit_ := { vd := vd, ag := 0x20 + ch / 32, path := 5, ctx := c.ctx, asid := c.asid, ev := copyEvent vd ch }
def Copy.xwho (c : Copy) (vd ch : Nat) : EngWho :=
  { t := c.tile, slot := c.slot, ctx := c.ctx, asid := c.asid, path := 5, reach := 2, ch := ch, unit := some (c.unit vd ch) }

/-- The slot a copy's command came from, while it still holds the issuing thread. -/
def State.copyOwner (s : State) (c : Copy) : Option (Nat × Nat) :=
  let h := s.slot c.tile c.slot
  if h.occ != .free && h.crewid == c.crew then some (c.tile, c.slot) else none

/-- The head copy of a channel stops within a step, or waits. -/
def State.stopCopy (s : State) (vd ch : Nat) (c : Copy) (st : EStop) : State :=
  let lay (s : State) (r : Nat) : State := (s.setCopy vd ch { c with k := c.resumeAt 65536, stopped := r }).notify c.tile c.slot
  let ev := copyEvent vd ch
  match st with
  | .fault la cause lvl entry reason kind => (lay s reason).sendFrec c.tile c.slot la c.asid lvl cause 5 kind entry
  | .wait r => lay s r
  | .err e => (s.setCopy vd ch { c with err := e }).emitOnce ev
  | st => s.engPause (c.xwho vd ch) ev st

/-- A write of a copy came back refused: a violation ends the copy with BOUND and is logged on the issuing tile (R70), any other write is
lost and recorded (R21). -/
def State.copyRefused (s : State) (vd ch : Nat) (c : Copy) (o : UnitOut) : State :=
  let st := (o.got.map (·.2)).getD 0
  let s1 := s.modDie vd (fun D => { D with outs := dropFirst (fun x => x == o) D.outs })
  if 2 ≤ st ∧ st ≤ 6 then
    (if spaceOf o.pa = 3 && nfld o.pa 24 24 != s1.tileEid c.tile then s1
     else (s1.logViolation c.tile (if spaceOf o.pa = 3 then 0 else o.la) (ctxSlot c.ctx) (st - 1) 5 true o.pa).2).setCopy vd ch { c with err := if c.err = 0 then eBOUND else c.err }
  else s1.logError (vdOf c.tile) 20 true (if st = 16 then cUNREACH else cBADPA) o.pa c.ctx

/-- The head copy of a channel ends: its post, and qx0 on an error (R254), once all its writes are performed. -/
def State.endCopy (s : State) (vd ch : Nat) (c : Copy) : State :=
  let ev := copyEvent vd ch
  if s.unitBusy (c.unit vd ch) then s
  else match engPost (c.xwho vd ch) c.cwen (opPlace false (c.seg (c.ctl 16 3)) ((c.reg 3 % 2 ^ 32 : Nat) : Int)) (c.reg 4) (c.err != 0) s with
    | .error (.err e, s1) => (s1.setCopy vd ch { c with err := if c.err = 0 then e else c.err }).after vd 64 ev
    | .error (st, s1) => s1.stopCopy vd ch c st
    | .ok s1 =>
      let s2 := (s1.unitClear (c.unit vd ch)).modDie vd (fun D => { D with copyq := dropFirst (fun q => q.1 == ch) D.copyq })
      let s3 := if c.err = 0 then s2 else match s2.copyOwner c with
        | some o => s2.modSlot o.1 o.2 (fun h => { h with qx := mset 0 h.qx 0 (qerr 5 c.err) })
        | none => s2
      let s4 := if ((s3.die vd).copyHead ch).isSome then s3.emitOnce ev else s3
      -- a place freed in this channel may let any thread of the package go on
      s4.tiles.foldl (fun s p => s.engFreed p.1) (s4.cmdGone c.tile c.slot)

/-- A 64 KiB step of the head copy of a channel. -/
def copyStep (vd ch : Nat) (s : State) : State :=
  match (s.die vd).copyHead ch with
  | none => s
  | some c =>
    let u := c.unit vd ch
    match s.unitBad u with
    | some o => (s.copyRefused vd ch c o).emitOnce (copyEvent vd ch)
    | none =>
      if (s.die vd).stopped || c.stopped != 0 || ((s.copyOwner c).any (fun o => (s.slot o.1 o.2).frozen) && c.k % 65536 == 0) then s
      else if c.err != 0 || c.total ≤ c.k then s.endCopy vd ch c
      else
        let m := min (65536 - c.k % 65536) (c.total - c.k)
        let r := copyMove (c.xwho vd ch) (m + 1) c [] c.k m s
        let c1 := { r.c with k := c.k + r.moved }
        let s1 := (if r.moved = 0 then r.s else r.s.unitClear u).setCopy vd ch c1
        match r.stop with
        | some st => s1.stopCopy vd ch c1 st
        | none => s1.emitOnce (copyEvent vd ch)

/-! ### Resuming stopped steps (R28, R29, R329) -/

/-- The steps of slot k, or of tile tasks (k = 8), that stopped for one of these reasons go on, or end with FAULT (`kill`). -/
def State.resumeSteps (s : State) (t k : Nat) (hit : Nat → Bool) (kill : Bool) : State :=
  let eng (s : State) (e : Nat) : State :=
    let mine (c : EngCmd) : Bool := c.slot == k && c.stopped != 0 && hit c.stopped
    if ((s.tile t).engq e).any mine then
      let s1 := s.modTile t (fun T => T.setEngq e (updWhere mine (fun c => if kill && c.err == 0 then { c with stopped := 0, err := eFAULT } else { c with stopped := 0 }) (T.engq e)))
      if kill then s1.emitOnce (evTK .engineCommandEnd t e) else s1.kick t e
    else s
  let lad (s : State) (ch : Nat) : State :=
    match ((s.tile t).ladle ch).active with
    | some c =>
      if c.slot = k && c.stopped != 0 && hit c.stopped then
        let c1 := if kill && c.err == 0 then { c with stopped := 0, err := eFAULT } else { c with stopped := 0 }
        (s.modLadle t ch (fun L => { L with active := some c1 })).emitOnce (segEvent t ch)
      else s
    | none => s
  let cp (s : State) (vd : Nat) : State :=
    (s.die vd).copyq.foldl (fun (s : State) q =>
      let c := q.2
      if c.ctx = s.ctxName t k && c.stopped != 0 && hit c.stopped then
        let c1 := if kill && c.err == 0 then { c with stopped := 0, err := eFAULT } else { c with stopped := 0 }
        (s.modDie vd (fun D => { D with copyq := D.copyq.map (fun p => if p.1 = q.1 ∧ p.2 = c then (p.1, c1) else p) })).emitOnce (copyEvent vd q.1)
      else s) s
  [8, 9].foldl cp ([0, 1].foldl lad ([0, 1].foldl eng s))

end Sys2Proof.Machine
end

