-- ==== Sys2Proof/Machine/Launch.lean ====
section
/-! DEFINITION. Launches at the launch unit (R301-R312, R317): doorbells, records, checks, admission, and the ends of launches;
and the places a die offers a crew (R313, R314). -/

namespace Sys2Proof.Machine
open Sys2Proof

/-! ### Queue entries and quotas (R302, R309) -/

def State.qreg (s : State) (vd q j : Nat) : Nat := s.reg (iodOf vd) (0x100000 + 32 * q + 8 * j)
def State.qset (s : State) (vd q j lo n x : Nat) : State := s.setReg (iodOf vd) (0x100000 + 32 * q + 8 * j) (nput (s.qreg vd q j) lo n x)
def State.qV (s : State) (vd q : Nat) : Bool := (s.qreg vd q 0).testBit 0
def State.qAsid (s : State) (vd q : Nat) : Nat := nfld (s.qreg vd q 0) 2 9
def State.qMaxpri (s : State) (vd q : Nat) : Nat := nfld (s.qreg vd q 0) 11 2
def State.qLen (s : State) (vd q : Nat) : Nat := 2 ^ nfld (s.qreg vd q 0) 13 4
def State.qHead (s : State) (vd q : Nat) : Nat := nfld (s.qreg vd q 2) 0 16
def State.qTail (s : State) (vd q : Nat) : Nat := nfld (s.qreg vd q 2) 16 16
def State.qRing (s : State) (vd q : Nat) : Nat := nfld (s.qreg vd q 1) 0 56
def State.qCw (s : State) (vd q : Nat) : Nat := nfld (s.qreg vd q 2) 32 32 + nfld (s.qreg vd q 3) 0 24 * 2 ^ 32
/-- First byte and units of the save pool. -/
def State.qPool (s : State) (vd q : Nat) : Nat := nfld (s.qreg vd q 3) 40 2 * 2 ^ 37 + nfld (s.qreg vd q 3) 24 16 * 2 ^ 16
def State.qPoolLen (s : State) (vd q : Nat) : Nat := nfld (s.qreg vd q 3) 42 14

def State.maxc (s : State) (vd asid : Nat) : Nat := nfld (s.reg (iodOf vd) (0x120000 + 8 * asid)) 0 16
def State.live (s : State) (vd asid : Nat) : Nat := nfld (s.reg (iodOf vd) (0x120000 + 8 * asid)) 16 16
def State.setLive (s : State) (vd asid n : Nat) : State :=
  s.setReg (iodOf vd) (0x120000 + 8 * asid) (nput (s.reg (iodOf vd) (0x120000 + 8 * asid)) 16 16 n)

/-! ### Records (R304) -/

def Launch.fld (l : Launch) (lo n : Nat) : Nat := nfld (leNat l.bytes) lo n
def Launch.sg0 (l : Launch) : Nat := l.fld 0 128
def Launch.sg7 (l : Launch) : Nat := l.fld 128 128
def Launch.kdla (l : Launch) : Nat := l.fld 256 48
def Launch.argument (l : Launch) : Word := BitVec.ofNat 32 (l.fld 320 32)
def Launch.asid (l : Launch) : Nat := l.fld 352 9
def Launch.pri (l : Launch) : Nat := l.fld 368 2
def Launch.rect (l : Launch) : Bool := (leNat l.bytes).testBit 372
def Launch.cwen (l : Launch) : Bool := (leNat l.bytes).testBit 373
def Launch.diemask (l : Launch) : Nat := if l.fld 376 4 = 0 then 15 else l.fld 376 4
def Launch.w (l : Launch) : Nat := l.fld 384 4 + 1
def Launch.h (l : Launch) : Nat := l.fld 388 4 + 1
def Launch.crews (l : Launch) : Nat := l.w * l.h
def Launch.nacc (l : Launch) : Nat := l.fld 392 3
def Launch.slices (l : Launch) : Nat := l.fld 400 13
def Launch.ossz (l : Launch) : Nat := l.fld 416 20
def Launch.mapla (l : Launch) : Nat := l.fld 448 48
def Launch.dla (l : Launch) (d : Nat) : Nat := l.fld (512 + 64 * d) 48
def Launch.dt (l : Launch) (d : Nat) : Nat := l.fld (640 + 64 * d) 63
def Launch.cwla (l : Launch) : Nat := l.fld 768 48
def Launch.cwadd (l : Launch) : Nat := l.fld 832 63
/-- Bytes of one save area, rounded to 64 KiB (R309). -/
def Launch.area (l : Launch) : Nat := cdiv (0x23100 + l.ossz + l.scratch) 65536 * 65536

/-- R306 order 1. -/
def Launch.malformed (l : Launch) : Bool :=
  l.fld 304 16 != 0 || l.kdla % 64 != 0 || l.fld 361 7 != 0 || 1 < l.fld 370 2 || l.fld 374 2 != 0 || l.fld 380 4 != 0 || 4 < l.nacc || l.fld 395 5 != 0 ||
  l.slices == 0 || 4096 < l.slices || l.fld 413 3 != 0 || l.ossz % 256 != 0 || 0x80000 < l.ossz || l.fld 436 12 != 0 ||
  l.dla 0 % 8 != 0 || l.dla 1 % 8 != 0 || l.fld 703 1 != 0 || l.fld 767 1 != 0 || l.cwla % 8 != 0 || l.fld 895 1 != 0 || l.fld 896 128 != 0 ||
  !segReservedZero l.sg0 || !segReservedZero l.sg7 || !(segOfNat l.sg7).x || (segOfNat l.sg7).s

/-- Addresses the launch uses: key, linear address, kind of access. -/
def Launch.uses (l : Launch) : List (Nat × Nat × Nat) :=
  [(0, l.kdla, 1)] ++ (if l.mapla = 0 then [] else [(1, l.mapla, 2)]) ++ (if l.dla 0 = 0 then [] else [(2, l.dla 0, 1)]) ++
  (if l.dla 1 = 0 then [] else [(3, l.dla 1, 1)]) ++ (if l.cwen then [(4, l.cwla, 3)] else [])

/-! ### The launch unit's own accesses -/

/-- U or D is set at its home in a leaf that another package or a CXL device holds (R26): the word is reserved for the unit. `path` of the
access is 16 and the kind of access, `la` the value the walk read. -/
def State.unitLeaf (s : State) (u : Unit_) (kind e addr : Nat) : State :=
  let (tag, s1) := s.unitOut { u with path := 16 + kind } addr 8 e true
  let (dst, memd) := s.homeOf u.vd addr
  s1.send .req .rsv { Msg.zero with src := s.eid u.vd u.ag, dst := dst, asid := u.asid, memd := memd, tag := tag, pa := addr, len := 7 }

/-- The answer to an access that sets the bits of a leaf for a unit: done, or refused. -/
def State.leafSet (s : State) (u : Unit_) (kind e addr : Nat) : Option UnitOut :=
  (s.die u.vd).outs.find? (fun o => o.agent == u.ag && o.ev == u.ev && o.path == 16 + kind && o.pa == addr && o.la == e && o.got.isSome)
/-- The access that sets the bits of a leaf for a unit is under way. -/
def State.leafAsked (s : State) (u : Unit_) (addr : Nat) : Bool :=
  (s.die u.vd).outs.any (fun o => o.agent == u.ag && 16 ≤ o.path && o.ev == u.ev && o.pa == addr && o.got.isNone)

/-- Reads of nodes for a walk of a unit. -/
def State.unitNodes (s : State) (u : Unit_) (la : Nat) : List UnitOut := (s.die u.vd).outs.filter (fun o => o.agent == u.ag && o.ev == u.ev && o.path == nodePath && o.la == la)
/-- A node that has been read at its home for a walk of a unit, as `State.nodeWord` takes it. -/
def State.unitNode (s : State) (u : Unit_) (la a : Nat) : Option Nat :=
  ((s.unitNodes u la).find? (fun o => o.pa == a)).bind (fun o => o.got.map (fun g => if g.2 = 0 then leNat g.1 else 2 ^ 64 + (g.2 - 1)))
/-- Ask for a node, once (R22). -/
def State.askUnitNode (s : State) (u : Unit_) (la a : Nat) : State :=
  if (s.unitNodes u la).any (fun o => o.pa == a) || s.unitFull u.vd u.ag then s else s.unitGet { u with path := nodePath } a 8 la
/-- The nodes of a walk that has ended are forgotten. -/
def State.dropUnitNodes (s : State) (u : Unit_) (la : Nat) : State :=
  let gone := s.unitNodes u la
  if gone.isEmpty then s else s.modDie u.vd (fun D => { D with outs := D.outs.filter (fun o => !gone.contains o) })

/-- A walk for a unit of an I/O die, which keeps the translation itself (R306). -/
def State.luWalk (s0 : State) (u : Unit_) (la kind : Nat) : Tr × State :=
  if kindWrites kind && s0.swept u.asid la then (.sweepWait, s0)
  else
    let s := s0.dropUnitNodes u la
    match s0.walk u.vd u.asid la kind (s0.unitNode u la) with
    | .ask addr => (.askWait addr, s0.askUnitNode u la addr)
    | .leaf pa e lvl addr =>
      if leafMarked kind e = e then (.ok (s.canon pa) lvl, s)
      else if spaceOf addr = 0 && !s.reserved addr 8 then (.ok (s.canon pa) lvl, { s with mem := wrLE s.mem addr 8 (leafMarked kind e) })
      else match s.leafSet u kind e addr with
        | some o => (if o.got == some ([], 0) then .ok (s.canon pa) lvl else .fault 6 lvl e pTABLE, s.modDie u.vd (fun D => { D with outs := dropFirst (fun x => x == o) D.outs }))
        | none => (.orWait e lvl addr, if s.leafAsked u addr || s.unitFull u.vd u.ag then s else s.unitLeaf u kind e addr)
    | .fault c l e r => (.fault c l e r, s)
    | .migWait => (.walkWait, s)
    | .poisoned => (.poisoned, s)

def luEid (s : State) (vd : Nat) : Nat := s.eid vd 1
/-- The launch unit of an I/O die. -/
def luUnit (vd asid : Nat) (ev : Ev) : Unit_ := ⟨vd, 1, 0, noCtx, asid, ev⟩

/-- A message from an agent of an I/O die to the home of an address. -/
def State.agentMsg (s : State) (vd agent pa : Nat) : Msg :=
  let (dst, memd) := s.homeOf vd pa
  { Msg.zero with src := s.eid vd agent, dst := dst, memd := memd, tag := 65535, pa := pa, len := 7 }
/-- A completion-word post by an agent (R50), with what goes on when it has been performed. -/
def State.agentPostThen (s : State) (vd agent pa add : Nat) (err : Bool) (ev : Ev) : State := s.unitPost ⟨vd, agent, 0, noCtx, 0, ev⟩ pa 0 add err
def State.agentPost (s : State) (vd agent pa add : Nat) (err : Bool) : State := s.agentPostThen vd agent pa add err noEvent
/-- A result word written by an agent (R317, R336), in space 0 or 2; any other address is recorded. -/
def State.agentResult (s : State) (vd pa v : Nat) : State :=
  if (spaceOf pa = 0 || spaceOf pa = 2) && s.decodes vd pa && pa % 8 = 0 then s.send .req .wr { s.agentMsg vd 1 pa with aux0 := BitVec.ofNat 64 v }
  else s.logError vd 23 false cDOORBELL pa 0

/-- n bytes that a unit has read at their home, or the read under way: bytes, refused, or wait. -/
def State.unitBytes (s : State) (u : Unit_) (pa n : Nat) : Option (Except Unit (List Byte)) × State :=
  match s.unitGot u pa with
  | some (bs, 0) => (some (.ok bs), s)
  | some _ => (some (.error ()), s)
  | none => (none, if s.unitBusy u || s.unitFull u.vd u.ag then s else s.unitGet u pa n 0)

/-! ### Launches of a unit -/

def State.lu (s : State) (vd : Nat) : LaunchUnit := (s.die vd).lu
def State.modLu (s : State) (vd : Nat) (f : LaunchUnit → LaunchUnit) : State := s.modDie vd (fun D => { D with lu := f D.lu })
def State.launch? (s : State) (vd id : Nat) : Option Launch := (s.lu vd).launches.find? (fun l => l.id == id)
def State.modLaunch (s : State) (vd id : Nat) (f : Launch → Launch) : State :=
  s.modLu vd (fun L => { L with launches := updWhere (fun l => l.id == id) f L.launches })
def State.pokeAdmission (s : State) (vd : Nat) : State := s.emitOnce (evT .admissionChoice vd)

/-- QCW, LASTERR and the interrupt of a launch that ends, which follows the post (R307, R349). -/
def State.queuePost (s : State) (vd q id status : Nat) : State :=
  let cw := s.qCw vd q
  let c := s.qreg vd q 0
  let vec := nfld c 17 6
  let told := c.testBit 23 && decide (2 ≤ vec)
  let s1 := if status = 0 then s else s.qset vd q 3 56 4 status
  if cw = 0 then (if told then s1.msix vd vec else s1)
  else s1.agentPostThen vd 1 cw 1 (status != 0) (if told then ⟨.admissionChoice, { t := vd, k := id, n := 3, v := vec }⟩ else noEvent)

/-- LAUNCH_RETRANSLATE's event for a launch: its unresolved translations, or with n = d + 1 its watch on dependence d. -/
def retryEvent (vd id n : Nat) : Ev := ⟨.launchRetranslate, { t := vd, k := id, n := n }⟩

/-- A post to a launch's CWLA: now, or when its translation is known, again or for the first time. -/
def State.cwlaPost (s : State) (vd : Nat) (l : Launch) (add : Nat) (err : Bool) : State :=
  if !l.cwen then s
  else if l.unresolved.contains 4 || !l.pas.any (fun p => p.1 == 4) then
    (s.modLaunch vd l.id (fun l => { l with owed := l.owed ++ [(add, err)], unresolved := if l.unresolved.contains 4 then l.unresolved else l.unresolved ++ [4] })).emitOnce (retryEvent vd l.id 0)
  else s.agentPost vd 1 (mget 0 l.pas 4) add err

/-- Tag of a launch's watch on dependence d. -/
def depTag (id d : Nat) : Nat := 2 * (id % 16384) + d

def State.depMsg (s : State) (vd : Nat) (l : Launch) (d : Nat) : Msg :=
  { s.agentMsg vd 1 (mget 0 l.pas (2 + d)) with tag := depTag l.id d, len := 0, aux0 := BitVec.ofNat 64 (l.dt d) }

/-- Answer a SPAWN (R291): status and the low half of the identifier. -/
def State.spawnAnswer (s : State) (l : Launch) (status : Nat) : State :=
  match l.spawner with
  | some m => s.send .rsp (if status = 0 then .ldoneAccept else .ldoneRefuse) { msgReply m with aux0 := BitVec.ofNat 64 (status + l.id % 65536 * 65536) }
  | none => s

/-- HOLD of a launch of this unit has cleared: what it kept back is sent (R311). -/
def unheldEvent (vd : Nat) : Ev := ⟨.admissionChoice, { t := vd, n := 2 }⟩
def State.unheld (s : State) (vd : Nat) (l : Launch) : State := if l.hold then s.emitOnce (unheldEvent vd) else s

/-- A launch ends (R306, R307, R317): quota and save areas come back, its watches are cancelled, its queue's word is posted; the thread that
spawned it hears of one that ends in its check (R291). -/
def State.endLaunch (s0 : State) (vd : Nat) (l : Launch) (status : Nat) : State :=
  let s := if l.state == .check then s0.spawnAnswer l status else s0
  let held := l.state = .admitted || l.state = .sent
  let s1 := l.deps.foldl (fun s d => if l.unresolved.contains (2 + d) then s else s.send .req .watchCancel { s.depMsg vd l d with attr := 1 }) s
  let s2 := if held then s1.setLive vd l.asid (s1.live vd l.asid - l.crews) else s1
  let s3 := s2.modLaunch vd l.id (fun l => { l with state := .ended, deps := [], since := none, hold := false, saveBase := 0, tried := [] })
  ((s3.queuePost vd l.queue l.id status).unheld vd l).pokeAdmission vd

/-! ### Doorbells and fetches (R303, R306) -/

def doorbell (s : State) : State :=
  let vd := iodVd s.arg.t; let q := s.arg.k; let v := s.arg.v
  let n := (v + 65536 - s.qHead vd q) % 65536
  if v / 65536 != 0 || !s.qV vd q then s
  else if s.qLen vd q < n then s.logError vd 23 false cDOORBELL 0 0
  else if v = s.qTail vd q then s
  else (s.qset vd q 2 16 16 v).emitOnce (evTK .launchFetch vd q)
def execDoorbell (s : State) : Out := .next (doorbell s)

/-- What becomes of a fetched record. -/
inductive Checked where
  | again (s : State)
  | bad (status : Nat) (s : State)
  | good (l : Launch) (s : State)
  deriving DecidableEq, Repr

/-- R306 orders 2 and 3; a SPAWN carries the spawner's ASID, its ST.PL in AUX2 and the queue in AUX1. -/
def State.queueStatus (s : State) (vd : Nat) (l : Launch) : Option Nat :=
  if !s.qV vd l.queue then some 2
  else match l.spawner with
    | some m =>
      if !(s.qreg vd l.queue 0).testBit 1 || m.aux1.toNat / 4096 != iodOf vd then some 2
      else if l.asid != s.qAsid vd l.queue then some 3
      else if m.aux2.toNat = 0 && l.asid != m.asid then some 3
      else none
    | none => if l.asid != s.qAsid vd l.queue then some 3 else none

/-- The translations of order 4: all of them, none (wait), or a failure. -/
def State.launchPas (s : State) (vd : Nat) (l : Launch) (ev : Ev) : Except Bool (SMap Nat) × State :=
  l.uses.foldl (fun (a : Except Bool (SMap Nat) × State) u =>
    match a.1 with
    | .error e => (.error e, a.2)
    | .ok m =>
      match a.2.luWalk (luUnit vd l.asid ev) u.2.1 u.2.2 with
      | (.ok pa _, s1) =>
        let sp := spaceOf pa
        if (sp = 0 || sp = 1 || sp = 2 || sp = 4) && s1.decodes vd pa then (.ok (mput m u.1 pa), s1) else (.error true, s1)
      | (.walkWait, s1) => (.error false, s1)
      | (.sweepWait, s1) => (.error false, s1)
      | (.orWait _ _ _, s1) => (.error false, s1)
      | (.askWait _, s1) => (.error false, s1)
      | (_, s1) => (.error true, s1)) (.ok [], s)

/-- R306 in its order. The event `ev` comes back when the kernel descriptor's bytes (R305), or a leaf with its bits set, have come from
their home. -/
def State.checkLaunch (s : State) (vd : Nat) (l : Launch) (ev : Ev) : Checked :=
  if l.malformed then .bad 4 s
  else match s.queueStatus vd l with
    | some st => .bad st s
    | none =>
      match s.launchPas vd l ev with
      | (.error true, s1) => .bad 4 s1
      | (.error false, s1) => .again (if s1.unitBusy (luUnit vd l.asid ev) then s1 else s1.after vd 1024 ev)
      | (.ok m, s1) =>
        match s1.unitBytes (luUnit vd l.asid ev) (mget 0 m 0) 64 with
        | (none, s2) => .again s2
        | (some (.error ()), s2) => .bad 4 s2
        | (some (.ok bs), s2) =>
          let k := leNat bs
          let crew := nfld k 0 32; let sc := nfld k 32 32
          if crew = 0 || 7 < crew || sc % 256 != 0 || 0x400000 < sc then .bad 4 s2
          else if s2.maxc vd l.asid < l.crews then .bad 1 s2
          else if l.spawner.isSome && decide (s2.maxc vd l.asid < s2.live vd l.asid + l.crews) then .bad 1 s2
          else .good { l with pas := m, crewN := crew, scratch := sc } s2

def newLaunch (id q : Nat) (bs : List Byte) (sp : Option Msg) : Launch :=
  let l : Launch := { id := id, queue := q, bytes := bs, pl := 0, crewN := 0, scratch := 0, state := .check, since := none, hold := false, tried := [], deps := [], pas := [], unresolved := [], saveBase := 0, left := 0, err := false, cancelTo := [], spawner := sp, owed := [] }
  { l with pl := match sp with
      | some m => min (l.fld 370 2) m.aux2.toNat
      | none => l.fld 370 2 }

/-- Install the watches of a launch that passed (R307, R242). -/
def State.depWatches (s : State) (vd : Nat) (l : Launch) (ds : List Nat) : State :=
  ds.foldl (fun s d => s.send .req .watchInstall (s.depMsg vd l d)) s

/-- A checked launch goes on, or ends at once; what was read for the check is dropped. -/
def settleLaunch (vd : Nat) (l0 : Launch) (c : Checked) (ev : Ev) : State :=
  match c with
  | .again s1 => s1
  | .bad st s1 => (s1.endLaunch vd l0 st).unitClear (luUnit vd 0 ev)
  | .good l s1 =>
    let ds := (List.range 2).filter (fun d => l.dla d != 0)
    let l1 := { l with state := if ds.isEmpty then .ready else .depWait, deps := ds }
    ((((s1.modLaunch vd l.id (fun _ => l1)).spawnAnswer l1 0).depWatches vd l1 ds).pokeAdmission vd).unitClear (luUnit vd 0 ev)

/-- The check of a launch: its event comes back when what it needs has come. -/
def checkEvent (vd id : Nat) : Ev := ⟨.launchFetch, { t := vd, n := 1, v := id }⟩
def State.checkGo (s : State) (vd id : Nat) : State :=
  match s.launch? vd id with
  | some l => if l.state == .check then settleLaunch vd l (s.checkLaunch vd l (checkEvent vd id)) (checkEvent vd id) else s
  | none => s

/-- A fetched launch has the unit's next identifier, and is in CHECK (R306, R307). -/
def State.enterLaunch (s : State) (vd q : Nat) (bs : List Byte) (sp : Option Msg) : State :=
  s.modLu vd (fun L => { L with launches := L.launches ++ [newLaunch L.nextId q bs sp], nextId := L.nextId + 1 })

/-- LAUNCH_FETCH: t the I/O die, k the local queue; with n = 1 the check of launch v goes on; or a SPAWN's message. A record is read at its
home; the event comes back when its bytes have come, and HEAD advances then. -/
def launchFetch (s : State) : State :=
  let m := s.msg
  if m != Msg.zero then
    let vd := eidDie m.dst
    (s.enterLaunch vd (m.aux1.toNat % 4096) m.data (some m)).checkGo vd (s.lu vd).nextId
  else if s.arg.n = 1 then s.checkGo s.arg.t s.arg.v
  else
    let vd := s.arg.t; let q := s.arg.k
    let head := s.qHead vd q
    if head = s.qTail vd q then s
    else
      let pa := s.qRing vd q + 128 * (head % s.qLen vd q)
      let u := luUnit vd 0 (evTK .launchFetch vd q)
      let id := (s.lu vd).nextId
      let next (s : State) : State :=
        let s1 := (s.unitClear u).qset vd q 2 0 16 ((head + 1) % 65536)
        if (head + 1) % 65536 = s.qTail vd q then s1 else s1.emitOnce (evTK .launchFetch vd q)
      let refused (s : State) : State :=
        (settleLaunch vd (newLaunch id q [] none) (.bad 4 ((next s).enterLaunch vd q [] none)) (checkEvent vd id)).logError vd 23 false cDOORBELL pa 0
      if 3 ≤ spaceOf pa || !s.decodes vd pa then refused s
      else match s.unitBytes u pa 128 with
        | (none, s1) => s1
        | (some (.error ()), s1) => refused s1
        | (some (.ok bs), s1) => ((next s1).enterLaunch vd q bs none).checkGo vd id
def execLaunchFetch (s : State) : Out := .next (launchFetch s)

/-- A watch of a launch unit is answered (R307). -/
def State.luWatchrsp (s : State) : State :=
  let m := s.msg
  let vd := eidDie m.dst
  match (s.lu vd).launches.find? (fun l => l.state == .depWait && l.deps.any (fun d => depTag l.id d == m.tag)) with
  | none => s
  | some l =>
    let d := m.tag % 2
    let st := wfld m.attr 0 2
    if st = 1 then s.after vd 1024 (retryEvent vd l.id (d + 1))
    else if st = 2 then s
    else if st = 3 || m.aux0.getLsbD 63 then
      (s.cwlaPost vd l (l.crews * l.cwadd % 2 ^ 63) true).endLaunch vd { l with deps := l.deps.filter (· != d) } 5
    else
      let ds := l.deps.filter (· != d)
      (s.modLaunch vd l.id (fun l => { l with deps := ds, state := if ds.isEmpty then .ready else .depWait })).pokeAdmission vd

/-! ### Translations made again (R306) -/

/-- Walk the given translations of a launch again; those that fail stay unresolved. -/
def State.rewalk (s : State) (vd : Nat) (l : Launch) (keys : List Nat) : State :=
  let use (k : Nat) : Option (Nat × Nat × Nat) := l.uses.find? (fun u => u.1 == k)
  let s1 := keys.foldl (fun (s : State) k =>
    match use k with
    | none => s
    | some u =>
      let old := mget 0 l.pas k
      let watched := (k = 2 || k = 3) && l.state == .depWait && l.deps.contains (k - 2)
      let fresh := l.unresolved.contains k
      let s0 := if watched && !fresh then (s.unTimer (retryEvent vd l.id (k - 1))).send .req .watchCancel { s.depMsg vd l (k - 2) with attr := 1, pa := old } else s
      match s0.luWalk (luUnit vd l.asid (retryEvent vd l.id 0)) u.2.1 u.2.2 with
      | (.ok pa _, s2) =>
        let s3 := s2.modLaunch vd l.id (fun l => { l with pas := mput l.pas k pa, unresolved := l.unresolved.filter (· != k) })
        if watched then match s3.launch? vd l.id with
          | some l1 => s3.depWatches vd l1 [k - 2]
          | none => s3
        else s3
      | (_, s2) => s2.modLaunch vd l.id (fun l => { l with unresolved := if l.unresolved.contains k then l.unresolved else l.unresolved ++ [k] })) s
  match s1.launch? vd l.id with
  | none => s1
  | some l1 =>
    let s2 := if l1.unresolved.contains 4 then s1
      else l1.owed.foldl (fun s o => s.agentPost vd 1 (mget 0 l1.pas 4) o.1 o.2) (s1.modLaunch vd l.id (fun l => { l with owed := [] }))
    if l1.unresolved.isEmpty then s2
    else
      let ev := retryEvent vd l.id 0
      if s2.timed ev then s2 else s2.after vd 65536 ev

/-- Does the launch still hold translations? -/
def Launch.holds (l : Launch) : Bool := l.state != .ended || !l.owed.isEmpty

/-- A refused watch is installed again at the frame the launch unit holds now, unless it waits for its translation (R242, R306). -/
def State.rewatch (s : State) (vd : Nat) (l : Launch) (d : Nat) : State :=
  if l.state == .depWait && l.deps.contains d && !l.unresolved.contains (2 + d) then s.depWatches vd l [d] else s

/-- LAUNCH_RETRANSLATE: unresolved translations are walked again, or with n = d + 1 the watch on dependence d is tried again. -/
def launchRetranslate (s : State) : State :=
  match s.launch? s.arg.t s.arg.k with
  | some l => if s.arg.n != 0 then s.rewatch s.arg.t l (s.arg.n - 1) else if l.holds then s.rewalk s.arg.t l l.unresolved else s
  | none => s
def execLaunchRetranslate (s : State) : Out := .next (launchRetranslate s)

/-! ### Save areas (R309) -/

/-- Areas in use: those of admitted launches, and those of recruits. -/
def State.usedAreas (s : State) : List (Nat × Nat) :=
  let ls := ((s.lu 8).launches ++ (s.lu 9).launches).filter (fun l => l.state == .admitted || l.state == .sent || l.state == .running)
  let cs := (s.dies.flatMap (fun d => d.2.crews) ++ s.images.map (·.crew)).filter (fun c => c.recruit)
  ls.map (fun l => (l.saveBase, l.crews * l.area)) ++ cs.map (fun c => (c.savea, cdiv (0x23100 + c.ossize + c.spsize) 65536 * 65536))

/-- The lowest contiguous run of n bytes in a queue's pool. -/
def State.findArea (s : State) (vd q n : Nat) : Option Nat :=
  let base := s.qPool vd q; let len := s.qPoolLen vd q * 65536
  let used := s.usedAreas
  let cands := base :: (used.map (fun u => u.1 + u.2)).filter (fun a => decide (base ≤ a))
  let ok (a : Nat) : Bool := decide (a + n ≤ base + len) && used.all (fun u => !overlaps a n u.1 u.2)
  (cands.filter ok).foldl (fun (m : Option Nat) a => match m with
    | none => some a
    | some b => some (min a b)) none

/-! ### Places on a die (R42, R313, R314) -/

/-- What a crew needs of a tile. -/
structure Need where
  threads : Nat
  sp : Nat
  os : Nat
  banks : Nat
  deriving DecidableEq, Repr

/-- The lowest 256-aligned free run. -/
def freeRun (cap n : Nat) (used : List (Nat × Nat)) : Option Nat :=
  let cands := 0 :: used.map (fun u => cdiv (u.1 + u.2) 256 * 256)
  let ok (a : Nat) : Bool := decide (a + n ≤ cap) && (n == 0 || used.all (fun u => !overlaps a n u.1 u.2))
  (cands.filter ok).foldl (fun (m : Option Nat) a => match m with
    | none => some a
    | some b => some (min a b)) none

/-- Slots, partition bases and banks a tile would give a crew. -/
structure Spot where
  tile : Nat
  slots : List Nat
  sp : Nat
  os : Nat
  mask : Nat
  deriving DecidableEq, Repr

def State.tileCrews (s : State) (t : Nat) : List Crew := (s.die (vdOf t)).crews.filter (fun c => c.tile == t)

/-- A tile's offer, if it can take the crew. Slot 7's partitions and banks are taken as well (R145); a free slot goes to a waiting visitor
first (R53). -/
def State.offer (s : State) (n : Need) (t : Nat) : Option Spot :=
  let T := s.tile t
  let h7 := T.slot 7
  let cs := s.tileCrews t
  let slots := (List.range (if s.isDock t then 6 else 7)).filter (fun k => (T.slot k).occ == .free && T.visq.isEmpty)
  let used := cs.foldl (fun a c => a ||| c.accmask.toNat) h7.accmask.toNat
  let banks := (List.range 4).filter (fun b => !used.testBit b)
  if slots.length < n.threads || banks.length < n.banks then none
  else match freeRun (4 * 2 ^ 20) n.sp ((h7.spbase, h7.spsize) :: cs.map (fun c => (c.spbase, c.spsize))),
             freeRun (2 ^ 19) n.os ((h7.osbase, h7.ossize) :: cs.map (fun c => (c.osbase, c.ossize))) with
    | some sp, some os => some ⟨t, slots.take n.threads, sp, os, (banks.take n.banks).foldl (fun a b => a ||| 2 ^ b) 0⟩
    | _, _ => none

def dieTiles (vd : Nat) : List Nat := (List.range 256).map (fun i => vd * 256 + i)
def State.offers (s : State) (n : Need) (vd : Nat) : List Spot :=
  if (s.die vd).stopped then [] else (dieTiles vd).filterMap (s.offer n)

/-- Places of a whole launch: a rectangle, or the first tiles that qualify. -/
def rectSpots (offers : List Spot) (vd w h : Nat) : Option (List Spot) :=
  let at_ (r c : Nat) : Option Spot := offers.find? (fun o => o.tile == vd * 256 + r * 16 + c)
  let tryAt (r0 c0 : Nat) : Option (List Spot) := (List.range (w * h)).mapM (fun i => at_ (r0 + i / w) (c0 + i % w))
  (List.range (17 - h)).findSome? (fun r0 => (List.range (17 - w)).findSome? (fun c0 => tryAt r0 c0))
def State.spots (s : State) (n : Need) (vd w h : Nat) (rect : Bool) : Option (List Spot) :=
  let os := s.offers n vd
  if rect then rectSpots os vd w h else if w * h ≤ os.length then some (os.take (w * h)) else none

/-! ### Admission (R308-R311) -/

/-- A queue's head: the oldest launch not yet admitted or ended. -/
def Launch.waiting (l : Launch) : Bool := l.state == .check || l.state == .depWait || l.state == .ready
def LaunchUnit.head (L : LaunchUnit) (q : Nat) : Option Launch := L.launches.find? (fun l => l.queue == q && l.waiting)
def LaunchUnit.isHead (L : LaunchUnit) (l : Launch) : Bool := (L.head l.queue).map (·.id) == some l.id

/-- Age counting starts when a launch is READY at its queue's head. -/
def State.startAges (s : State) (vd : Nat) : State :=
  s.modLu vd (fun L => { L with launches := L.launches.map (fun l => if l.state == .ready && l.since.isNone && L.isHead l then { l with since := some (s.clock vd) } else l) })

/-- EP of R308. -/
def State.ep (s : State) (vd : Nat) (l : Launch) : Nat :=
  max l.pri (s.qMaxpri vd l.queue) - (s.clock vd - l.since.getD (s.clock vd)) / max 1 (s.die vd).agep.toNat

def State.underQuota (s : State) (vd : Nat) (l : Launch) : Bool := decide (s.live vd l.asid + l.crews ≤ s.maxc vd l.asid)

/-- ADMASK: dies to which admission is not stopped (R342, R346). -/
def State.admask (s : State) (vd : Nat) : Nat := s.reg (iodOf vd) 0x121020

/-- A die that HOLD of another launch keeps for it (R311). -/
def State.heldFor (s : State) (vd die : Nat) (l : Launch) : Bool :=
  s.ep vd l != 0 && (s.lu vd).launches.any (fun x => x.hold && x.id != l.id && x.diemask.testBit die)

def Launch.need (l : Launch) : Need := ⟨l.crewN, l.scratch, l.ossz, l.nacc⟩

/-- The die with the most qualifying tiles, the lowest vd among equals (R313). -/
def bestDie (s : State) (n : Need) (ds : List Nat) : Option Nat :=
  (ds.foldl (fun (a : Option (Nat × Nat)) d =>
    let c := (s.offers n d).length
    match a with
    | none => some (d, c)
    | some (e, m) => if m < c then some (d, c) else some (e, m)) none).map (·.1)

/-- Send an ADMITTED launch to the next die, or let it wait for capacity, which after AGEP cycles may set HOLD. -/
def State.trySend (s : State) (vd : Nat) (l : Launch) : State :=
  let ds := (List.range 4).filter (fun d => l.diemask.testBit d && (s.admask vd).testBit d && !l.tried.contains d && !s.heldFor vd d l && wbit (s.drt vd d) 0)
  match bestDie s l.need ds with
  | none =>
    let ev := evTK .launchHold vd l.id
    if l.hold || s.timed ev then s else s.after vd (s.die vd).agep.toNat ev
  | some d =>
    let m : Msg := { Msg.zero with src := luEid s vd, dst := s.eid d 0, tag := 65535, aux0 := BitVec.ofNat 64 l.id, aux1 := BitVec.ofNat 64 l.saveBase, data := l.bytes }
    (s.modLaunch vd l.id (fun l => { l with state := .sent, tried := l.tried ++ [d], left := l.crews })).send .req .launch m

/-- ADMITTED launches try the dies they have not tried. -/
def State.retryAdmitted (s : State) (vd : Nat) : State :=
  ((s.lu vd).launches.filter (fun l => l.state == .admitted)).foldl (fun s l => s.trySend vd l) s

/-- The capacity of the package has changed: launches that no die could place try again (R307). -/
def State.pokeCapacity (s : State) : State :=
  [8, 9].foldl (fun (s : State) vd =>
    ((s.modLu vd (fun L => { L with launches := updWhere (fun l => l.state == .admitted) (fun l => { l with tried := [] }) L.launches })).retryAdmitted vd).pokeAdmission vd) s

/-- Admit the head of a queue: quota and save areas are taken (R307, R309). -/
def State.admitHead (s : State) (vd : Nat) (l : Launch) (area : Nat) : State :=
  let s1 := (s.setLive vd l.asid (s.live vd l.asid + l.crews)).modLaunch vd l.id (fun l => { l with state := .admitted, saveBase := area, tried := [] })
  match s1.launch? vd l.id with
  | some l1 => s1.trySend vd l1
  | none => s1

/-- Queues whose head may be chosen at a level, in queue order. -/
def State.choices (s : State) (vd level : Nat) : List (Nat × Launch × Nat) :=
  ((s.lu vd).launches.filter (fun l => l.state == .ready && (s.lu vd).isHead l && s.ep vd l == level && s.underQuota vd l)).filterMap (fun l =>
    (s.findArea vd l.queue (l.crews * l.area)).map (fun a => (l.queue, l, a)))

/-- Where a swapped crew may go: the die that last ran it, be it in its launch's DIEMASK or not, or the die R313 takes (R312). -/
def State.homeFor (s : State) (c : Crew) : Option Spot :=
  let dm := match s.launch? c.lu c.launch with
    | some l => l.diemask
    | none => 15
  let n : Need := ⟨c.slots.length, c.spsize, c.ossize, ((List.range 4).filter (fun b => wbit c.accmask b)).length⟩
  let can (d : Nat) : Bool := (s.admask c.lu).testBit d && wbit (s.drt c.lu d) 0 && !(s.offers n d).isEmpty
  match (if can (vdOf c.tile) then some (vdOf c.tile) else bestDie s n ((List.range 4).filter (fun d => dm.testBit d && can d))) with
  | none => none
  | some d => (s.offers n d).head?

/-- One level of R310: done (some), or go on to the next level (none). A swapped crew that no die can place keeps its turn before every
new launch of its level and of lower ones (R162, R312). -/
def State.admitLevel (s : State) (vd level : Nat) : Option State :=
  let L := s.lu vd
  let ev := evT .admissionChoice vd
  let again (s : State) : State := (s.unTimer ev).after vd 1 ev
  match L.readmit.find? (fun c => (match s.launch? c.lu c.launch with | some l => max l.pri (s.qMaxpri vd l.queue) == level | none => level == 0)) with
  | some c =>
    if (s.homeFor c).isNone then some (if s.timed ev then s else s.after vd 1024 ev)
    else some (again ((s.modLu vd (fun L => { L with readmit := dropFirst (fun x => x.id == c.id) L.readmit })).emit (evTK .crewRestore vd c.id.toNat)))
  | none =>
    let cs := s.choices vd level
    let ptr := mget 0 L.ptr level
    let pick := match cs.foldl (fun (a : Option (Nat × Launch × Nat)) (c : Nat × Launch × Nat) => if ptr ≤ c.1 && (match a with | some x => decide (c.1 < x.1) | none => true) then some c else a) none with
      | some c => some c
      | none => cs.foldl (fun (a : Option (Nat × Launch × Nat)) (c : Nat × Launch × Nat) => if (match a with | some x => decide (c.1 < x.1) | none => true) then some c else a) none
    match pick with
    | none => none
    | some (q, l, area) =>
      let d0 := mget 0 L.deficit q
      let d := if mget 0 L.lastq level = q + 1 then d0 else min 511 (d0 + 64)
      let s1 := s.modLu vd (fun L => { L with deficit := mset 0 L.deficit q d })
      if l.crews ≤ d then
        some (again ((s1.modLu vd (fun L => { L with deficit := mset 0 L.deficit q (d - l.crews), lastq := mset 0 L.lastq level (q + 1) })).admitHead vd l area))
      else some (again (s1.modLu vd (fun L => { L with ptr := mset 0 L.ptr level (q + 1), lastq := mset 0 L.lastq level 0 })))

/-- A SPAWN's launch that fails the quota ends (R309). -/
def State.spawnQuota (s : State) (vd : Nat) : State :=
  ((s.lu vd).launches.filter (fun l => l.state == .ready && l.spawner.isSome && (s.lu vd).isHead l && !s.underQuota vd l)).foldl (fun s l => s.endLaunch vd l 1) s

/-- DEF of a queue with an empty ring is 0 (R310). -/
def State.emptyRings (s : State) (vd : Nat) : State :=
  s.modLu vd (fun L => { L with deficit := L.deficit.filter (fun p => s.qHead vd p.1 != s.qTail vd p.1 || L.launches.any (fun l => l.queue == p.1 && l.waiting)) })

/-- The admission choice of this cycle (R310). -/
def State.admitOnce (s : State) (vd : Nat) : State :=
  let s1 := (((s.startAges vd).spawnQuota vd).startAges vd).emptyRings vd
  match (List.range 4).findSome? (fun level => s1.admitLevel vd level) with
  | some s2 => s2.modLu vd (fun L => { L with chosenAt := some (s.clock vd) })
  | none => s1

/-- Has this cycle had its choice? -/
def State.chosen (s : State) (vd : Nat) : Bool := (s.lu vd).chosenAt == some (s.clock vd)

/-- ADMISSION_CHOICE at I/O die t, at most one in a cycle (R310); n = 1: the capacity of the package has changed, 2: a HOLD has cleared, 3: the
QCW post of a launch has been performed and its queue's vector v is sent (R349). -/
def admissionChoice (s : State) : State :=
  let vd := s.arg.t
  let ev := evT .admissionChoice vd
  match s.arg.n with
  | 1 => s.pokeCapacity
  | 2 => s.retryAdmitted vd
  | 3 => s.msix vd s.arg.v
  | _ => if s.chosen vd then (if s.timed ev then s else s.after vd 1 ev) else s.admitOnce vd
def execAdmissionChoice (s : State) : Out := .next (admissionChoice s)

/-- LAUNCH_HOLD (R311): t the I/O die, k the launch; its timer runs from when no die could place it. -/
def launchHold (s : State) : State :=
  let vd := s.arg.t
  match s.launch? vd s.arg.k with
  | none => s
  | some l =>
    if l.state != .admitted then s
    else if s.ep vd l = 0 then s.modLaunch vd l.id (fun l => { l with hold := true })
    else s.after vd (s.die vd).agep.toNat (evTK .launchHold vd l.id)
def execLaunchHold (s : State) : Out := .next (launchHold s)

/-! ### Answers from the dies (R307, R316) -/

/-- LDONE at the thread that spawned (R291). -/
def State.spawnDone (s : State) : State :=
  let m := s.msg; let t := s.dstTile
  match (s.slot t m.slot).getPend m.tag with
  | some ⟨tag, _, _, _, .spawn rd⟩ => s.outcome t m.slot tag rd (BitVec.ofNat 32 m.aux0.toNat)
  | _ => s

/-- Result of every cancel that waited for the die (R317). -/
def State.cancelAnswers (s : State) (vd : Nat) (l : Launch) (v : Nat) : State :=
  l.cancelTo.foldl (fun s pa => s.agentResult vd pa v) (s.modLaunch vd l.id (fun l => { l with cancelTo := [] }))

def ldoneAccept (s : State) : State :=
  let m := s.msg
  if isComputeTile (eidTile m.dst) then s.spawnDone
  else
    let vd := eidDie m.dst
    match s.launch? vd (dfld m.aux0 32 32) with
    | none => s
    | some l => ((s.modLaunch vd l.id (fun l => { l with state := .running, hold := false })).cancelAnswers vd l 1).unheld vd l
def execLdoneAccept (s : State) : Out := .next (ldoneAccept s)

/-- A cancelled launch (R317). -/
def State.cancelLaunch (s : State) (vd : Nat) (l : Launch) : State :=
  (s.cwlaPost vd l (l.crews * l.cwadd % 2 ^ 63) true).endLaunch vd l 6

def ldoneRefuse (s : State) : State :=
  let m := s.msg
  if isComputeTile (eidTile m.dst) then s.spawnDone
  else
    let vd := eidDie m.dst
    match s.launch? vd (dfld m.aux0 32 32) with
    | none => s
    | some l =>
      if l.cancelTo.isEmpty then (s.modLaunch vd l.id (fun l => { l with state := .admitted })).trySend vd { l with state := .admitted }
      else ((s.cancelAnswers vd l 0)).cancelLaunch vd { l with cancelTo := [] }
def execLdoneRefuse (s : State) : Out := .next (ldoneRefuse s)

/-- A crew retired or failed (AUX0[2] error): quota back, and the launch ends with its last crew. -/
def ldoneRetire (s : State) : State :=
  let m := s.msg
  let vd := eidDie m.dst
  match s.launch? vd (dfld m.aux0 32 32) with
  | none => s
  | some l =>
    let err := l.err || m.aux0.getLsbD 2
    let s1 := s.setLive vd l.asid (s.live vd l.asid - 1)
    if 1 < l.left then ((s1.modLaunch vd l.id (fun l => { l with left := l.left - 1, err := err })).pokeCapacity).pokeAdmission vd
    else
      ((s1.modLaunch vd l.id (fun l => { l with left := 0, err := err })).endLaunch vd { l with state := .running } (if err then 7 else 0)).pokeCapacity
def execLdoneRetire (s : State) : Out := .next (ldoneRetire s)

/-- A crew was swapped out: its tile's place is free (R331). -/
def ldoneSwap (s : State) : State := s.pokeCapacity
def execLdoneSwap (s : State) : Out := .next (ldoneSwap s)

/-! ### Cancels (R317) -/

/-- LAUNCH_CANCEL: t the I/O die's number, the descriptor in desc. A choice of the same cycle comes first. -/
def launchCancel (s0 : State) : State :=
  let vd := iodVd s0.arg.t
  let d := s0.arg.desc.toNat
  let s := if s0.chosen vd then s0 else s0.admitOnce vd
  let pa := nfld d 64 56
  match s.launch? vd (nfld d 0 32) with
  | none => s.agentResult vd pa 2
  | some l =>
    match l.state with
    | .running => s.agentResult vd pa 1
    | .ended => s.agentResult vd pa 1
    | .sent => s.modLaunch vd l.id (fun l => { l with cancelTo := l.cancelTo ++ [pa] })
    | _ => (s.agentResult vd pa 0).cancelLaunch vd l
def execLaunchCancel (s : State) : Out := .next (launchCancel s)

/-- Every launch of the package ends with error (R341, R357). -/
def State.endAllLaunches (s : State) : State :=
  [8, 9].foldl (fun (s : State) vd => ((s.lu vd).launches.filter (fun l => l.state != .ended)).foldl (fun s l => (s.cancelAnswers vd l 1).endLaunch vd l 7) s) s

end Sys2Proof.Machine
end

