-- ==== Sys2Proof/Machine/Crew.lean ====
section
/-! DEFINITION. Crews on a die: dispatch (R313-R315), retirement (R82, R253, R316), swap (R330-R333), restore (R335, R337),
forwarding entries (R334) and live migration (R336). -/

namespace Sys2Proof.Machine
open Sys2Proof

/-! ### Finding and changing a crew -/

def State.crewAt (s : State) (vd id : Nat) : Option Crew := (s.die vd).crews.find? (fun c => c.id.toNat == id)
def State.modCrew (s : State) (vd id : Nat) (f : Crew → Crew) : State :=
  s.modDie vd (fun D => { D with crews := updWhere (fun c => c.id.toNat == id) f D.crews })
/-- The running crew with an identifier, on any compute die. -/
def State.findCrew (s : State) (id : Nat) : Option Crew := (List.range 4).findSome? (fun vd => s.crewAt vd id)

def bitsOf (n mask : Nat) : List Nat := (List.range n).filter (fun b => mask.testBit b)
def Crew.mask (c : Crew) : Nat := maskOf c.slots
def Crew.banks (c : Crew) : List Nat := bitsOf 4 c.accmask.toNat
def Crew.vd (c : Crew) : Nat := vdOf c.tile

/-! ### Dispatch (R314, R315) -/

/-- Registers and CSRs of thread n of a crew at dispatch. -/
def Launch.thread (l : Launch) (c : Crew) (n : Nat) : Slot :=
  let xy : Word := BitVec.ofNat 32 (c.index / l.w * 256 + c.index % l.w)
  let g0 := segOfNat l.sg0
  let sg0 := if g0.s then { g0 with base := BitVec.ofNat 48 (c.spbase + g0.base.toNat % 2 ^ 22) } else g0
  let regs : List Word := [BitVec.ofNat 32 c.index, l.argument, xy, BitVec.ofNat 32 n, BitVec.ofNat 32 l.slices]
  { occ := .thread, run := .ready, pc := 0, st := stSetPL 0 l.pl, rngs := 1, lcoord := xy, crewid := c.id, asid := l.asid,
    spbase := c.spbase, spsize := c.spsize, osbase := c.osbase, ossize := c.ossize, savea := BitVec.ofNat 64 c.savea, accmask := c.accmask,
    sg := mset {} (mset {} [] 0 sg0) 7 (segOfNat l.sg7),
    g := ((List.range 5).zip regs).foldl (fun m p => mset 0 m (p.1 + 1) p.2) [] }

/-- A crew takes its slots. -/
def State.seat (s : State) (c : Crew) (hs : List Slot) : State :=
  (c.slots.zip hs).foldl (fun s p => s.setSlot c.tile p.1 p.2) (s.modDie c.vd (fun D => { D with crews := D.crews ++ [c] }))

/-- The map word of a crew is written by its die's dispatcher; no thread issues before (R315). -/
def State.mapWord (s : State) (c : Crew) : State :=
  match s.launch? c.lu c.launch with
  | none => s
  | some l =>
    if l.mapla = 0 || c.recruit then s
    else
      let d := c.vd * 256; let pa := mget 0 l.pas 1 + 4 * c.index; let la := l.mapla + 4 * c.index
      let s1 := c.slots.foldl (fun (s : State) k => s.modSlot c.tile k (fun h => { h with frozen := true })) s
      let (tag, h) := (s1.slot d 7).addPend noPath pa la (.cw (mapCtx c.lu c.launch))
      let (dst, memd) := s1.homeOf c.vd pa
      (s1.setSlot d 7 h).send .req .wr { Msg.zero with src := s.tileEid d, dst := dst, slot := 7, asid := l.asid, memd := memd, tag := tag, pa := pa, len := 3, aux0 := BitVec.ofNat 64 (s.ctxName c.tile (c.slots.headD 0)) }

/-- Crew i of a launch on the tile it was given. -/
def State.placeCrew (s : State) (vd : Nat) (l : Launch) (saveBase i : Nat) (sp : Spot) : State :=
  let c : Crew := { id := s.nextCrew, tile := sp.tile, slots := sp.slots, launch := l.id, lu := vd, index := i, state := 0, err := false, spbase := sp.sp, spsize := l.scratch, osbase := sp.os, ossize := l.ossz, accmask := BitVec.ofNat 32 sp.mask, savea := saveBase + i * l.area, recruit := false, mig := none }
  ((({ s with nextCrew := s.nextCrew + 1 } : State).seat c ((List.range sp.slots.length).map (fun n => l.thread c n)))).mapWord c

/-- LAUNCH at a die: places for every crew, or a refusal. A launch whose map address is being walked again waits. -/
def launch (s : State) : State :=
  let m := s.msg
  let d := eidDie m.dst; let vd := eidDie m.src
  let say (s : State) (ok : Bool) : State := s.answer (if ok then .ldoneAccept else .ldoneRefuse) (fun r => { r with aux0 := BitVec.ofNat 64 (b2n (!ok) + m.aux0.toNat % 2 ^ 32 * 2 ^ 32) })
  match s.launch? vd m.aux0.toNat with
  | none => say s false
  | some l =>
    if l.mapla != 0 && l.unresolved.contains 1 then s.after d 1024 (evM .launch m)
    else match s.spots l.need d l.w l.h l.rect with
      | none => say s false
      | some sps => say (((List.range sps.length).zip sps).foldl (fun s p => s.placeCrew vd l m.aux1.toNat p.1 p.2) s) true
def execLaunch (s : State) : Out := .next (launch s)

/-! ### A crew leaves its tile -/

/-- Words in the FIFOs of slots, and those of theirs that wait in the message queue, oldest first in each channel. A FIFO that is emptied is dry from now on (R160). -/
def State.takeWords (s : State) (t : Nat) (slots : List Nat) : List (Bool × Msg) × State :=
  let chs := slots.flatMap (fun k => (List.range 4).map (fun c => 4 * k + c))
  let mine (q : Nat × Msg) : Bool := msgKind q.2 == 0 && chs.contains (msgCh q.2)
  let ws := chs.flatMap (fun ch => (s.fifo t ch).map (fun m => (true, m))) ++ ((s.tile t).msgq.filter mine).map (fun q => (false, q.2))
  let dryNow (d : SMap Nat) (ch : Nat) : SMap Nat := if (s.fifo t ch).isEmpty then d else mput d ch (s.clock (vdOf t))
  (ws, s.modTile t (fun T => { T with fifos := chs.foldl (fun f ch => mset [] f ch []) T.fifos, dryAt := chs.foldl dryNow T.dryAt, msgq := T.msgq.filter (fun q => !mine q) }))

/-- Slots, locks, power leaves and the place of a crew are free again; who waited for room looks again (R147, R331, R53, R307). -/
def State.vacate (s : State) (c : Crew) : State :=
  let t := c.tile
  let s1 := c.slots.foldl (fun (s : State) k =>
    let s1 := match (s.slot t k).leave with
      | some e => s.giveLeave (vdOf t) e
      | none => s
    ((s1.unlockAll t k).dropDivide t k).setSlot t k {}) s
  let s2 := s1.modDie (vdOf t) (fun D => { D with
    powerq := D.powerq.filter (fun q => !(q.1 == t && c.slots.contains q.2.1)), crews := D.crews.filter (fun x => !(x.id == c.id && x.tile == t)) })
  let s3 := (List.range 7).foldl (fun (s : State) _ => s.seatVisitor t) s2
  ((s3.unholdTile t).pokeTasks t).emitOnce capacityEvent

/-- What a tile tells a launch unit about a crew (R316, R331): the launch identifier is in AUX0[63:32] (log entry 78). -/
def State.reportCrew (s : State) (c : Crew) (i : Instr) (v : Nat) : State :=
  s.send .rsp i { Msg.zero with src := s.eid c.vd 0, dst := s.eid c.lu 1, tag := 65535, aux0 := BitVec.ofNat 64 (v + c.launch % 2 ^ 32 * 2 ^ 32) }

/-- Can the crew's completion post be made? Not while CWLA is being walked again (R304, R306). -/
def State.postReady (s : State) (c : Crew) : Bool := !(s.launch? c.lu c.launch).any (fun l => l.cwen && l.unresolved.contains 4)

/-- The crew's own completion post, made by its tile (R304, R316). -/
def State.crewPost (s : State) (c : Crew) (err : Bool) : State :=
  match s.launch? c.lu c.launch with
  | none => s
  | some l =>
    if !l.cwen then s
    else
      let pa := mget 0 l.pas 4
      let (dst, memd) := s.homeOf c.vd pa
      let (tag, h) := (s.slot c.tile 7).addPend noPath pa l.cwla (.cw noCtx)
      (s.setSlot c.tile 7 h).send .req .cwpost { Msg.zero with src := s.tileEid c.tile, dst := dst, slot := 7, memd := memd, asid := l.asid, tag := tag, pa := pa, aux0 := BitVec.ofNat 64 l.cwadd, attr := BitVec.ofNat 32 (b2n err) }

/-! ### Retirement (R82, R147, R253) -/

/-- What a retiring crew does with one of its entries. A release waits for the writes of its commands to the copy, as REL does (R76). -/
def State.giveBack (s : State) (c : Crew) (e : RngEntry) : State :=
  let t := c.tile; let k := c.slots.headD 0
  let m := s.mgrMsg t k e.grec 65535
  if e.st = 2 && s.copyBusy t e then s
  else if e.st = 2 || e.st = 3 then
    (s.modTile t (fun T => T.rngMod k e.grec (fun x => { x with st := 6, own := x.own || e.st == 2 }))).send .req .relreq (msgWithMap { m with attr := BitVec.ofNat 32 (b2n (e.st == 2)) } e.dirty)
  else if e.pending then
    if e.prev = 6 then s
    else (s.modTile t (fun T => T.rngMod k e.grec (fun x => { x with prev := 6 }))).send .req .wdraw { m with slot := e.reqSlot }
  else if (e.st = 4 || e.st = 5) && e.owns then s.writeBack t e
  else if e.st = 5 then s.modTile t (fun T => T.rngDrop k e.grec)
  else s

def State.crewEntries (s : State) (c : Crew) : List RngEntry := (s.tile c.tile).rng.filter (fun e => c.slots.any e.mine)

/-- Watches and applied-sequence queries of a slot are cancelled (R250): a cancel is sent once, and a query is taken back where
it waits. -/
def State.cancelWatches (s : State) (t k : Nat) : State :=
  (s.slot t k).pend.foldl (fun (s : State) p =>
    match p.kind with
    | .watch _ _ =>
      if p.path = noPath then
        (s.modSlot t k (fun h => { h with pend := updWhere (fun q => q.tag == p.tag) (fun q => { q with path := 11 }) h.pend })).send .req .watchCancel { s.mgrMsg t k p.pa p.tag with attr := 1 }
      else s
    | .mcseq _ _ =>
      let mine (w : Nat × Msg) : Bool := w.2.src == s.tileEid t && w.2.slot == k && w.2.tag == p.tag
      [8, 9].foldl (fun (s : State) vd =>
        if (s.die vd).mc.waiters.any mine then (s.modDie vd (fun D => { D with mc := { D.mc with waiters := D.mc.waiters.filter (fun w => !mine w) } })).settle t k p.tag else s) s
    | _ => s) s

/-- Requests of a slot that are still awaited: everything but cancelled ones, and words sent whose acknowledgement may come later
(log entry 40). -/
def awaited (p : Pend) : Bool :=
  p.path != settledPath && (match p.kind with
    | .send => false
    | .channel _ => false
    | _ => true)

/-- Engine commands, copies and tasks of a crew that have not ended (R253). -/
def State.crewWorks (s : State) (c : Crew) : Bool :=
  let T := s.tile c.tile
  s.tiles.any (fun p => p.2.mq.any (fun x => x.crew == c.id && (x.op == opTASK || p.1 == c.tile)) ) || T.vq.any (fun x => x.crew == c.id) ||
  (List.range 2).any (fun ch => let L := T.ladle ch; (L.active.toList ++ L.waiting).any (fun x => x.crew == c.id)) ||
  [8, 9].any (fun vd => (s.die vd).copyq.any (fun q => q.2.crew == c.id)) ||
  (List.range 4).any (fun vd => (s.die vd).tasks.any (fun q => q.2.crew == c.id))

/-- CREW_RETIRE: t the tile, k the crew. -/
def crewRetire (s : State) : State :=
  let t := s.arg.t
  match s.crewAt (vdOf t) s.arg.k with
  | none => s
  | some c =>
    if c.tile != t || (c.state != 0 && c.state != 2) || s.crewLive t c.slots then s
    else
      let s1 := s.modCrew c.vd c.id.toNat (fun c => { c with state := 2 })
      let s2 := (s1.crewEntries c).foldl (fun s e => s.giveBack c e) s1
      let s3 := c.slots.foldl (fun s k => s.cancelWatches t k) s2
      let busy := !(s3.crewEntries c).isEmpty || !s3.postReady c || c.slots.any (fun k => (s3.slot t k).pend.any awaited) || s3.crewWorks c || ((s3.tile t).div.any (fun d => c.slots.contains d.slot))
      let ev := evTK .crewRetire t c.id.toNat
      if busy then (if s3.timed ev then s3 else s3.after c.vd 16 ev)
      else
        let words := s3.takeWords t c.slots
        let s4 := words.1.foldl (fun s w => s.wrackTo w.2) words.2
        ((s4.crewPost c c.err).vacate c).reportCrew c .ldoneRetire (2 + 4 * b2n c.err)
def execCrewRetire (s : State) : Out := .next (crewRetire s)

/-! ### Quiet before a move (R331 steps 1-4, R81, R108, R250) -/

def parkedFault (h : Slot) : Bool := h.run == .parked && (let r := stPARK h.st; r == pPAGE || r == pTABLE || r == pMIGRATE)
def Slot.live (h : Slot) : Bool := h.run != .halted && h.run != .killed

/-- A crew with a share in an unfinished MMAG is not moved. -/
def State.inGang (s : State) (c : Crew) : Bool :=
  s.tiles.any (fun p => p.2.mq.any (fun x => x.op == opMMAG && ((p.1 == c.tile && c.slots.contains x.slot) || x.members.any (fun m => m.1 == c.tile && c.slots.contains m.2))))

/-- Guard entries before a save: requests are withdrawn, copies go home, mere copies are dropped. `prev` 8 marks a withdrawal under way. -/
def State.quietEntry (s : State) (c : Crew) (e : RngEntry) : State :=
  let t := c.tile; let k := c.slots.headD 0
  if e.pending then
    if e.prev = 7 || e.prev = 8 then s
    else (s.modTile t (fun T => T.rngMod k e.grec (fun x => { x with prev := 8 }))).send .req .wdraw { s.mgrMsg t k e.grec 65534 with slot := e.reqSlot }
  else if (e.st = 4 || e.st = 5) && e.owns then s.writeBack t e
  else if e.st = 5 then s.modTile t (fun T => T.rngDrop k e.grec)
  else s

/-- Has a predicted path resolved, and is the thread at home? -/
def State.settledSlot (s : State) (t k : Nat) : Bool :=
  let h := s.slot t k
  h.shadow.isNone && h.cbuf.isEmpty && h.occ == .thread && h.move.isNone

/-- May this request stay open over a move? A withdrawn acquire, a cancelled watch, a barrier that was counted, or a word that has reached
the FIFO or the message queue of its tile, where it is performed (R86, R87); that one is acknowledged later, when it is taken (R159). -/
def State.mayStay (s : State) (t k : Nat) (p : Pend) : Bool :=
  match p.kind with
  | .acquire _ => ((s.tile t).rngAt k p.pa).any (fun e => e.pending && e.prev == 7)
  | .send => p.path == noPath
  | .channel _ => p.path == noPath
  | _ => !awaited p
def Pend.isWatch (p : Pend) : Bool :=
  match p.kind with
  | .watch .. => true
  | .mcseq .. => true
  | _ => false

/-- An access that an I/O die's copy engine, or an NPOST of a thread, has outstanding for the crew (P5, P7: R108); a READ's writes follow when
its data come. -/
def State.unitsOut (s : State) (c : Crew) : Bool :=
  s.dies.any (fun d => d.2.outs.any (fun o => o.got.isNone && c.slots.any (fun k => o.ctx == s.ctxName c.tile k)) ||
    d.2.net.any (fun r => (!r.sent || !r.data.isEmpty || nfld (leNat r.wr) 0 2 == 1) && c.slots.any (fun k => r.ctx == s.ctxName c.tile k)))

/-- A copy between two of its steps of `step` bytes, or one that waits, has stopped or has ended. -/
def Copy.between (step : Nat) (c : Copy) : Bool := c.stopped != 0 || c.err != 0 || decide (c.total ≤ c.k) || (c.k % step == 0 && c.again.isEmpty)

/-- Have the crew's engine commands and copies stopped at their step boundaries (R276)? A tile task of the crew, which no thread's
queue holds and no save keeps, is waited for until it ends or has stopped. -/
def State.atBoundary (s : State) (c : Crew) : Bool :=
  (List.range 2).all (fun ch => ((s.tile c.tile).ladle ch).active.all (fun x => x.crew != c.id || x.between 4096)) &&
  [8, 9].all (fun vd => (s.die vd).copyq.all (fun q => q.2.crew != c.id || q.2.between 65536)) &&
  s.tiles.all (fun p => p.2.mq.all (fun x => x.op != opTASK || x.crew != c.id || x.stopped != 0))

/-- The power leaves of a crew and of its commands are returned (R331, step 1); a command asks again when it goes on. -/
def State.returnLeaves (s : State) (c : Crew) : State :=
  let t := c.tile
  let mine (x : EngCmd) : Bool := x.crew == c.id && x.op != opSHARE && x.op != opTASK && x.leave
  let s1 := c.slots.foldl (fun (s : State) k => match (s.slot t k).leave with
    | some e => (s.giveLeave (vdOf t) e).modSlot t k (fun h => { h with leave := none })
    | none => s) s
  [0, 1].foldl (fun (s : State) e =>
    (((s.tile t).engq e).filter mine).foldl (fun (s : State) x => s.giveLeave (vdOf t) x.energy)
      (s.modTile t (fun T => T.setEngq e (updWhere mine (fun x => { x with leave := false, ask := true }) (T.engq e))))) s1

/-- Is some bank of a partition locked by another than the crew's own engines (R37, R298)? -/
def State.partHeld (s : State) (t base size : Nat) : Bool := size != 0 && (s.tile t).bankHeld 8 base size

/-- Steps 1 to 4 of R331, each begun when those before it have ended: false while something is still awaited. -/
def State.quiesce (s : State) (c : Crew) : Bool × State :=
  let t := c.tile
  let s1 := c.slots.foldl (fun (s : State) k => (s.modSlot t k (fun h => { h with frozen := true })).recall t k) s
  if !(c.slots.all (s1.settledSlot t) && s1.atBoundary c) then (false, s1)
  else
    let s2 := ((s1.crewEntries c).foldl (fun s e => s.quietEntry c e) (s1.returnLeaves c))
    let open_ (s : State) (watch : Bool) : Bool := c.slots.any (fun k => (s.slot t k).pend.any (fun p => !s.mayStay t k p && (watch || !p.isWatch)))
    if !(s2.crewEntries c).all (fun e => e.held || (e.pending && e.prev == 7 && !e.wb)) then (false, s2)
    else if open_ s2 false || (s2.tile t).div.any (fun d => c.slots.contains d.slot) || s2.unitsOut c then (false, s2)
    else
      let s3 := c.slots.foldl (fun (s : State) k =>
        match (s.slot t k).poisoned with
        | some n => if (s.slot t k).live then s.kill t k 1 n else s
        | none => s) s2
      let s4 := c.slots.foldl (fun (s : State) k => s.cancelWatches t k) s3
      (!open_ s4 true, s4)

/-- The crew goes on where it is: withdrawn requests and cancelled watches are sent again. -/
def State.resend (s : State) (t k : Nat) : State :=
  (s.slot t k).pend.foldl (fun (s : State) p =>
    let open_ (s : State) : State := s.modSlot t k (fun h => { h with pend := updWhere (fun q => q.tag == p.tag) (fun q => { q with path := noPath }) h.pend })
    match p.kind with
    | .watch _ tv => (open_ s).send .req .watchInstall { s.mgrMsg t k p.pa p.tag with aux0 := BitVec.ofNat 64 tv }
    | .mcseq _ tv => (open_ s).send .req .mcseqreq { Msg.zero with src := s.tileEid t, dst := s.relay t, slot := k, asid := (s.slot t k).asid, tag := p.tag, attr := BitVec.ofNat 32 p.pa, aux0 := BitVec.ofNat 64 tv }
    | .acquire _ =>
      if ((s.tile t).rngAt k p.pa).any (fun e => e.pending && e.prev == 7) then
        (s.modTile t (fun T => T.rngMod k p.pa (fun e => { e with prev := 0, known := false, listed := 0, received := 0, granted := false, failedOnce := false, crc := none, demoted := false }))).sendAcq t k p.pa p.tag
      else s
    | _ => s) s

/-- The threads, commands and copies of a crew that stays where it is go on. -/
def State.thaw (s : State) (c : Crew) : State :=
  let s1 := c.slots.foldl (fun (s : State) k => (((s.modSlot c.tile k (fun h => { h with frozen := false })).resend c.tile k)).notify c.tile k) s
  s1.pokeSteps c.tile

/-! ### The save area (R56, R332) -/

def dwBytes (m : SMap DWord) (n : Nat) : List Byte := (List.range n).flatMap (fun i => leBytes 8 (mget 0 m i).toNat)

/-- A thread record: registers, segments, CSRs and engine registers. -/
def State.threadRecord (s : State) (t k : Nat) : List Byte :=
  let h := s.slot t k
  wordBytes h.pc ++ wordBytes h.st ++ wordBytes h.fe ++ (List.range 32).flatMap (fun r => wordBytes (h.greg r)) ++
  (List.range 8).flatMap (fun i => leBytes 16 (mget {} h.sg i).toNat) ++
  (List.range 512).flatMap (fun n => leBytes 8 (if n = 0x00B then h.instret.toNat else s.csrSlot t k n)) ++
  dwBytes h.mx 64 ++ dwBytes h.vx 64 ++ dwBytes h.lx 128 ++ dwBytes h.qx 32

/-- The fork continuation of R289. -/
def Fork.bytes (f : Fork) : List Byte :=
  wordBytes f.rpc ++ leBytes 4 f.n ++ leBytes 2 f.p ++ leBytes 1 (bitsOf 256 f.umap.toNat).length ++ leBytes 1 (f.seg + b2n f.v * 128) ++ wordBytes f.joff ++ leBytes 32 f.umap.toNat
def forkOf (bs : List Byte) : Fork :=
  let w (o n : Nat) : Nat := leNat ((bs.drop o).take n)
  if (w 11 1).testBit 7 then { v := true, rpc := BitVec.ofNat 32 (w 0 4), n := w 4 4, p := w 8 2, seg := w 11 1 % 8, joff := BitVec.ofNat 32 (w 12 4), umap := BitVec.ofNat 256 (w 16 32) } else {}

/-- A range-table entry's 32 bytes (R66). -/
def RngEntry.bytes (e : RngEntry) : List Byte :=
  leBytes 32 (1 + e.st * 2 + b2n e.own * 2 ^ 4 + e.sbs * 2 ^ 5 + e.nsbm1 * 2 ^ 7 + e.slots * 2 ^ 15 + e.asid * 2 ^ 22 + e.ver * 2 ^ 32 + e.grec / 64 * 2 ^ 64 + e.rbase * 2 ^ 128 + e.spoff * 2 ^ 192)

/-- Bit k for the thread k (slot order) that satisfies p. -/
def State.threadMask (s : State) (c : Crew) (p : Slot → Bool) : Nat :=
  maskOf ((List.range c.slots.length).filter (fun n => p (s.slot c.tile (c.slots.getD n 0))))

/-- The header. -/
def State.crewHeader (s : State) (c : Crew) (asid : Nat) : List Byte :=
  let h := s.slot c.tile (c.slots.headD 0)
  let f (o v : Nat) : Nat := v * 2 ^ (8 * o)
  leBytes 256 (f 0 c.id.toNat + f 4 asid + f 8 c.launch + f 12 c.slots.length + f 13 (s.threadMask c Slot.live) + f 14 (s.threadMask c (fun h => h.run == .killed)) +
    f 15 1 + f 16 (wfld h.lcoord 0 16) + f 18 (wfld c.accmask 0 4) + f 20 c.spsize + f 24 c.ossize + f 28 c.banks.length + f 29 (s.threadMask c parkedFault) +
    f 30 c.woken + f 31 c.kwake + (if c.mail then f 32 (rdLE s.mem (c.savea + 32) 4) else 0) + f 48 (s.tileEid c.tile) + f 52 (s.eid c.lu 1))

/-- Copy n bytes of memory, with their error marks; the read corrects and logs as every read does (R39). -/
def State.copyBytes (s0 : State) (src dst n ctx : Nat) : State :=
  let s := s0.readCheck src n ctx
  let inside (a x : Nat) : Bool := decide (a ≤ x) && decide (x < a + n)
  { s with
    mem := (s.mem.filter (fun c => inside src c.1)).foldl (fun m c => wrByte m (c.1 - src + dst) c.2) (s.mem.filter (fun c => !inside dst c.1))
    ecc := s.ecc.filter (fun w => !inside dst w) ++ (s.ecc.filter (fun w => inside src w)).map (fun w => w - src + dst) }

def accBytes (T : Tile) (bank : Nat) : List Byte := (List.range 4096).flatMap (fun i => leBytes 4 (mget 0 T.acc (bank * 4096 + i)).toNat)
def Tile.accLoad (T : Tile) (bank : Nat) (ws : List Word) : Tile :=
  { T with acc := ((List.range 4096).zip ws).foldl (fun m p => mset 0 m (bank * 4096 + p.1) p.2) T.acc }

/-- A captured command or copy stops at the boundary it stands at. -/
def EngCmd.rest (c : EngCmd) : EngCmd := { c with leave := false, ask := true }
def Copy.rest (c : Copy) : Copy := { c with k := c.resumeAt 4096, got := none }

/-- The crew's commands and copies in the tile's queues. -/
def State.crewCmds (s : State) (c : Crew) (e : Nat) : List EngCmd := ((s.tile c.tile).engq e).filter (fun x => x.crew == c.id && x.op != opSHARE && x.op != opTASK)
def State.crewCopies (s : State) (c : Crew) : List (Nat × Copy) :=
  (List.range 2).flatMap (fun ch => let L := (s.tile c.tile).ladle ch; ((L.active.toList ++ L.waiting).filter (fun x => x.crew == c.id)).map (fun x => (ch, x)))

/-- An engine's arrival for a slot of a crew that its tile holds until the thread's ARR clears (R152). -/
def State.crewArrival (s : State) (c : Crew) (e : Ev) : Bool :=
  e.i == .grpreqEngineArrival && !e.arg.ok && e.arg.msg.src == s.tileEid c.tile && c.slots.contains e.arg.msg.slot

/-- A slot as it leaves its tile: its words that are not yet acknowledged keep the slot they were sent from (R159). -/
def Slot.uprooted (t k : Nat) (h : Slot) : Slot :=
  { h with leave := none, pend := h.pend.map (fun p => if p.isWord && p.la == 0 then { p with la := sentFrom t k } else p) }

/-- What moves with a crew besides the bytes of its save area (log entry 37). -/
def State.image (s : State) (c : Crew) : Image :=
  { savea := c.savea, crew := c, slots := c.slots.map (fun k => (s.slot c.tile k).uprooted c.tile k),
    rng := s.crewEntries c, mq := (s.crewCmds c 0).map EngCmd.rest, vq := (s.crewCmds c 1).map EngCmd.rest, lads := (s.crewCopies c).map (fun q => (q.1, q.2.rest)),
    arrivals := ((s.tile c.tile).held.filter (s.crewArrival c)).map (·.arg.msg),
    asks := (((s.die (vdOf c.tile)).powerq.filter (fun q => q.1 == c.tile && c.slots.contains q.2.1)).map (·.2)) }

/-- The crew's range-table entries, commands and copies leave the tile; copies of the package copy engines wait (park reason 98 is
the model's own). -/
def State.uproot (s : State) (c : Crew) : State :=
  let t := c.tile
  let s1 := ((s.crewCmds c 0) ++ (s.crewCmds c 1)).foldl (fun (s : State) x => if x.leave then s.giveLeave (vdOf t) x.energy else s) s
  let keep (x : EngCmd) : Bool := !(x.crew == c.id && x.op != opSHARE && x.op != opTASK)
  let s2 := s1.modTile t (fun T => { T with
    held := T.held.filter (fun e => !s.crewArrival c e), rng := T.rng.filter (fun e => !c.slots.any e.mine), mq := T.mq.filter keep, vq := T.vq.filter keep,
    ladles := (List.range 2).foldl (fun m ch => let L : Ladle := mget {} T.ladles ch
      mset {} m ch { L with active := if L.active.any (fun x => x.crew == c.id) then none else L.active, waiting := L.waiting.filter (fun x => x.crew != c.id) }) T.ladles })
  let s3 := [8, 9].foldl (fun (s : State) vd => s.modDie vd (fun D => { D with copyq := D.copyq.map (fun q => if q.2.crew = c.id ∧ q.2.stopped = 0 then (q.1, { q.2 with stopped := 98 }) else q) })) s2
  let s4 := [0, 1].foldl (fun (s : State) e => (s.dropPower t (8 + e)).kick t e) s3
  ([0, 1].foldl (fun (s : State) ch => s.emitOnce (evTK .ladleCopyStart t ch)) s4).engFreed t

/-! ### Forwarding entries (R334) -/

/-- Room for an entry: one is free, or one that targets a tile may be replaced. -/
def Tile.fwdRoom (T : Tile) : Bool := decide (T.fwd.length < 64) || T.fwd.any (·.toTile)
def Tile.addFwd (T : Tile) (f : FwdEntry) : Tile :=
  if T.fwd.length < 64 then { T with fwd := f :: T.fwd }
  else
    let old := (T.fwd.filter (·.toTile)).foldl (fun (a : Option FwdEntry) x => match a with
      | none => some x
      | some y => if x.at_ < y.at_ then some x else some y) none
    { T with fwd := f :: T.fwd.filter (fun x => some x != old) }
def State.newFwd (s : State) (c : Crew) (toTile : Bool) (target : Nat) (slots : List (Nat × Nat)) (sp os : Nat) : FwdEntry :=
  { crew := c.id, slots := c.mask, spbase := c.spbase, spsize := c.spsize, osbase := c.osbase, ossize := c.ossize, toTile := toTile, target := target, newSlots := slots, newSp := sp, newOs := os, at_ := s.clock c.vd }
def fwdExpiry (t : Nat) (c : Word) : Ev := ⟨.forwardExpire, { t := t, v := c.toNat }⟩

def forwardExpire (s : State) : State :=
  s.modTile s.arg.t (fun T => { T with fwd := T.fwd.filter (fun f => !(f.toTile && f.crew.toNat == s.arg.v && decide (f.at_ + 2 ^ 24 ≤ s.clock (vdOf s.arg.t)))) })
def execForwardExpire (s : State) : Out := .next (forwardExpire s)

/-- A write of any path to n bytes at a: where it may wait on its way are the ingress of a die, a home that holds its word, and links. -/
def writesTo (a n : Nat) (i : Instr) (m : Msg) : Bool := [Instr.wr, .wrb, .rsv, .cwpost].contains i && decide (a ≤ m.pa) && decide (m.pa < a + n)
def cellWrites (a n : Nat) (c : Cell) : Bool :=
  let m := cellMsg c []
  (kindOf (nfld c.toNat 8 8) m).any (fun i => writesTo a n i m)
def State.writeUnderWay (s : State) (a n : Nat) : Bool :=
  let ev (e : Ev) : Bool := writesTo a n e.i e.arg.msg
  s.pool.any ev || s.egress.any (fun e => ev e.2) || s.dies.any (fun d => d.2.held.any ev || d.2.resvs.any (fun r => r.waiters.any ev)) ||
  s.links.any (fun l => l.2.txq.any (fun c => cellWrites a n c.2) || l.2.unacked.any (fun c => cellWrites a n c.2) || l.2.rx.any (fun c => cellWrites a n c))

/-- Partition images of the save area that the crew's entry on a tile leads to (R56): place and bytes. -/
def State.fwdImages (s : State) (t crew : Nat) : Option (Nat × Nat) :=
  ((s.tile t).fwd.find? (fun f => f.crew.toNat == crew && !f.toTile)).map (fun f => (s.canon f.target + 0x23100, f.ossize + f.spsize))

/-- ENGDONE once every write forwarded to the save area is performed (R335). -/
def State.fwdAnswer (s : State) (img : Option (Nat × Nat)) : State :=
  match img with
  | some (a, n) => if s.writeUnderWay a n then s.after (vdOf s.dstTile) 16 ⟨.engcmdFwdupd, { msg := s.msg, ok := false, v := a, n := n }⟩ else s.answer .engdone id
  | none => s.answer .engdone id

/-- ENGCMD FWDUPD (R335): its descriptor holds the crew in [31:0], the new tile in [55:32] and slots in [62:56], and the partition bases from
bit 64 on (log entry 160). -/
def engcmdFwdupd (s : State) : State :=
  let t := s.dstTile
  let d := leNat s.msg.data
  if !s.arg.ok then s.fwdAnswer (some (s.arg.v, s.arg.n)) else
  let up (f : FwdEntry) : FwdEntry := { f with toTile := true, target := nfld d 32 24, newSlots := (bitsOf 7 f.slots).zip (bitsOf 7 (nfld d 56 7)), newSp := nfld d 64 32, newOs := nfld d 96 32, at_ := s.clock (vdOf t) }
  ((s.modTile t (fun T => { T with fwd := updWhere (fun f => f.crew.toNat == nfld d 0 32 && !f.toTile) up T.fwd })).after (vdOf t) (2 ^ 24) (fwdExpiry t (BitVec.ofNat 32 (nfld d 0 32)))).fwdAnswer (s.fwdImages t (nfld d 0 32))
def execEngcmdFwdupd (s : State) : Out := .next (engcmdFwdupd s)

/-! ### Swap (R330, R331) -/

/-- Ask the launch unit to admit the crew again (R333). -/
def State.sendReadmit (s : State) (t : Nat) (savea : Nat) : State :=
  s.send .req .engcmdReadmit { Msg.zero with src := s.tileEid t, dst := rdLE s.mem (savea + 52) 3, tag := 65535, attr := 0xF1, data := leBytes 64 savea }

/-- A fault wake for thread n of an absent crew. -/
def State.wokeAbsent (s : State) (t savea n : Nat) (kill : Bool) : State :=
  let f := rdLE s.mem (savea + 29) 1
  let w := rdLE s.mem (savea + 30) 1 ||| 2 ^ n
  let s1 := { s with mem := wrLE s.mem (savea + 30) 1 w }
  let s2 := if kill then { s1 with mem := wrLE s1.mem (savea + 31) 1 (rdLE s1.mem (savea + 31) 1 ||| 2 ^ n) } else s1
  if f &&& w = f then s2.sendReadmit t savea else s2

/-- The writes of the context-save engine (P5, adaptive: R56, R90), line by line; slot 7 of the tile keeps them until they are performed.
A 64-byte part the tile cannot read goes with its poison. -/
def State.saveLines (s : State) (t asid a bad : Nat) (bs : List Byte) : State :=
  (List.range (cdiv bs.length 256)).foldl (fun (s : State) i =>
    let pa := a + 256 * i; let ln := (bs.drop (256 * i)).take 256
    let (dst, memd) := s.homeOf (vdOf t) pa
    let (tag, h) := (s.slot t 7).addPend noPath pa 0 (.cw noCtx)
    (s.setSlot t 7 h).send .bulk .wrb { wrbMsg (s.tileEid t) dst memd tag pa 0 ln.length ln with slot := 7, asid := asid, attr := BitVec.ofNat 32 (bad / 2 ^ (4 * i) % 16 * 2 ^ 24) }) s

/-- A partition image of a save area: read with its check, written line by line (R39, R332). -/
def State.savePart (s : State) (c : Crew) (asid src a n : Nat) : State :=
  let s1 := s.readCheck src n (s.ctxName c.tile (c.slots.headD 0))
  s1.saveLines c.tile asid a (s.badCells src n) (rdBytes s.mem src n)

/-- Lines of a save that are not yet performed. -/
def State.saving (s : State) (c : Crew) : Bool := (s.slot c.tile 7).pend.any (fun p => p.kind == .cw noCtx && decide (c.savea ≤ p.pa) && decide (p.pa < c.savea + 0x23100 + c.ossize + c.spsize))

/-- Step 6 of R331: the save area is written. The header's bytes of the wakes, and what is mailed to the crew, follow at step 7. -/
def State.saveCrew (s : State) (c : Crew) : State :=
  let t := c.tile; let a := c.savea
  let asid := (s.slot t (c.slots.headD 0)).asid
  let put (s : State) (o : Nat) (bs : List Byte) : State := s.saveLines t asid (a + o) 0 bs
  let free (s : State) (o n : Nat) : State := let f := s.freeBytes n; put f.2 o f.1
  let s1 := put s 0 (s.crewHeader c asid)
  let s2 := ((List.range c.slots.length).zip c.slots).foldl (fun (s : State) p =>
    let h := s.slot t p.2
    let o := 0x100 + 8192 * p.1
    put (put (put s o (s.threadRecord t p.2)) (o + 0x1E00) (h.fork.bytes ++ List.replicate 208 0)) (o + 0x1F00) [BitVec.ofNat 8 (b2n h.wl)]) s1
  let s3 := free (free s2 0xE100 1024) 0xE500 1024
  let es := (s3.crewEntries c).filter (·.held)
  let s4 := put s3 0xE900 ((es.flatMap RngEntry.bytes ++ List.replicate 2048 0).take 2048)
  let s5 := ((List.range 4).zip c.banks).foldl (fun (s : State) p => put s (0x13100 + 16384 * p.1) (accBytes (s.tile t) p.2)) s4
  let s6 := (s5.savePart c asid (s5.osPa t c.osbase) (a + 0x23100) c.ossize).savePart c asid (s5.spPa t c.spbase) (a + 0x23100 + c.ossize) c.spsize
  s6.modCrew c.vd c.id.toNat (fun c => { c with saved := true })

/-- Entries of the mailbox at save area a, oldest first. -/
def State.mailWords (s : State) (a : Nat) : List Nat :=
  let head := rdLE s.mem (a + 32) 2; let tail := rdLE s.mem (a + 34) 2
  (List.range ((tail + 256 - head) % 256)).map (fun i => rdLE s.mem (a + 0xF100 + 64 * ((head + i) % 256)) 64)

/-- An entry goes behind the others of a mailbox, where there is room. -/
def State.mailAgain (s : State) (a ent : Nat) : State :=
  let tail := rdLE s.mem (a + 34) 2
  if (tail + 1) % 256 = rdLE s.mem (a + 32) 2 then s
  else { s with mem := wrLE (wrLE s.mem (a + 0xF100 + 64 * tail) 64 ent) (a + 34) 2 ((tail + 1) % 256) }

/-- Steps 7 and 8 of R331: words no thread has read go to the mailbox, before entries of an earlier absence that still wait there (R335);
the forwarding entry is made, and what the crew held is free. A crew whose threads have all been woken is admitted again (R333). -/
def State.leaveCrew (s : State) (c : Crew) : State :=
  let t := c.tile; let a := c.savea
  let f := s.newFwd c false a [] 0 0
  let old := if c.mail then s.mailWords a else []
  let words := s.takeWords t c.slots
  let s1 := (words.2.homeWrite (a + 30) [BitVec.ofNat 8 c.woken, BitVec.ofNat 8 c.kwake]).homeWrite (a + 32) [0, 0, 0, 0]
  let s2 := words.1.foldl (fun s w => (s.mailbox (vdOf t) f (s.wordKind w.2) (msgCh w.2 / 4) w.2).wrackTo w.2) s1
  let s3 := old.foldl (fun s e => s.mailAgain a e) s2
  let s4 := { s3 with images := s3.images ++ [s3.image { c with state := 0, saved := false, mail := false, woken := 0, kwake := 0 }] }
  let s5 := (((s4.uproot c).modTile t (fun T => T.addFwd f)).vacate c).reportCrew c .ldoneSwap 3
  let fault := rdLE s5.mem (a + 29) 1
  if fault &&& c.woken = fault then s5.sendReadmit t a else s5

/-- Lines of a save, at most. -/
def Crew.saveSize (c : Crew) : Nat := cdiv (0x23100 + c.ossize + c.spsize) 256

/-- CREW_SWAP: t the tile, k the crew. It is looked at SWAPT cycles after a fault, and again until the swap is done or no thread
waits for a fault any more. -/
def crewSwap (s : State) : State :=
  let t := s.arg.t
  match s.crewAt (vdOf t) s.arg.k with
  | none => s
  | some c =>
    let hs := c.slots.map (s.slot t)
    let again (s : State) (n : Nat) : State := let ev := evTK .crewSwap t c.id.toNat; if s.timers.any (fun p => p.2.2 == ev && decide (p.2.1 ≤ s.clock c.vd + n)) then s else s.after c.vd n ev
    if c.tile != t || !hs.any parkedFault && c.state != 1 then s
    else if c.state = 1 then
      match s.quiesce c with
      | (false, s1) => again s1 16
      | (true, s1) =>
        let c1 := (s1.crewAt c.vd c.id.toNat).getD c
        if !s1.crewLive t c.slots && !c1.saved then (s1.modCrew c.vd c.id.toNat (fun c => { c with state := 0 })).emit (evTK .crewRetire t c.id.toNat)
        else if s1.saving c1 then again s1 16
        else if c1.saved then s1.leaveCrew c1
        else if s1.partHeld t c1.spbase c1.spsize || decide (tagLimit ≤ (s1.tile t).tagsUsed + c1.saveSize) then again s1 16
        else again (s1.saveCrew c1) 16
    else if c.state != 0 then s
    else
      let swapt := (s.die (vdOf t)).swapt.toNat
      let ready := hs.all (fun h => !h.live || h.run == .parked) && hs.any (fun h => parkedFault h && decide (h.parkedAt + swapt < s.clock (vdOf t)))
      if ready && !s.inGang c && (s.tile t).fwdRoom && c.mig.isNone then again (s.modCrew c.vd c.id.toNat (fun c => { c with state := 1, woken := 0, kwake := 0, saved := false })) 1
      else again s 1024
def execCrewSwap (s : State) : Out := .next (crewSwap s)

/-- ENGCMD READMIT at the launch unit (R312, R333). -/
def engcmdReadmit (s : State) : State :=
  let m := s.msg; let vd := eidDie m.dst
  let s1 := match s.images.find? (fun im => im.savea == leNat m.data) with
    | some im => if (s.lu vd).readmit.any (fun c => c.id == im.crew.id) then s else s.modLu vd (fun L => { L with readmit := L.readmit ++ [im.crew] })
    | none => s
  (s1.pokeAdmission vd).answer .engdone id
def execEngcmdReadmit (s : State) : Out := .next (engcmdReadmit s)

/-! ### A crew at its new place (R335 steps 4-7, log entry 41) -/

def mapSlot (old new : Crew) (k : Nat) : Nat := ((((old.slots.zip new.slots).find? (fun p => p.1 == k)).map (·.2))).getD k
def mapBank (old new : Crew) (b : Nat) : Nat := ((((old.banks.zip new.banks).find? (fun p => p.1 == b)).map (·.2))).getD b
/-- An S = 1 segment keeps its place in the partition. -/
def Seg.moved (old new : Crew) (g : Seg) : Seg := if g.s then { g with base := g.base - BitVec.ofNat 48 old.spbase + BitVec.ofNat 48 new.spbase } else g
def segsMoved (old new : Crew) (m : SMap Seg) : SMap Seg := m.map (fun p => (p.1, p.2.moved old new))
def wextMoved (old new : Crew) (w : List (Nat × Nat × Bool)) : List (Nat × Nat × Bool) := w.map (fun x => if x.2.2 then (x.1 - old.spbase + new.spbase, x.2) else x)

/-- The operand-store offsets of a command keep their place in the partition, its bank its place in the mask. -/
def EngCmd.moved (old new : Crew) (ctx : Nat) (c : EngCmd) : EngCmd :=
  let sh (w : Word) : Word := w - BitVec.ofNat 32 old.osbase + BitVec.ofNat 32 new.osbase
  let m := c.reg 0
  let aOs := ((c.op == opMMA || c.op == opMREDUCE) && m.testBit 7) || (c.op == opMSTORE && m.testBit 15)
  let bOs := c.op == opMMA && m.testBit 11
  { c with slot := mapSlot old new c.slot, ctx := ctx, segs := segsMoved old new c.segs, spbase := new.spbase, osbase := new.osbase,
           a := if c.op = opMZERO then BitVec.ofNat 32 (maskOf ((bitsOf 4 c.a.toNat).map (mapBank old new))) else if aOs then sh c.a else c.a, b := if bOs then sh c.b else c.b, wext := wextMoved old new c.wext,
           regs := if 256 ≤ c.op then c.regs else mset 0 c.regs 0 (BitVec.ofNat 64 (nput m 0 2 (mapBank old new (m % 4)))) }
def Copy.moved (old new : Crew) (ctx : Nat) (c : Copy) : Copy :=
  let sh (n : Nat) : SMap DWord := mset 0 c.regs n (BitVec.ofNat 64 ((c.reg n + 2 ^ 32 - old.osbase + new.osbase) % 2 ^ 32))
  { c with slot := mapSlot old new c.slot, ctx := ctx, segs := segsMoved old new c.segs, spbase := new.spbase, osbase := new.osbase,
           regs := if c.os then sh (if c.drain then 1 else 2) else c.regs, wext := wextMoved old new c.wext }
def RngEntry.moved (old new : Crew) (e : RngEntry) : RngEntry :=
  { e with slots := new.mask, spoff := e.spoff - old.spbase + new.spbase, reqSlot := mapSlot old new e.reqSlot, dirty := if e.st = 2 then BitVec.allOnes 256 else e.dirty }

/-- How a thread resumes (R327, R335): parked for the reason it left with, unless a slot wake or a visitor's return has come. One parked PAGE,
TABLE or MIGRATE is ready when its crew was absent, for then its wakes have come; over a live migration it waits on. What was not parked
issues again. -/
def Slot.resume (absent : Bool) (h : Slot) : Slot :=
  if !h.live then h
  else if h.run = .parked && stPARK h.st = pPARK then (if h.wl then { h.wake with wl := false } else h)
  else if h.run = .parked && !(parkedFault h && absent) && stPARK h.st != pVISITOR then h
  else h.wake

/-- A thread in its new slot; CYCLEH starts at 0 there (R171, log entry 176). -/
def Slot.moved (old new : Crew) (absent : Bool) (now : Nat) (h : Slot) : Slot :=
  { h.resume absent with parkedAt := now, spbase := new.spbase, osbase := new.osbase, accmask := new.accmask, sg := segsMoved old new h.sg, cycleh := 0, frozen := false, fetched := none, lastIssue := none, yielded := false }

/-- A group's SPAN widens for a member's new tile, as at JOIN (R151). -/
def State.widen (s : State) (t k : Nat) : State :=
  (List.range 8).foldl (fun (s : State) j =>
    let w := mget 0 (s.slot t k).gmem j
    let pa := gmemRec w
    if gmemV w && spaceOf pa = 0 then s.recPut pa 12 3 (max (uSPAN (s.rec_ pa)) (spanOf (uANCHOR (s.rec_ pa)) (s.tileEid t))) else s) s

/-- The swap timer of a crew with a thread that waits for a fault's wake (R330). -/
def State.armSwap (s : State) (c : Crew) : State :=
  if c.slots.any (fun k => parkedFault (s.slot c.tile k)) then s.swapTimer c.tile (c.slots.headD 0) else s

/-- Everything that is kept outside the slots follows a crew to its new place; the package's copies and tasks of the crew go on, power leaves
are asked for again, and a thread that still waits for a fault's wake has its swap timer. -/
def State.moveIn (s : State) (im : Image) (new : Crew) (absent : Bool) : State :=
  let old := im.crew; let t := new.tile
  let ctx (k : Nat) : Nat := s.ctxName t (mapSlot old new k)
  let s1 := (new.slots.zip im.slots).foldl (fun (s : State) p => s.setSlot t p.1 (p.2.moved old new absent (s.clock new.vd))) s
  let s2 := s1.modTile t (fun T => { T with
    rng := T.rng ++ im.rng.map (RngEntry.moved old new), mq := T.mq ++ im.mq.map (fun c => c.moved old new (ctx c.slot)), vq := T.vq ++ im.vq.map (fun c => c.moved old new (ctx c.slot)),
    ladles := im.lads.foldl (fun m q => let L : Ladle := mget {} m q.1; mset {} m q.1 { L with waiting := L.waiting ++ [q.2.moved old new (ctx q.2.slot)] }) T.ladles })
  let s3 := [8, 9].foldl (fun (s : State) vd =>
    (s.die vd).copyq.foldl (fun (s : State) q => if q.2.crew = new.id then s.emitOnce (copyEvent vd q.1) else s)
      (s.modDie vd (fun D => { D with copyq := D.copyq.map (fun q => if q.2.crew = new.id then (q.1, { q.2.moved old new (ctx q.2.slot) with stopped := 0 }) else q) }))) s2
  let retask (r : TaskRec) : TaskRec := if r.crew = new.id then { r with ctx := ctx (ctxSlot r.ctx) } else r
  let s4 := (List.range 4).foldl (fun (s : State) vd => s.modDie vd (fun D => { D with tasks := D.tasks.map (fun q => (q.1, retask q.2)) })) s3
  let s5 := { s4 with tiles := s4.tiles.map (fun p => (p.1, { p.2 with mq := p.2.mq.map (fun c => if c.op = opTASK ∧ c.crew = new.id then { c with ctx := ctx (ctxSlot c.ctx) } else c) })) }
  let s6 := new.slots.foldl (fun (s : State) k => s.widen t k) s5
  let arrive (m : Msg) : Ev := ⟨.grpreqEngineArrival, { msg := { m with src := s.tileEid t, slot := mapSlot old new m.slot, aux0 := BitVec.ofNat 64 (ctx m.slot) }, ok := false }⟩
  let s7 := [0, 1].foldl (fun (s : State) e => (s.kick t e).emitOnce (evTK .ladleCopyStart t e)) (s6.emits (im.arrivals.map arrive))
  let s8 := new.slots.foldl (fun (s : State) k => (s.resend t k).checkRetire t k) (s7.unholdTile t)
  let s9 := im.asks.foldl (fun (s : State) q => s.askPower t (mapSlot old new q.1) q.2) (s8.engFreed t)
  s9.armSwap new

/-! ### Restore (R335, R337) -/

def Crew.at_ (c : Crew) (sp : Spot) : Crew := { c with tile := sp.tile, slots := sp.slots, spbase := sp.sp, osbase := sp.os, accmask := BitVec.ofNat 32 sp.mask }

/-- Place an absent crew, and retarget its forwarding entry. A crew whose place has gone meanwhile keeps its turn (R162). -/
def State.restorePlace (s : State) (im : Image) : State :=
  let c := im.crew
  if (s.findCrew c.id.toNat).isSome then s
  else match s.homeFor c with
    | none => (s.modLu c.lu (fun L => { L with readmit := c :: L.readmit })).pokeAdmission c.lu
    | some sp =>
      let new := { c.at_ sp with state := 3 }
      let asid := (im.slots.headD {}).asid
      let hold : Slot := { occ := .thread, run := .parked, frozen := true, asid := asid, crewid := c.id, spbase := new.spbase, spsize := new.spsize, osbase := new.osbase, ossize := new.ossize, accmask := new.accmask }
      let s1 := s.seat new (new.slots.map (fun _ => hold))
      let s2 := s1.homeWrite (c.savea + 15) [2]
      let desc := leBytes 64 (c.id.toNat + s.tileEid new.tile * 2 ^ 32 + new.mask * 2 ^ 56 + new.spbase * 2 ^ 64 + new.osbase * 2 ^ 96)
      s2.send .req .engcmdFwdupd { Msg.zero with src := s.eid new.vd 0, dst := rdLE s.mem (c.savea + 48) 3, tag := c.id.toNat % 65536, attr := 0xF0, data := desc }

/-- A slot's registers from its thread record. -/
def Slot.ofRecord (h : Slot) (rd : Nat → Nat → Nat) : Slot :=
  let w (o : Nat) : Word := BitVec.ofNat 32 (rd o 4)
  let csr (n : Nat) : Nat := rd (268 + 8 * n) 8
  let cw (n : Nat) : Word := BitVec.ofNat 32 (csr n)
  let dws (o n : Nat) : SMap DWord := (List.range n).foldl (fun m i => mset 0 m i (BitVec.ofNat 64 (rd (o + 8 * i) 8))) []
  { h with
    pc := w 0, st := stBits (w 4), fe := w 8, g := (List.range 31).foldl (fun m r => mset 0 m (r + 1) (w (16 + 4 * r))) [],
    sg := (List.range 8).foldl (fun m i => mset {} m i (segOfNat (rd (140 + 16 * i) 16))) [],
    lcoord := cw 0x001, pfx := pfxBits (cw 0x004), rngs := cw 0x005, mxcnan := cw 0x006, mxcinf := cw 0x007, mxcsat := cw 0x008,
    instret := BitVec.ofNat 64 (csr 0x00B), instreth := cw 0x00C, chmap := cw 0x010,
    chpeer := (List.range 4).foldl (fun m i => mset 0 m i (cw (0x011 + i))) [],
    gmem := (List.range 8).foldl (fun m i => mset 0 m i (BitVec.ofNat 64 (csr (0x018 + i)))) [],
    tvec := cw 0x100, epc := cw 0x101, ecause := cw 0x102, eval := cw 0x103, estat := cw 0x104, timer := cw 0x105, escr := cw 0x106, epfx := cw 0x107,
    mx := dws 4364 64, vx := dws 4876 64, lx := dws 5388 128, qx := dws 6412 32,
    fork := forkOf ((List.range 48).map (fun i => BitVec.ofNat 8 (rd (0x1E00 + i) 1))), wl := (rd 0x1F00 1) % 2 == 1 }

/-- A mailbox entry as the message it was: already acknowledged, so that its tag stands for none. -/
def mailMsg (e asid : Nat) (new : Crew) : Msg :=
  { Msg.zero with src := nfld e 32 24, slot := nfld e 56 8, dst := 0, asid := asid, tag := 65535, aux0 := BitVec.ofNat 64 (nfld e 64 64),
                  attr := BitVec.ofNat 32 (4 * new.slots.getD (nfld e 16 8) 0 + nfld e 8 8 % 4 + (if nfld e 0 8 = 1 then 64 else 0)) }

/-- Mailbox entries are delivered in MHEAD order; the first that finds no room stays, and the rest behind it, until room frees (R335). -/
def State.openMailbox (a asid : Nat) (new : Crew) : Nat → State → State
  | 0, s => s
  | n + 1, s =>
    let set (b : Bool) (s : State) : State := s.modCrew new.vd new.id.toNat (fun c => { c with mail := b })
    match s.mailWords a with
    | [] => set false s
    | e :: _ =>
      match (if nfld e 0 8 = 1 then s.takeQueued new.tile (mailMsg e asid new) else s.takeWord new.tile (mailMsg e asid new)) with
      | none => (set true s).holdTile new.tile (evTKN .crewRestore new.lu new.id.toNat 2)
      | some s1 => openMailbox a asid new n { s1 with mem := wrLE s1.mem (a + 32) 2 ((rdLE s1.mem (a + 32) 2 + 1) % 256) }

/-- The end of a crew that cannot be restored (R337). -/
def State.restoreFailed (s : State) (im : Image) (new : Crew) : State :=
  let t := new.tile; let a := new.savea
  let s1 := (s.homeWrite (a + 15) [3]).logError (vdOf t) 22 true cRESTORE a (s.ctxName t (new.slots.headD 0))
  let s2 := (im.rng.filter (·.held)).foldl (fun (s : State) e =>
    if spaceOf e.grec = 0 then s.poisonGuard e.grec (e.st == 2)
    else s.send .req .relreq { s.mgrMsg t (new.slots.headD 0) e.grec 65535 with attr := BitVec.ofNat 32 (b2n (e.st == 2) + 16) }) s1
  let s3 := (new.slots.zip im.slots).foldl (fun (s : State) p => (s.setSlot t p.1 p.2).leaveAll t p.1) s2
  let s4 := { s3 with tiles := s3.tiles.map (fun p => (p.1, { p.2 with fwd := p.2.fwd.filter (fun f => f.crew != new.id) })), images := s3.images.filter (fun x => x.savea != a) }
  let s5 := [8, 9].foldl (fun (s : State) vd =>
    (s.die vd).copyq.foldl (fun (s : State) q => if q.2.crew = new.id then s.emitOnce (copyEvent vd q.1) else s)
      (s.modDie vd (fun D => { D with copyq := D.copyq.map (fun q => if q.2.crew = new.id then (q.1, { q.2 with stopped := 0, err := eCANCEL }) else q) }))) s4
  ((s5.crewPost new true).vacate new).reportCrew new .ldoneRetire 6

/-- Can the crew's map word be written? Not while MAPLA is being walked again (R306). -/
def State.mapReady (s : State) (c : Crew) : Bool := c.recruit || !(s.launch? c.lu c.launch).any (fun l => l.mapla != 0 && l.unresolved.contains 1)

/-- The image is read and the crew runs again; LAST names its new tile, and its die reports it running (R335; log entry 179). -/
def State.restoreRun (s : State) (im : Image) (new : Crew) : State :=
  let a := new.savea; let t := new.tile; let old := im.crew
  let n := 0x23100 + old.ossize + old.spsize
  if (s.eccBad a n || !wbit (s.drt new.vd (nfld (s.canon a) 37 2)) 0) && !s.postReady new then s.after new.lu 1024 (evTKN .crewRestore new.lu new.id.toNat 1)
  else if s.eccBad a n || !wbit (s.drt new.vd (nfld (s.canon a) 37 2)) 0 then s.restoreFailed im new
  else if !s.mapReady new || s.partHeld t new.spbase new.spsize then s.after new.lu 1024 (evTKN .crewRestore new.lu new.id.toNat 1)
  else
    let recs := ((List.range im.slots.length).zip im.slots).map (fun p => p.2.ofRecord (fun o m => rdLE s.mem (a + 0x100 + 8192 * p.1 + o) m))
    let kw := rdLE s.mem (a + 31) 1
    let kills (k : Nat) : Bool := kw.testBit (slotIndex old.mask k)
    let cmd (c : EngCmd) : EngCmd := if c.stopped = 0 then c else if kills c.slot && c.err = 0 then { c with stopped := 0, err := eFAULT } else { c with stopped := 0 }
    let cp (c : Copy) : Copy := if c.stopped = 0 then c else if kills c.slot && c.err = 0 then { c with stopped := 0, err := eFAULT } else { c with stopped := 0 }
    let hs := ((List.range recs.length).zip recs).map (fun p => if kw.testBit p.1 && p.2.live then { p.2 with pendMchk := some 5 } else p.2)
    let im1 := { im with slots := hs, mq := im.mq.map cmd, vq := im.vq.map cmd, lads := im.lads.map (fun q => (q.1, cp q.2)) }
    let s1 := { s with images := s.images.filter (fun x => x.savea != a) }
    let who := s.ctxName t (new.slots.headD 0)
    let s2 := ((s1.readCheck a 0x23100 who).copyBytes (a + 0x23100) (s1.osPa t new.osbase) old.ossize who).copyBytes (a + 0x23100 + old.ossize) (s1.spPa t new.spbase) old.spsize who
    let s3 := ((List.range 4).zip new.banks).foldl (fun (s : State) p => s.modTile t (fun T => T.accLoad p.2 ((List.range 4096).map (fun i => BitVec.ofNat 32 (rdLE s.mem (a + 0x13100 + 16384 * p.1 + 4 * i) 4))))) s2
    let latch (s : State) (p : Nat × Nat) : State := (bitsOf 8 (rdLE s.mem (a + 40 + p.1) 1)).foldl (fun (s : State) j => s.releaseMember t p.2 j ((s.slot t p.2).span j)) s
    let s4 := (s3.modCrew new.vd new.id.toNat (fun c => { c with state := 0 })).moveIn im1 new true
    let s5 := ((List.range new.slots.length).zip new.slots).foldl latch s4
    let s6 := (s5.openMailbox a (hs.headD {}).asid new 256).mapWord { new with state := 0 }
    ((s6.homeWrite (a + 15) [0]).homeWrite (a + 48) (leBytes 4 (s.tileEid t))).reportCrew new .ldoneAccept 0

/-- CREW_RESTORE: t the launch unit's die, k the crew, n 1 once LAST has answered, and 2 when room may have freed for its mailbox. -/
def crewRestore (s : State) : State :=
  if s.arg.n = 2 then match s.findCrew s.arg.k with
    | some c =>
      if !c.mail then s
      else if c.state != 0 then s.after c.vd 64 (evTKN .crewRestore c.lu c.id.toNat 2)
      else
        let s1 := s.openMailbox c.savea (s.slot c.tile (c.slots.headD 0)).asid c 256
        if (s1.crewAt c.vd c.id.toNat).any (·.mail) then s1 else s1.unholdTile c.tile
    | none => s
  else match s.images.find? (fun im => im.crew.id.toNat == s.arg.k) with
  | none => s
  | some im =>
    if s.arg.n = 0 then s.restorePlace im
    else match s.findCrew s.arg.k with
      | some new => if new.state = 3 then s.restoreRun im new else s
      | none => s
def execCrewRestore (s : State) : Out := .next (crewRestore s)

/-- ENGDONE at the dispatcher that sent FWDUPD; READMIT's answer needs nothing. -/
def engdone (s : State) : State :=
  let m := s.msg
  match (s.die (eidDie m.dst)).crews.find? (fun c => c.state == 3 && c.id.toNat % 65536 == m.tag) with
  | some c => s.emitOnce (evTKN .crewRestore c.lu c.id.toNat 1)
  | none => s
def execEngdone (s : State) : Out := .next (engdone s)

/-! ### Live migration (R336) -/

/-- The result word of a migration. -/
def State.migResult (s : State) (vd : Nat) (d : Desc) (v : Nat) : State := s.agentResult vd (nfld d.toNat 64 56) v
def migDies (d : Desc) : Nat := if nfld d.toNat 32 4 = 0 then 15 else nfld d.toNat 32 4

/-- The tile R313 gives a crew that moves. -/
def State.migSpot (s : State) (vd : Nat) (c : Crew) (d : Desc) : Option Spot :=
  let n : Need := ⟨c.slots.length, c.spsize, c.ossize, c.banks.length⟩
  let ds := (List.range 4).filter (fun x => (migDies d).testBit x && (s.admask vd).testBit x && wbit (s.drt vd x) 0 && !(s.offers n x).isEmpty)
  match bestDie s n ds with
  | none => none
  | some x => (s.offers n x).head?

/-- The context is streamed to the new tile, which LAST names from now on (R335, R336). -/
def State.stream (s : State) (c : Crew) (sp : Spot) : State :=
  let t := c.tile
  let im := s.image c
  let new := { c.at_ sp with state := 0, mig := none }
  let u := new.tile
  let banks := c.banks.map (fun b => (List.range 4096).map (fun i => mget 0 (s.tile t).acc (b * 4096 + i)))
  let who := s.ctxName t (c.slots.headD 0)
  let s1 := (s.copyBytes (s.spPa t c.spbase) (s.spPa u new.spbase) c.spsize who).copyBytes (s.osPa t c.osbase) (s.osPa u new.osbase) c.ossize who
  let s2 := (new.banks.zip banks).foldl (fun (s : State) p => s.modTile u (fun T => T.accLoad p.1 p.2)) s1
  let f := s2.newFwd c true (s.tileEid u) (c.slots.zip new.slots) new.spbase new.osbase
  let words := s2.takeWords t c.slots
  let s3 := words.2.uproot c
  let s4 := (s3.modTile t (fun T => T.addFwd f)).vacate c
  let s5 := ((s4.after (vdOf t) (2 ^ 24) (fwdExpiry t c.id)).seat new []).moveIn im new false
  let s6 := (im.rng.filter (fun e => e.st == 2)).foldl (fun (s : State) e =>
    s.send .req .wdraw { s.mgrMsg u (new.slots.headD 0) e.grec 65535 with attr := 8, aux0 := BitVec.ofNat 64 (s.tileEid u) }) s5
  let s7 := words.1.foldl (fun (s : State) w =>
    let m := { w.2 with dst := s.tileEid u, attr := wput w.2.attr 0 5 (4 * mapSlot c new (msgCh w.2 / 4) + msgCh w.2 % 4) }
    (s.takeWord u m).getD (s.emit (evM .msgData m))) s6
  let s8 := (s7.mapWord new).homeWrite (c.savea + 48) (leBytes 4 (s.tileEid u))
  if c.mail then s8.emit (evTKN .crewRestore c.lu c.id.toNat 2) else s8

/-- LIVE_MIGRATION: a descriptor at I/O die number t; or, with ok = false, t the tile and k the crew that is on its way. -/
def liveMigration (s : State) : State :=
  if s.arg.ok then
    let vd := iodVd s.arg.t; let d := s.arg.desc
    let id := nfld d.toNat 0 32
    match s.findCrew id with
    | none => s.migResult vd d (if s.images.any (fun im => im.crew.id.toNat == id) then 3 else 2)
    | some c =>
      if c.state = 2 then s.migResult vd d 2
      else if c.state != 0 || c.mig.isSome then s.migResult vd d 3
      else if (s.migSpot vd c d).isNone then s.migResult vd d 1
      else (s.modCrew c.vd id (fun c => { c with state := 4, mig := some (vd, d) })).emit ⟨.liveMigration, { t := c.tile, k := id, ok := false }⟩
  else
    match s.crewAt (vdOf s.arg.t) s.arg.k with
    | none => s
    | some c =>
      match c.mig with
      | none => s
      | some (vd, d) =>
        let ev : Ev := ⟨.liveMigration, { t := c.tile, k := s.arg.k, ok := false }⟩
        let stay (s : State) (v : Nat) : State := ((((s.modCrew c.vd s.arg.k (fun c => { c with state := 0, mig := none })).thaw c).migResult vd d v).checkRetire c.tile (c.slots.headD 0)).armSwap c
        if s.inGang c || !(s.tile c.tile).fwdRoom then s.after c.vd 64 ev
        else match s.quiesce c with
          | (false, s1) => s1.after c.vd 16 ev
          | (true, s1) =>
            if !s1.crewLive c.tile c.slots then stay s1 2
            else match s1.migSpot vd c d with
              | none => stay s1 1
              | some sp =>
                if !s1.mapReady c || s1.partHeld c.tile c.spbase c.spsize || s1.partHeld sp.tile sp.sp c.spsize then s1.after c.vd 16 ev
                else (s1.stream { (s1.crewAt c.vd c.id.toNat).getD c with state := 0, mig := none } sp).migResult vd d 0
def execLiveMigration (s : State) : Out := .next (liveMigration s)

end Sys2Proof.Machine
end

