-- ==== Sys2Proof/Machine/Walks.lean ====
section
/-! DEFINITION. Walks, invalidations and sweeps: PAGE_WALK (R25), the invalidation descriptors (R29, R30), fault records (R328)
and checkpoint sweeps (R343, R344). -/

namespace Sys2Proof.Machine
open Sys2Proof

/-! ### A walk (R25, R26, R31) -/

/-- PAGE_WALK: slot k of tile t, linear address v, kind n (R32). A fault parks the thread with its record. -/
def pageWalk (s : State) : State :=
  let t := s.arg.t; let k := s.arg.k; let la := s.arg.v; let kind := s.arg.n
  let h := s.slot t k
  let park (s : State) (r : Nat) : State := s.modSlot t k (fun h => if h.run = .ready then h.parkAs r (s.clock (vdOf t)) else h)
  match s.translate t h.asid la kind with
  | (.ok _ _, s1) => s1
  | (.fault c l e r, s1) => (park s1 r).sendFrec t k la h.asid l c 0 kind e
  | (.orWait e lvl addr, s1) => s1.sendOr t k h.asid la kind e lvl addr
  | (.askWait addr, s1) => s1.askNode t k h.asid la addr 8
  | (.walkWait, s1) => park s1 pWALKWAIT
  | (.sweepWait, s1) => (park s1 pPAGE).modSlot t k (fun h => if h.run = .parked then { h with parkReg := sweepStop } else h) |>.swapTimer t k
  | (.poisoned, s1) => s1.modSlot t k (fun h => { h with pendMchk := some 4 })
def execPageWalk (s : State) : Out := .next (pageWalk s)

/-! ### Invalidation at a die (R29, R30) -/

def invAsid_ (d : Nat) : Nat := nfld d 16 9
/-- Does a descriptor cover n bytes from a linear address in an ASID? -/
def invCovers (d asid la n : Nat) : Bool :=
  match nfld d 0 2 with
  | 0 => asid == invAsid_ d && overlaps la n (nfld d 64 48) (nfld d 128 32 * 4096)
  | 1 => asid == invAsid_ d
  | _ => true
def TlbEntry.covered (x : TlbEntry) (d : Nat) : Bool := invCovers d x.asid (x.page * 2 ^ leafBits x.level) (2 ^ leafBits x.level)

/-- The value of an entry read before a descriptor came: no address space has this number. -/
def staleAsid : Nat := 1023
/-- A walk that waits to mark a leaf in another home, or for an entry from there, starts again if a descriptor covers it (R30). -/
def Pend.abandon (d : Nat) (p : Pend) : Pend :=
  match p.kind with
  | .leafOr a k _ l => if invCovers d a p.la 1 then { p with kind := .leafOr a k (2 ^ 64) l } else p
  | .node a la => if invCovers d a la 1 then { p with kind := .node staleAsid la } else p
  | _ => p
def Slot.abandon (d : Nat) (h : Slot) : Slot := { h with pend := h.pend.map (Pend.abandon d) }

/-- Entries leave every TLB of a compute die, and walks that read an entry before are abandoned. -/
def State.dropTlb (s : State) (vd d : Nat) : State :=
  ({ s with tiles := s.tiles.map (fun p => if vdOf p.1 = vd then
      (p.1, { p.2 with tlb := p.2.tlb.filter (fun x => !x.covered d), nodes := p.2.nodes.filter (fun x => !invCovers d x.asid x.la 1), slots := p.2.slots.map (fun q => (q.1, q.2.abandon d)) }) else p) } : State).modDie vd
    (fun D => { D with ctlb := D.ctlb.filter (fun x => !x.2.covered d) })

/-- Walks of an I/O die's units that wait to mark a leaf, or for an entry, are abandoned, and what its network engine has translated for the
steps it is in is translated again. -/
def State.dropUnitWalks (s : State) (vd : Nat) : State :=
  let walks (o : UnitOut) : Bool := decide (16 ≤ o.path) || o.path == nodePath
  s.modDie vd (fun D => { D with outs := (D.outs.filter (fun o => !walks o || o.got.isNone)).map (fun o => if walks o then { o with la := 2 ^ 64 } else o), net := D.net.map (fun r => { r with step := [] }) })

/-- Is this an access made through a translation? A guarded region's writebacks are, and so is the read of a record. -/
def translated (p : Pend) : Bool :=
  match p.kind with
  | .load .. => true
  | .store _ => true
  | .atomic .. => true
  | .post .. => true
  | .released => true
  | .cw _ => true
  | .eng .. => true
  | .pull .. => true
  | .segld .. => true
  | .record _ => true
  | .binding .. => true
  | .wb _ => true
  | .watch .. => true
  | _ => false

/-- Accesses not yet performed that went through a translation of die vd: those of its tiles' threads and engines, and those a package
copy engine makes for its threads; of an I/O die, those of its own units. -/
def State.flying (s : State) (vd : Nat) : List (Nat × Nat × Nat) :=
  (s.tiles.filter (fun p => vdOf p.1 == vd)).flatMap (fun p => p.2.slots.flatMap (fun q => (q.2.pend.filter translated).map (fun x => (p.1, q.1, x.tag)))) ++
  s.dies.flatMap (fun p => (p.2.outs.filter (fun o => o.got.isNone && o.path < 16 && o.path != nodePath && (if o.path = 5 && o.ctx != noCtx then vdOf (ctxTile o.ctx) == vd else p.1 == vd))).map (fun o => (1024 + p.1, o.agent, o.tag)))
def State.stillFlying (s : State) (w : Nat × Nat × Nat) : Bool :=
  if w.1 < 1024 then ((s.slot w.1 w.2.1).getPend w.2.2).any translated
  else (s.die (w.1 - 1024)).outs.any (fun o => o.agent == w.2.1 && o.tag == w.2.2 && o.got.isNone)

def descOf (m : Msg) : Nat := m.aux0.toNat + m.aux1.toNat * 2 ^ 64 + m.aux2.toNat * 2 ^ 128 + m.aux3.toNat * 2 ^ 192
def invInstr (d : Nat) : Instr := if nfld d 0 2 = 1 then .invAsid else if nfld d 0 2 = 2 then .invAll else .invRange

/-- A die answers once everything that went through a removed translation is performed. -/
def State.drained (s : State) (vd : Nat) (m : Msg) : State :=
  match (s.die vd).drains.find? (fun x => x.msg == m) with
  | none => s
  | some x =>
    if x.waits.any s.stillFlying then s.after vd 16 ⟨invInstr (descOf m), { msg := m, ok := false }⟩
    else (s.modDie vd (fun D => { D with drains := dropFirst (fun x => x.msg == m) D.drains })).send .rsp .invdone (msgReply m)

/-- A launch unit translates again what a descriptor covers (R306). -/
def State.rewalkCovered (s : State) (vd d : Nat) : State :=
  ((s.lu vd).launches.filter Launch.holds).foldl (fun (s : State) l =>
    let keys := (l.uses.filter (fun u => invCovers d l.asid u.2.1 (if u.1 = 1 then 4 * l.crews else 64))).map (·.1)
    if keys.isEmpty then s else s.rewalk vd l keys) s

/-- Bound regions whose leaves have been changed are undefined from now on, whatever the tables say later (R65). -/
def State.checkRegions (s : State) (vd : Nat) : State := (s.die vd).guards.foldl (fun s pa => s.checkRegion pa) s

/-- A forwarded descriptor at a die. -/
def State.invAt (s : State) : State :=
  let m := s.msg; let vd := eidDie m.dst; let d := descOf m
  if !s.arg.ok then s.drained vd m
  else
    let s1 := if vd < 4 then (s.checkRegions vd).dropTlb vd d else (s.dropUnitWalks vd).rewalkCovered vd d
    (s1.modDie vd (fun D => { D with drains := D.drains ++ [⟨m, s.flying vd⟩] })).drained vd m

/-! ### The descriptor window (R29) -/

def invCw (d : Nat) : Nat := nfld d 192 56
def cwUsable (s : State) (vd pa : Nat) : Bool := pa % 8 == 0 && decide (spaceOf pa ≤ 2) && s.decodes vd pa
def invMalformed (d : Nat) : Bool :=
  nfld d 0 2 == 3 || nfld d 3 13 != 0 || nfld d 25 39 != 0 || nfld d 64 12 != 0 || nfld d 112 16 != 0 || nfld d 160 32 != 0 || nfld d 248 8 != 0 ||
  (nfld d 0 2 == 0 && nfld d 128 32 == 0)

/-- Dies a descriptor is forwarded to. -/
def State.invTargets (s : State) (vd : Nat) : List Nat := [0, 1, 2, 3, 8, 9].filter (fun x => x == vd || wbit (s.drt vd x) 0)

/-- Start the oldest descriptor of a die: a malformed one ends at once with error, and so do those behind it in turn. -/
def startInv : Nat → Nat → State → State
  | 0, _, s => s
  | f + 1, vd, s =>
    match (s.die vd).invs with
    | [] => s
    | v :: rest =>
      let d := v.desc.toNat
      if invMalformed d then
        startInv f vd ((s.modDie vd (fun D => { D with invs := rest })).agentPost vd 2 (invCw d) 1 true)
      else
        let ts := s.invTargets vd
        let w (j : Nat) : DWord := BitVec.ofNat 64 (d / 2 ^ (64 * j))
        ts.foldl (fun (s : State) x => s.send .fwd (invInstr d) { Msg.zero with src := s.eid vd 2, dst := s.eid x (if x < 8 then 0 else 2), aux0 := w 0, aux1 := w 1, aux2 := w 2, aux3 := w 3 })
          (s.modDie vd (fun D => { D with invs := { v with left := ts.length } :: rest }))

/-- A descriptor joins the queue of an I/O die. -/
def State.addInv (s : State) (vd : Nat) (d : Desc) (sweep : Option Nat) : State :=
  let idle := (s.die vd).invs.isEmpty
  let s1 := s.modDie vd (fun D => { D with invs := D.invs ++ [⟨nfld d.toNat 0 2, d, 0, sweep⟩] })
  if idle then startInv 65 vd s1 else s1

/-- INV_RANGE, INV_ASID and INV_ALL: a descriptor written to the window of I/O die number t, or its forwarded message. -/
def invalidate (s : State) : State :=
  if s.msg != Msg.zero then s.invAt
  else
    let vd := iodVd s.arg.t
    let pa := invCw s.arg.desc.toNat
    if !cwUsable s vd pa then s.logError vd 24 false cDOORBELL pa 0 else s.addInv vd s.arg.desc none
def execInvRange (s : State) : Out := .next (invalidate s)
def execInvAsid (s : State) : Out := .next (invalidate s)
def execInvAll (s : State) : Out := .next (invalidate s)

def sweepEvent (vd n : Nat) : Ev := ⟨.checkpointSweep, { t := iodOf vd, n := n, ok := false }⟩

/-- The head descriptor is done: its post, or the sweep it was for; the next one starts. -/
def State.invFinish (s : State) (vd : Nat) : State :=
  match (s.die vd).invs with
  | [] => s
  | v :: rest =>
    let s1 := s.modDie vd (fun D => { D with invs := rest })
    let s2 := match v.sweep with
      | some n => s1.emit (sweepEvent vd n)
      | none => s1.agentPost vd 2 (invCw v.desc.toNat) 1 false
    startInv 65 vd s2

/-- INVDONE. -/
def invdone (s : State) : State :=
  let vd := eidDie s.msg.dst
  match (s.die vd).invs with
  | [] => s
  | v :: rest =>
    if 1 < v.left then s.modDie vd (fun D => { D with invs := { v with left := v.left - 1 } :: rest })
    else
      let s1 := s.modDie vd (fun D => { D with invs := { v with left := 0 } :: rest })
      if v.desc.getLsbD 2 then s1.emit (evT .invWake vd) else s1.invFinish vd
def execInvdone (s : State) : Out := .next (invdone s)

/-- Every slot of the package's tiles. -/
def State.allSlots (s : State) : List (Nat × Nat) := s.tiles.flatMap (fun p => (List.range 8).map (fun k => (p.1, k)))

/-- Request `id` of the network engine of I/O die vd goes on (R354). -/
def netEvent (vd id : Nat) : Ev := ⟨.engineStep, { t := vd, k := 7, v := id }⟩

/-- Walks that wait for a descriptor with WAKE start again: threads parked for one, stopped engine steps and tile tasks, writebacks of guarded
regions, dependences of task records, requests of the network engine, and launches (R29, R31, R306). -/
def State.wakeWalks (s : State) : State :=
  let s0 := s.tiles.foldl (fun (s : State) p =>
    (p.2.rng.filter (·.wb)).foldl (fun (s : State) e => s.emitOnce (wbEvent p.1 e.slot e.grec)) (s.resumeSteps p.1 8 (· == pWALKWAIT) false)) s.wakeTasks
  let s1 := s0.allSlots.foldl (fun (s : State) p => (s.wakeIf p.1 p.2 pWALKWAIT).resumeSteps p.1 p.2 (· == pWALKWAIT) false) s0
  let s2 := [8, 9].foldl (fun (s : State) v => (s.die v).net.foldl (fun (s : State) r => s.emitOnce (netEvent v r.id)) s) s1
  [8, 9].foldl (fun (s : State) v => ((s.lu v).launches.filter (fun l => l.holds && !l.unresolved.isEmpty)).foldl (fun (s : State) l => s.rewalk v l l.unresolved) s) s2

/-- INV_WAKE at I/O die t. -/
def invWake (s : State) : State :=
  let vd := s.arg.t
  let s2 := s.wakeWalks
  match (s2.die vd).invs with
  | v :: _ => if v.left = 0 then s2.invFinish vd else s2
  | [] => s2
def execInvWake (s : State) : Out := .next (invWake s)

/-! ### The fault queue (R328) -/

/-- FREC at a fault queue: written to the ring, or refused while it is full or disabled. -/
def frec (s : State) : State :=
  let m := s.msg; let vd := eidDie m.dst; let io := iodOf vd
  let stat := s.reg io 0x180018
  let base := s.reg io 0x180000
  let size := 2 ^ nfld base 56 5
  let tail := nfld (s.reg io 0x180008) 0 32; let head := nfld (s.reg io 0x180010) 0 32
  let pa := nfld base 0 56 / (32 * size) * (32 * size) + 32 * (tail % size)
  if !stat.testBit 0 || size ≤ (tail + 2 ^ 32 - head) % 2 ^ 32 || !((spaceOf pa == 0 || spaceOf pa == 2) && s.decodes vd pa) then
    (s.setReg io 0x180018 (stat ||| 2)).answer .err (fun r => { r with tag := 65533 })
  else
    let seq := (s.die vd).fqSeq + 1
    let s1 := s.performOut vd pa (leBytes 32 (leNat (m.data.take 32) % 2 ^ 192 + seq % 2 ^ 64 * 2 ^ 192))
    let s2 := (s1.setReg io 0x180008 ((tail + 1) % 2 ^ 32)).modDie vd (fun D => { D with fqSeq := seq })
    (s2.modTile (eidTile m.src) (fun T => { T with frecs := dropFirst (fun x => x == m) T.frecs })).msix vd 1
def execFrec (s : State) : Out := .next (frec s)

/-- FREC_RESEND: a port sends a record that is not written yet. -/
def frecResend (s : State) : State :=
  let m := s.msg; let t := s.arg.t
  if (s.tile t).frecs.contains m then (s.send .bulk .frec m).after (vdOf t) 65536 ⟨.frecResend, { msg := m, t := t }⟩ else s
def execFrecResend (s : State) : Out := .next (frecResend s)

/-! ### Checkpoint sweeps (R343, R344) -/

def swAsid (d : Nat) : Nat := nfld d 0 9
def swList (d : Nat) : Nat := nfld d 64 56
def swCount (d : Nat) : Nat := nfld d 128 25
def swDst (d : Nat) : Nat := nfld d 192 56
def swBmap (d : Nat) : Nat := nfld d 256 56
def swCw (d : Nat) : Nat := nfld d 320 56
def swMalformed (s : State) (vd d : Nat) : Bool :=
  nfld d 9 55 != 0 || nfld d 120 8 != 0 || nfld d 153 39 != 0 || nfld d 248 8 != 0 || nfld d 312 8 != 0 || d / 2 ^ 376 != 0 ||
  swCount d == 0 || 2 ^ 24 < swCount d || swList d % 8 != 0 || !(spaceOf (swDst d) == 1 || spaceOf (swDst d) == 2) || !s.decodes vd (swList d) || !s.decodes vd (swDst d) || !s.decodes vd (swBmap d)
/-- Level of a size code. -/
def swLevel (e : Nat) : Nat := e % 4

def State.modSweep (s : State) (vd n : Nat) (f : Sweep → Sweep) : State :=
  s.modDie vd (fun D => { D with sweeps := updWhere (fun w => w.eng == n) f D.sweeps })

/-- A page's writers go on (R344). -/
def State.sweepWake (s : State) : State :=
  s.allSlots.foldl (fun (s : State) p =>
    let h := s.slot p.1 p.2
    let s1 := if h.run = .parked && stPARK h.st = pPAGE && h.parkReg = sweepStop then s.wakeIf p.1 p.2 pPAGE else s
    s1.resumeSteps p.1 p.2 (· == sweepStop) false) (s.tiles.foldl (fun (s : State) p => s.resumeSteps p.1 8 (· == sweepStop) false) s)

def sweepGo (vd n : Nat) : Ev := ⟨.checkpointSweep, { t := iodOf vd, n := n, k := 9, ok := false }⟩
/-- The copy engine that runs sweep n. -/
def sweepUnit (vd n : Nat) (w : Sweep) : Unit_ := ⟨vd, 32 + n % 8, 5, noCtx, swAsid w.desc.toNat, sweepGo vd n⟩
/-- Sweep n goes on with another stage; answers it has used are dropped. -/
def State.sweepOn (s : State) (vd n : Nat) (w : Sweep) (f : Sweep → Sweep) : State :=
  ((s.unitClear (sweepUnit vd n w)).modSweep vd n f).emitOnce (sweepGo vd n)

/-- Poison ends the sweep with error (R326): its page, if any, leaves the sweep set. -/
def State.sweepPoison (s : State) (vd n : Nat) (w : Sweep) : State := (s.sweepOn vd n w (fun w => { w with stage := 5, pages := [] })).sweepWake

/-- The end of a sweep: its completion word, once every write is performed. -/
def State.sweepEnd (s : State) (vd n : Nat) (w : Sweep) (err : Bool) : State :=
  if s.unitBusy (sweepUnit vd n w) then s
  else
    let cw := swCw w.desc.toNat
    let s1 := (s.unitClear (sweepUnit vd n w)).modDie vd (fun D => { D with sweeps := D.sweeps.filter (fun w => w.eng != n) })
    if cwUsable s vd cw then s1.agentPost vd (32 + n % 8) cw 1 err else s1.logError vd 21 false cDOORBELL cw 0

/-- Entry i: its word is read, its page walked, and D cleared where the leaf lies: a leaf that has changed since is walked again (R26). Poison
ends the sweep; an entry whose word cannot be read otherwise is not copied (log entry 156). -/
def State.sweepEntry (s : State) (vd n : Nat) (w : Sweep) : State :=
  let u := sweepUnit vd n w; let d := w.desc.toNat; let asid := swAsid d
  let skip (s : State) : State := s.sweepOn vd n w (fun w => { w with stage := 3 })
  let word := s.canon (swList d + 8 * w.i)
  match s.unitBytes u word 8 with
  | (none, s1) => s1
  | (some (.error ()), s1) => if (s.unitGot u word).any (fun g => g.2 == 1) then s1.sweepPoison vd n w else skip s1
  | (some (.ok bs), s1) =>
    let e := leNat bs; let lvl := swLevel e; let bits := leafBits lvl
    let la := nfld e 12 36 * 2 ^ 12 / 2 ^ bits * 2 ^ bits
    match s1.walk vd asid la 7 (s1.unitNode u la) with
    | .ask addr => (s1.dropUnitNodes u la).askUnitNode u la addr
    | .poisoned => s1.sweepPoison vd n w
    | .leaf pa ent lv addr =>
      let on (s : State) : State :=
        ((s.unitClear u).modSweep vd n (fun w => { w with stage := 1, pages := [(asid, la / 2 ^ bits, bits)], src := s.canon pa / 2 ^ bits * 2 ^ bits, moved := 0 })).addInv vd
          (BitVec.ofNat 512 (asid * 2 ^ 16 + la * 2 ^ 64 + 2 ^ (bits - 12) * 2 ^ 128)) (some n)
      if lv != lvl || !ent.testBit 56 then skip s1
      else if spaceOf addr = 0 && !s1.reserved addr 8 then on { s1 with mem := wrLE s1.mem addr 8 (ent - 2 ^ 56) }
      else match s1.leafSet u 48 ent addr with
        | some o => if o.got == some ([], 0) then on s1 else skip s1
        | none => if s1.leafAsked u addr || s1.unitFull vd u.ag then s1 else (s1.dropUnitNodes u la).unitLeaf u 48 ent addr
    | _ => skip s1

/-- Bytes of the page go to the next free place. Poison ends the sweep; a page that cannot be read or written whole otherwise is not marked as
copied (log entry 156). -/
def State.sweepMove (s : State) (vd n : Nat) (w : Sweep) : State :=
  let u := sweepUnit vd n w
  let size := 2 ^ (w.pages.headD (0, 0, 12)).2.2
  let src := w.src + w.moved; let dst := swDst w.desc.toNat + w.placed + w.moved
  let m := min (256 - src % 256) (256 - dst % 256)
  if (s.unitBad u).isSome then s.sweepOn vd n w (fun w => { w with stage := 3 })
  else if size ≤ w.moved then (if s.unitBusy u then s else s.sweepOn vd n w (fun w => { w with stage := 4 }))
  else match s.unitGot u src with
    | some (bs, st) =>
      if st = 1 then s.sweepPoison vd n w
      else if 2 ≤ st then s.sweepOn vd n w (fun w => { w with stage := 3 })
      else (s.sweepOn vd n w (fun w => { w with moved := w.moved + m })).unitPut u dst 0 (bs.take m)
    | none => if (s.die vd).outs.any (fun o => o.agent == u.ag && o.ev == u.ev && !o.write) || s.unitFull vd u.ag then s else s.unitGet u src m 0

/-- Bit i of the bitmap is written, in the byte that holds it; the page leaves the sweep set. -/
def State.sweepBit (s : State) (vd n : Nat) (w : Sweep) (b : Bool) : State :=
  let u := sweepUnit vd n w
  let a := s.canon (swBmap w.desc.toNat + w.i / 8); let j := w.i % 8
  if s.unitBusy u then s
  else match s.unitGot u a with
    | none => if s.unitFull vd u.ag then s else (s.unitClear u).unitGet u a 1 0
    | some (bs, st) =>
      if st = 1 then s.sweepPoison vd n w else
      let old := leNat (bs.take 1)
      let size := 2 ^ (w.pages.headD (0, 0, 12)).2.2
      let s1 := s.sweepOn vd n w (fun w => { w with i := w.i + 1, stage := 0, pages := [], placed := if b then w.placed + size else w.placed })
      (if 2 ≤ st then s1 else s1.unitPut u a 0 (leBytes 1 (old - (old / 2 ^ j % 2) * 2 ^ j + b2n b * 2 ^ j))).sweepWake

/-- One step of sweep n of I/O die vd. -/
def State.sweepStep (s : State) (vd n : Nat) : State :=
  match (s.die vd).sweeps.find? (fun w => w.eng == n) with
  | none => s
  | some w =>
    match w.stage with
    | 0 => if swCount w.desc.toNat ≤ w.i then s.sweepEnd vd n w false else s.sweepEntry vd n w
    | 1 => s
    | 2 => s.sweepMove vd n w
    | 3 => s.sweepBit vd n w false
    | 5 => s.sweepEnd vd n w true
    | _ => s.sweepBit vd n w true

/-- CHECKPOINT_SWEEP: a descriptor written to channel k of copy engine n of I/O die number t; then with ok = false the sweep of channel
n goes on, with its page invalidated (k = 0). -/
def checkpointSweep (s : State) : State :=
  let vd := iodVd s.arg.t
  if !s.arg.ok then (if s.arg.k = 0 then s.modSweep vd s.arg.n (fun w => { w with stage := 2 }) else s).sweepStep vd s.arg.n
  else
    let d := s.arg.desc.toNat
    let n := s.arg.n + 8 * s.arg.k
    let cw := swCw d
    if (s.die vd).sweeps.any (fun w => w.eng == n) then s.after vd 64 ⟨.checkpointSweep, s.arg⟩
    else if swMalformed s vd d then
      if cwUsable s vd cw then s.agentPost vd (32 + n % 8) cw 1 true else s.logError vd 21 false cDOORBELL cw 0
    else (s.modDie vd (fun D => { D with sweeps := D.sweeps ++ [{ eng := n, desc := s.arg.desc }] })).sweepStep vd n
def execCheckpointSweep (s : State) : Out := .next (checkpointSweep s)

end Sys2Proof.Machine
end

