-- ==== Sys2Proof/Machine/Links.lean ====
section
/-! DEFINITION. Link modules: frames, sequence numbers, credits, acknowledgement, replay, retraining and loss (R116-R119, R128,
R341), and the thermal controller (R362). -/

namespace Sys2Proof.Machine
open Sys2Proof

def vcNum (n : Nat) : Vc := match n with
  | 0 => .req
  | 1 => .fwd
  | 2 => .rsp
  | _ => .bulk

/-! ### Receiving (R116-R118, R125) -/

/-- The number of the last cell accepted in order. -/
def Link.aseq (L : Link) : Nat := (L.rxSeq + 4094) % 4095
/-- The receiver's own freed counts, cumulative modulo 2^16. -/
def Link.freed (L : Link) : List Nat := [mget 0 L.last 4, mget 0 L.last 5, mget 0 L.last 6, mget 0 L.last 7]

def ackEvent (key : Nat) : Ev := evT .ackTimer key

/-- A LINK cell goes ahead of all other cells (R119). -/
def Link.putLink (L : Link) (c : Cell) : Link :=
  { L with txq := L.txq.takeWhile (fun q => q.1 == 4095) ++ (4095, c) :: L.txq.dropWhile (fun q => q.1 == 4095) }
/-- INIT: the cell buffers of this end (R119). -/
def initCell : Cell := linkCell 2 4094 [64, 32, 64, 128]

/-- A LINK cell is handed over: it carries the full freed counts (R118). -/
def State.linkReply (s : State) (key lt : Nat) : State :=
  let s1 := s.modLink key (fun L => L.putLink (linkCell lt L.aseq L.freed))
  if lt = 0 then (s1.modLink key (fun L => { L with accepted := 0, ackDue := false })).unTimer (ackEvent key) else s1

/-- Cells of a virtual channel leave their buffers. -/
def Link.free (L : Link) (vc n : Nat) : Link := { L with last := mset 0 L.last (4 + vc) ((mget 0 L.last (4 + vc) + n) % 65536) }

/-- Accesses of other packages, and the context packets of their loads, which the I/O die they come in on decodes (R21). -/
def isAccess (i : Instr) : Bool := [Instr.rd, .wr, .wrb, .rsv, .cwpost, .ctx].contains i

/-- An access of another package that this one cannot decode (R21): recorded with its source EID by the I/O die it came in on, and refused. -/
def State.refuseHere (s : State) (vd : Nat) (i : Instr) (m : Msg) : State :=
  if i = .ctx then s.refuseCtx m 3
  else (s.logError vd 20 false cBADPA m.pa (m.src * 8 + m.slot)).sendFrom vd false .rsp .err { msgReply m with attr := 7, aux0 := s.sentLa m }

/-- A whole message that came over a link: to its destination here or on toward it (R113, R128), or refused (R21, R125). A discovery message
is source-routed (R140); one without LL is discarded (log entry 159). -/
def State.arrive (s : State) (key : Nat) (i : Instr) (m : Msg) (vc : Nat) : State :=
  let vd := linkDie key; let e := key % 32 / 8
  if [Instr.discQuery, .discAssign, .discEnable, .discrsp].contains i then
    if !wbit m.attr 0 || 512 ≤ key then s.logError vd 20 false cLINKPROTO 0 0
    else s.emit ⟨i, { t := vd, k := 1, n := e, v := e, msg := m }⟩
  else if 512 ≤ key && eidPkg m.dst = s.pkg && isAccess i && !isMcUnit m.dst && !(i = .ctx && m.pa = 0) && !s.decodes vd (s.canon m.pa) then s.refuseHere vd i m
  else s.sendFrom vd (decide (512 ≤ key)) (vcNum vc) i m

/-- Does a header cell begin a discovery message? -/
def discCell (c : Cell) : Bool := let op := nfld c.toNat 8 8; op == 0x38 || op == 0x39

/-- Take complete messages out of the receive buffer. A die that is not enabled takes no routed message (R140). -/
def State.takeCells (s : State) (key : Nat) : Nat → State
  | 0 => s
  | fuel + 1 =>
    match (s.link key).rx with
    | [] => s
    | c :: rest =>
      let n := cellDlen c
      if rest.length < n || (!(s.die (linkDie key)).enabled && !discCell c) then s
      else
        let s1 := s.modLink key (fun L => { L.free (cellVc c) (n + 1) with rx := rest.drop n })
        let s2 := match readMsg c (rest.take n) with
          | some (i, m) => s1.arrive key i m (cellVc c)
          | none => s1.logError (linkDie key) 20 false cLINKPROTO 0 0
        s2.takeCells key fuel

/-- Cycles of a die in 256 ns at its nominal clock, rounded down (R118, R345). -/
def ackCycles (vd : Nat) : Nat := if vd < 8 then 512 else 409

/-- A sequenced cell (R117): accepted in order, or a gap, or a duplicate. -/
def State.seqCell (s : State) (key seq : Nat) (c : Cell) : State :=
  let L := s.link key
  let d := (seq + 4095 - L.rxSeq) % 4095
  if d = 0 then
    let s1 := s.modLink key (fun L => { L with rxSeq := (L.rxSeq + 1) % 4095, rx := L.rx ++ [c], accepted := L.accepted + 1, ackDue := true, nakSent := false })
    let s2 := if L.ackDue then s1 else s1.after (linkDie key) (ackCycles (linkDie key)) (ackEvent key)
    let s3 := s2.takeCells key 4
    if 64 ≤ L.accepted + 1 then s3.linkReply key 0 else s3
  else if d < 2048 then
    if L.nakSent then s else (s.linkReply key 1).modLink key (fun L => { L with nakSent := true })
  else s.linkReply key 0

/-- A cell of a good frame: LINK and IDLE cells stand outside the numbering; a LINK cell of type 3-15 is discarded (R118). -/
def State.frameCell (s : State) (key : Nat) (q : Nat × Cell) : State :=
  if q.1 < 4095 then s.seqCell key q.1 q.2
  else if cellCk q.2 != 1 then s
  else
    let a : Arg := { t := key, n := nfld q.2.toNat 8 12, bytes := cellBytes q.2 }
    match nfld q.2.toNat 4 4 with
    | 0 => s.emit ⟨.linkAck, a⟩
    | 1 => s.emit ⟨.linkNak, a⟩
    | 2 => s.emit ⟨.linkInit, a⟩
    | _ => s

/-- The trailer's advertisements: low 4 bits of each freed count (R119). -/
def Link.trailer (L : Link) (tr : Nat) : Link :=
  if !L.trailerOk then L
  else (List.range 4).foldl (fun (L : Link) vc =>
    let d := (nfld tr (48 + 4 * vc) 4 + 16 - mget 0 L.last vc % 16) % 16
    { L with last := mset 0 L.last vc ((mget 0 L.last vc + d) % 65536), credits := mset 0 L.credits vc (mget 0 L.credits vc + d) }) L

/-- SLUICE_FRAME: t the link module, bytes the 272 bytes of the frame. -/
def sluiceFrame (s : State) : State :=
  let key := s.arg.t; let bs := s.arg.bytes
  let tr := leNat ((bs.drop 256).take 16)
  if bs.length != 272 || crc64 (bs.take 264) != nfld tr 64 64 then s.modLink key (fun L => { L with trailerOk := false })
  else
    let cell (i : Nat) : Nat × Cell := (nfld tr (12 * i) 12, BitVec.ofNat 512 (leNat ((bs.drop (64 * i)).take 64)))
    let s1 := s.modLink key (fun L => L.trailer tr)
    (((List.range 4).map cell).foldl (fun s q => s.frameCell key q) s1).drainLink key
def execSluiceFrame (s : State) : Out := .next (sluiceFrame s)

/-! ### LINK cells (R117-R119) -/

/-- Count i of a LINK cell. -/
def linkCount (bs : List Byte) (i : Nat) : Nat := nfld (leNat bs) (64 + 16 * i) 16

/-- Cells up to ASEQ are acknowledged; a number that is not outstanding changes nothing. -/
def Link.acked (L : Link) (aseq : Nat) : Link :=
  if L.unacked.any (fun p => p.1 == aseq) then { L with unacked := ((L.unacked.dropWhile (fun p => p.1 != aseq)).drop 1), replays := 0 } else L

/-- The full counts of a LINK cell. -/
def Link.counts (L : Link) (bs : List Byte) : Link :=
  (List.range 4).foldl (fun (L : Link) vc =>
    let d := (linkCount bs vc + 65536 - mget 0 L.last vc) % 65536
    { L with last := mset 0 L.last vc (linkCount bs vc), credits := mset 0 L.credits vc (mget 0 L.credits vc + d) }) { L with trailerOk := true }

/-- Acknowledgement and counts of an ACK or a NAK. -/
def State.linkAnswer (s : State) : State :=
  let key := s.arg.t
  let moved := decide (((s.link key).acked s.arg.n).unacked.length < (s.link key).unacked.length)
  let s1 := s.modLink key (fun L => (L.acked s.arg.n).counts s.arg.bytes)
  if moved then s1.armReplay key else s1

def linkAck (s : State) : State := s.linkAnswer.drainLink s.arg.t
def execLinkAck (s : State) : Out := .next (linkAck s)

/-- Every cell not acknowledged is sent again, with its number; LINK cells stay ahead. -/
def Link.again (L : Link) : Link := { L with txq := L.txq.filter (fun q => q.1 == 4095) ++ L.unacked }

/-- The oldest cells not acknowledged are sent again; after 8 replays without progress the module retrains (R117). -/
def State.replay (s : State) (key : Nat) : State :=
  let L := s.link key
  if L.unacked.isEmpty then s
  else if 8 ≤ L.replays then (s.modLink key (fun L => { L with up := false })).unTimer (replayEvent key)
  else (s.modLink key (fun L => { L.again with replays := L.replays + 1 })).armReplay key

def linkNak (s : State) : State := (s.linkAnswer.replay s.arg.t).drainLink s.arg.t
def execLinkNak (s : State) : Out := .next (linkNak s)

/-- INIT: the receiver's buffer counts are the credits; the link is up (R119), and this end sends its own if it has not. -/
def linkInit (s : State) : State :=
  let bs := s.arg.bytes
  let L0 := s.link s.arg.t
  (s.modLink s.arg.t (fun L =>
    { (if L0.up then L else L.putLink initCell) with
      up := true, trailerOk := true, last := (List.range 4).foldl (fun m vc => mset 0 m vc 0) L.last,
      credits := (List.range 4).foldl (fun m vc => mset 0 m vc (linkCount bs vc)) L.credits })).drainLink s.arg.t
def execLinkInit (s : State) : Out := .next (linkInit s)

def ackTimer (s : State) : State := if (s.link s.arg.t).ackDue then s.linkReply s.arg.t 0 else s
def execAckTimer (s : State) : Out := .next (ackTimer s)

def execReplayTimeout (s : State) : Out := .next (s.replay s.arg.t)

/-- RETRAINING_COMPLETE: the module is up again and resends what is not acknowledged (R117). -/
def retrainingComplete (s : State) : State :=
  let key := s.arg.t
  let s1 := s.modLink key (fun L => { L with up := true, replays := 0, txq := L.again.txq })
  (s1.armReplay key).drainLink key
def execRetrainingComplete (s : State) : Out := .next (retrainingComplete s)

/-! ### A module that is down (R341) -/

/-- No Flume port of the package leads to package p any more. -/
def State.cutOff (s : State) (vd p : Nat) : Bool :=
  p != s.pkg && ((s.frtV vd p == false) || !(setBits 16 (nfld (mget 0 (s.die vd).frt p).toNat 2 16)).any (fun q => (s.link (flumeKey vd q)).up))

/-- Multicast stores whose headgate can no longer be reached: the egress I/O die answers each with MCSTAMP, status 3, which ends it, and frees
one that is stamped and waits for every member (R139, R247). -/
def State.failStamps (s : State) (vd t k : Nat) : State :=
  (s.slot t k).pend.foldl (fun (s : State) p =>
    match p.kind with
    | .mcast _ _ =>
      let said (e : Ev) : Bool := e.i == .mcstamp && e.arg.msg.dst == s.tileEid t && e.arg.msg.slot == k && e.arg.msg.tag == p.tag
      if s.cutOff vd (eidPkg (nfld (s.groupMap (iodOf vd) p.pa) 1 24)) && !s.pool.any said then
        s.send .rsp .mcstamp { Msg.zero with src := s.eid vd 0x38, dst := s.tileEid t, slot := k, tag := p.tag, attr := 3 * 16 }
      else s
    | _ => s) s

/-- What a lost route means to the multicast units (R135, R138, R247): unreachable members are evicted, and a group none of whose members in
other packages is left stops for them: its record is DEAD (R139, log entry 155). -/
def State.mcLost (s : State) (vd : Nat) : State :=
  let s1 := ((s.tiles.map (·.1)).flatMap (fun t => (List.range 8).map (fun k => (t, k)))).foldl (fun (s : State) p =>
    if eidVd (s.relay p.1) = vd then s.failStamps vd p.1 p.2 else s) s
  let joining := (List.range 4096).filter (fun g => s1.meValid (iodOf vd) g && s1.meState (iodOf vd) g == meJOINING && s1.cutOff vd (eidPkg (s1.meHg (iodOf vd) g)))
  let s2 := joining.foldl (fun (s : State) g => s.joinUnreachable vd g) s1
  let gone := (List.range 512).flatMap (fun g => if s2.hgValid (iodOf vd) g then ((s2.hgMembers (iodOf vd) g).filter (fun p => s2.cutOff vd p)).map (fun p => (g, p)) else [])
  let dead := (List.range 512).filter (fun g => gone.any (·.1 == g) && ((s2.hgMembers (iodOf vd) g).filter (· != s2.pkg)).all (fun p => gone.contains (g, p)))
  dead.foldl (fun (s : State) g => s.hgSetState (iodOf vd) g stDEAD) (gone.foldl (fun (s : State) q => s.evictMember vd q.1 q.2) s2)

/-- REGISTER_WRITE: a register without behaviour of its own (R170). k = 0: CSR half n % 0x1000 of die n / 0x1000 at level t, as the
management controllers write it; k = 1: the MMIO register at space 5 offset n, 8 bytes if ok; k = 2: Flume route entry n of die t
(R129); k = 3: routes have changed, and what they carried is looked at again (R135, R138, R139). -/
def registerWrite (s : State) : State :=
  let a := s.arg
  let routes (s : State) : State := (s.mcLost 8).mcLost 9
  match a.k with
  | 0 => s.csrWrite a.t 0 0 (a.n / 0x1000) (a.n % 0x1000) 0xFFFFFFFF (BitVec.ofNat 32 a.v)
  | 1 => (s.mmioWrite (hostWriter 0) (5 * 2 ^ 52 + a.n) (leBytes (if a.ok then 8 else 4) a.v)).getD s
  | 2 => routes (s.modDie a.t (fun D => { D with frt := mset 0 D.frt a.n (BitVec.ofNat 64 (a.v % 2 ^ 34)) }))
  | _ => routes s
def execRegisterWrite (s : State) : Out := .next (registerWrite s)

/-- LINK_DOWN: t the module that failed retraining. Both dies record it, and every launch of the package ends with error. -/
def linkDown (s : State) : State :=
  let key := s.arg.t
  let s1 := (s.modLink key (fun L => { L with up := false })).unTimer (replayEvent key)
  if key < 512 then
    let vd := key / 32; let e := key % 32 / 8
    let s2 := s1.logError vd (16 + e) true cLINKDOWN 0 0
    let s3 := match sluicePeer vd e with
      | some (v2, e2) => (s2.modLink (sluiceKey v2 e2 (key % 8)) (fun L => { L with up := false })).logError v2 (16 + e2) true cLINKDOWN 0 0
      | none => s2
    s3.endAllLaunches
  else
    let vd := linkDie key
    ((s1.logError vd (8 + (key - 512) % 16 / 4) true cLINKDOWN 0 0).endAllLaunches).mcLost vd
def execLinkDown (s : State) : Out := .next (linkDown s)

/-! ### Temperature (R362) -/

/-- THERMAL_THROTTLE: t the die, v its temperature in eighths of a degree. -/
def thermalThrottle (s : State) : State :=
  let vd := s.arg.t; let c := s.arg.v
  let s1 := s.modDie vd (fun D => { D with temp := BitVec.ofNat 32 c })
  let f := dieMhz (s1.die vd)
  let s2 :=
    if 4 ≤ vd then s1
    else if 840 < c || (800 ≤ c && f < 2000) then (if 1300 ≤ f then s1.setMhz vd (f - 100) else s1.setMhz vd 1200)
    else if f < 2000 then s1.setMhz vd 2000
    else s1
  if 920 ≤ c then (s2.modDie vd (fun D => { D with stopped := true })).endAllLaunches else s2
def execThermalThrottle (s : State) : Out := .next (thermalThrottle s)

end Sys2Proof.Machine
end

