-- ==== Sys2Proof/Machine/Discovery.lean ====
section
/-! DEFINITION. Discovery before virtual dies are assigned: source-routed messages, hop by hop, and the die record (R140, R141). -/

namespace Sys2Proof.Machine
open Sys2Proof

/-- The edges a die has (R113). -/
def dieEdges (vd : Nat) : Nat := (List.range 4).foldl (fun a e => if (sluicePeer vd e).isSome then a + 2 ^ e else a) 0

/-- AUX3 of a die record: the enabled tiles, or the capabilities of an I/O die (R141). -/
def dieCaps (vd : Nat) : Nat := if vd < 8 then 256 else 0x1F + 16 * 2 ^ 5 + 8 * 2 ^ 10 + 1 * 2 ^ 15 + 4 * 2 ^ 17 + 1024 * 2 ^ 21

/-- One hop of a discovery message: t the die it is on, k and n the number of hops taken and the edges they arrived on, two bits
each, the latest lowest, v the edge it arrived on. With hops left it goes to the neighbour of its lowest hop; where there is
none it is discarded and logged. -/
def discHop (s : State) : M Unit :=
  let a := s.arg; let x := a.msg.aux0.toNat
  let h := x % 4
  if h = 0 then .ok ()
  else
    match sluicePeer a.t (nfld x 4 2) with
    | none => .error (s.logError a.t 20 false cUNREACH 0 0)
    | some (vd, e) =>
      let hop : Arg := { a with t := vd, k := a.k + 1, n := a.n * 4 % 64 + e, v := e, msg := { a.msg with aux0 := BitVec.ofNat 64 (h - 1 + nfld x 6 4 * 16) } }
      .error (s.emit ⟨match wfld a.msg.attr 4 4 with
        | 1 => .discAssign
        | 2 => .discEnable
        | _ => .discQuery, hop⟩)

/-- The die record back along the reversed route (R140, R141). -/
def State.discAnswer (s : State) (status : Nat) : State :=
  let a := s.arg; let vd := a.t
  let name := match (s.die vd).vdAssigned with
    | some (v, _) => v
    | none => 15
  let route := BitVec.ofNat 64 (a.k % 4 + a.n % 64 * 16)
  let fields := BitVec.ofNat 64 ((if vd < 8 then 0 else 1) + a.v % 4 * 16 + dieEdges vd * 2 ^ 8 + name * 2 ^ 12 + 1 * 2 ^ 16 + status * 2 ^ 32)
  let bitmap : List Byte := if vd < 8 then List.replicate 32 0xFF ++ List.replicate 32 0 else []
  let m : Msg := { Msg.zero with attr := 1, tag := a.msg.tag, dst := a.msg.src, src := a.msg.dst, aux0 := route, aux1 := fields, aux2 := Config.serial vd, aux3 := BitVec.ofNat 64 (dieCaps vd), data := bitmap }
  s.emit ⟨.discrsp, { t := vd, msg := m }⟩

/-- What the die at the end of the route does: f its effect with a status. A sub-kind of 3-15 is answered BADSUB. -/
def discAt (f : State → State × Nat) (s : State) : State :=
  match discHop s with
  | .error s1 => s1
  | .ok () => if 3 ≤ wfld s.msg.attr 4 4 then s.discAnswer 1 else (f s).1.discAnswer (f s).2

def execDiscQuery (s : State) : Out := .next (discAt (fun s => (s, 0)) s)

/-- ASSIGN: a die that has a vd keeps it. Forwarding entries that name the vd, those of its tiles and those to its tiles, are invalid from now on,
and what still names an old context of it is recorded (R334, R342). -/
def discAssign (s : State) : State × Nat :=
  let vd := s.arg.t
  if (s.die vd).vdAssigned.isSome then (s, 2)
  else
    let v := dfld s.msg.aux1 0 4
    let s1 := s.modDie vd (fun D => { D with vdAssigned := some (v, dfld s.msg.aux1 4 12), remapped := true })
    let keep (t : Nat) (f : FwdEntry) : Bool := vdOf t != v && !(f.toTile && eidPkg f.target == s.pkg && eidVd f.target == v)
    (s1.tiles.foldl (fun (s : State) p => s.modTile p.1 (fun T => { T with fwd := T.fwd.filter (keep p.1) })) s1, 0)
def execDiscAssign (s : State) : Out := .next (discAt discAssign s)

/-- ENABLE: routed messages that wait in the die's receive buffers are taken. -/
def discEnable (s : State) : State × Nat :=
  let vd := s.arg.t
  (((s.links.map (·.1)).filter (fun key => linkDie key == vd)).foldl (fun (s : State) key => s.takeCells key ((s.link key).rx.length + 1)) (s.modDie vd (fun D => { D with enabled := true })), 0)
def execDiscEnable (s : State) : Out := .next (discAt discEnable s)

/-- DISCRSP: hop by hop back to the management controller that asked, which keeps the record. -/
def discrsp (s : State) : State :=
  let a := s.arg; let x := a.msg.aux0.toNat
  if x % 4 = 0 then s.modDie a.t (fun D => { D with disc := D.disc ++ [a.msg] })
  else match sluicePeer a.t (nfld x 4 2) with
    | none => s.logError a.t 20 false cUNREACH 0 0
    | some (vd, e) => s.emit ⟨.discrsp, { a with t := vd, v := e, msg := { a.msg with aux0 := BitVec.ofNat 64 (x % 4 - 1 + nfld x 6 4 * 16) } }⟩
def execDiscrsp (s : State) : Out := .next (discrsp s)

end Sys2Proof.Machine
end

