-- ==== Sys2Proof/Machine/System.lean ====
section
/-! DEFINITION. System instructions (majors 0x4B-0x4D, R279-R300), the causes taken before an issue (R324), blocked threads
(R144), lock time-outs (R298) and wakes (R285, R295, R329). -/

namespace Sys2Proof.Machine
open Sys2Proof

/-! ### Major 0x4B (R280-R287) -/

def nop (s : State) : M State := do
  enter .nop .system false 0 s
  .ok (commitNow s)
def execNop (s : State) : Out := finish (nop s)

/-- YIELD: the next issue no earlier than 8 cycles later (R281). -/
def yield_ (s : State) : M State := do
  enter .yield .system false 0 s
  .ok ((commitNow s).modTh (fun h => { h with yielded := true }))
def execYield (s : State) : Out := finish (yield_ s)

def trapInstr (a : Src) (u : BitVec 5) (s : State) : M State := do
  enter (.trap a u) .system false 0 s
  let v ← readSrc (.trap a u) [a] a.r s
  .ok (s.trap tTRAP u.toNat v)
def execTrap (a : Src) (u : BitVec 5) (s : State) : Out := finish (trapInstr a u s)

def breakInstr (u : BitVec 5) (s : State) : M State := do
  enter (.brk u) .system false 0 s
  .ok (s.trap tBREAK u.toNat (insnWord (.brk u)))
def execBrk (u : BitVec 5) (s : State) : Out := finish (breakInstr u s)

def eretInstr (s : State) : M State := do
  enter .eret .system false 1 s
  .ok (s.modTh (fun h => { h.eret with instret := h.instret + 1, quantum := h.quantum + 1 }))
def execEret (s : State) : Out := finish (eretInstr s)

/-- PARK consults the wake latch (R285). -/
def parkInstr (s : State) : M State := do
  enter .park .system false 0 s
  let s1 := commitNow s
  if s.th.wl then .ok (s1.modTh (fun h => { h with wl := false })) else .ok (s1.park pPARK)
def execPark (s : State) : Out := finish (parkInstr s)

/-- A posted message: discarded and logged where it cannot be routed (R125, R286). -/
def State.post (s : State) (mk : Instr) (m : Msg) : State :=
  match s.pass (eidVd m.src) false mk m with
  | .ok s1 => s1
  | .error c => s.logLost (eidVd m.src) c m

/-- WAKE (R286): the sender's level travels in AUX2. -/
def wakeInstr (a b : Src) (s : State) : M State := do
  enter (.wake a b) .system false 0 s
  let x ← readSrc (.wake a b) [a, b] a.r s
  let y ← readSrc (.wake a b) [a, b] b.r s
  illValue (wfld x 27 5 != 0) x s
  illValue (b.r != 0 && wfld y 16 16 != 0) y s
  let c := wfld x 0 27
  let m : Msg := { Msg.zero with src := s.tileEid s.cur.1, dst := ctxPkg c * 4096 + ctxTile c, slot := ctxSlot c, asid := s.th.asid, aux2 := BitVec.ofNat 64 (stPL s.th.st) }
  let s1 := commitNow (consume [a, b] s)
  if b.r = 0 then .ok (s1.post .wakeSlotMsg { m with attr := BitVec.ofNat 32 pPARK })
  else .ok (s1.post .wakeTagMsg { m with slot := s.cur.2, aux0 := BitVec.ofNat 64 (wfld y 0 16 + 0x10000) })
def execWake (a b : Src) (s : State) : Out := finish (wakeInstr a b s)

/-- The drain before a thread ends (R51, R287). -/
def drainedTh (s : State) : M Unit :=
  let h := s.th
  if h.pend.any (fun p => p.path == 0) || !h.cbuf.isEmpty || h.prod != 0 then .error (s.block .fence) else .ok ()

/-- The thread ends; slot 7 parks instead, its PC where it is (R287). -/
def State.haltNow (s : State) : State :=
  let t := s.cur.1; let k := s.cur.2
  let s1 := ((s.leaveAll t k).unlockAll t k).modTh (fun h => { h with fork := {} })
  if k = 7 then s1.park pPARK
  else ((commitNow s1).modTh (fun h => { h with run := .halted })).checkRetire t k

def haltInstr (s : State) : M State := do
  enter .halt .system false 0 s
  drainedTh s
  .ok s.haltNow
def execHalt (s : State) : Out := finish (haltInstr s)

/-! ### FORK and JOINC (R155-R157, R289, R290) -/

/-- Tiles of a square of the fork tree in the order in which a request takes them: at every node the forker's child first,
then NW, NE, SW, SE. -/
def treeTiles : Nat → Nat → Nat → Nat → Nat → List Nat
  | 0, r, c, _, _ => [r * 16 + c]
  | n + 1, r, c, fr, fc =>
    let h := 2 ^ n
    let kids := [(r, c), (r, c + h), (r + h, c), (r + h, c + h)]
    let mine (q : Nat × Nat) : Bool := decide (q.1 ≤ fr) && decide (fr < q.1 + h) && decide (q.2 ≤ fc) && decide (fc < q.2 + h)
    (kids.filter mine ++ kids.filter (fun q => !mine q)).flatMap (fun q => treeTiles n q.1 q.2 fr fc)

/-- A tile with no crew thread in slots 0-5. -/
def State.idleTile (s : State) (t : Nat) : Bool :=
  (List.range 6).all (fun k => let o := (s.slot t k).occ; o != .thread && o != .reserved)
def State.idleTiles (s : State) (t : Nat) : List Nat :=
  ((treeTiles 4 0 0 (t % 256 / 16) (t % 16)).map (fun i => vdOf t * 256 + i)).filter s.idleTile

/-- A recruit for part i on tile t, if the tile, the quota and the pool of save areas can take it (R156, R309, R313). Its S = 1 segments name
the same places of its own partition (log entry 175). -/
def State.recruit (s : State) (c : Crew) (h : Slot) (t i n p joff : Nat) : Option State :=
  match s.launch? c.lu c.launch with
  | none => none
  | some l =>
    match s.offer ⟨1, c.spsize, c.ossize, 0⟩ t, s.findArea c.lu l.queue (cdiv (0x23100 + c.ossize + c.spsize) 65536 * 65536) with
    | some sp, some area =>
      let k := sp.slots.headD 7
      if 5 < k || s.maxc c.lu l.asid < s.live c.lu l.asid + 1 then none
      else
        let new : Crew := { c with id := s.nextCrew, tile := t, slots := [k], index := i, state := 0, err := false, spbase := sp.sp, osbase := sp.os, accmask := 0, savea := area, recruit := true, mig := none, saved := false, mail := false }
        let xy : Word := BitVec.ofNat 32 (t % 256 / 16 * 256 + t % 16)
        let regs : List Word := [BitVec.ofNat 32 (n * i / p), BitVec.ofNat 32 (n * (i + 1) / p), xy, BitVec.ofNat 32 joff, h.greg 5]
        let th : Slot :=
          { occ := .thread, run := .ready, pc := h.pc + 4, st := stSetPL 0 (stPL h.st), rngs := 1, lcoord := xy, crewid := new.id, asid := h.asid,
            spbase := new.spbase, spsize := new.spsize, osbase := new.osbase, ossize := new.ossize, savea := BitVec.ofNat 64 area,
            sg := segsMoved c new h.sg, g := ((List.range 5).zip regs).foldl (fun m q => mset 0 m (q.1 + 1) q.2) [] }
        let s1 := { s with nextCrew := s.nextCrew + 1 }
        let s2 := (s1.setLive c.lu l.asid (s1.live c.lu l.asid + 1)).modLaunch c.lu l.id (fun l => { l with left := l.left + 1 })
        some (s2.seat new [th])
    | _, _ => none

/-- The join cell of FORK and JOINC: an atomic access in space 0, after the fence over P0-P3 at PACKAGE scope. -/
def joinCell (sg off : Nat) (s : State) : M (P0 × State) := do
  let (p, s1) ← p0Place rAtomic 3 sg off 8 99 s
  if spaceOf p.pa != 0 then .error (faultPark p.la 0 7 0 pPAGE 3 s1)
  else match s1.refuses 0 p.pa 8 false true with
    | some c => .error (rangeTrap c 0 p.la p.pa s1)
    | none =>
      fenceFirst 0x0F 3 s1
      if s1.reserved p.pa 8 then .error ((s1.waitResv p.pa 8 (evTK .blockCleared s1.cur.1 s1.cur.2)).block .fence)
      else
        let s2 := s1.readCheck p.pa 8 (s1.ctxName s1.cur.1 s1.cur.2)
        if s2.eccBad p.pa 8 then .error (s2.trap tMCHK 1 0) else .ok (p, s2)

def Fork.ucount (f : Fork) : Nat := mapCount f.umap

/-- Place recruits for parts 1, 2, … on the tiles found; the parts not placed. -/
def State.recruitAll (s : State) (c : Option Crew) (h : Slot) (tiles : List Nat) (n p joff : Nat) : State × List Nat :=
  ((List.range (p - 1)).zip tiles).foldl (fun (a : State × List Nat) q =>
    match c.bind (fun c => a.1.recruit c h q.2 (q.1 + 1) n p joff) with
    | some s1 => (s1, a.2)
    | none => (a.1, a.2 ++ [q.1 + 1])) (s, [])

def fork (d : Reg) (sg : BitVec 3) (a b : Src) (s : State) : M State := do
  let i : Instr := .fork d sg a b
  enter i .system false 0 s
  let srcs := [a] ++ srcPair b
  let x ← readSrc i srcs a.r s
  let nw ← readSrc i srcs b.r s
  let gw ← readSrc i srcs (b.r + 1) s
  destReady 1 s
  destReady 2 s
  destReady 4 s
  destReady d s
  let n := nw.toNat
  illValue (n == 0 || 2 ^ 31 ≤ n) nw s
  illValue (gw == 0) gw s
  illWord i (s.th.fork.v && s.th.fork.ucount != 0) s
  let (cell, s1) ← joinCell sg.toNat x.toNat s
  let t := s1.cur.1; let h := s1.th
  let idle := s1.idleTiles t
  let p := min (min (cdiv n gw.toNat) (1 + idle.length)) (s1.tile t).fmax.toNat
  let s2 := s1.perform cell.pa (leBytes 8 p)
  let (s3, un) := s2.recruitAll (s2.crewOf t s2.cur.2) h (idle.take (p - 1)) n p x.toNat
  let cont : Fork := if un.isEmpty then {} else { v := true, rpc := h.pc + 4, n := n, p := p, seg := sg.toNat, joff := x, umap := un.foldl (fun m i => m ||| (1#256 <<< i)) 0 }
  let s4 := (consume srcs s3).modTh (fun h => { (((h.setG 1 0).setG 2 (BitVec.ofNat 32 (n / p))).setG 4 x) with fork := cont })
  .ok (commitNow (writeResult d (BitVec.ofNat 32 p) s4))
def execFork (d : Reg) (sg : BitVec 3) (a b : Src) (s : State) : Out := finish (fork d sg a b s)

/-- The cell after a JOINC: COUNT less one, or the error flag where it was 0 (R157). -/
def joinValue (v : Nat) : Nat := if v % 2 ^ 32 = 0 then nput v 63 1 1 else nput v 0 32 (v % 2 ^ 32 - 1)

/-- Slot 7 keeps in `joined` the JOINC that has already decremented its cell (R290, R109). -/
def joinc (d : Reg) (sg : BitVec 3) (a : Src) (s : State) : M State := do
  let i : Instr := .joinc d sg a
  enter i .system false 0 s
  let x ← readSrc i [a] a.r s
  destReady d s
  if s.cur.2 = 7 && s.th.joined == some s.th.pc then .error (s.park pPARK)
  else
    let f := s.th.fork
    let mine := f.v && f.seg = sg.toNat && f.joff = x
    if mine && f.ucount != 0 then do
      destReady 1 s
      destReady 2 s
      let (cell, s1) ← joinCell sg.toNat x.toNat s
      let s2 := s1.perform cell.pa (leBytes 8 (joinValue (rdLE s1.mem cell.pa 8)))
      let j := ((List.range 256).find? (fun j => f.umap.getLsbD j)).getD 0
      .ok ((consume [a] s2).modTh (fun h =>
        { ((h.setG 1 (BitVec.ofNat 32 (f.n * j / f.p))).setG 2 (BitVec.ofNat 32 (f.n * (j + 1) / f.p))).commitAt f.rpc with fork := { f with umap := f.umap &&& ~~~(1#256 <<< j) } }))
    else do
      let (cell, s1) ← joinCell sg.toNat x.toNat s
      drainedTh s1
      let v := joinValue (rdLE s1.mem cell.pa 8)
      let s2 := if mine then (s1.perform cell.pa (leBytes 8 v)).modTh (fun h => { h with fork := {} }) else s1.perform cell.pa (leBytes 8 v)
      if v % 2 ^ 32 = 0 then .ok (commitWith [a] d (b2w (v.testBit 63)) s2)
      else if s2.cur.2 = 7 then .ok (s2.haltNow.modTh (fun h => { h with joined := some h.pc }))
      else .ok (consume [a] s2).haltNow
def execJoinc (d : Reg) (sg : BitVec 3) (a : Src) (s : State) : Out := finish (joinc d sg a s)

/-! ### SPAWN (R291) -/

/-- The record is read at its home before commit (log entry 157), each half where its own page lies, then sent to the launch unit with the queue in AUX1 and the level in
AUX2. -/
def spawn (d : Reg) (sg : BitVec 3) (a b : Src) (s : State) : M State := do
  let i : Instr := .spawn d sg a b
  enter i .system false 0 s
  let x ← readSrc i [a, b] a.r s
  let q ← readSrc i [a, b] b.r s
  destLater i d s
  illValue (wfld q 14 18 != 0) q s
  let (p, s1) ← p0PlaceAt rLoad 1 sg.toNat x.toNat 128 64 0 s
  match s1.th.fetched.filter (fun f => f.1 == p.pa) with
  | none => .error ((s1.p0Send .rd p.pa p.la (if (p.la + 64) % 4096 = 0 then 64 else 128) (.record false) 0).block .answer)
  | some (_, bs) =>
    if bs.length < 128 then do
      let (p2, s2) ← p0PlaceAt rLoad 1 sg.toNat (x.toNat + 64) 64 64 0 s1
      .error ((s2.p0Send .rd p2.pa p2.la 64 (.record true) 0).block .answer)
    else do
      fenceFirst 0x0F 3 s1
      let s3 := (commitNow (markLater d (consume [a, b] s1))).modTh (fun h => { h with fetched := none })
      let (tag, h) := s3.th.addPend noPath p.pa 0 (.spawn d.toNat)
      .ok ((s3.modTh (fun _ => h)).send .req .launchFetch
        { Msg.zero with src := s3.tileEid s3.cur.1, dst := s3.eid (8 + wfld q 0 1) 1, slot := s3.cur.2, asid := h.asid, tag := tag, aux1 := BitVec.ofNat 64 (wfld q 1 13), aux2 := BitVec.ofNat 64 (stPL s.th.st), data := bs.take 128 })
def execSpawn (d : Reg) (sg : BitVec 3) (a b : Src) (s : State) : Out := finish (spawn d sg a b s)

/-! ### The ready queue (R293, R294) -/

def rqpush (d : Reg) (a : Src) (s : State) : M State := do
  let i : Instr := .rqpush d a
  enter i .system false 1 s
  let x ← readSrc i [a] a.r s
  destReady d s
  illValue (wfld x 19 13 != 0) x s
  let t := s.cur.1; let T := s.tile t; let tag := wfld x 0 16
  let latched := T.latch.contains tag
  let sleep := wbit x 18 && !latched
  let done (s : State) (v : Word) : M State := .ok (commitWith [a] d v s)
  if T.rq.any (fun e => e.tag == tag) then done s 2
  else if 64 ≤ T.rq.length then done s 1
  else
    let s1 := s.setTile t { T with rq := T.rq ++ [⟨tag, wfld x 16 2, sleep, T.rqOrder⟩], rqOrder := T.rqOrder + 1, latch := T.latch.filter (· != tag) }
    done (if sleep then s1 else s1.wakeRq t [0, 2]) (if latched then 3 else 0)
def execRqpush (d : Reg) (a : Src) (s : State) : Out := finish (rqpush d a s)

/-- The head READY entry of the highest priority that has one. -/
def Tile.rqHead (T : Tile) : Option RqEntry :=
  (T.rq.filter (fun e => !e.sleep)).foldl (fun (m : Option RqEntry) e =>
    match m with
    | none => some e
    | some b => if e.pri < b.pri || (e.pri == b.pri && e.order < b.order) then some e else some b) none

def rqpop (d : Reg) (a : Src) (s : State) : M State := do
  let i : Instr := .rqpop d a
  enter i .system false 1 s
  let x ← readSrc i [a] a.r s
  destReady d s
  destReady (d + 1) s
  let sel := wfld x 1 2
  illValue (wfld x 3 29 != 0 || sel == 3) x s
  let t := s.cur.1; let T := s.tile t
  let entry := if sel = 1 then none else T.rqHead
  let word := if sel = 0 then none else T.msgq.find? (fun q => msgKind q.2 == 2)
  match entry, word with
  | some e, _ =>
    .ok (commitPair [a] d (e.tag + e.pri * 65536) (s.setTile t { T with rq := dropFirst (fun y => y == e) T.rq }))
  | none, some q =>
    let s1 := ((s.setTile t { T with msgq := dropFirst (fun y => y == q) T.msgq }).wrackTo q.2).unholdTile t
    .ok (commitPair [a] d (q.2.aux0.toNat % 2 ^ 32 + (q.2.src % 2 ^ 24 + q.2.slot % 8 * 2 ^ 24 + 2 ^ 30) * 2 ^ 32) s1)
  | none, none =>
    if !wbit x 0 || s.th.wl then
      .ok (commitPair [a] d (2 ^ 63) (if wbit x 0 then s.modTh (fun h => { h with wl := false }) else s))
    else .error ((s.park pPARK).modTh (fun h => { h with parkReg := rqMark + sel }))
def execRqpop (d : Reg) (a : Src) (s : State) : Out := finish (rqpop d a s)

/-! ### Scratchpad ranges, context records (R296, R297) and SCRUB (R300) -/

/-- The copy ranges a scratchpad access of many bytes touches (R69). -/
def copiesFree (o n : Nat) (write : Bool) (s : State) : M Unit :=
  let T := s.tile s.cur.1
  (T.rng.filter (fun e => e.inCopy o n)).forM (fun e =>
    match ({ T with rng := [e] } : Tile).rngCopy s.cur.2 o n write with
    | .wait => .error (s.park pGUARDWAIT)
    | .violation c => .error (rangeTrap c 0 0 (s.spPa s.cur.1 o) s)
    | _ => .ok ())

/-- P0 accesses of a thread to its own scratchpad are performed in issue order (R92). -/
def ownSettled (s : State) : M Unit :=
  if s.th.pend.any (fun p => p.path == 0 && spaceOf p.pa == 3 && nfld p.pa 24 24 == s.tileEid s.cur.1) then .error (s.block .fence) else .ok ()

/-- n bytes of the own scratchpad through a segment with S = 1, aligned to 256 bytes. -/
def spRange (write : Bool) (sn off n : Nat) (s : State) : M Nat := do
  let p ← seg (fun g => g.s && (if write then g.w else g.r)) sn off n s
  aligned p 256 off s
  copiesFree p.at_ n write s
  bankFree p.at_ n s
  ownSettled s
  .ok p.at_

/-- Words 0-32 of a context record: g0-g31 and FE. -/
def Slot.recordRegs (h : Slot) : List Byte := ((List.range 32).map h.greg ++ [h.fe]).flatMap (fun w => leBytes 4 w.toNat)
def wordsLE (ws : List Word) : List Byte := ws.flatMap (fun w => leBytes 4 w.toNat)

/-- The self form, 256 bytes. -/
def Slot.selfRecord (h : Slot) : List Byte :=
  h.recordRegs ++ wordsLE [h.epc, h.estat, h.epfx, h.rngs] ++ List.replicate 108 0
/-- The form for slot 7, 512 bytes. -/
def Slot.otherRecord (h : Slot) : List Byte :=
  h.recordRegs ++ wordsLE [h.pc, stSetPARK h.st 0, h.pfx, h.rngs] ++ leBytes 4 h.spbase ++ leBytes 4 h.spsize ++ leBytes 2 h.asid ++ List.replicate 98 0 ++
  (List.range 8).flatMap (fun i => leBytes 16 (h.seg i).toNat) ++ List.replicate 128 0

/-- g-registers and FE from a context record. -/
def Slot.loadRecord (h : Slot) (bs : List Byte) : Slot :=
  { h with g := (List.range 31).foldl (fun m i => mset 0 m (i + 1) (pkWord bs (4 * (i + 1)))) [], fe := pkWord bs 128 ||| 1, poison := 0, prod := 0, rngs := (let w := pkWord bs 144; if w = 0 then 1 else w) }
def Slot.loadSelf (h : Slot) (bs : List Byte) : Slot :=
  let e := pkWord bs 136
  { h.loadRecord bs with joined := none, epc := pkWord bs 132, estat := stSetPL e (min (stPL e) (stPL h.st)), epfx := pkWord bs 140 }
/-- Slot 7 loaded whole by an issuer of level pl; reserved bits of the partition registers and of ASID are not kept. -/
def Slot.loadOther (h : Slot) (pl : Nat) (bs : List Byte) : Slot :=
  let e := pkWord bs 136
  { h.loadRecord bs with
    occ := .thread, run := .ready, pc := pkWord bs 132, st := stBits (wsetb (stSetPARK (stSetPL e (min (stPL e) pl)) 0) 15 false), pfx := pfxBits (pkWord bs 140),
    spbase := pkField bs 148 4 &&& 0x3FFF00, spsize := pkField bs 152 4 &&& 0x7FFF00, asid := pkField bs 156 2 % 512,
    sg := (List.range 8).foldl (fun m i => mset {} m i (segOfNat (pkField bs (256 + 16 * i) 16))) [],
    wl := false, loaded := true, parkReg := 0, joined := none, fork := {}, pendMchk := none, shadow := none }

/-- May slot 7 be saved or loaded now (R297, R325)? -/
def Slot.moves7 (h : Slot) (ld : Bool) : Bool := (h.run == .parked && stPARK h.st == pPARK) || (ld && h.run == .killed)

/-- The first poisoned word of a record, as a register number, 0 for any other word. -/
def State.poisonReg (s : State) (pa : Nat) : Nat := ((List.range 32).find? (fun n => s.eccBad (pa + 4 * n) 4)).getD 0

/-- Producers outstanding are waited for; those of slot 7 are looked at again. -/
def producersDone (other : Bool) (s : State) : M Unit :=
  let t := s.cur.1
  if s.th.prod != 0 then .error (s.block .register)
  else if other && (s.slot t 7).prod != 0 && (s.slot t 7).run == .parked then .error ((s.block .register).after (vdOf t) 16 (evTK .blockCleared t s.cur.2))
  else .ok ()

def ctxMove (ld : Bool) (i : Instr) (d : Reg) (sg : BitVec 3) (a b : Src) (s : State) : M State := do
  enter i .system false 1 s
  let x ← readSrc i [a, b] a.r s
  let c ← readSrc i [a, b] b.r s
  destReady d s
  let other := wbit c 3
  illValue (wfld c 4 28 != 0 || wfld c 0 3 != (if other then 7 else 0)) c s
  let t := s.cur.1
  let n := if other then 512 else 256
  let o ← spRange (!ld) sg.toNat x.toNat n s
  let pa := s.spPa t o
  if other && s.cur.2 != 7 && !(s.slot t 7).moves7 ld || other && s.cur.2 == 7 then .ok (commitWith [a, b] d 1 s)
  else do
    producersDone other s
    let h := if other then s.slot t 7 else s.th
    if ld then
      let s1 := s.readCheck pa n (s.ctxName t s.cur.2)
      if s1.eccBad pa n then .error (s1.trap tMCHK 1 (BitVec.ofNat 32 (s1.poisonReg pa)))
      else
        let bs := rdBytes s1.mem pa n
        let s := s1
        if other then .ok ((commitWith [a, b] d 0 s).modSlot t 7 (fun h => h.loadOther (stPL s.th.st) bs))
        else .ok ((consume [a, b] s).modTh (fun h => (h.loadSelf bs).commit))
    else match h.poisoned with
      | some r => .error (s.trap tMCHK 1 (BitVec.ofNat 32 r))
      | none => .ok (commitWith [a, b] d 0 (s.perform pa (if other then h.otherRecord else h.selfRecord)))
def execCtxsv (d : Reg) (sg : BitVec 3) (a b : Src) (s : State) : Out := finish (ctxMove false (.ctxsv d sg a b) d sg a b s)
def execCtxld (d : Reg) (sg : BitVec 3) (a b : Src) (s : State) : Out := finish (ctxMove true (.ctxld d sg a b) d sg a b s)

/-- Zeros over a range of memory: no listed byte and no bad word remains. -/
def State.zero (s : State) (pa n : Nat) : State :=
  { s with mem := s.mem.filter (fun c => !(decide (pa ≤ c.1) && decide (c.1 < pa + n))), ecc := s.ecc.filter (fun w => !(decide (pa ≤ w) && decide (w < pa + n))),
           ecc1 := s.ecc1.filter (fun w => !(decide (pa ≤ w) && decide (w < pa + n))) }

def scrub (sg : BitVec 3) (a b : Src) (s : State) : M State := do
  let i : Instr := .scrub sg a b
  enter i .system false 0 s
  let x ← readSrc i [a, b] a.r s
  let n ← readSrc i [a, b] b.r s
  illValue (n.toNat % 256 != 0 || 0x400000 < n.toNat) n s
  if n = 0 then .ok (commitPlain [a, b] s)
  else do
    let o ← spRange true sg.toNat x.toNat n.toNat s
    let pa := s.spPa s.cur.1 o
    let s1 := ((s.zero pa n.toNat).modTile s.cur.1 (fun T => T.markDirty o n.toNat)).fireWatches pa n.toNat
    .ok (commitPlain [a, b] s1)
def execScrub (sg : BitVec 3) (a b : Src) (s : State) : Out := finish (scrub sg a b s)

/-! ### Bank locks (R298) -/

def splock (d : Reg) (a : Src) (s : State) : M State := do
  let i : Instr := .splock d a
  enter i .system false 1 s
  let x ← readSrc i [a] a.r s
  destReady d s
  let t := s.cur.1; let k := s.cur.2; let T := s.tile t
  if T.locks.any (fun l => l.slot != k && (l.mask &&& x) != 0) then .ok (commitWith [a] d 1 s)
  else if x = 0 then .ok (commitWith [a] d 0 s)
  else if T.locks.any (fun l => l.slot == k) then
    .ok (commitWith [a] d 0 (s.setTile t { T with locks := updWhere (fun l => l.slot == k) (fun l => { l with mask := l.mask ||| x }) T.locks }))
  else .ok (commitWith [a] d 0 ((s.setTile t { T with locks := T.locks ++ [⟨k, x, s.clock (vdOf t)⟩] }).after (vdOf t) 4096 (evTK .lockTimeout t k)))
def execSplock (d : Reg) (a : Src) (s : State) : Out := finish (splock d a s)

def spunlock (a : Src) (s : State) : M State := do
  let i : Instr := .spunlock a
  enter i .system false 1 s
  let x ← readSrc i [a] a.r s
  let t := s.cur.1; let k := s.cur.2; let T := s.tile t
  let ls := (updWhere (fun l => l.slot == k) (fun l => { l with mask := l.mask &&& ~~~x }) T.locks).filter (fun l => l.mask != 0)
  .ok ((((commitPlain [a] s).modTile t (fun T => { T with locks := ls })).notifyAll t).unholdTile t)
def execSpunlock (a : Src) (s : State) : Out := finish (spunlock a s)

/-- LOCK_TIMEOUT: 4,096 cycles after the slot's first lock. -/
def lockTimeout (s : State) : State :=
  let t := s.arg.t; let k := s.arg.k
  match (s.tile t).locks.find? (fun l => l.slot == k && decide (l.since + 4096 ≤ s.clock (vdOf t))) with
  | some l => (s.unlockAll t k).modSlot t k (fun h => { h with pendLock := some l.mask })
  | none => s
def execLockTimeout (s : State) : Out := .next (lockTimeout s)

/-! ### LAGRANT (R161, R299) -/

/-- Bits 8-15 of the tile's field hold revokes that wait for a branch; the CSR shows bits 7-0. -/
def lagrant (d : Reg) (a : Src) (s : State) : M State := do
  let i : Instr := .lagrant d a
  enter i .system false 1 s
  let x ← readSrc i [a] a.r s
  destReady d s
  let k := wfld x 0 3
  illValue (wfld x 4 28 != 0 || k == 7) x s
  let t := s.cur.1; let m := (s.tile t).lamask
  let set (m : Word) (s : State) : State := s.modTile t (fun T => { T with lamask := m })
  if wbit x 3 then
    if wbit m k then .ok (commitWith [a] d 0 (set (wsetb m (8 + k) false) s))
    else if 2 ≤ countOnes 8 m then .ok (commitWith [a] d 1 s)
    else .ok (commitWith [a] d 0 (set (wsetb m k true) s))
  else if (s.slot t k).shadow.isSome then .ok (commitWith [a] d 0 (set (wsetb m (8 + k) true) s))
  else .ok (commitWith [a] d 0 (set (wsetb m k false) s))
def execLagrant (d : Reg) (a : Src) (s : State) : Out := finish (lagrant d a s)

/-! ### Causes and blocked threads -/

/-- PENDING_CAUSE_TAKEN in slot k of tile t (R324). -/
def pendingCauseTaken (s : State) : State :=
  let h := s.slot s.arg.t s.arg.k
  if h.isReady && h.hasCause then ({ s with cur := (s.arg.t, s.arg.k) } : State).takeCause else s
def execPendingCauseTaken (s : State) : Out := .next (pendingCauseTaken s)

/-- A FENCE that waited commits, and no cause is taken before it does (R96, log entry 126); a crew on the move issues it again. -/
def State.fenceDone (s : State) (t k mask scope : Nat) : State :=
  let h := s.slot t k
  if h.frozen then s.setSlot t k { h with run := .ready }
  else if !h.cbuf.isEmpty || ({ s with cur := (t, k) } : State).fenceWaits mask scope then s
  else (s.setSlot t k { h.commit with run := .ready, lastIssue := some (s.clock (vdOf t)) }).quantumOut t k

/-- BLOCK_CLEARED: a FENCE ends its wait, and the FENCE inside an instruction (R104), which then goes on before a cause is taken; any other
thread's next attempt looks at the condition itself. -/
def blockCleared (s : State) : State :=
  let t := s.arg.t; let k := s.arg.k
  match (s.slot t k).run with
  | .blocked (.fencing mask scope) => s.fenceDone t k mask scope
  | .blocked (.implicit mask scope) =>
    if (s.slot t k).frozen then s.modSlot t k (fun h => { h with run := .ready })
    else if !(s.slot t k).cbuf.isEmpty || ({ s with cur := (t, k) } : State).fenceWaits mask scope then s
    else s.modSlot t k (fun h => { h with run := .ready, fenced := true })
  | .blocked b => if b = .dividing ∨ b = .answer ∨ b = .leaf ∨ b = .drain then s else s.modSlot t k (fun h => { h with run := .ready })
  | _ => s
def execBlockCleared (s : State) : Out := .next (blockCleared s)

/-! ### Wakes (R285, R295, R329) -/

/-- A wake whose address space differs is discarded, unless its sender is a supervisor (R286). -/
def wakeAllowed (m : Msg) (asid : Nat) : Bool := m.asid == asid || 1 ≤ m.aux2.toNat

/-- WAKE of a slot. -/
def wakeSlotMsg (s : State) : State :=
  let m := s.msg; let t := s.dstTile; let k := m.slot % 8
  if !isComputeTile t then s.logError (eidDie m.dst) 20 false cLINKPROTO 0 0
  else match s.fwdSlot t k m.asid with
    | some f =>
      if f.toTile then s.emit (evM .wakeSlotMsg { m with dst := f.target, slot := f.newSlot k })
      else match s.images.find? (fun im => im.savea == f.target) with
        | some im =>
          let n := slotIndex f.slots k
          if wakeAllowed m ((im.slots.headD {}).asid) then { s with mem := wrByte s.mem (s.canon f.target + 0x100 + 8192 * n + 0x1F00) 1 } else s
        | none => s
    | none =>
      let h := s.slot t k
      if s.settling t k then s.holdTile t (evM .wakeSlotMsg m)
      else if !(h.occ == .thread || h.occ == .reserved) || h.run == .halted || h.run == .killed || (k = 7 && !h.loaded) || !wakeAllowed m h.asid then s
      else if h.run = .parked && stPARK h.st = pPARK then s.setSlot t k h.wake
      else s.modSlot t k (fun h => { h with wl := true })
def execWakeSlotMsg (s : State) : Out := .next (wakeSlotMsg s)

/-- WAKE of a tag. -/
def wakeTagMsg (s : State) : State :=
  let m := s.msg; let t := s.dstTile
  if isComputeTile t then s.tagWake t (dfld m.aux0 0 16) else s.logError (eidDie m.dst) 20 false cLINKPROTO 0 0
def execWakeTagMsg (s : State) : Out := .next (wakeTagMsg s)

/-- A fault wake (R28, R329). One that comes while its crew is being swapped out is recorded (R330, R332). -/
def wakeFaultMsg (s : State) : State :=
  let m := s.msg; let t := s.dstTile; let k := m.slot % 8
  let id := BitVec.ofNat 32 m.aux1.toNat
  let kill := m.aux0.getLsbD 17
  let h := s.slot t k
  if !isComputeTile t then s.logError (eidDie m.dst) 20 false cLINKPROTO 0 0
  else if (h.occ == .thread || h.occ == .reserved) && h.crewid == id then
    if (s.crewAt (vdOf t) id.toNat).any (fun c => c.state == 1) then
      s.modCrew (vdOf t) id.toNat (fun c => { c with woken := c.woken ||| 2 ^ slotIndex c.mask k, kwake := if kill then c.kwake ||| 2 ^ slotIndex c.mask k else c.kwake })
    else if s.settling t k then s.holdTile t (evM .wakeFaultMsg m)
    else
      let s1 := s.resumeSteps t k (fun _ => true) kill
      if parkedFault h then s1.modSlot t k (fun h => { h.wake with pendMchk := if kill then some 5 else h.pendMchk }) else s1
  else match (s.tile t).fwd.find? (fun f => f.crew == id) with
    | some f =>
      if f.toTile then s.emit (evM .wakeFaultMsg { m with dst := f.target, slot := f.newSlot k })
      else s.wokeAbsent t (s.canon f.target) (slotIndex f.slots k) kill
    | none => if (s.die (vdOf t)).remapped then s.logError (vdOf t) 20 false cLINKPROTO 0 0 else s
def execWakeFaultMsg (s : State) : Out := .next (wakeFaultMsg s)

/-- WAKE_DESCRIPTOR written to the wake window of I/O die t. -/
def wakeDescriptor (s : State) : State :=
  let vd := iodVd s.arg.t; let d := s.arg.desc.toNat
  let c := nfld d 0 27
  if nfld d 27 5 != 0 || nfld d 33 31 != 0 || nfld d 96 32 != 0 then s.logError vd 24 false cDOORBELL 0 c
  else s.post .wakeFaultMsg { Msg.zero with src := s.eid vd 2, dst := ctxPkg c * 4096 + ctxTile c, slot := ctxSlot c, attr := 1, aux0 := BitVec.ofNat 64 (nfld d 32 1 * 2 ^ 17), aux1 := BitVec.ofNat 64 (nfld d 64 32) }
def execWakeDescriptor (s : State) : Out := .next (wakeDescriptor s)

end Sys2Proof.Machine
end

