-- ==== Sys2Proof/Machine/Errors.lean ====
section
/-! DEFINITION. Refused requests at the party that sent them (ERR: R21, R70, R125, R394, R395), and answers to watches (R242). -/

namespace Sys2Proof.Machine
open Sys2Proof

/-- The record of an access that was lost on its way (R21, R129), with the context of the slot that issued it: a visitor's is the slot it
visits (log entry 141). -/
def State.lostAt (s : State) (t k pa c : Nat) : State := s.logError (vdOf t) 20 true (if c = 15 then cUNREACH else cBADPA) pa (s.ctxName t k)

/-- A copy on another tile, whose bank found the violation and has logged it (R71, R72): the issuing tile's log takes no second entry. -/
def State.toldThere (s : State) (t pa : Nat) : Bool := spaceOf pa == 3 && nfld pa 24 24 != s.tileEid t

/-- A violation at the issuing tile's log. -/
def State.tellViolation (s : State) (t k la cause path pa : Nat) : State :=
  if s.toldThere t pa then s else (s.logViolation t la k cause path true pa).2

/-- RANGE for a thread before its next issue (R70). A visitor goes home for it. EVAL is 8 where the entry is another tile's. -/
def State.deferFor (s : State) (t k la cause pa : Nat) : State :=
  let h := s.slot t k
  let say (s : State) (u j : Nat) : State := if s.toldThere t pa then s.pendViolation u j cause 8 else s.deferRange u j la cause pa
  if h.isVisitor && ctxPkg h.origin == s.pkg then
    let s1 := say s (ctxTile h.origin) (ctxSlot h.origin)
    s1.modSlot t k (fun h => { h with pendRange := [(cause + 0x80, 8)], run := match h.run with
      | .blocked .drain => .blocked .drain
      | .blocked .dividing => .blocked .dividing
      | _ => .ready })
  else say s t k

/-- A register that nothing will fill any more. -/
def State.neverFilled (s : State) (t k rd : Nat) (pair : Bool) : State :=
  s.modSlot t k (fun h => let h1 := h.dropProd rd; if pair && rd != 0 then h1.dropProd (rd + 1) else h1)

/-- The linear address a violation is logged with: zero for a copy range that its bank found (R72). -/
def violationLa (p : Pend) : Nat := if spaceOf p.pa = 3 then 0 else p.la

/-- A visitor's load was refused: it is logged, and the visitor goes home, where the load is issued again (R70). To a thread of another
package no message tells that; its register stays empty (log entry 20). -/
def State.loadRefused (s : State) (t k : Nat) (p : Pend) (c rd size : Nat) (sx : Bool) : State :=
  let o := (s.slot t k).origin
  let s1 := s.tellViolation t k (violationLa p) c 0 p.pa
  let s2 := if ctxPkg o = s.pkg then s1.modSlot (ctxTile o) (ctxSlot o) (fun h => { h with redo := h.redo ++ [(rd, size, sx, p.la)] }) else s1
  let s3 := s2.donePend t k p.tag
  if (s3.slot t k).run == .blocked .dividing then s3.modSlot t k (fun h => { h with pendLock := some 0 })
  else if (s3.slot t k).move.isSome then s3 else ({ s3 with cur := (t, k) } : State).goHome

/-- A write of an engine or a ladle is refused: its command ends with BOUND for a violation, which the issuing tile logs (R70, R254);
any other write is lost and recorded (R21). -/
def State.engWriteRefused (s : State) (t k : Nat) (p : Pend) (ctx ch seg c : Nat) : State :=
  let s1 := s.engAck t k p.tag p.path ctx ch seg false
  if c = 0 ∨ 5 < c then s1.lostAt t k p.pa c
  else
    let s2 := s1.tellViolation t (ctxSlot ctx) (violationLa p) c p.path p.pa
    let stop (e : Nat) : Nat := if e = 0 then eBOUND else e
    if p.path = 1 then
      s2.modTile t (fun T => { T with ladles := mset {} T.ladles ch (let L := mget {} T.ladles ch; { L with active := L.active.map (fun x => if x.ctx = ctx then { x with err := stop x.err } else x) }) })
    else s2.modCmd t (p.path - 2) 0 (fun x => if x.ctx = ctx then { x with err := stop x.err } else x)

/-- A completion-word post is refused: it is logged without a trap (R392), and whoever waits for it goes on. -/
def State.postRefused (s : State) (t k : Nat) (p : Pend) (ctx c : Nat) : State :=
  let s1 := s.donePend t k p.tag
  let s2 := if c = 0 ∨ 5 < c then s1.lostAt t k p.pa c else s1.tellViolation t (if ctxPkg ctx = s.pkg then ctxSlot ctx else k) (violationLa p) c p.path p.pa
  if ctxPkg ctx = s.pkg then s2.notify (ctxTile ctx) (ctxSlot ctx) else s2.mapDone t ctx

/-- What ERR does to the access it refuses; a refused completion-word post is logged without a trap (R392). Causes 1 to 5 are violations of R71, 15 is UNREACH, any other BADPA. -/
def State.refusedAccess (s : State) (t k : Nat) (p : Pend) (c : Nat) : State :=
  let violation := decide (1 ≤ c) && decide (c ≤ 5)
  let done (s : State) : State := s.donePend t k p.tag
  let lost (s : State) : State := done (s.lostAt t k p.pa c)
  let deferred (s : State) : State := (done s).deferFor t k (violationLa p) c p.pa
  let here (s : State) : State := { s with cur := (t, k) }
  let unblocked (s : State) : State := here (s.modSlot t k (fun h => { h.delPend p.tag with run := .ready }))
  let record : State :=
    if !violation then ((unblocked s).trap tMCHK 1 0).lostAt t k p.pa c
    else if (s.slot t k).isVisitor then ((unblocked s).tellViolation t k (violationLa p) c 0 p.pa).goHome
    else (unblocked s).deferFor t k (violationLa p) c p.pa
  match p.kind with
  | .load rd size sx =>
    if violation && (s.slot t k).isVisitor then (s.neverFilled t k rd (size == 8)).loadRefused t k p c rd size sx
    else if violation then deferred (s.neverFilled t k rd (size == 8)) else lost (s.fillLoad t k rd size sx 0 true)
  | .store _ => if violation then deferred s else lost s
  | .atomic rd _ _ _ => if violation then deferred (s.neverFilled t k rd false) else lost (s.fillReg t k rd 0 true)
  | .post rd _ _ => if violation then deferred (s.neverFilled t k rd false) else lost (s.fillReg t k rd 0 true)
  | .watch rd _ => if violation then deferred (s.neverFilled t k rd false) else lost (s.fillReg t k rd 0 true)
  | .segld _ _ _ _ =>
    record
  | .record _ => record
  | .value .. => s
  | .node asid la => s.nodeGot t k p.tag asid la p.pa (2 ^ 64 + c)
  | .binding rd excl isTry spoff srcs =>
    if violation then bindingArrived t k p.tag rd excl isTry spoff srcs p.pa ⟨false, 0, 0, 0⟩ s
    else (s.unblockCommit t k p.tag srcs).modSlot t k (fun h => h.setG rd (BitVec.ofNat 32 gBADSPACE))
  | .acquire _ => s.acqFail t k p.pa p.tag gBADSPACE
  | .guardOp rd _ => s.outcome t k p.tag rd (BitVec.ofNat 32 gBADSPACE)
  | .group rd what gm => s.groupUnreachable t k p.tag rd what gm p.pa
  | .mcast rd stamped => if stamped then s else s.outcomePair t k p.tag rd (3 * 2 ^ 32)
  | .mcseq rd _ => (s.outcomePair t k p.tag rd (2 ^ 63)).notifyAll t
  | .send => (s.sendDone t k p.tag .send).lostAt t k p.pa c
  | .channel j => (s.sendDone t k p.tag (.channel j)).lostAt t k p.pa c
  | .spawn rd => lost (s.fillReg t k rd 0 true)
  | .released => done s
  | .wb grec => (lost s).wbStep t k grec
  | .cw ctx => s.postRefused t k p ctx c
  | .eng ctx ch seg => s.engWriteRefused t k p ctx ch seg c
  | .pull ctx ch _ => s.pulled t k p.tag ctx ch p.pa [] (c + 1)
  | .leafOr asid _ _ _ => s.nodeGot t k p.tag asid p.la p.pa (2 ^ 64 + c)

/-- The post of a unit is refused (R392): a launch unit's is recorded in its bank, a copy engine's logged at the tile that issued the copy;
any other is lost. -/
def State.unitPostRefused (s : State) (vd : Nat) (o : UnitOut) (c : Nat) : State :=
  if o.agent = 1 then s.logError vd 23 false cBOUND o.pa 0
  else if 1 ≤ c ∧ c ≤ 5 ∧ o.path = 5 ∧ ctxPkg o.ctx = s.pkg then s.tellViolation (ctxTile o.ctx) (ctxSlot o.ctx) o.la c 5 o.pa
  else s.logError vd 20 false (if c = 15 then cUNREACH else if c = 7 then cBADPA else cBOUND) o.pa 0

/-- ERR for an agent of an I/O die. -/
def State.errAtAgent (s : State) (m : Msg) : State :=
  let vd := eidDie m.dst; let ag := m.dst % 256
  let c := wfld m.attr 0 4
  if isMcUnit m.dst then (if 0x8000 ≤ m.tag then s.joinUnreachable vd (m.tag % 0x1000) else s.mcAck vd m.tag)
  else if 0x8000 ≤ m.tag ∧ m.tag < 65535 then
    match (s.die vd).outs.find? (fun o => o.agent == ag && o.tag == m.tag && o.got.isNone) with
    | some o =>
      if o.ev == noEvent || (o.agent == 1 && o.write && decide (o.path < 16)) then (s.unitAnswer vd ag m.tag none).unitPostRefused vd o c else s.unitAnswer vd ag m.tag (some ([], c + 1))
    | none => s
  else if ag = 1 then
    match (s.lu vd).launches.find? (fun l => l.state == .depWait && l.deps.any (fun d => depTag l.id d == m.tag)) with
    | some _ => ({ s with arg := { s.arg with msg := { m with attr := 3 } } } : State).luWatchrsp
    | none => s.logError vd 23 false cBOUND m.pa 0
  else s

/-- ERR. Tag 65535 belongs to posts of engines and agents and to guard traffic, 65533 to a fault record. -/
def err (s : State) : State :=
  let m := s.msg; let t := s.dstTile; let k := m.slot % 8
  let c := wfld m.attr 0 4
  if m.memd then s.gatherGot (eidVd m.dst) [] true
  else if !isComputeTile t then s.errAtAgent m
  else if m.tag = ctxTag && (s.slot t k).occ == .reserved then s.refusedAt t k 3
  else match (s.slot t k).getPend m.tag with
    | some p => s.refusedAccess t k p c
    | none => if m.tag = 65535 ∧ (c = 7 ∨ c = 15) then s.lostAt t k m.pa c else s.movedWord
def execErr (s : State) : Out := .next (err s)

/-- WATCHRSP: to a launch unit, to a task queue, or to the thread that watches. -/
def watchrsp (s : State) : State :=
  let m := s.msg
  if !isComputeTile s.dstTile then s.luWatchrsp
  else if 16384 ≤ m.tag ∧ m.tag < 65534 then s.taskWatchrsp
  else s.tileWatchrsp
def execWatchrsp (s : State) : Out := .next (watchrsp s)

end Sys2Proof.Machine
end

