-- ==== Sys2Proof/Machine/Host.lean ====
section
/-! DEFINITION. The host link: BARs, power states (R349, R350), boot and the topology table (R357, R358), measurement and
attestation (R359, R360). -/

namespace Sys2Proof.Machine
open Sys2Proof

def BOOTST : Nat := 0x18
def TOPOPA : Nat := 0x20
def bootFAILED : Nat := 4

/-! ### Measurement (R359) -/

def State.mr (s : State) (j : Nat) : BitVec 512 := mget 0 (s.die 8).mr j
def digestBytes (d : BitVec 512) : List Byte := leBytes 64 d.toNat

/-- MR := SHAKE256(MR with SHAKE256(data) after it). -/
def State.extendMr (s : State) (j : Nat) (data : List Byte) : State :=
  s.modDie 8 (fun D => { D with mr := mset 0 D.mr j (Config.shake256 (digestBytes (s.mr j) ++ digestBytes (Config.shake256 data))) })

/-! ### Boot (R357) -/

/-- The dies that get their vd: each through its path of R357, a compute die only with 256 tiles. vd8 is the leader. -/
def assignedDies (b : BootInput) : List Nat :=
  let ok (vd : Nat) : Bool := b.present.contains vd && (8 ≤ vd || ((b.tiles.find? (fun p => p.1 == vd)).map (·.2)).getD 256 == 256)
  let v0 := ok 0; let v2 := ok 2; let v1 := v0 && ok 1; let v3 := v2 && ok 3; let v9 := v1 && ok 9
  [(0, v0), (1, v1), (2, v2), (3, v3), (8, true), (9, v9)].filterMap (fun p => if p.2 then some p.1 else none)

/-- The module-up mask of a die: bit 8 × edge + module. -/
def modulesUp (dies : List Nat) (vd : Nat) : Nat :=
  (List.range 4).foldl (fun a e => match sluicePeer vd e with
    | some (w, _) => if dies.contains w then a + 0xFF * 2 ^ (8 * e) else a
    | none => a) 0

/-- The 64-byte die entry of the topology table (R358). -/
def topoEntry (dies : List Nat) (vd : Nat) : List Byte :=
  if dies.contains vd then
    leBytes 1 (if vd < 8 then 0 else 1) ++ leBytes 1 (dieEdges vd) ++ leBytes 2 (if vd < 8 then 256 else 0) ++
    leBytes 4 (if vd < 8 then Config.hbmBytes / 2 ^ 30 else 0) ++ leBytes 8 (Config.serial vd).toNat ++
    leBytes 4 (modulesUp dies vd) ++ leBytes 4 (dieCaps vd) ++ List.replicate 40 0
  else List.replicate 64 0

/-- The 832 bytes of the topology table. -/
def topoTable (pkg : Nat) (dies : List Nat) : List Byte :=
  leBytes 4 0x5453594E ++ leBytes 2 1 ++ leBytes 2 pkg ++ leBytes 2 (dies.foldl (fun a vd => a + 2 ^ vd) 0) ++ List.replicate 54 0 ++
  (List.range 12).flatMap (fun vd => topoEntry dies vd)

/-- V = 0 for absent dies, in every die's route table. -/
def State.bootDrt (s : State) (dies : List Nat) : State :=
  dies.foldl (fun (s : State) src => s.modDie src (fun D =>
    { D with drt := [0, 1, 2, 3, 8, 9].foldl (fun m dst => if dies.contains dst then m else mput m dst (drtReset src dst &&& ~~~1)) D.drt })) s

/-- Every module between two assigned dies is trained, and each end sends its INIT (R119). -/
def State.bootLinks (s : State) (dies : List Nat) : State :=
  (dies.flatMap (fun vd => (setBits 32 (modulesUp dies vd)).map (fun j => sluiceKey vd (j / 8) (j % 8)))).foldl
    (fun (s : State) key => s.modLink key (fun L => { L.putLink initCell with up := true })) s

/-- Extend a register with the image of another die, which the spec does not give: free bytes. -/
def State.measureFree (s : State) (j : Nat) : State :=
  let (bs, s1) := s.freeBytes 64
  s1.extendMr j bs

/-- BOOT: the management controllers' boot, with what it finds outside the package. -/
def boot (s : State) : State :=
  let b := s.arg.boot
  let s1 : State := { s with boot := b, pkg := b.pkg % 4096 }
  if !b.signatureGood then (s1.setReg 0 BOOTST bootFAILED).setReg 1 BOOTST bootFAILED
  else
    let dies := assignedDies b
    let comp := dies.filter (· < 4)
    let s2 := s1.extendMr 0 (digestBytes b.imageDigest)
    match comp with
    | [] => s2.setReg 0 BOOTST bootFAILED
    | v :: _ =>
      let tab := topoTable s2.pkg dies
      let at_ := v * 2 ^ 37
      let s3 := (if dies.contains 9 then s2.measureFree 1 else s2)
      let s4 := comp.foldl (fun (s : State) vd => s.measureFree (2 + vd)) s3
      let s5 := (s4.extendMr 6 tab).bootDrt dies
      let s6 := dies.foldl (fun (s : State) vd => s.modDie vd (fun D => { D with vdAssigned := some (vd, s5.pkg), enabled := true })) s5
      let s7 := ((s6.bootLinks dies).homeWrite at_ tab)
      (dies.filter (8 ≤ ·)).foldl (fun (s : State) vd => (s.setReg (vd - 8) BOOTST 3).setReg (vd - 8) TOPOPA at_)
        (if dies.contains 9 then s7 else s7.setReg 1 BOOTST 2)
def execBoot (s : State) : Out := .next (boot s)

/-- PACKAGE_RESET (R341, R357): every launch ends with error, the package is as after reset, and it boots again. Memory, what has
left the package and the model's own counters stay; what the ends of the launches write here is at its home already. -/
def packageReset (s : State) : State :=
  let e := ({ s with links := [], egress := [] } : State).endAllLaunches
  let writes := (e.pool ++ e.egress.map (·.2)).filter (fun (ev : Ev) => (ev.i == .cwpost || ev.i == .wr) && eidDie ev.arg.msg.src ≥ 8 && eidPkg ev.arg.msg.dst == s.pkg)
  ({ State.reset with
    pkg := s.pkg, mem := e.mem, ecc := e.ecc, boot := s.boot, host := e.host, eth := e.eth, now := s.now, agenda := s.agenda, freeCtr := e.freeCtr,
    ecc1 := e.ecc1, pool := writes } : State).emit ⟨.boot, { boot := s.boot }⟩
def execPackageReset (s : State) : Out := .next (packageReset s)

/-! ### BARs (R350) -/

def State.failed (s : State) (iod : Nat) : Bool := s.reg iod BOOTST == bootFAILED

/-- Bytes at space 5 offsets, whichever registers they lie in. -/
def State.mmioBytes (s : State) (o : Nat) : Nat → List Byte
  | 0 => []
  | n + 1 => BitVec.ofNat 8 (s.mmioRead (5 * 2 ^ 52 + o) 1) :: s.mmioBytes (o + 1) n

/-- HOST_BAR_READ: t the port, k the BAR, v the offset, n the bytes. After a failed boot only the identity block answers. -/
def hostBarRead (s : State) : State :=
  let a := s.arg
  let done (bs : List Byte) (s : State) : State := s.hostOut (.readDone a.t bs)
  match a.k with
  | 0 =>
    let o := a.v % 2 ^ 29
    if s.failed (o / 2 ^ 28) && 0x10000 ≤ o % 2 ^ 28 then s.hostOut (.completerAbort a.t) else done (s.mmioBytes o a.n) s
  | 2 =>
    let pa := a.v % 2 ^ 39
    if s.failed a.t then s.hostOut (.completerAbort a.t)
    else if !s.decodes (iodVd a.t) pa then (s.logError (iodVd a.t) 20 false cBADPA pa 0).hostOut (.completerAbort a.t)
    else if (s.refuses 7 pa a.n false false).isSome then (s.logError (iodVd a.t) 20 false cBOUND pa 0).hostOut (.completerAbort a.t)
    else if s.reserved pa a.n then s.waitResv pa a.n ⟨.hostBarRead, a⟩
    else done (rdBytes s.mem pa a.n) (s.readCheck pa a.n 0)
  | 4 =>
    if s.failed (a.v / 2 ^ 24 % 2) then s.hostOut (.completerAbort a.t)
    else done (s.mmioBytes (a.v / 2 ^ 24 % 2 * 2 ^ 28 + 0x800000 + a.v % 2 ^ 24) a.n) s
  | _ => s.hostOut (.completerAbort a.t)
def execHostBarRead (s : State) : Out := .next (hostBarRead s)

/-- A host write into the MMIO map, register by register; none while a window has no buffer for it. -/
def State.hostMmio (s : State) (port o : Nat) (bs : List Byte) : Nat → Option State
  | 0 => some s
  | fuel + 1 =>
    if bs.isEmpty then some s
    else match windowOf (o % 2 ^ 28) with
      | some (base, size) => s.windowPut (o / 2 ^ 28) base size (hostWriter port) (o % 2 ^ 28 - base) (bs.take (base + size - o % 2 ^ 28)) |>.bind (fun s1 => s1.hostMmio port (base + size + o / 2 ^ 28 * 2 ^ 28) (bs.drop (base + size - o % 2 ^ 28)) fuel)
      | none =>
        let n := min bs.length (8 - o % 8)
        match s.mmioWrite (hostWriter port) (5 * 2 ^ 52 + o) (bs.take n) with
        | none => none
        | some s1 => s1.hostMmio port (o + n) (bs.drop n) fuel

/-- HOST_BAR_WRITE: t the port, k the BAR, v the offset, the bytes written: posted, performed at home (R105). -/
def hostBarWrite (s : State) : State :=
  let a := s.arg
  let mmio (o : Nat) : State :=
    if s.failed (o / 2 ^ 28) then s else (s.hostMmio a.t o a.bytes (a.bytes.length + 1)).getD (s.holdDie (8 + o / 2 ^ 28) ⟨.hostBarWrite, a⟩)
  match a.k with
  | 0 => mmio (a.v % 2 ^ 29)
  | 2 =>
    let pa := a.v % 2 ^ 39; let n := a.bytes.length
    if s.failed a.t then s
    else if !s.decodes (iodVd a.t) pa then s.logError (iodVd a.t) 20 false cBADPA pa 0
    else if (s.refuses 7 pa n false true).isSome then s.logError (iodVd a.t) 20 false cBOUND pa 0
    else if s.reserved pa n then s.waitResv pa n ⟨.hostBarWrite, a⟩
    else s.perform pa a.bytes
  | 4 => mmio (a.v / 2 ^ 24 % 2 * 2 ^ 28 + 0x800000 + a.v % 2 ^ 24)
  | _ => s
def execHostBarWrite (s : State) : Out := .next (hostBarWrite s)

/-- A host AtomicOp to a BAR completes with Completer Abort (R349). -/
def execHostAtomicOp (s : State) : Out := .next (s.hostOut (.completerAbort s.arg.t))

/-- PCIE_D3HOT: t the port, v the state asked for, 3 or 0. D3hot with launches running is refused (R349). -/
def pcieD3hot (s : State) : State :=
  let t := s.arg.t
  let busy := [8, 9].any (fun vd => (s.lu vd).launches.any (fun l => l.state != .ended))
  let d3 := s.arg.v == 3 && !busy
  (s.modDie (iodVd t) (fun D => { D with d3 := d3 })).hostOut (.powerState t (if d3 then 3 else 0))
def execPcieD3hot (s : State) : Out := .next (pcieD3hot s)

/-! ### SPDM over DOE (R360) -/

/-- GETCHAIN: t the port. -/
def execGetchain (s : State) : Out := .next (s.hostOut (.doe s.arg.t Config.certChain))

/-- GETMEAS: the 32-byte nonce in bytes, the MR mask in v: the masked registers, the nonce, and the signature over the digest of
request and response. -/
def getmeas (s : State) : State :=
  let a := s.arg
  let resp := (setBits 16 (a.v % 2 ^ 16)).flatMap (fun j => digestBytes (s.mr j)) ++ a.bytes
  let req := leBytes 1 2 ++ a.bytes ++ leBytes 2 a.v
  s.hostOut (.doe a.t (resp ++ Config.sign (digestBytes (s.mr 0) ++ digestBytes (Config.shake256 (req ++ resp)))))
def execGetmeas (s : State) : Out := .next (getmeas s)

/-- EXTEND: MR index k, 64 bytes of data. -/
def extend (s : State) : State :=
  let a := s.arg
  if a.k < 7 || 15 < a.k || a.bytes.length != 64 then s.hostOut (.doeError a.t)
  else
    let s1 := s.extendMr a.k a.bytes
    s1.hostOut (.doe a.t (digestBytes (s1.mr a.k)))
def execExtendMr (s : State) : Out := .next (extend s)

end Sys2Proof.Machine
end

