-- ==== Sys2Proof/Machine/Net.lean ====
section
/-! DEFINITION. The network engine (R273, R352-R356), and what the PCIe host and CXL devices send back (R43, R349, R351). -/

namespace Sys2Proof.Machine
open Sys2Proof

/-! ### Send queues (R355) -/

def netVd (q : Nat) : Nat := 8 + q % 1024 / 512
def State.nqW (s : State) (q j : Nat) : Nat := s.reg (q % 1024 / 512) (0x400000 + 32 * (q % 512) + 8 * j)
def State.nqAsid (s : State) (q : Nat) : Nat := nfld (s.nqW q 0) 1 9
def State.nqV (s : State) (q : Nat) : Bool := (s.nqW q 0).testBit 0
def State.nqErrors (s : State) (q : Nat) : Nat := s.reg (q % 1024 / 512) (0x404000 + 8 * (q % 512))
def State.nqFail (s : State) (q : Nat) : State := s.setReg (q % 1024 / 512) (0x404000 + 8 * (q % 512)) ((s.nqErrors q + 1) % 2 ^ 64)
def State.nqDone (s : State) (q : Nat) : State := s.setReg (q % 1024 / 512) (0x400000 + 32 * (q % 512) + 24) ((s.nqW q 3 + 1) % 2 ^ 64)

/-! ### Work requests (R353) -/

def wrOp (w : Nat) : Nat := nfld w 0 2
def wrPidx (w : Nat) : Nat := nfld w 16 16
def wrLla (w : Nat) : Nat := nfld w 64 48
def wrLen (w : Nat) : Nat := nfld w 128 32
def wrMalformed (w : Nat) : Bool :=
  decide (2 ≤ wrOp w) || nfld w 3 13 != 0 || nfld w 44 20 != 0 || nfld w 112 16 != 0 || nfld w 192 320 != 0 ||
  wrLen w == 0 || decide (2 ^ 30 < wrLen w)

def wrOrd (w : Nat) : Bool := w.testBit 2

/-! ### The engine's accesses (R354): line by line at their homes, each answered before the next is made -/

/-- Word j of a receive entry (R356). -/
def State.rxW (s : State) (iod x j : Nat) : Nat := s.reg iod (0x408000 + 32 * (x % 2048) + 8 * j)
def NetReq.w (r : NetReq) : Nat := leNat (r.wr.take 64)
def NetReq.incoming (r : NetReq) : Bool := decide (2048 ≤ r.q)
def State.netAsid (s : State) (vd : Nat) (r : NetReq) : Nat := if r.incoming then nfld (s.rxW (iodOf vd) (r.q - 2048) 0) 1 9 else s.nqAsid r.q
def State.netLa (s : State) (vd : Nat) (r : NetReq) : Nat := if r.incoming then nfld (s.rxW (iodOf vd) (r.q - 2048) 1) 0 48 + r.off else wrLla r.w
def State.netUnit (s : State) (vd : Nat) (r : NetReq) : Unit_ := { vd := vd, ag := 0x30, path := 7, ctx := r.ctx, asid := s.netAsid vd r, ev := netEvent vd r.id }
def State.modNet (s : State) (vd id : Nat) (f : NetReq → NetReq) : State :=
  s.modDie vd (fun D => { D with net := updWhere (fun (r : NetReq) => r.id == id) f D.net })

/-- ROD requests keep their order (R354): of one queue to one peer they go out in it, and those that come in are performed in it. -/
def State.netBehind (s : State) (vd : Nat) (r : NetReq) : Bool :=
  wrOrd r.w && (s.die vd).net.any (fun x => decide (x.id < r.id) && wrOrd x.w &&
    (if r.incoming then x.incoming else x.q == r.q && wrPidx x.w == wrPidx r.w && !x.sent))

/-- Requests that may have waited for another go on. -/
def State.netGoOn (s : State) (vd : Nat) : State := ((s.die vd).net.filter (fun r => wrOrd r.w)).foldl (fun (s : State) r => s.emitOnce (netEvent vd r.id)) s

/-- Threads that wait for room in an engine's queue look again (R253). -/
def State.netFreed (s : State) : State := s.tiles.foldl (fun (s : State) p => s.engFreed p.1) s

/-- A request is gone; answers that are still to come are for nobody. -/
def State.netDrop (s : State) (vd : Nat) (r : NetReq) : State :=
  let ev := netEvent vd r.id
  let left (l : List UnitOut) : List UnitOut := (l.filter (fun o => !(o.ev == ev && o.got.isSome))).map (fun o => if o.ev == ev then { o with ev := noEvent } else o)
  ((s.modDie vd (fun D => { D with net := dropFirst (fun (x : NetReq) => x.id == r.id) D.net, outs := left D.outs })).netFreed).netGoOn vd

/-- A request ends without completing: counted as an error of its queue, or refused to the peer (R354, R356). -/
def State.netFail (s : State) (vd : Nat) (r : NetReq) : State :=
  let s1 := s.netDrop vd r
  if r.incoming then s1.ethOut (.refuse vd r.n) else s1.nqFail r.q

/-- A request completes (R354); an incoming write posts 1 to its completion word, and the peer hears of it (R356). -/
def State.netDone (s : State) (vd : Nat) (r : NetReq) : State :=
  let s1 := s.netDrop vd r
  if r.incoming then (s1.agentPost vd 0x30 (nfld (s.rxW (iodOf vd) (r.q - 2048) 3) 0 56) 1 false).ethOut (.ack vd r.n) else s1.nqDone r.q

/-- Where a step's translations put a linear address. -/
def NetReq.placeOf (r : NetReq) (start la : Nat) : Option Nat :=
  (r.step.find? (fun p => p.1 == start && decide (p.2.1 ≤ la) && decide (la < p.2.1 + p.2.2.2))).map (fun p => p.2.2.1 + (la - p.2.1))

/-- The step of 64 KiB that holds byte `off` of a request, and the first of its pages of 4 KiB that has no translation yet. -/
def NetReq.untranslated (r : NetReq) (la0 off total : Nat) : Option Nat :=
  let start := off / 65536 * 65536
  let pages : List Nat := (la0 + start) :: (List.range 17).map (fun i => (la0 + start) / 4096 * 4096 + 4096 * (i + 1))
  pages.find? (fun la => decide (la < la0 + min total (start + 65536)) && (r.placeOf start (la % 2 ^ 48)).isNone)

/-- Place of the access to byte `off` of a request: translated, to be refused, or none (wait). The whole step of 64 KiB is translated before its
first access; a walk that waits for an invalidation with WAKE waits for it (R31). Only spaces 0, 1 and 4 serve (R354). -/
def State.netPlace (s : State) (vd : Nat) (r : NetReq) (off total kind : Nat) : Option (Except Unit Nat) × State :=
  let u := s.netUnit vd r
  let start := off / 65536 * 65536
  match r.untranslated (s.netLa vd r) off total with
  | none => ((r.placeOf start ((s.netLa vd r + off) % 2 ^ 48)).map .ok, s)
  | some la =>
    match s.luWalk u (la % 2 ^ 48) kind with
    | (.ok pa lvl, s1) =>
      if (spaceOf pa = 0 || spaceOf pa = 1 || spaceOf pa = 4) && s1.decodes vd pa then
        let size := 2 ^ leafBits lvl
        (none, (s1.modNet vd r.id (fun r => { r with step := r.step.filter (·.1 == start) ++ [(start, la % 2 ^ 48 / size * size, pa / size * size, size)] })).emitOnce u.ev)
      else (some (.error ()), s1)
    | (.fault _ _ _ _, s1) => (some (.error ()), s1)
    | (.poisoned, s1) => (some (.error ()), s1)
    | (.walkWait, s1) => (none, s1)
    | (_, s1) => (none, if s1.unitBusy u then s1 else s1.after vd 1024 u.ev)

/-- The port a packet goes out on: those of the queue's mask in turn (R352); port 0 where the mask names none (log entry 180). -/
def State.netPort (s : State) (q i : Nat) : Nat :=
  let ps := setBits 4 (nfld (s.nqW q 0) 10 4)
  ps.getD (i % ps.length) 0

/-- A request leaves: a READ in one packet, the bytes of a WRITE in packets of at most 4,096 (R352). -/
def State.netSend (s : State) (r : NetReq) : State :=
  if wrOp r.w = 1 then s.ethOut (.read (s.netPort r.q 0) r.q r.n r.wr)
  else (List.range (cdiv r.data.length 4096)).foldl (fun (s : State) i => s.ethOut (.write (s.netPort r.q i) r.q r.n (4096 * i) r.wr ((r.data.drop (4096 * i)).take 4096))) s

/-- The next access of a request whose earlier ones are answered, or its end: the peer's table entry, a WRITE's source bytes, the way to
the peer, and the bytes that came. -/
def State.netNext (s : State) (vd : Nat) (r : NetReq) : State :=
  let u := s.netUnit vd r; let w := r.w
  let line (pa n : Nat) : Nat := min n (256 - pa % 256)
  if s.unitFull vd u.ag then s.after vd 64 u.ev
  else if !r.sent && r.wr.length < 96 then
    let pa := s.canon (s.nqW r.q 1 % 2 ^ 56 + 32 * wrPidx w + (r.wr.length - 64))
    if !s.decodes vd pa || spaceOf pa = 3 || spaceOf pa = 5 then s.netFail vd r else s.unitGet u pa (line pa (96 - r.wr.length)) 0
  else if !r.sent && (wrOp w = 1 || wrLen w ≤ r.data.length) then
    (((s.modNet vd r.id (fun r => { r with sent := true, data := [] })).netSend r).notify (ctxTile r.ctx) (ctxSlot r.ctx)).netGoOn vd
  else if !r.sent then
    let la := s.netLa vd r + r.data.length
    match s.netPlace vd r r.data.length (wrLen w) 4 with
    | (none, s1) => s1
    | (some (.error ()), s1) => s1.netFail vd r
    | (some (.ok pa), s1) => s1.unitGet u pa (line pa (wrLen w - r.data.length)) (la % 2 ^ 48)
  else if r.data.length ≤ r.at_ then (if r.incoming || !r.data.isEmpty then s.netDone vd r else s)
  else
    let la := s.netLa vd r + r.at_
    match s.netPlace vd r r.at_ r.data.length 5 with
    | (none, s1) => s1
    | (some (.error ()), s1) => s1.netFail vd r
    | (some (.ok pa), s1) =>
      let bs := (r.data.drop r.at_).take (line pa (r.data.length - r.at_))
      (s1.unitPut u pa (la % 2 ^ 48) bs).modNet vd r.id (fun r => { r with at_ := r.at_ + bs.length })

/-- A step of request `id` of an I/O die's network engine: an access that came back refused or poisoned ends it. -/
def netStep (vd id : Nat) (s : State) : State :=
  match (s.die vd).net.find? (fun r => r.id == id) with
  | none => s
  | some r =>
    let u := s.netUnit vd r
    if (s.die vd).stopped || s.unitBusy u || s.netBehind vd r then s
    else match (s.die vd).outs.find? (fun o => o.ev == u.ev && o.path < 16 && o.got.isSome) with
      | some ⟨_, _, _, _, _, _, _, false, _, some (bs, 0)⟩ =>
        ((s.unitClear u).modNet vd id (fun r => if r.wr.length < 96 then { r with wr := r.wr ++ bs } else { r with data := r.data ++ bs })).emitOnce u.ev
      | some _ => s.netFail vd r
      | none => s.netNext vd r

/-! ### NPOST and NPOLL (R273) -/

/-- Requests of a queue outstanding. -/
def State.nqBusy (s : State) (q : Nat) : Nat := ((s.die (netVd q)).net.filter (fun r => r.q == q)).length

/-- The engine takes a work request of a configured queue (R354). -/
def State.netPost (s : State) (q : Nat) (bs : List Byte) (ctx : Nat) : State :=
  let vd := netVd q
  let n := (s.die vd).netSeq
  let r : NetReq := { q := q, n := n, wr := bs, ctx := ctx, id := n, off := 0, at_ := 0, data := [], sent := false }
  (s.modDie vd (fun D => { D with net := D.net ++ [r], netSeq := n + 1 })).emitOnce (netEvent vd n)

/-- Entries in the peer table of a queue (R355). -/
def State.nqPeers (s : State) (q : Nat) : Nat := nfld (s.nqW q 1) 56 8 + nfld (s.nqW q 2) 0 8 * 256

/-- A posted request reaches its queue: none while that is full; refused where the queue is not configured for the thread's ASID, or the
request is malformed or names no peer. -/
def State.postAccept (s : State) (t k q : Nat) (bs : List Byte) : Option State :=
  if 256 ≤ s.nqBusy q then none
  else
    let s1 := s.modSlot t k (fun h => { h with qx := mset 0 h.qx 2 0 })
    let w := leNat bs
    some (if !s.nqV q || s.nqAsid q != (s.slot t k).asid || wrMalformed w || s.nqPeers q ≤ wrPidx w then
      (s1.modSlot t k (fun h => { h with qx := mset 0 h.qx 0 (qerr 5 eREFUSED) })).nqFail q
    else s1.netPost q bs (s.ctxName t k))

def npost (i : Instr) (a b : Src) (s : State) : M State := do
  cmdEnter i false s
  let x ← readSrc i [a, b] a.r s
  let y ← readSrc i [a, b] b.r s
  illWord i (wfld y 13 19 != 0) s
  let (bs, s) ← recordPlace (wfld y 10 3) x.toNat 64 s
  let q := wfld y 0 10
  submit false [a, b] (.post q bs) (fun s => s.postAccept s.cur.1 s.cur.2 q bs) s
def execNpost (a b : Src) (s : State) : Out := finish (npost (.npost a b) a b s)

/-- The counter's value, taken now, reaches the pair 4 cycles later (R251). -/
def State.sampleCounter (s : State) (t k rd q : Nat) (err : Bool) : State :=
  s.valueLater t k rd true (BitVec.ofNat 64 (if err then s.nqErrors q else s.nqW q 3)) 4

def npoll (i : Instr) (a : Src) (d : Reg) (s : State) : M State := do
  cmdEnter i false s
  let x ← readSrc i [a] a.r s
  destLaterPair i d s
  illWord i (wfld x 11 21 != 0) s
  let q := wfld x 0 10
  if s.th.shadow.isSome then (defer false [a] (.poll d.toNat q (wbit x 10)) s).map (fun s => s.pairLater d.toNat)
  else .ok ((commitNow (consume [a] s)).sampleCounter s.cur.1 s.cur.2 d.toNat q (wbit x 10))
def execNpoll (a : Src) (d : Reg) (s : State) : Out := finish (npoll (.npoll a d) a d s)

/-! ### What the network sends (R354, R356) -/

def State.netFind (s : State) (vd q n : Nat) : Option NetReq := (s.die vd).net.find? (fun r => r.q == q && r.n == n)

/-- NET_WRITE_ACK: the peer has performed request n of queue k. -/
def netWriteAck (s : State) : State :=
  let q := s.arg.k
  match s.netFind (netVd q) q s.arg.n with
  | some r => if r.sent && wrOp r.w = 0 then s.netDone (netVd q) r else s
  | none => s
def execNetWriteAck (s : State) : Out := .next (netWriteAck s)

/-- NET_READ_DATA: the data of READ n of queue k are performed here; the request completes when all of them are. -/
def netReadData (s : State) : State :=
  let q := s.arg.k; let vd := netVd q
  match s.netFind vd q s.arg.n with
  | none => s
  | some r =>
    if !r.sent || wrOp r.w != 1 || !r.data.isEmpty then s
    else (s.modNet vd r.id (fun r => { r with data := s.arg.bytes.take (wrLen r.w) })).emitOnce (netEvent vd r.id)
def execNetReadData (s : State) : Out := .next (netReadData s)

/-- RETRANSMISSION_EXHAUSTION: request n of queue k ends as refused. -/
def retransmissionExhaustion (s : State) : State :=
  let q := s.arg.k
  match s.netFind (netVd q) q s.arg.n with
  | some r => if r.sent then s.netFail (netVd q) r else s
  | none => s
def execRetransmissionExhaustion (s : State) : Out := .next (retransmissionExhaustion s)

/-- NET_INCOMING_WRITE: t the I/O die 0 or 1, k the receive entry, v the offset in it, n the peer's number, ok for ROD. -/
def netIncomingWrite (s : State) : State :=
  let a := s.arg; let iod := a.t; let vd := iodVd iod
  if !(s.rxW iod a.k 0).testBit 0 || nfld (s.rxW iod a.k 2) 0 32 < a.v + a.bytes.length then s.ethOut (.refuse vd a.n)
  else
    let id := (s.die vd).netSeq
    let r : NetReq := { q := 2048 + a.k % 2048, n := a.n, wr := leBytes 64 (4 * b2n a.ok), ctx := noCtx, id := id, off := a.v, at_ := 0, data := a.bytes, sent := true }
    (s.modDie vd (fun D => { D with net := D.net ++ [r], netSeq := id + 1 })).emitOnce (netEvent vd id)
def execNetIncomingWrite (s : State) : Out := .next (netIncomingWrite s)

/-- ENGINE_STEP: t and k a tile and its matrix (0) or vector (1) engine; or k = 5, t an I/O die and v a copy-engine channel; k = 7, t an
I/O die and v a request of its network engine; k = 8, a value that reaches register pair v of slot n of tile t; k = 9, the writeback of record
v's copy in tile t for slot n. -/
def engineStep (s : State) : State :=
  let a := s.arg
  if a.k < 2 then cmdStep a.t a.k a.ok s
  else if a.k = 5 then copyStep a.t a.v s
  else if a.k = 7 then netStep a.t a.v s
  else if a.k = 8 then s.valueArrived a.t a.n a.v
  else if a.k = 9 then s.wbUnits a.t a.n a.v wbFuel
  else s
def execEngineStep (s : State) : Out := .next (engineStep s)

/-- WRACK (R126): to a multicast unit, to another agent of an I/O die, or to the tile that asked. -/
def wrack (s : State) : State :=
  let m := s.msg
  if isMcUnit m.dst then s.mcAck (eidDie m.dst) m.tag
  else if !isComputeTile s.dstTile then s.unitAnswer (eidDie m.dst) (m.dst % 256) m.tag none
  else s.tileWrack
def execWrack (s : State) : Out := .next (wrack s)

/-! ### Completions of the host and of CXL devices (R43, R351) -/

/-- The bytes for tag k of die t have come: a read or an AtomicOp is answered, a reservation granted with its value, a post performed, a
watch installed. ok = false marks poison (R326): of the 64-byte cells in v, or of all. -/
def ioAnswer (s : State) : State :=
  let a := s.arg
  match (s.die a.t).ioWait.find? (fun w => w.1 == a.k) with
  | none => s
  | some (_, pa, ev) =>
    let asked : State := { s.modDie a.t (fun D => { D with ioWait := dropFirst (fun w => w.1 == a.k) D.ioWait }) with arg := ev.arg }
    let m := ev.arg.msg; let bs := a.bytes; let v := leNat (bs.take 8)
    let bad := if a.ok then 0 else if a.v = 0 then 2 ^ cdiv (m.len + 1) 64 - 1 else a.v
    match ev.i with
    | .rd => asked.readAnswer (bs.take (m.len + 1)) bad
    | .rsv =>
      if spaceOf pa = 2 then (asked.readAnswer (bs.take 4) bad).unreserve pa m
      else asked.answer .rsvgnt (fun r => { r with aux0 := BitVec.ofNat 64 v, attr := BitVec.ofNat 32 (min bad 1) })
    | .cwpost => asked.postOutside pa v (!a.ok)
    | .watchInstall => asked.watchWith pa v
    | _ => asked
def execPcieCompletion (s : State) : Out := .next (ioAnswer s)
def execCxlMemResponse (s : State) : Out := .next (ioAnswer s)

/-- CXL_DEVICE_EVENT: t the I/O die, k the root port, v the address; ok for a corrected one (R338, R351). -/
def execCxlDeviceEvent (s : State) : Out := .next (s.logError s.arg.t (4 + s.arg.k % 8 / 2) (!s.arg.ok) cDEVICE s.arg.v 0)

/-- AER_LINK_ERROR at the port of die t; ok for a corrected one (R338, R349). -/
def execAerLinkError (s : State) : Out := .next ((s.logError s.arg.t 0 (!s.arg.ok) cLINK 0 0).hostOut (.aer s.arg.t (!s.arg.ok)))

end Sys2Proof.Machine
end

