-- ==== Sys2Proof/Machine/Lookahead.lean ====
section
/-! DEFINITION. Lookahead (R161, R251, R321): resolution of predicted branches and what the commit buffer releases. -/

namespace Sys2Proof.Machine
open Sys2Proof

/-- One command leaves the commit buffer, or looks for leave, room or its end again (R321): it passes checks 7 and 8 of R252, and what it does
then is what it does outside a predicted path. -/
def State.releaseOne (s : State) (t k : Nat) : State :=
  let h := s.slot t k
  let ev := evTK .branchResolve t k
  match h.cbuf with
  | [] => s
  | d :: rest =>
    let s0 := s.modSlot t k (fun h => { h with cbuf := rest })
    let next (s : State) : State := if rest.isEmpty then s.notify t k else s.after (vdOf t) 1 ev
    let later (s : State) : State := s.after (vdOf t) 16 ev
    let enter_ (r : Option State) : State := match r with
      | some s1 => next s1
      | none => later s
    match d with
    | .engine c =>
      if s.needsLeave t c.energy && h.leave.isNone then later (s.askPower t k c.energy)
      else if !s.room t (c.op / 256) c then later s
      else next ((s0.modSlot t k (fun h => { h with leave := none })).accept t (c.op / 256) { c with leave := h.leave.isSome })
    | .ladle ch c => enter_ (s0.ladleAccept t ch c)
    | .copy vd ch c => enter_ (s0.copyAccept vd ch c)
    | .task r => enter_ (s0.taskAccept t k r)
    | .post q bs => enter_ (s0.postAccept t k q bs)
    | .wptr rd ch => next (s0.sampleWptr t k rd ch)
    | .poll rd q err => next (s0.sampleCounter t k rd q err)
    | .lcancel ch => next (s0.ladleCancel t k ch)
    | .qcancel mask => next (s0.cancelQueues t k mask)
    | .qsync mask => if s.syncWaits t k mask then later s else next (s0.syncClear t k mask)

/-- BRANCH_RESOLVE in slot k of tile t, in the cycle after its register filled: a thread that went the wrong way is eligible in the next
cycle (R321). -/
def branchResolve (s : State) : State :=
  let t := s.arg.t; let k := s.arg.k
  let h := s.slot t k
  match h.shadow with
  | none => s.releaseOne t k
  | some sh =>
    if !wbit sh.fe sh.reg then s
    else
      let v := mget 0 sh.g sh.reg
      let s0 := { s with cur := (t, k) }
      let back (s : State) (pc : Word) : State := s.discardPath t k sh pc
      let again (s : State) : State := if h.mismatch = 1 then (s.modSlot t k (fun h => { h with mismatch := 0 })).logChecksum t k else s
      if wbit sh.poison sh.reg then (back s0 (sh.pcNot - 4)).trap tMCHK 1 (BitVec.ofNat 32 sh.reg)
      else if 2 ≤ h.mismatch then ((back s0 (sh.pcNot - 4)).modSlot t k (fun h => { h with mismatch := 0 })).trap tMCHK 2 0
      else if condHolds sh.cond v = sh.taken then
        let s1 := ((again s0).modSlot t k (fun h => { h with shadow := none, st := wsetb h.st 15 false, instret := h.instret + 1, quantum := h.quantum + 1 })).lateRevoke t k
        let s2 := (s1.notify t k).quantumOut t k
        if h.cbuf.isEmpty then s2 else s2.after (vdOf t) 1 (evTK .branchResolve t k)
      else ((back (again s0) (if sh.taken then sh.pcNot else sh.pcTaken)).modSlot t k (fun h =>
        { h with instret := h.instret + 1, quantum := h.quantum + 1, lastIssue := some (max (h.lastIssue.getD 0) (s.clock (vdOf t) - 3)) })).quantumOut t k
def execBranchResolve (s : State) : Out := .next (branchResolve s)

end Sys2Proof.Machine
end

