-- ==== Sys2Proof/Machine/Dispatch.lean ====
section
/-! DEFINITION. Which meaning each step has: one direct call per constructor. -/

namespace Sys2Proof.Machine
open Sys2Proof

/-- The meaning of a step: an instruction issued by the current slot, or an event whose operands are State.arg. -/
def exec (i : Instr) (s : State) : Host.Outcome State Fault Refusal :=
  match i with
  | .add d a b => Sys2Proof.Machine.execAdd d a b s
  | .sub d a b => Sys2Proof.Machine.execSub d a b s
  | .and d a b => Sys2Proof.Machine.execAnd d a b s
  | .or d a b => Sys2Proof.Machine.execOr d a b s
  | .xor d a b => Sys2Proof.Machine.execXor d a b s
  | .andn d a b => Sys2Proof.Machine.execAndn d a b s
  | .sll d a b => Sys2Proof.Machine.execSll d a b s
  | .srl d a b => Sys2Proof.Machine.execSrl d a b s
  | .sra d a b => Sys2Proof.Machine.execSra d a b s
  | .rol d a b => Sys2Proof.Machine.execRol d a b s
  | .ror d a b => Sys2Proof.Machine.execRor d a b s
  | .mul d a b => Sys2Proof.Machine.execMul d a b s
  | .mulh d a b => Sys2Proof.Machine.execMulh d a b s
  | .mulhu d a b => Sys2Proof.Machine.execMulhu d a b s
  | .div d a b => Sys2Proof.Machine.execDiv d a b s
  | .divu d a b => Sys2Proof.Machine.execDivu d a b s
  | .rem d a b => Sys2Proof.Machine.execRem d a b s
  | .remu d a b => Sys2Proof.Machine.execRemu d a b s
  | .min d a b => Sys2Proof.Machine.execMin d a b s
  | .max d a b => Sys2Proof.Machine.execMax d a b s
  | .minu d a b => Sys2Proof.Machine.execMinu d a b s
  | .maxu d a b => Sys2Proof.Machine.execMaxu d a b s
  | .adds d a b => Sys2Proof.Machine.execAdds d a b s
  | .subs d a b => Sys2Proof.Machine.execSubs d a b s
  | .dividerDone => Sys2Proof.Machine.execDividerDone s
  | .addi d a imm => Sys2Proof.Machine.execAddi d a imm s
  | .slli d a c => Sys2Proof.Machine.execSlli d a c s
  | .srli d a c => Sys2Proof.Machine.execSrli d a c s
  | .srai d a c => Sys2Proof.Machine.execSrai d a c s
  | .rori d a c => Sys2Proof.Machine.execRori d a c s
  | .lui d imm => Sys2Proof.Machine.execLui d imm s
  | .addpc d imm => Sys2Proof.Machine.execAddpc d imm s
  | .seq d a b => Sys2Proof.Machine.execSeq d a b s
  | .sne d a b => Sys2Proof.Machine.execSne d a b s
  | .slt d a b => Sys2Proof.Machine.execSlt d a b s
  | .sltu d a b => Sys2Proof.Machine.execSltu d a b s
  | .seqi d a imm => Sys2Proof.Machine.execSeqi d a imm s
  | .snei d a imm => Sys2Proof.Machine.execSnei d a imm s
  | .slti d a imm => Sys2Proof.Machine.execSlti d a imm s
  | .sltui d a imm => Sys2Proof.Machine.execSltui d a imm s
  | .sgti d a imm => Sys2Proof.Machine.execSgti d a imm s
  | .sgtui d a imm => Sys2Proof.Machine.execSgtui d a imm s
  | .selnz d a b c => Sys2Proof.Machine.execSelnz d a b c s
  | .seleqz d a b c => Sys2Proof.Machine.execSeleqz d a b c s
  | .clz d a => Sys2Proof.Machine.execClz d a s
  | .ctz d a => Sys2Proof.Machine.execCtz d a s
  | .popc d a => Sys2Proof.Machine.execPopc d a s
  | .brev d a => Sys2Proof.Machine.execBrev d a s
  | .bswap d a => Sys2Proof.Machine.execBswap d a s
  | .sextb d a => Sys2Proof.Machine.execSextb d a s
  | .sexth d a => Sys2Proof.Machine.execSexth d a s
  | .zexth d a => Sys2Proof.Machine.execZexth d a s
  | .extu d a p w => Sys2Proof.Machine.execExtu d a p w s
  | .exts d a p w => Sys2Proof.Machine.execExts d a p w s
  | .ins d a p w => Sys2Proof.Machine.execIns d a p w s
  | .beqz a imm p => Sys2Proof.Machine.execBeqz a imm p s
  | .bnez a imm p => Sys2Proof.Machine.execBnez a imm p s
  | .bltz a imm p => Sys2Proof.Machine.execBltz a imm p s
  | .bgez a imm p => Sys2Proof.Machine.execBgez a imm p s
  | .bgtz a imm p => Sys2Proof.Machine.execBgtz a imm p s
  | .blez a imm p => Sys2Proof.Machine.execBlez a imm p s
  | .bfull a imm p => Sys2Proof.Machine.execBfull a imm p s
  | .bempty a imm p => Sys2Proof.Machine.execBempty a imm p s
  | .jal d imm => Sys2Proof.Machine.execJal d imm s
  | .jalr d a imm => Sys2Proof.Machine.execJalr d a imm s
  | .fadd d a b => Sys2Proof.Machine.execFadd d a b s
  | .fsub d a b => Sys2Proof.Machine.execFsub d a b s
  | .fmul d a b => Sys2Proof.Machine.execFmul d a b s
  | .fdiv d a b => Sys2Proof.Machine.execFdiv d a b s
  | .fsqrt d a => Sys2Proof.Machine.execFsqrt d a s
  | .fmin d a b => Sys2Proof.Machine.execFmin d a b s
  | .fmax d a b => Sys2Proof.Machine.execFmax d a b s
  | .fcpys d a b => Sys2Proof.Machine.execFcpys d a b s
  | .fneg d a => Sys2Proof.Machine.execFneg d a s
  | .fabs d a => Sys2Proof.Machine.execFabs d a s
  | .fxsgn d a b => Sys2Proof.Machine.execFxsgn d a b s
  | .fminp d a b => Sys2Proof.Machine.execFminp d a b s
  | .fmaxp d a b => Sys2Proof.Machine.execFmaxp d a b s
  | .fmadd d a b c => Sys2Proof.Machine.execFmadd d a b c s
  | .fmsub d a b c => Sys2Proof.Machine.execFmsub d a b c s
  | .fcmpeq d a b => Sys2Proof.Machine.execFcmpeq d a b s
  | .fcmplt d a b => Sys2Proof.Machine.execFcmplt d a b s
  | .fcmple d a b => Sys2Proof.Machine.execFcmple d a b s
  | .fclass d a => Sys2Proof.Machine.execFclass d a s
  | .ftoi d a => Sys2Proof.Machine.execFtoi d a s
  | .ftou d a => Sys2Proof.Machine.execFtou d a s
  | .itof d a => Sys2Proof.Machine.execItof d a s
  | .utof d a => Sys2Proof.Machine.execUtof d a s
  | .ftobf d a => Sys2Proof.Machine.execFtobf d a s
  | .ftoh d a => Sys2Proof.Machine.execFtoh d a s
  | .bftof d a => Sys2Proof.Machine.execBftof d a s
  | .htof d a => Sys2Proof.Machine.execHtof d a s
  | .lea d sg a c imm => Sys2Proof.Machine.execLea d sg a c imm s
  | .segld d sg a imm => Sys2Proof.Machine.execSegld d sg a imm s
  | .segrd d sg p => Sys2Proof.Machine.execSegrd d sg p s
  | .ldw d sg a imm => Sys2Proof.Machine.execLdw d sg a imm s
  | .ldh d sg a imm => Sys2Proof.Machine.execLdh d sg a imm s
  | .ldhu d sg a imm => Sys2Proof.Machine.execLdhu d sg a imm s
  | .ldb d sg a imm => Sys2Proof.Machine.execLdb d sg a imm s
  | .ldbu d sg a imm => Sys2Proof.Machine.execLdbu d sg a imm s
  | .ldp d sg a imm => Sys2Proof.Machine.execLdp d sg a imm s
  | .stw t sg a imm => Sys2Proof.Machine.execStw t sg a imm s
  | .sth t sg a imm => Sys2Proof.Machine.execSth t sg a imm s
  | .stb t sg a imm => Sys2Proof.Machine.execStb t sg a imm s
  | .stp t sg a imm => Sys2Proof.Machine.execStp t sg a imm s
  | .aadd d sg a b => Sys2Proof.Machine.execAadd d sg a b s
  | .aand d sg a b => Sys2Proof.Machine.execAand d sg a b s
  | .aor d sg a b => Sys2Proof.Machine.execAor d sg a b s
  | .axor d sg a b => Sys2Proof.Machine.execAxor d sg a b s
  | .amin d sg a b => Sys2Proof.Machine.execAmin d sg a b s
  | .amax d sg a b => Sys2Proof.Machine.execAmax d sg a b s
  | .aminu d sg a b => Sys2Proof.Machine.execAminu d sg a b s
  | .amaxu d sg a b => Sys2Proof.Machine.execAmaxu d sg a b s
  | .aaddC d sg a b => Sys2Proof.Machine.execAaddC d sg a b s
  | .aandC d sg a b => Sys2Proof.Machine.execAandC d sg a b s
  | .aorC d sg a b => Sys2Proof.Machine.execAorC d sg a b s
  | .axorC d sg a b => Sys2Proof.Machine.execAxorC d sg a b s
  | .aminC d sg a b => Sys2Proof.Machine.execAminC d sg a b s
  | .amaxC d sg a b => Sys2Proof.Machine.execAmaxC d sg a b s
  | .aminuC d sg a b => Sys2Proof.Machine.execAminuC d sg a b s
  | .amaxuC d sg a b => Sys2Proof.Machine.execAmaxuC d sg a b s
  | .swap d sg a b => Sys2Proof.Machine.execSwap d sg a b s
  | .cas d sg a b => Sys2Proof.Machine.execCas d sg a b s
  | .fence c p => Sys2Proof.Machine.execFence c p s
  | .binit d sg a b => Sys2Proof.Machine.execBinit d sg a b s
  | .bind d sg a b => Sys2Proof.Machine.execBind d sg a b s
  | .unbind d sg a b => Sys2Proof.Machine.execUnbind d sg a b s
  | .acqX d sg a b => Sys2Proof.Machine.execAcqX d sg a b s
  | .acqS d sg a b => Sys2Proof.Machine.execAcqS d sg a b s
  | .gtryX d sg a b => Sys2Proof.Machine.execGtryX d sg a b s
  | .gtryS d sg a b => Sys2Proof.Machine.execGtryS d sg a b s
  | .rel d sg a => Sys2Proof.Machine.execRel d sg a s
  | .join d sg a b => Sys2Proof.Machine.execJoin d sg a b s
  | .leave d sg a => Sys2Proof.Machine.execLeave d sg a s
  | .arrive d sg a => Sys2Proof.Machine.execArrive d sg a s
  | .bwait d sg a => Sys2Proof.Machine.execBwait d sg a s
  | .barw d sg a => Sys2Proof.Machine.execBarw d sg a s
  | .waitc d sg a b => Sys2Proof.Machine.execWaitc d sg a b s
  | .postc d sg a b => Sys2Proof.Machine.execPostc d sg a b s
  | .postce d sg a b => Sys2Proof.Machine.execPostce d sg a b s
  | .send a b k => Sys2Proof.Machine.execSend a b k s
  | .chon a k => Sys2Proof.Machine.execChon a k s
  | .choff k => Sys2Proof.Machine.execChoff k s
  | .mcst d sg a b => Sys2Proof.Machine.execMcst d sg a b s
  | .mcstc d sg a b => Sys2Proof.Machine.execMcstc d sg a b s
  | .mcseq d a b => Sys2Proof.Machine.execMcseq d a b s
  | .mzero a => Sys2Proof.Machine.execMzero a s
  | .mma a b => Sys2Proof.Machine.execMma a b s
  | .mmag a b => Sys2Proof.Machine.execMmag a b s
  | .mstore a => Sys2Proof.Machine.execMstore a s
  | .mreduce a => Sys2Proof.Machine.execMreduce a s
  | .mqput a b => Sys2Proof.Machine.execMqput a b s
  | .vcvt a b => Sys2Proof.Machine.execVcvt a b s
  | .vadd a b => Sys2Proof.Machine.execVadd a b s
  | .vsub a b => Sys2Proof.Machine.execVsub a b s
  | .vmul a b => Sys2Proof.Machine.execVmul a b s
  | .vdiv a b => Sys2Proof.Machine.execVdiv a b s
  | .vmin a b => Sys2Proof.Machine.execVmin a b s
  | .vmax a b => Sys2Proof.Machine.execVmax a b s
  | .vfma a b => Sys2Proof.Machine.execVfma a b s
  | .vfms a b => Sys2Proof.Machine.execVfms a b s
  | .vadds a b => Sys2Proof.Machine.execVadds a b s
  | .vmuls a b => Sys2Proof.Machine.execVmuls a b s
  | .vfmas a b => Sys2Proof.Machine.execVfmas a b s
  | .vabs a b => Sys2Proof.Machine.execVabs a b s
  | .vneg a b => Sys2Proof.Machine.execVneg a b s
  | .vrelu a b => Sys2Proof.Machine.execVrelu a b s
  | .vclamp a b => Sys2Proof.Machine.execVclamp a b s
  | .vexp2 a b => Sys2Proof.Machine.execVexp2 a b s
  | .vlog2 a b => Sys2Proof.Machine.execVlog2 a b s
  | .vrcp a b => Sys2Proof.Machine.execVrcp a b s
  | .vrsq a b => Sys2Proof.Machine.execVrsq a b s
  | .vsqrt a b => Sys2Proof.Machine.execVsqrt a b s
  | .vtanh a b => Sys2Proof.Machine.execVtanh a b s
  | .vcmplt a b => Sys2Proof.Machine.execVcmplt a b s
  | .vcmpeq a b => Sys2Proof.Machine.execVcmpeq a b s
  | .vsel a b => Sys2Proof.Machine.execVsel a b s
  | .vrsum a b => Sys2Proof.Machine.execVrsum a b s
  | .vrmax a b => Sys2Proof.Machine.execVrmax a b s
  | .vrmin a b => Sys2Proof.Machine.execVrmin a b s
  | .vrsumsq a b => Sys2Proof.Machine.execVrsumsq a b s
  | .vdot a b => Sys2Proof.Machine.execVdot a b s
  | .vfill b => Sys2Proof.Machine.execVfill b s
  | .viota b => Sys2Proof.Machine.execViota b s
  | .lfill a => Sys2Proof.Machine.execLfill a s
  | .lgather a => Sys2Proof.Machine.execLgather a s
  | .ldrain a => Sys2Proof.Machine.execLdrain a s
  | .lwptr a d => Sys2Proof.Machine.execLwptr a d s
  | .lcancel a => Sys2Proof.Machine.execLcancel a s
  | .qsync a => Sys2Proof.Machine.execQsync a s
  | .qcancel a => Sys2Proof.Machine.execQcancel a s
  | .xcopy a b => Sys2Proof.Machine.execXcopy a b s
  | .npost a b => Sys2Proof.Machine.execNpost a b s
  | .npoll a d => Sys2Proof.Machine.execNpoll a d s
  | .ewr a eng ereg => Sys2Proof.Machine.execEwr a eng ereg s
  | .ewrs a eng ereg => Sys2Proof.Machine.execEwrs a eng ereg s
  | .ewrh a eng ereg => Sys2Proof.Machine.execEwrh a eng ereg s
  | .erd a eng ereg => Sys2Proof.Machine.execErd a eng ereg s
  | .erdh a eng ereg => Sys2Proof.Machine.execErdh a eng ereg s
  | .fmtp fa fb fo rnd sc => Sys2Proof.Machine.execFmtp fa fb fo rnd sc s
  | .csrxch d a c => Sys2Proof.Machine.execCsrxch d a c s
  | .csrxchi d c u => Sys2Proof.Machine.execCsrxchi d c u s
  | .csrbs d a c => Sys2Proof.Machine.execCsrbs d a c s
  | .csrbsi d c u => Sys2Proof.Machine.execCsrbsi d c u s
  | .csrbc d a c => Sys2Proof.Machine.execCsrbc d a c s
  | .csrbci d c u => Sys2Proof.Machine.execCsrbci d c u s
  | .nop => Sys2Proof.Machine.execNop s
  | .trap a u => Sys2Proof.Machine.execTrap a u s
  | .brk u => Sys2Proof.Machine.execBrk u s
  | .eret => Sys2Proof.Machine.execEret s
  | .yield => Sys2Proof.Machine.execYield s
  | .park => Sys2Proof.Machine.execPark s
  | .wake a b => Sys2Proof.Machine.execWake a b s
  | .halt => Sys2Proof.Machine.execHalt s
  | .fork d sg a b => Sys2Proof.Machine.execFork d sg a b s
  | .joinc d sg a => Sys2Proof.Machine.execJoinc d sg a s
  | .spawn d sg a b => Sys2Proof.Machine.execSpawn d sg a b s
  | .rqpush d a => Sys2Proof.Machine.execRqpush d a s
  | .rqpop d a => Sys2Proof.Machine.execRqpop d a s
  | .ctxsv d sg a b => Sys2Proof.Machine.execCtxsv d sg a b s
  | .ctxld d sg a b => Sys2Proof.Machine.execCtxld d sg a b s
  | .splock d a => Sys2Proof.Machine.execSplock d a s
  | .spunlock a => Sys2Proof.Machine.execSpunlock a s
  | .lagrant d a => Sys2Proof.Machine.execLagrant d a s
  | .scrub sg a b => Sys2Proof.Machine.execScrub sg a b s
  | .pendingCauseTaken => Sys2Proof.Machine.execPendingCauseTaken s
  | .blockCleared => Sys2Proof.Machine.execBlockCleared s
  | .branchResolve => Sys2Proof.Machine.execBranchResolve s
  | .cycleRead => Sys2Proof.Machine.execCycleRead s
  | .instretRead => Sys2Proof.Machine.execInstretRead s
  | .timerWrite => Sys2Proof.Machine.execTimerWrite s
  | .timerExpire => Sys2Proof.Machine.execTimerExpire s
  | .lockTimeout => Sys2Proof.Machine.execLockTimeout s
  | .registerWrite => Sys2Proof.Machine.execRegisterWrite s
  | .pageWalk => Sys2Proof.Machine.execPageWalk s
  | .invRange => Sys2Proof.Machine.execInvRange s
  | .invAsid => Sys2Proof.Machine.execInvAsid s
  | .invAll => Sys2Proof.Machine.execInvAll s
  | .invWake => Sys2Proof.Machine.execInvWake s
  | .visitorDepart => Sys2Proof.Machine.execVisitorDepart s
  | .visitorSlotFree => Sys2Proof.Machine.execVisitorSlotFree s
  | .visitorQueueTimeout => Sys2Proof.Machine.execVisitorQueueTimeout s
  | .visitorRetry => Sys2Proof.Machine.execVisitorRetry s
  | .visitorQuantum => Sys2Proof.Machine.execVisitorQuantum s
  | .ladleCopyStart => Sys2Proof.Machine.execLadleCopyStart s
  | .ladleSegmentCheck => Sys2Proof.Machine.execLadleSegmentCheck s
  | .ladleCopyEnd => Sys2Proof.Machine.execLadleCopyEnd s
  | .engineStep => Sys2Proof.Machine.execEngineStep s
  | .engineCommandEnd => Sys2Proof.Machine.execEngineCommandEnd s
  | .taskRecordStart => Sys2Proof.Machine.execTaskRecordStart s
  | .powerGrant => Sys2Proof.Machine.execPowerGrant s
  | .vfClockChange => Sys2Proof.Machine.execVfClockChange s
  | .thermalThrottle => Sys2Proof.Machine.execThermalThrottle s
  | .sluiceFrame => Sys2Proof.Machine.execSluiceFrame s
  | .linkAck => Sys2Proof.Machine.execLinkAck s
  | .linkNak => Sys2Proof.Machine.execLinkNak s
  | .linkInit => Sys2Proof.Machine.execLinkInit s
  | .ackTimer => Sys2Proof.Machine.execAckTimer s
  | .replayTimeout => Sys2Proof.Machine.execReplayTimeout s
  | .linkDown => Sys2Proof.Machine.execLinkDown s
  | .rd => Sys2Proof.Machine.execRd s
  | .rdata => Sys2Proof.Machine.execRdata s
  | .rdatab => Sys2Proof.Machine.execRdatab s
  | .wr => Sys2Proof.Machine.execWr s
  | .wrb => Sys2Proof.Machine.execWrb s
  | .wrack => Sys2Proof.Machine.execWrack s
  | .rsv => Sys2Proof.Machine.execRsv s
  | .rsvgnt => Sys2Proof.Machine.execRsvgnt s
  | .rsvrel => Sys2Proof.Machine.execRsvrel s
  | .err => Sys2Proof.Machine.execErr s
  | .ctx => Sys2Proof.Machine.execCtx s
  | .ctxref => Sys2Proof.Machine.execCtxref s
  | .msgData => Sys2Proof.Machine.execMsgData s
  | .msgRecast => Sys2Proof.Machine.execMsgRecast s
  | .msgQueue => Sys2Proof.Machine.execMsgQueue s
  | .msgref => Sys2Proof.Machine.execMsgref s
  | .cwpost => Sys2Proof.Machine.execCwpost s
  | .engcmdFwdupd => Sys2Proof.Machine.execEngcmdFwdupd s
  | .engcmdReadmit => Sys2Proof.Machine.execEngcmdReadmit s
  | .engdone => Sys2Proof.Machine.execEngdone s
  | .wakeSlotMsg => Sys2Proof.Machine.execWakeSlotMsg s
  | .wakeTagMsg => Sys2Proof.Machine.execWakeTagMsg s
  | .wakeFaultMsg => Sys2Proof.Machine.execWakeFaultMsg s
  | .launch => Sys2Proof.Machine.execLaunch s
  | .ldoneAccept => Sys2Proof.Machine.execLdoneAccept s
  | .ldoneRefuse => Sys2Proof.Machine.execLdoneRefuse s
  | .ldoneRetire => Sys2Proof.Machine.execLdoneRetire s
  | .ldoneSwap => Sys2Proof.Machine.execLdoneSwap s
  | .frec => Sys2Proof.Machine.execFrec s
  | .frecResend => Sys2Proof.Machine.execFrecResend s
  | .invdone => Sys2Proof.Machine.execInvdone s
  | .acqreq => Sys2Proof.Machine.execAcqreq s
  | .relreq => Sys2Proof.Machine.execRelreq s
  | .wdraw => Sys2Proof.Machine.execWdraw s
  | .wbnote => Sys2Proof.Machine.execWbnote s
  | .gredo => Sys2Proof.Machine.execGredo s
  | .gadmBinit => Sys2Proof.Machine.execGadmBinit s
  | .gadmBind => Sys2Proof.Machine.execGadmBind s
  | .gadmUnbind => Sys2Proof.Machine.execGadmUnbind s
  | .gadmUnbindRetire => Sys2Proof.Machine.execGadmUnbindRetire s
  | .fwdServe => Sys2Proof.Machine.execFwdServe s
  | .fwdDemote => Sys2Proof.Machine.execFwdDemote s
  | .fwdRecall => Sys2Proof.Machine.execFwdRecall s
  | .fwdInvalidate => Sys2Proof.Machine.execFwdInvalidate s
  | .fwdServeDemote => Sys2Proof.Machine.execFwdServeDemote s
  | .filtInstall => Sys2Proof.Machine.execFiltInstall s
  | .filtRemove => Sys2Proof.Machine.execFiltRemove s
  | .grant => Sys2Proof.Machine.execGrant s
  | .deny => Sys2Proof.Machine.execDeny s
  | .ack => Sys2Proof.Machine.execAck s
  | .served => Sys2Proof.Machine.execServed s
  | .notretained => Sys2Proof.Machine.execNotretained s
  | .invack => Sys2Proof.Machine.execInvack s
  | .gdata => Sys2Proof.Machine.execGdata s
  | .grpreqJoin => Sys2Proof.Machine.execGrpreqJoin s
  | .grpreqLeave => Sys2Proof.Machine.execGrpreqLeave s
  | .grpreqArrive => Sys2Proof.Machine.execGrpreqArrive s
  | .grpreqEngineArrival => Sys2Proof.Machine.execGrpreqEngineArrival s
  | .grprsp => Sys2Proof.Machine.execGrprsp s
  | .grel => Sys2Proof.Machine.execGrel s
  | .grelack => Sys2Proof.Machine.execGrelack s
  | .watchInstall => Sys2Proof.Machine.execWatchInstall s
  | .watchCancel => Sys2Proof.Machine.execWatchCancel s
  | .watchrsp => Sys2Proof.Machine.execWatchrsp s
  | .watchRetry => Sys2Proof.Machine.execWatchRetry s
  | .mcreq => Sys2Proof.Machine.execMcreq s
  | .mcapply => Sys2Proof.Machine.execMcapply s
  | .mcstamp => Sys2Proof.Machine.execMcstamp s
  | .mcack => Sys2Proof.Machine.execMcack s
  | .mcctlSnap => Sys2Proof.Machine.execMcctlSnap s
  | .mcctlJoined => Sys2Proof.Machine.execMcctlJoined s
  | .mcctlEvict => Sys2Proof.Machine.execMcctlEvict s
  | .mcctlLeft => Sys2Proof.Machine.execMcctlLeft s
  | .mcctlrsp => Sys2Proof.Machine.execMcctlrsp s
  | .mcjoinJoin => Sys2Proof.Machine.execMcjoinJoin s
  | .mcjoinLeave => Sys2Proof.Machine.execMcjoinLeave s
  | .memberTimeout => Sys2Proof.Machine.execMemberTimeout s
  | .mcseqreq => Sys2Proof.Machine.execMcseqreq s
  | .mcseqrsp => Sys2Proof.Machine.execMcseqrsp s
  | .mcJoinDescriptor => Sys2Proof.Machine.execMcJoinDescriptor s
  | .mcLeaveDescriptor => Sys2Proof.Machine.execMcLeaveDescriptor s
  | .discQuery => Sys2Proof.Machine.execDiscQuery s
  | .discAssign => Sys2Proof.Machine.execDiscAssign s
  | .discEnable => Sys2Proof.Machine.execDiscEnable s
  | .discrsp => Sys2Proof.Machine.execDiscrsp s
  | .doorbell => Sys2Proof.Machine.execDoorbell s
  | .launchFetch => Sys2Proof.Machine.execLaunchFetch s
  | .admissionChoice => Sys2Proof.Machine.execAdmissionChoice s
  | .launchHold => Sys2Proof.Machine.execLaunchHold s
  | .launchRetranslate => Sys2Proof.Machine.execLaunchRetranslate s
  | .launchCancel => Sys2Proof.Machine.execLaunchCancel s
  | .crewSwap => Sys2Proof.Machine.execCrewSwap s
  | .crewRestore => Sys2Proof.Machine.execCrewRestore s
  | .crewRetire => Sys2Proof.Machine.execCrewRetire s
  | .forwardExpire => Sys2Proof.Machine.execForwardExpire s
  | .wakeDescriptor => Sys2Proof.Machine.execWakeDescriptor s
  | .liveMigration => Sys2Proof.Machine.execLiveMigration s
  | .checkpointSweep => Sys2Proof.Machine.execCheckpointSweep s
  | .descriptorPiece => Sys2Proof.Machine.execDescriptorPiece s
  | .descriptorBufferTimeout => Sys2Proof.Machine.execDescriptorBufferTimeout s
  | .errorBankClear => Sys2Proof.Machine.execErrorBankClear s
  | .packageReset => Sys2Proof.Machine.execPackageReset s
  | .boot => Sys2Proof.Machine.execBoot s
  | .hostBarRead => Sys2Proof.Machine.execHostBarRead s
  | .hostBarWrite => Sys2Proof.Machine.execHostBarWrite s
  | .hostAtomicOp => Sys2Proof.Machine.execHostAtomicOp s
  | .pcieD3hot => Sys2Proof.Machine.execPcieD3hot s
  | .getchain => Sys2Proof.Machine.execGetchain s
  | .getmeas => Sys2Proof.Machine.execGetmeas s
  | .extendMr => Sys2Proof.Machine.execExtendMr s
  | .netWriteAck => Sys2Proof.Machine.execNetWriteAck s
  | .netReadData => Sys2Proof.Machine.execNetReadData s
  | .netIncomingWrite => Sys2Proof.Machine.execNetIncomingWrite s
  | .retrainingComplete => Sys2Proof.Machine.execRetrainingComplete s
  | .pcieCompletion => Sys2Proof.Machine.execPcieCompletion s
  | .cxlMemResponse => Sys2Proof.Machine.execCxlMemResponse s
  | .cxlDeviceEvent => Sys2Proof.Machine.execCxlDeviceEvent s
  | .aerLinkError => Sys2Proof.Machine.execAerLinkError s
  | .retransmissionExhaustion => Sys2Proof.Machine.execRetransmissionExhaustion s

end Sys2Proof.Machine
end

