-- ==== Sys2Proof/Machine/Step.lean ====
section
/-! DEFINITION. One step of the package: the turn the agenda names, else the oldest event that may be performed, else
the first tile that can issue, else a clock cycle (log entry 8). -/

namespace Sys2Proof.Machine
open Sys2Proof

/-- After an instruction's own meaning, note whether it was an issue (R318). -/
def afterIssue (t k : Nat) (o : Out) : Out :=
  match o with
  | .next s => .next (s.noteIssue t k)
  | .fault f => .fault f
  | .refused r => .refused r

/-- Slot k of tile t issues: causes, fetch and decode, then the instruction's meaning. -/
def stepSlot (t k : Nat) (s : State) : Out :=
  match s.prepare t k with
  | .error s1 => afterIssue t k (.next s1)
  | .ok (w, i, s1) => afterIssue t k (checker w s1 (exec i s1))

def stepTile (t : Nat) (s : State) : Out :=
  match s.canIssue t with
  | some k => stepSlot t k s
  | none => .next s

/-- The event at place n of the pool is performed with its own operands. -/
def stepEvent (n : Nat) (s : State) : Out :=
  match s.pool[n]? with
  | none => .next s
  | some e => exec e.i { s with pool := s.pool.eraseIdx n, arg := e.arg }

/-- The event the agenda chose, or the oldest that may be performed. -/
def stepChoice (n : Nat) (s : State) : Out :=
  match s.choose n with
  | some i => stepEvent i s
  | none => .next s

/-- A tile's turn: what falls due in it, else an issue. -/
def stepTurn (t : Nat) (s : State) : Out :=
  match s.prompt (· == t) with
  | some i => stepEvent i s
  | none => stepTile t s

/-- A turn of the clocks of some dies: what falls due in their tiles and what these can issue in this cycle comes first (R318, R320). -/
def stepTick (vds : List Nat) (s : State) : Out :=
  let mine (t : Nat) : Bool := vds.contains (vdOf t)
  match s.prompt mine with
  | some i => stepEvent i s
  | none => match s.firstTile mine with
    | some (t, _) => stepTile t s
    | none => .next (s.tick vds)

def step (s : State) : Host.Outcome State Fault Refusal :=
  match s.agenda with
  | .event n :: rest => stepChoice n { s with agenda := rest }
  | .tile t :: rest => if isComputeTile t then stepTurn t { s with agenda := rest } else .fault (.noSuchTile t)
  | .tick vds :: rest => stepTick vds { s with agenda := rest }
  | [] =>
    match s.choose 0 with
    | some i => stepEvent i s
    | none =>
      match s.firstTile (fun _ => true) with
      | some (t, _) => stepTile t s
      | none => .next (s.tick s.tickDies)

/-- The state whose next step issues the given word from slot 0 of tile 0 of vd0: the word lies at physical address 0, a
TLB entry maps linear page 0 there, sg7 covers it with X, and the rotation reaches slot 0 first (log entry 12). -/
def State.withFetchWord (s : State) (nbits w : Nat) : State :=
  let h := s.slot 0 0
  let h7 := (s.tile 0).slot 7
  let n := s.clock 0
  let seg7 : Seg := { base := 0, limit := 0xFFFFFFFF, x := true }
  let te : TlbEntry := ⟨h.asid, 0, 0, 0, false, false, true, false, false⟩
  let h1 : Slot := { h with occ := .thread, run := .ready, pc := 0, sg := mput h.sg 7 seg7, lastIssue := none, pendMchk := none, pendRange := [], pendTimer := false, pendLock := none, shadow := none }
  let T := ((s.tile 0).setSlot 7 { h7 with lastIssue := some n }).setSlot 0 h1
  { s.setTile 0 { T with rot := 0, ptr := 6, issuedAt := none, tlb := te :: T.tlb } with
    mem := wrLE s.mem 0 4 (w % 2 ^ Nat.min nbits 32)
    ecc := s.ecc.filter (fun a => !decide (a < 4))
    pool := s.pool.filter (fun e => !(promptEv e && e.arg.t == 0))
    dies := mput s.dies 0 { s.die 0 with stopped := false, filter := [], guards := [], groups := [] }
    agenda := [.tile 0] }

end Sys2Proof.Machine
end

