-- ==== Sys2Proof/Safety.lean ====
section
/-! DEFINITION. The words in which claims are stated: well-formed states, when a source delivers a value, and what a commit may
change. -/

namespace Sys2Proof.Machine
open Sys2Proof

/-- Memory has its one canonical form. -/
def State.MemOk (s : State) : Prop := Memory.wf s.mem = true

/-- A step that ends in a next state, and what that state satisfies. -/
def Nexts (o : Out) (P : State → Prop) : Prop := ∃ t, o = .next t ∧ P t

/-- Register field r of an instruction with these sources delivers x, whichever instruction it is (R158, R164). -/
def Delivers (srcs : List Src) (r : Reg) (s : State) (x : Word) : Prop := ∀ i, readSrc i srcs r s = .ok x

/-- Neither a visitor, nor on a predicted path, nor with a format code waiting, and its tile has tags left (R55, R126, R161, R180). -/
def Ordinary (s : State) : Prop := s.th.isVisitor = false ∧ s.th.shadow = none ∧ stPP s.th.st = false ∧ (s.tile s.cur.1).tagsFull = false

/-- A destination filled later is free to take: no enabled channel and no producer outstanding (R159, R165). -/
def LaterReady (d : Reg) (s : State) : Prop := ∀ i, destLater i d s = .ok ()

/-- Only the thread in slot `cur` differs between s and t. -/
def OnlyThread (s t : State) : Prop :=
  t.cur = s.cur ∧ { t with tiles := s.tiles } = s ∧ t.tile s.cur.1 = (s.tile s.cur.1).setSlot s.cur.2 t.th ∧ ∀ k, k ≠ s.cur.1 → t.tile k = s.tile k

/-- An event is in flight. -/
def State.sent (s : State) (e : Ev) : Prop := e ∈ s.pool

/-- A machine at the start of an event with these operands. -/
def State.at_ (s : State) (a : Arg) : State := { s with arg := a }

/-- Order 1 of R252 lets an engine command of the issuing thread go on: no visitor, no predicted path, an empty commit buffer, a tag to
take, and no paused command of the same slot (R55, R126, R146, R161). -/
def CmdReady (s : State) : Prop :=
  s.th.isVisitor = false ∧ s.th.shadow = none ∧ s.th.cbuf = [] ∧ (s.tile s.cur.1).tagsFull = false ∧
  ∀ c, c ∈ (s.tile s.cur.1).mq ++ (s.tile s.cur.1).vq → c.slot = s.cur.2 → c.op ≠ 7 → c.held s = false

/-- Orders 7 and 8 of R252 hold nothing back: no power leave is needed or held, and the queues have room. -/
def CmdAdmitted (s : State) (e : Nat) (c : EngCmd) : Prop :=
  s.th.leave = none ∧ s.needsLeave s.cur.1 c.energy = false ∧ s.room s.cur.1 e c = true

/-- The thread commits, RNGS advancing for stochastic rounding, and the command enters the queue of engine e (R166, R252). -/
def State.accepted (s : State) (srcs : List Src) (e : Nat) (c : EngCmd) : State :=
  (((consume srcs s).modTh (fun h => { h.commit with rngs := if fmRND c.fmt = 5 then xorshift h.rngs else h.rngs })).modTh
    (fun h => { h with leave := none })).accept s.cur.1 e { c with leave := false }

end Sys2Proof.Machine
end

