-- ==== Sys2Proof/Certificates/Slice0/Obligations.lean ====
section
/-! DEFINITION. The statements for the provers. -/

open Sys2Proof Sys2Proof.Machine

/-! ### Scalar integer instructions (R209-R222) -/

/-- R211: results of the register forms, in every source form (full, emptying, channel) and for every destination. -/
def Obligations.IntegerRegisterResults : Prop :=
  ∀ (s : State) (d : Reg) (a b : Src) (x y : Word), stPP s.th.st = false → Delivers [a, b] a.r s x → Delivers [a, b] b.r s y → destReady d s = .ok () →
    exec (.add d a b) s = .next (commitWith [a, b] d (BitVec.ofNat 32 (x.toNat + y.toNat)) s) ∧
    exec (.sub d a b) s = .next (commitWith [a, b] d (BitVec.ofInt 32 (x.toInt - y.toInt)) s) ∧
    exec (.and d a b) s = .next (commitWith [a, b] d (x &&& y) s) ∧
    exec (.or d a b) s = .next (commitWith [a, b] d (x ||| y) s) ∧
    exec (.xor d a b) s = .next (commitWith [a, b] d (x ^^^ y) s) ∧
    exec (.andn d a b) s = .next (commitWith [a, b] d (x &&& ~~~y) s) ∧
    exec (.sll d a b) s = .next (commitWith [a, b] d (x <<< (y.toNat % 32)) s) ∧
    exec (.srl d a b) s = .next (commitWith [a, b] d (x >>> (y.toNat % 32)) s) ∧
    exec (.sra d a b) s = .next (commitWith [a, b] d (x.sshiftRight (y.toNat % 32)) s) ∧
    exec (.rol d a b) s = .next (commitWith [a, b] d (x.rotateLeft (y.toNat % 32)) s) ∧
    exec (.ror d a b) s = .next (commitWith [a, b] d (x.rotateRight (y.toNat % 32)) s) ∧
    exec (.mul d a b) s = .next (commitWith [a, b] d (BitVec.ofNat 32 (x.toNat * y.toNat)) s) ∧
    exec (.mulh d a b) s = .next (commitWith [a, b] d (BitVec.ofInt 32 (x.toInt * y.toInt / 2 ^ 32)) s) ∧
    exec (.mulhu d a b) s = .next (commitWith [a, b] d (BitVec.ofNat 32 (x.toNat * y.toNat / 2 ^ 32)) s) ∧
    exec (.min d a b) s = .next (commitWith [a, b] d (BitVec.ofInt 32 (min x.toInt y.toInt)) s) ∧
    exec (.max d a b) s = .next (commitWith [a, b] d (BitVec.ofInt 32 (max x.toInt y.toInt)) s) ∧
    exec (.minu d a b) s = .next (commitWith [a, b] d (BitVec.ofNat 32 (min x.toNat y.toNat)) s) ∧
    exec (.maxu d a b) s = .next (commitWith [a, b] d (BitVec.ofNat 32 (max x.toNat y.toNat)) s) ∧
    exec (.adds d a b) s = .next (commitWith [a, b] d (BitVec.ofInt 32 (max (-2147483648) (min (x.toInt + y.toInt) 2147483647))) s) ∧
    exec (.subs d a b) s = .next (commitWith [a, b] d (BitVec.ofInt 32 (max (-2147483648) (min (x.toInt - y.toInt) 2147483647))) s)

/-- R213-R215: immediate and upper-immediate forms. -/
def Obligations.ImmediateResults : Prop :=
  ∀ (s : State) (d : Reg) (a : Src) (x : Word) (i13 : BitVec 13) (c : BitVec 5) (i20 : BitVec 20), stPP s.th.st = false → Delivers [a] a.r s x → destReady d s = .ok () →
    exec (.addi d a i13) s = .next (commitWith [a] d (BitVec.ofInt 32 (x.toInt + i13.toInt)) s) ∧
    exec (.slli d a c) s = .next (commitWith [a] d (x <<< c.toNat) s) ∧
    exec (.srli d a c) s = .next (commitWith [a] d (x >>> c.toNat) s) ∧
    exec (.srai d a c) s = .next (commitWith [a] d (x.sshiftRight c.toNat) s) ∧
    exec (.rori d a c) s = .next (commitWith [a] d (x.rotateRight c.toNat) s) ∧
    exec (.lui d i20) s = .next (commitWith [] d (BitVec.ofNat 32 (i20.toNat * 2 ^ 12)) s) ∧
    exec (.addpc d i20) s = .next (commitWith [] d (BitVec.ofInt 32 (s.th.pc.toInt + i20.toInt * 4)) s)

/-- R216: compares give 1 or 0. -/
def Obligations.CompareResults : Prop :=
  ∀ (s : State) (d : Reg) (a b : Src) (x y : Word) (c : BitVec 10), stPP s.th.st = false → Delivers [a, b] a.r s x → Delivers [a, b] b.r s y → Delivers [a] a.r s x → destReady d s = .ok () →
    exec (.seq d a b) s = .next (commitWith [a, b] d (if x = y then 1 else 0) s) ∧
    exec (.sne d a b) s = .next (commitWith [a, b] d (if x = y then 0 else 1) s) ∧
    exec (.slt d a b) s = .next (commitWith [a, b] d (if x.toInt < y.toInt then 1 else 0) s) ∧
    exec (.sltu d a b) s = .next (commitWith [a, b] d (if x.toNat < y.toNat then 1 else 0) s) ∧
    exec (.seqi d a c) s = .next (commitWith [a] d (if x.toInt = c.toInt then 1 else 0) s) ∧
    exec (.snei d a c) s = .next (commitWith [a] d (if x.toInt = c.toInt then 0 else 1) s) ∧
    exec (.slti d a c) s = .next (commitWith [a] d (if x.toInt < c.toInt then 1 else 0) s) ∧
    exec (.sltui d a c) s = .next (commitWith [a] d (if x.toNat < (c.signExtend 32).toNat then 1 else 0) s) ∧
    exec (.sgti d a c) s = .next (commitWith [a] d (if c.toInt < x.toInt then 1 else 0) s) ∧
    exec (.sgtui d a c) s = .next (commitWith [a] d (if (c.signExtend 32).toNat < x.toNat then 1 else 0) s)

/-- R217, R219: select by a condition register, and the bit-field forms; INS keeps the other bits of rd. -/
def Obligations.SelectAndFieldResults : Prop :=
  ∀ (s : State) (d c : Reg) (a b : Src) (x y z o : Word) (p w : BitVec 5), stPP s.th.st = false → destReady d s = .ok () →
    (Delivers [a, b, plain c] a.r s x → Delivers [a, b, plain c] b.r s y → Delivers [a, b, plain c] c s z →
      exec (.selnz d a b c) s = .next (commitWith [a, b, plain c] d (if z = 0 then y else x) s) ∧
      exec (.seleqz d a b c) s = .next (commitWith [a, b, plain c] d (if z = 0 then x else y) s)) ∧
    (Delivers [a] a.r s x → p.toNat + w.toNat ≤ 31 →
      exec (.extu d a p w) s = .next (commitWith [a] d (BitVec.ofNat 32 (x.toNat / 2 ^ p.toNat % 2 ^ (w.toNat + 1))) s) ∧
      exec (.exts d a p w) s = .next (commitWith [a] d ((x <<< (31 - p.toNat - w.toNat)).sshiftRight (31 - w.toNat)) s)) ∧
    (Delivers [a, plain d] a.r s x → Delivers [a, plain d] d s o → s.th.isChan d.toNat = false → p.toNat + w.toNat ≤ 31 →
      ∃ v : Word, exec (.ins d a p w) s = .next (commitWith [a, plain d] d v s) ∧
        ∀ n, n < 32 → v.getLsbD n = if p.toNat ≤ n ∧ n ≤ p.toNat + w.toNat then x.getLsbD (n - p.toNat) else o.getLsbD n)

/-- R218: one-source bit operations, each by the property the table gives its result; their words, with rs2 and sm2 zero, and the
function codes 8-63, which decode refuses. -/
def Obligations.BitOperationResults : Prop :=
  (∀ (s : State) (d : Reg) (a : Src) (x : Word), stPP s.th.st = false → Delivers [a] a.r s x → destReady d s = .ok () →
    (∃ v : Nat, exec (.clz d a) s = .next (commitWith [a] d (BitVec.ofNat 32 v) s) ∧ v ≤ 32 ∧ (∀ n, n < v → x.getLsbD (31 - n) = false) ∧ (v < 32 → x.getLsbD (31 - v) = true)) ∧
    (∃ v : Nat, exec (.ctz d a) s = .next (commitWith [a] d (BitVec.ofNat 32 v) s) ∧ v ≤ 32 ∧ (∀ n, n < v → x.getLsbD n = false) ∧ (v < 32 → x.getLsbD v = true)) ∧
    exec (.popc d a) s = .next (commitWith [a] d (BitVec.ofNat 32 ((List.range 32).filter (fun n => x.getLsbD n)).length) s) ∧
    (∃ v : Word, exec (.brev d a) s = .next (commitWith [a] d v s) ∧ ∀ n, n < 32 → v.getLsbD n = x.getLsbD (31 - n)) ∧
    (∃ v : Word, exec (.bswap d a) s = .next (commitWith [a] d v s) ∧ ∀ n, n < 32 → v.getLsbD n = x.getLsbD (8 * (3 - n / 8) + n % 8)) ∧
    exec (.sextb d a) s = .next (commitWith [a] d ((x.truncate 8).signExtend 32) s) ∧
    exec (.sexth d a) s = .next (commitWith [a] d ((x.truncate 16).signExtend 32) s) ∧
    exec (.zexth d a) s = .next (commitWith [a] d ((x.truncate 16).zeroExtend 32) s)) ∧
  (∀ (d : Reg) (a : Src) (f : Nat), a.wf = true → f < 64 →
    let w := 0x09 + d.toNat * 2 ^ 7 + a.r.toNat * 2 ^ 12 + a.m.toNat * 2 ^ 17 + f * 2 ^ 26
    decodeWord w = (match f with
      | 0 => .ok (.clz d a)
      | 1 => .ok (.ctz d a)
      | 2 => .ok (.popc d a)
      | 3 => .ok (.brev d a)
      | 4 => .ok (.bswap d a)
      | 5 => .ok (.sextb d a)
      | 6 => .ok (.sexth d a)
      | 7 => .ok (.zexth d a)
      | _ => .error .unassignedFunction) ∧
    ∀ r, 0 < r → r < 2 ^ 7 → f < 8 → decodeWord (w + r * 2 ^ 19) = .error .mustBeZero)

/-- R210, R212: division never traps and sets no flag; a divide starts when the divider is free, with the quotient or remainder of R212 (a
quotient that does not fit saturates, a dividend without quotient is returned whole), and its thread waits for DIVIDER_DONE; FDIV and
FSQRT start the same way (R224). DIVIDER_DONE writes the result with its flags and generator, its thread is ready, and the divider is
idle and, with nobody waiting, kept for nobody. -/
def Obligations.DivisionResults : Prop :=
  (∀ (s : State) (d : Reg) (a b : Src) (x y : Word), stPP s.th.st = false → destReady d s = .ok () → (s.tile s.cur.1).divFree s.cur.2 = true →
      let go (i : Instr) (srcs : List Src) (v flags rngs : Word) : State :=
        ((s.setTile s.cur.1 { s.tile s.cur.1 with div := some ⟨s.cur.2, i, d.toNat, srcs, v, flags, rngs⟩, divRes := none }).block .dividing).emit (evT .dividerDone s.cur.1)
      (Delivers [a, b] a.r s x → Delivers [a, b] b.r s y →
        (y ≠ 0 → ¬(x.toInt = -2147483648 ∧ y.toInt = -1) →
          exec (.div d a b) s = .next (go (.div d a b) [a, b] (BitVec.ofInt 32 (x.toInt.tdiv y.toInt)) 0 s.th.rngs) ∧
          exec (.rem d a b) s = .next (go (.rem d a b) [a, b] (BitVec.ofInt 32 (x.toInt - y.toInt * x.toInt.tdiv y.toInt)) 0 s.th.rngs)) ∧
        (x.toInt = -2147483648 ∧ y.toInt = -1 →
          exec (.div d a b) s = .next (go (.div d a b) [a, b] 0x7FFFFFFF 0 s.th.rngs) ∧
          exec (.rem d a b) s = .next (go (.rem d a b) [a, b] 0 0 s.th.rngs)) ∧
        (y ≠ 0 →
          exec (.divu d a b) s = .next (go (.divu d a b) [a, b] (BitVec.ofNat 32 (x.toNat / y.toNat)) 0 s.th.rngs) ∧
          exec (.remu d a b) s = .next (go (.remu d a b) [a, b] (BitVec.ofNat 32 (x.toNat - y.toNat * (x.toNat / y.toNat))) 0 s.th.rngs)) ∧
        (y = 0 →
          exec (.div d a b) s = .next (go (.div d a b) [a, b] (if 0 < x.toInt then 0x7FFFFFFF else if x.toInt < 0 then 0x80000000 else 0) 0 s.th.rngs) ∧
          exec (.divu d a b) s = .next (go (.divu d a b) [a, b] (if x = 0 then 0 else 0xFFFFFFFF) 0 s.th.rngs) ∧
          exec (.rem d a b) s = .next (go (.rem d a b) [a, b] x 0 s.th.rngs) ∧
          exec (.remu d a b) s = .next (go (.remu d a b) [a, b] x 0 s.th.rngs)) ∧
        exec (.fdiv d a b) s = .next (go (.fdiv d a b) [a, b] (fpDiv s.th x y).1 (fpDiv s.th x y).2 s.th.nextRngs)) ∧
      (Delivers [a] a.r s x →
        exec (.fsqrt d a) s = .next (go (.fsqrt d a) [a] (fpSqrt s.th x).1 (fpSqrt s.th x).2 s.th.nextRngs))) ∧
  (∀ (s : State) (op : DivOp), (s.tile s.arg.t).div = some op →
      let s1 : State := { s.setTile s.arg.t { s.tile s.arg.t with div := none, divLast := if op.slot < 7 then op.slot else (s.tile s.arg.t).divLast } with cur := (s.arg.t, op.slot) }
      let s2 := (commitWith op.srcs (BitVec.ofNat 5 op.rd) op.result s1).modTh (fun h => { h with st := h.st ||| op.flags, rngs := op.rngs, run := .ready })
      (s2.tile s.arg.t).divNext = none → exec .dividerDone s = .next (s2.setTile s.arg.t { s2.tile s.arg.t with div := none, divRes := none }))

/-- R220-R222: branches on a value take PC + 4 × offset when their condition holds and PC + 4 otherwise; BFULL and BEMPTY look at the
full bit alone; JAL and JALR also write PC + 4. -/
def Obligations.BranchAndJumpTargets : Prop :=
  ∀ (s : State) (d r : Reg) (a : Src) (x : Word) (i14 : BitVec 14) (p : BitVec 1) (i20 : BitVec 20) (i13 : BitVec 13), stPP s.th.st = false →
    let goto (srcs : List Src) (c : Bool) : State := (consume srcs s).modTh (fun h => h.commitAt (if c then BitVec.ofInt 32 (s.th.pc.toInt + 4 * i14.toInt) else h.pc + 4))
    (s.predicts a = false → Delivers [a] a.r s x →
      exec (.beqz a i14 p) s = .next (goto [a] (decide (x = 0))) ∧
      exec (.bnez a i14 p) s = .next (goto [a] (decide (x ≠ 0))) ∧
      exec (.bltz a i14 p) s = .next (goto [a] (decide (x.toInt < 0))) ∧
      exec (.bgez a i14 p) s = .next (goto [a] (decide (0 ≤ x.toInt))) ∧
      exec (.bgtz a i14 p) s = .next (goto [a] (decide (0 < x.toInt))) ∧
      exec (.blez a i14 p) s = .next (goto [a] (decide (x.toInt ≤ 0)))) ∧
    (s.th.isChan r.toNat = false →
      exec (.bfull r i14 p) s = .next (goto [] (s.th.isFull r.toNat)) ∧
      exec (.bempty r i14 p) s = .next (goto [] (!s.th.isFull r.toNat))) ∧
    (destReady d s = .ok () →
      exec (.jal d i20) s = .next ((writeResult d (s.th.pc + 4) s).modTh (fun h => h.commitAt (BitVec.ofInt 32 (s.th.pc.toInt + 4 * i20.toInt)))) ∧
      (Delivers [a] a.r s x →
        exec (.jalr d a i13) s = .next ((writeResult d (s.th.pc + 4) (consume [a] s)).modTh (fun h => h.commitAt (BitVec.ofInt 32 (x.toInt + i13.toInt))))))

/-! ### Scalar floating point (R223-R226) -/

/-- R223-R226: FP32 instructions commit the result and flags of the stated operation on the operands as read (under FTZ a subnormal
is zero), and only a rounding one advances RNGS under stochastic rounding. -/
def Obligations.FloatResults : Prop :=
  ∀ (s : State) (d c : Reg) (a b : Src) (x y z : Word), stPP s.th.st = false → destReady d s = .ok () →
    let h := s.th
    let two (r : Word × Word) (adv : Bool) : State := commitFp [a, b] d r.1 r.2 adv s
    let one (r : Word × Word) (adv : Bool) : State := commitFp [a] d r.1 r.2 adv s
    let three (r : Word × Word) : State := commitFp [a, b, plain c] d r.1 r.2 true s
    (Delivers [a, b] a.r s x → Delivers [a, b] b.r s y →
      exec (.fadd d a b) s = .next (two (roundRes h 0 (numAdd h.isRd (h.fp x) (h.fp y))) true) ∧
      exec (.fsub d a b) s = .next (two (roundRes h 0 (numSub h.isRd (h.fp x) (h.fp y))) true) ∧
      exec (.fmul d a b) s = .next (two (roundRes h 0 (numMul (h.fp x) (h.fp y))) true) ∧
      exec (.fmin d a b) s = .next (two (pick2 h x y (numMinMaxNum false (h.fp x) (h.fp y))) false) ∧
      exec (.fmax d a b) s = .next (two (pick2 h x y (numMinMaxNum true (h.fp x) (h.fp y))) false) ∧
      exec (.fminp d a b) s = .next (two (pick2 h x y (numMinMax false (h.fp x) (h.fp y))) false) ∧
      exec (.fmaxp d a b) s = .next (two (pick2 h x y (numMinMax true (h.fp x) (h.fp y))) false) ∧
      exec (.fcpys d a b) s = .next (two (withSign h x (y.getLsbD 31)) false) ∧
      exec (.fxsgn d a b) s = .next (two (withSign h x (x.getLsbD 31 != y.getLsbD 31)) false) ∧
      exec (.fcmpeq d a b) s = .next (two (if (h.fp x).isNan || (h.fp y).isNan then (0, nvIf ((h.fp x).isSig || (h.fp y).isSig)) else (if (h.fp x).cmp (h.fp y) = 0 then 1 else 0, 0)) false) ∧
      exec (.fcmplt d a b) s = .next (two (if (h.fp x).isNan || (h.fp y).isNan then (0, fNV) else (if (h.fp x).cmp (h.fp y) < 0 then 1 else 0, 0)) false) ∧
      exec (.fcmple d a b) s = .next (two (if (h.fp x).isNan || (h.fp y).isNan then (0, fNV) else (if (h.fp x).cmp (h.fp y) ≤ 0 then 1 else 0, 0)) false)) ∧
    (Delivers [a] a.r s x →
      exec (.fneg d a) s = .next (one (withSign h x (!x.getLsbD 31)) false) ∧
      exec (.fabs d a) s = .next (one (withSign h x false) false) ∧
      exec (.fclass d a) s = .next (one (fpClass x, 0) false) ∧
      exec (.ftoi d a) s = .next (one (fpToInt h x) true) ∧
      exec (.ftou d a) s = .next (one (fpToUint h x) true) ∧
      exec (.itof d a) s = .next (one (roundRes h 0 (Num.ofInt x.toInt, 0)) true) ∧
      exec (.utof d a) s = .next (one (roundRes h 0 (Num.ofInt x.toNat, 0)) true) ∧
      exec (.ftobf d a) s = .next (one (roundRes h 1 (h.fp x, nvIf (h.fp x).isSig)) true) ∧
      exec (.ftoh d a) s = .next (one (roundRes h 2 (h.fp x, nvIf (h.fp x).isSig)) true) ∧
      exec (.bftof d a) s = .next (one (fpWiden 1 h x) false) ∧
      exec (.htof d a) s = .next (one (fpWiden 2 h x) false)) ∧
    (Delivers [a, b, plain c] a.r s x → Delivers [a, b, plain c] b.r s y → Delivers [a, b, plain c] c s z →
      exec (.fmadd d a b c) s = .next (three (roundRes h 0 (numFma h.isRd (h.fp x) (h.fp y) (h.fp z)))) ∧
      exec (.fmsub d a b c) s = .next (three (roundRes h 0 (numFma h.isRd (h.fp x) (h.fp y) (h.fp z).flip))))

/-! ### Operands and commit (R158, R163-R165, R209) -/

/-- R163, R164, R326: what a source field that is no enabled channel delivers: g0 is zero, a full register its value; an empty one
traps under mode 01 or without a producer, parks under mode 10, blocks under mode 00; a poisoned one is a machine check. R158, R159: an
enabled channel delivers the head word of its FIFO, and the commit takes that word away and acknowledges it; an empty FIFO traps,
parks or blocks by the source's mode. -/
def Obligations.SourceDelivery : Prop :=
  (∀ (i : Instr) (srcs : List Src) (r : Reg) (s : State), s.th.isChan r.toNat = false →
      (r = 0 → s.th.poison.getLsbD 0 = false → readSrc i srcs r s = .ok 0) ∧
      (r ≠ 0 → s.th.fe.getLsbD r.toNat = true → s.th.poison.getLsbD r.toNat = false → readSrc i srcs r s = .ok (mget 0 s.th.g r.toNat)) ∧
      (r ≠ 0 → s.th.fe.getLsbD r.toNat = true → s.th.poison.getLsbD r.toNat = true → readSrc i srcs r s = .error (s.trap tMCHK 1 (BitVec.ofNat 32 r.toNat))) ∧
      (r ≠ 0 → s.th.fe.getLsbD r.toNat = false → (modeOf srcs r = 1 ∨ s.th.prod.getLsbD r.toNat = false) → readSrc i srcs r s = .error (s.trap tEMPTYREAD r.toNat (insnWord i))) ∧
      (r ≠ 0 → s.th.fe.getLsbD r.toNat = false → s.th.prod.getLsbD r.toNat = true → modeOf srcs r = 2 →
        readSrc i srcs r s = .error ((s.modTh (fun h => { h with parkReg := r.toNat })).park pSYNCREAD)) ∧
      (r ≠ 0 → s.th.fe.getLsbD r.toNat = false → s.th.prod.getLsbD r.toNat = true → modeOf srcs r = 0 → readSrc i srcs r s = .error (s.block .register))) ∧
  (∀ (i : Instr) (srcs : List Src) (r : Reg) (s : State), s.th.isChan r.toNat = true → s.th.isVisitor = false → s.th.shadow = none →
      (∀ m rest, s.fifo s.cur.1 (chanOf s.cur.2 r.toNat) = m :: rest →
        readSrc i srcs r s = .ok (BitVec.ofNat 32 m.aux0.toNat) ∧
        ∀ md, (consume [⟨r, md⟩] s) = s.fifoPop s.cur.1 (chanOf s.cur.2 r.toNat)) ∧
      (s.fifo s.cur.1 (chanOf s.cur.2 r.toNat) = [] →
        readSrc i srcs r s = .error (if modeOf srcs r = 1 then s.trap tEMPTYREAD r.toNat (insnWord i)
          else if modeOf srcs r = 2 then (s.modTh (fun h => { h with parkReg := r.toNat })).park pSYNCREAD else s.block .channel)) ∧
      (destReady r s = .ok () ↔ mget 0 s.th.chOut (r.toNat - 28) < 4 ∧ (s.tile s.cur.1).tagsFull = false) ∧
      (∀ v, writeResult r v s = s.chanSend (r.toNat - 28) v))

/-- R164, R209: a commit with a result, where no operand is an enabled channel: the destination holds the result, full and free of
poison (g0 discards it), a register read under mode 10 is empty, PC and INSTRET advance, ST.PP is cleared, and nothing else
changes: no other register, flag, special register, slot, tile, die or byte of memory. -/
def Obligations.CommitFrame : Prop :=
  ∀ (s : State) (srcs : List Src) (d : Reg) (v : Word), (∀ a, a ∈ srcs → s.th.isChan a.r.toNat = false) → s.th.isChan d.toNat = false →
    let t := commitWith srcs d v s
    (∀ r, t.th.greg r = if r = d.toNat ∧ r ≠ 0 then v else s.th.greg r) ∧
    (∀ r : Reg, r ≠ 0 → t.th.isFull r.toNat = if r = d then true else if (∃ a, a ∈ srcs ∧ a.r = r) ∧ modeOf srcs r = 2 then false else s.th.isFull r.toNat) ∧
    (∀ r, t.th.poison.getLsbD r = if r = d.toNat ∧ r ≠ 0 then false else s.th.poison.getLsbD r) ∧
    t.th.pc = s.th.pc + 4 ∧ t.th.instret = s.th.instret + 1 ∧ (∀ n, t.th.st.getLsbD n = (n != 0 && s.th.st.getLsbD n)) ∧
    { t.th with g := s.th.g, fe := s.th.fe, poison := s.th.poison, pc := s.th.pc, instret := s.th.instret, st := s.th.st, quantum := s.th.quantum } = s.th ∧
    (∀ k, k ≠ s.cur.2 → t.slot s.cur.1 k = s.slot s.cur.1 k) ∧ (∀ n, n ≠ s.cur.1 → t.tile n = s.tile n) ∧
    { t.tile s.cur.1 with slots := (s.tile s.cur.1).slots } = s.tile s.cur.1 ∧ { t with tiles := s.tiles } = s

/-! ### Memory instructions (R10, R227-R236) -/

/-- R10: the four conditions in their order, with the cause of the first that fails and the place when all pass. R228, orders 4 to 7, for a
load, store or atomic of a thread that is no visitor: the first check that fails decides; an access through an S = 1 segment reaches
its own scratchpad untranslated, one to a held range its copy, any other the translated address. -/
def Obligations.SegmentAndAccessChecks : Prop :=
  (∀ (rights : Seg → Bool) (g : Seg) (spbase spsize off n : Nat), 0 < n →
      (rights g = false → segCheck rights g spbase spsize off n = .error 1) ∧
      (rights g = true → g.limit.toNat < off + n - 1 → segCheck rights g spbase spsize off n = .error 2) ∧
      (rights g = true → off + n - 1 ≤ g.limit.toNat → g.s = false → 0xFFFFFFFFFFFF < g.base.toNat + off + n - 1 → segCheck rights g spbase spsize off n = .error 3) ∧
      (rights g = true → off + n - 1 ≤ g.limit.toNat → g.s = true → g.base.toNat % 2 ^ 22 + off < spbase ∨ spbase + spsize < g.base.toNat % 2 ^ 22 + off + n →
        segCheck rights g spbase spsize off n = .error 5) ∧
      (rights g = true → off + n - 1 ≤ g.limit.toNat → g.s = false → g.base.toNat + off + n - 1 ≤ 0xFFFFFFFFFFFF → segCheck rights g spbase spsize off n = .ok ⟨g.base.toNat + off, false⟩) ∧
      (rights g = true → off + n - 1 ≤ g.limit.toNat → g.s = true → spbase ≤ g.base.toNat % 2 ^ 22 + off → g.base.toNat % 2 ^ 22 + off + n ≤ spbase + spsize →
        segCheck rights g spbase spsize off n = .ok ⟨g.base.toNat % 2 ^ 22 + off, true⟩)) ∧
  (∀ (rights : Seg → Bool) (kind sn off n op : Nat) (s : State), s.th.isVisitor = false →
      let w := kind == 2 || kind == 3
      let c := segCheck rights (s.th.seg sn) s.th.spbase s.th.spsize off n
      (∀ e, c = .error e → p0Place rights kind sn off n op s = .error (s.trap tSEG e (BitVec.ofNat 32 off))) ∧
      (∀ q, c = .ok q → q.at_ % n ≠ 0 → p0Place rights kind sn off n op s = .error (s.trap tALIGN 0 (BitVec.ofNat 32 off))) ∧
      (∀ q, c = .ok q → q.at_ % n = 0 → q.sp = true →
        (∀ e, (s.tile s.cur.1).rngCopy s.cur.2 q.at_ n w = .violation e → p0Place rights kind sn off n op s = .error (rangeTrap e 0 0 (s.spPa s.cur.1 q.at_) s)) ∧
        ((s.tile s.cur.1).rngCopy s.cur.2 q.at_ n w = .wait → p0Place rights kind sn off n op s = .error (s.park pGUARDWAIT)) ∧
        ((s.tile s.cur.1).rngCopy s.cur.2 q.at_ n w = .pass → (s.tile s.cur.1).bankHeld s.cur.2 q.at_ n = true → p0Place rights kind sn off n op s = .error (s.block .lock)) ∧
        ((s.tile s.cur.1).rngCopy s.cur.2 q.at_ n w = .pass → (s.tile s.cur.1).bankHeld s.cur.2 q.at_ n = false →
          p0Place rights kind sn off n op s = .ok (⟨s.spPa s.cur.1 q.at_, 0⟩, s))) ∧
      (∀ q, c = .ok q → q.at_ % n = 0 → q.sp = false →
        (∀ e, (s.tile s.cur.1).rngRegion s.cur.2 q.at_ n w = .violation e → p0Place rights kind sn off n op s = .error (rangeTrap e 0 q.at_ 0 s)) ∧
        ((s.tile s.cur.1).rngRegion s.cur.2 q.at_ n w = .wait → p0Place rights kind sn off n op s = .error (s.park pGUARDWAIT)) ∧
        (∀ o, (s.tile s.cur.1).rngRegion s.cur.2 q.at_ n w = .redirect o → (s.tile s.cur.1).bankHeld s.cur.2 o n = false →
          p0Place rights kind sn off n op s = .ok (⟨s.spPa s.cur.1 o, q.at_⟩, s)) ∧
        ((s.tile s.cur.1).rngRegion s.cur.2 q.at_ n w = .pass →
          (∀ x, s.tlbLookup s.cur.1 s.th.asid q.at_ kind = some x →
            let pa := s.canon (x.frame + q.at_ % 2 ^ leafBits x.level)
            p0Place rights kind sn off n op s = if s.decodes (vdOf s.cur.1) pa ∧ p0Reaches pa kind n op then .ok (⟨pa, q.at_⟩, s) else .error (faultPark q.at_ x.level 7 0 pPAGE kind s)) ∧
          (∀ e l d r, s.tlbLookup s.cur.1 s.th.asid q.at_ kind = none → (kindWrites kind && s.swept s.th.asid q.at_) = false →
            s.walk (vdOf s.cur.1) s.th.asid q.at_ kind (fun a => (s.tile s.cur.1).nodeAt s.th.asid q.at_ a) = .fault e l d r →
            p0Place rights kind sn off n op s = .error (faultPark q.at_ l e d r kind (s.dropNodes s.cur.1 s.th.asid q.at_))))))

/-- R227, R232, R233: LEA writes the offset that passes conditions 2 to 4 of R10 for one byte; SEGRD writes one word of a segment
register. -/
def Obligations.AddressAndSegmentReads : Prop :=
  ∀ (s : State) (d : Reg) (sg : BitVec 3) (a : Src) (x : Word) (c : BitVec 2) (imm : BitVec 8), Ordinary s → destReady d s = .ok () →
    let g := s.th.seg sg.toNat
    let off : Word := x + imm.signExtend 32 * (if c = 0 then 1 else if c = 1 then 4 else if c = 2 then 8 else 256)
    (Delivers [a] a.r s x →
      (∀ p, segBounds g s.th.spbase s.th.spsize off.toNat 1 = .ok p → exec (.lea d sg a c imm) s = .next (commitWith [a] d off s)) ∧
      (∀ e, segBounds g s.th.spbase s.th.spsize off.toNat 1 = .error e → exec (.lea d sg a c imm) s = .next (s.trap tSEG e off))) ∧
    exec (.segrd d sg 0) s = .next (commitWith [] d (g.base.truncate 32) s) ∧
    exec (.segrd d sg 1) s = .next (commitWith [] d ((g.base >>> 32).truncate 32) s) ∧
    exec (.segrd d sg 2) s = .next (commitWith [] d g.limit s) ∧
    exec (.segrd d sg 3) s = .next (commitWith [] d (BitVec.ofNat 32 (b2n g.r + 2 * b2n g.w + 4 * b2n g.x + 8 * b2n g.a + 16 * b2n g.g + 32 * b2n g.k + 64 * b2n g.s)) s)

/-- R227, R230, R233: a load that passes its checks and does not move the thread marks its destination empty, sends the read to the
home of its address and commits; SEGLD blocks until its descriptor arrives. -/
def Obligations.LoadsIssue : Prop :=
  ∀ (s s1 : State) (d : Reg) (sg : BitVec 3) (a : Src) (x : Word) (imm : BitVec 8) (p : P0), Ordinary s → Delivers [a] a.r s x →
    let found (n : Nat) : Prop := loadPlace sg.toNat (x + imm.signExtend 32 * BitVec.ofNat 32 n).toNat n s = .ok (p, s1)
    let issued (n : Nat) (sx : Bool) : State := ((((consume [a] s1).modTh (fun h => h.markEmpty d.toNat)).p0Send .rd p.pa p.la n (.load d.toNat n sx) 0).modTh (fun h => h.commit)).touchLocal p.pa
    (LaterReady d s →
      (found 4 → exec (.ldw d sg a imm) s = .next (issued 4 false)) ∧
      (found 2 → exec (.ldh d sg a imm) s = .next (issued 2 true) ∧ exec (.ldhu d sg a imm) s = .next (issued 2 false)) ∧
      (found 1 → exec (.ldb d sg a imm) s = .next (issued 1 true) ∧ exec (.ldbu d sg a imm) s = .next (issued 1 false)) ∧
      (found 8 → LaterReady (pairHi d) s → d.toNat % 2 = 0 →
        exec (.ldp d sg a imm) s = .next (((((consume [a] s1).modTh (fun h => (h.markEmpty d.toNat).markEmpty (pairHi d).toNat)).p0Send .rd p.pa p.la 8 (.load d.toNat 8 false) 0).modTh (fun h => h.commit)).touchLocal p.pa))) ∧
    (∀ g : BitVec 3, found 16 → exec (.segld g sg a imm) s = .next (((s1.p0Send .rd p.pa p.la 16 (.segld g.toNat sg.toNat a.r.toNat a.m.toNat) 0).block .answer).touchLocal p.pa))

/-- R227, R229, R230: a store that passes its checks posts its bytes to the home of its address and commits. -/
def Obligations.StoresIssue : Prop :=
  ∀ (s s1 : State) (t a : Src) (sg : BitVec 3) (x v hi : Word) (imm : BitVec 8) (p : P0), Ordinary s →
    let found (n : Nat) : Prop :=
      p0Place rStore 2 sg.toNat (x + imm.signExtend 32 * BitVec.ofNat 32 n).toNat n 0 s = .ok (p, s1) ∧ s1.th.lineHeld (s1.tileEid s1.cur.1) p.pa = false
    let posted (srcs : List Src) (n : Nat) (w : DWord) : State := (((consume srcs s1).p0Send .wr p.pa p.la n (.store n) w).modTh (fun h => h.commit)).touchLocal p.pa
    (Delivers [t, a] t.r s v → Delivers [t, a] a.r s x →
      (found 4 → exec (.stw t sg a imm) s = .next (posted [t, a] 4 (v.zeroExtend 64))) ∧
      (found 2 → exec (.sth t sg a imm) s = .next (posted [t, a] 2 ((v.truncate 16).zeroExtend 64))) ∧
      (found 1 → exec (.stb t sg a imm) s = .next (posted [t, a] 1 ((v.truncate 8).zeroExtend 64)))) ∧
    (let srcs : List Src := [t, ⟨t.r + 1, t.m⟩, a]
     t.r ≠ 0 → Delivers srcs t.r s v → Delivers srcs (t.r + 1) s hi → Delivers srcs a.r s x → found 8 → exec (.stp t sg a imm) s = .next (posted srcs 8 (hi ++ v)))

/-- R100, R234, R235: an atomic that passes its checks marks rd empty, asks the home of the word for it with its operation, and
commits; what it is to do stays with the tile until the grant (log entry 138). The `.C` forms, whose operation is 16 more, do what the others do,
but nothing orders two of them. CAS carries g[rd]. -/
def Obligations.AtomicsIssue : Prop :=
  ∀ (s s1 : State) (d : Reg) (sg : BitVec 3) (a b : Src) (x v e : Word) (p : P0), Ordinary s → LaterReady d s → s1.th.lineHeld (s1.tileEid s1.cur.1) p.pa = false →
    let found (op : Nat) : Prop := p0Place rAtomic 3 sg.toNat x.toNat 4 op s = .ok (p, s1)
    let asked (srcs : List Src) (op : Nat) (e : Word) : State :=
      ((((consume srcs s1).modTh (fun h => h.markEmpty d.toNat)).p0Send .rsv p.pa p.la 4 (.atomic d.toNat op v e) 0).modTh (fun h => h.commit)).touchLocal p.pa
    (Delivers [a, b] a.r s x → Delivers [a, b] b.r s v →
      (found 0 → exec (.aadd d sg a b) s = .next (asked [a, b] 0 0)) ∧ (found 16 → exec (.aaddC d sg a b) s = .next (asked [a, b] 16 0)) ∧
      (found 1 → exec (.aand d sg a b) s = .next (asked [a, b] 1 0)) ∧ (found 17 → exec (.aandC d sg a b) s = .next (asked [a, b] 17 0)) ∧
      (found 2 → exec (.aor d sg a b) s = .next (asked [a, b] 2 0)) ∧ (found 18 → exec (.aorC d sg a b) s = .next (asked [a, b] 18 0)) ∧
      (found 3 → exec (.axor d sg a b) s = .next (asked [a, b] 3 0)) ∧ (found 19 → exec (.axorC d sg a b) s = .next (asked [a, b] 19 0)) ∧
      (found 4 → exec (.amin d sg a b) s = .next (asked [a, b] 4 0)) ∧ (found 20 → exec (.aminC d sg a b) s = .next (asked [a, b] 20 0)) ∧
      (found 5 → exec (.amax d sg a b) s = .next (asked [a, b] 5 0)) ∧ (found 21 → exec (.amaxC d sg a b) s = .next (asked [a, b] 21 0)) ∧
      (found 6 → exec (.aminu d sg a b) s = .next (asked [a, b] 6 0)) ∧ (found 22 → exec (.aminuC d sg a b) s = .next (asked [a, b] 22 0)) ∧
      (found 7 → exec (.amaxu d sg a b) s = .next (asked [a, b] 7 0)) ∧ (found 23 → exec (.amaxuC d sg a b) s = .next (asked [a, b] 23 0)) ∧
      (found 11 → exec (.swap d sg a b) s = .next (asked [a, b] 11 0))) ∧
    (Delivers [a, b, plain d] a.r s x → Delivers [a, b, plain d] b.r s v → Delivers [a, b, plain d] d s e → found 12 →
      exec (.cas d sg a b) s = .next (asked [a, b, plain d] 12 e))

/-- R95, R236: FENCE commits, changing nothing else, when nothing is left in the thread's commit buffer and no earlier access of it on a masked
path with its home in the scope is outstanding, at the tile it runs on or, of a visitor, at its origin; otherwise the thread blocks. What counts: a multicast store
until it is stamped, or from DOMAIN scope on until it is applied everywhere; a command of a masked engine path that may still make an
access. -/
def Obligations.FenceWaitsForScope : Prop :=
  (∀ (s : State) (c : BitVec 3) (p : BitVec 8), s.th.shadow = none → stPP s.th.st = false →
    (s.th.cbuf = [] → s.fenceWaits p.toNat c.toNat = false →
      exec (.fence c p) s = .next (s.modTh (fun h => h.commit)) ∧ (s.modTh (fun h => h.commit)).th.pc = s.th.pc + 4 ∧ (s.modTh (fun h => h.commit)).th.instret = s.th.instret + 1) ∧
    ((s.th.cbuf ≠ [] ∨ s.fenceWaits p.toNat c.toNat = true) → exec (.fence c p) s = .next (s.block (.fencing p.toNat c.toNat)))) ∧
  (∀ (s : State) (mask scope : Nat),
    let counts (t k : Nat) : Prop :=
      (∃ q, q ∈ (s.slot t k).pend ∧ mask.testBit q.path = true ∧ (match q.kind with
        | .mcast _ stamped => stamped = false ∨ 4 ≤ scope
        | .cw ctx => ctx = s.ctxName t k ∧ s.inScope s.cur.1 scope q.pa = true
        | _ => s.inScope s.cur.1 scope q.pa = true)) ∨ s.pathBusy t k mask scope s.cur.1 = true
    s.fenceWaits mask scope = true ↔
      counts s.cur.1 s.cur.2 ∨ s.th.isVisitor = true ∧ ctxPkg s.th.origin = s.pkg ∧ counts (ctxTile s.th.origin) (ctxSlot s.th.origin))

/-! ### Guard, group and completion instructions (R237-R250) -/

/-- R61, R63, R66, R237-R239, R393: the guard instructions, where the record lies in space 0 or 4 and the tile refuses nothing, mark
rd empty and send their request; an acquire first reads the binding, blocked; a release leaves HELD. -/
def Obligations.GuardRequestsIssue : Prop :=
  ∀ (s s1 s2 : State) (d : Reg) (sg : BitVec 3) (a b : Src) (x y ctl : Word) (pa arr : Nat) (rp ap : Place), Ordinary s → LaterReady d s → recSpace pa = true →
    let marked (srcs : List Src) (u : State) : State := ((consume srcs u).modTh (fun h => h.markEmpty d.toNat)).modTh (fun h => h.commit)
    let asked (excl isTry : Bool) : State :=
      let q := s1.th.addPend noPath pa 0 (.binding d.toNat excl isTry y.toNat [a, b])
      let u := (s1.modTh (fun _ => q.2)).block .answer
      u.send .req .rd { u.mgrMsg s.cur.1 s.cur.2 pa q.1 with len := 15 }
    (Delivers [a, b] a.r s x → Delivers [a, b] b.r s y →
      (recSeg rGuardW sg.toNat x.toNat 64 64 s = .ok rp → recSeg rGuardW sg.toNat y.toNat 1024 1024 s = .ok ap → recAt rp 64 s = .ok (pa, s1) → recAt ap 1024 s1 = .ok (arr, s2) → recSpace arr = true → pa / 2 ^ 37 = arr / 2 ^ 37 →
        exec (.binit d sg a b) s = .next ((marked [a, b] s2).ask .gadmBinit pa (.guardOp d.toNat false) (fun m => { m with aux0 := BitVec.ofNat 64 arr }))) ∧
      (recPlace rGuardR sg.toNat x.toNat 64 64 s = .ok (pa, s1) →
        (y = 0 → exec (.unbind d sg a b) s = .next ((marked [a, b] s1).ask .gadmUnbind pa (.guardOp d.toNat false) (fun m => { m with attr := 2 }))) ∧
        (y = 1 → exec (.unbind d sg a b) s = .next ((marked [a, b] s1).ask .gadmUnbindRetire pa (.guardOp d.toNat false) (fun m => { m with attr := 3 }))) ∧
        (y.toNat < 2 ^ 22 → y.toNat % 256 = 0 → (s1.tile s.cur.1).engaged s.cur.2 pa = false →
          exec (.acqS d sg a b) s = .next (asked false false) ∧ exec (.gtryS d sg a b) s = .next (asked false true))) ∧
      (recPlace rGuardW sg.toNat x.toNat 64 64 s = .ok (pa, s1) → y.toNat < 2 ^ 22 → y.toNat % 256 = 0 → (s1.tile s.cur.1).engaged s.cur.2 pa = false →
        exec (.acqX d sg a b) s = .next (asked true false) ∧ exec (.gtryX d sg a b) s = .next (asked true true))) ∧
    (let srcs := [a] ++ srcPair b
     ∀ (p : Place) (ps : List (Nat × Nat)), Delivers srcs a.r s x → Delivers srcs b.r s y → Delivers srcs (b.r + 1) s ctl → ctl.toNat < 2 ^ 13 →
      recSeg rGuardR sg.toNat x.toNat 64 64 s = .ok rp →
      let size := 256 * 4 ^ (ctl.toNat % 4)
      let len := (ctl.toNat / 4 % 256 + 1) * size
      seg rGuardW (ctl.toNat / 1024) y.toNat len s = .ok p → p.at_ % size = 0 → recAt rp 64 s = .ok (pa, s1) →
      let from_ := s1.th.bindFrom p.at_ (p.at_ + len)
      bindWalk p.at_ 1042 from_.1 (p.at_ + len) from_.2 s1 = .ok (ps, s2) →
      (∀ q, q ∈ ps → spaceOf q.1 = 0 ∨ spaceOf q.1 = 1 ∨ spaceOf q.1 = 4) →
      let done := marked srcs (s2.modTh (fun h => { h with bindAt := none }))
      let q := done.th.addPend noPath pa 0 (.guardOp d.toNat false)
      let u := done.modTh (fun _ => q.2)
      let m := { u.mgrMsg s.cur.1 s.cur.2 pa q.1 with aux0 := BitVec.ofNat 64 p.at_, aux1 := BitVec.ofNat 64 (ctl.toNat % 4 + ctl.toNat / 4 % 256 * 4) }
      exec (.bind d sg a b) s = .next ((bindMsgs m 60 0 ps).foldl (fun s m => s.send .req .gadmBind m) u)) ∧
    (∀ e : RngEntry, Delivers [a] a.r s x → recPlace rGuardR sg.toNat x.toNat 64 64 s = .ok (pa, s1) → (s1.tile s.cur.1).rngAt s.cur.2 pa = some e → e.held = true → s1.copyBusy s.cur.1 e = false →
      let q := (marked [a] s1).th.addPend noPath pa 0 (.guardOp d.toNat true)
      exec (.rel d sg a) s = .next (((marked [a] s1).modTh (fun _ => q.2)).release s.cur.1 s.cur.2 e q.1))

/-- R104, R149, R151, R240, R241: JOIN asks the manager; LEAVE clears its GMEM entry; ARRIVE and BARW, once the fence of the group's
span holds, send the arrival and set ARR, BARW then parking BARRIER; BWAIT parks while ARR is set and commits OK when it is clear. -/
def Obligations.GroupRequestsIssue : Prop :=
  ∀ (s s1 s2 : State) (d : Reg) (sg : BitVec 3) (a b : Src) (x y cap : Word) (pa arr j : Nat) (rp ap : Place), Ordinary s → LaterReady d s → groupSpace pa = true →
    let marked (srcs : List Src) (u : State) : State := ((consume srcs u).modTh (fun h => h.markEmpty d.toNat)).modTh (fun h => h.commit)
    let me : DWord := BitVec.ofNat 64 (s.ctxName s.cur.1 s.cur.2)
    (let srcs := [a] ++ srcPair b
     Delivers srcs a.r s x → Delivers srcs b.r s y → Delivers srcs (b.r + 1) s cap → cap.toNat < 2 ^ 16 → recSeg rGroup sg.toNat x.toNat 64 64 s = .ok rp → recSeg rGroup sg.toNat y.toNat (4 * max cap.toNat 1) 64 s = .ok ap →
      recAt rp 64 s = .ok (pa, s1) → recAt ap (4 * max cap.toNat 1) s1 = .ok (arr, s2) → groupSpace arr = true → pa / 2 ^ 37 = arr / 2 ^ 37 →
      s2.th.gmemUsed < 8 → s2.th.member pa = none → pa ∉ s2.th.joining →
      exec (.join d sg a b) s = .next ((marked srcs s2).ask .grpreqJoin pa (.group d.toNat 0 0) (fun m => { m with aux0 := me, aux1 := BitVec.ofNat 64 arr, aux2 := BitVec.ofNat 64 cap.toNat }))) ∧
    (Delivers [a] a.r s x → recPlace rGroup sg.toNat x.toNat 64 64 s = .ok (pa, s1) → s1.th.member pa = some j →
      exec (.leave d sg a) s = .next (((marked [a] s1).ask .grpreqLeave pa (.group d.toNat (if s1.th.arrived j then 5 else 1) j)
        (fun m => { m with attr := BitVec.ofNat 32 (1 + b2n (s1.th.arrived j) * 8), aux0 := me })).modTh (fun h => { h with gmem := mset 0 h.gmem j 0 })) ∧
      (s1.th.arrived j = false → s1.th.cbuf = [] → s1.fenceWaits 0x0F (s1.th.span j) = false →
        let sent (what : Nat) : State := ((marked [a] s1).modTh (fun h => h.setArr j true)).ask .grpreqArrive pa (.group d.toNat what j) (fun m => { m with attr := BitVec.ofNat 32 (2 + s1.th.span j * 16), aux0 := me })
        exec (.arrive d sg a) s = .next (sent 2) ∧ exec (.barw d sg a) s = .next ((sent 3).parkBarrier j)) ∧
      (s1.th.arrived j = true → exec (.bwait d sg a) s = .next (s1.parkBarrier j)) ∧
      (s1.th.arrived j = false → exec (.bwait d sg a) s = .next (commitWith [a] d 0 s1)))

/-- R158, R242-R245: WAITC installs a watch; POSTC and POSTCE ask the word's home for it; SEND sends a message of its kind while fewer
than four are outstanding; CHON and CHOFF turn a channel register on and off. -/
def Obligations.CompletionAndChannelInstructions : Prop :=
  ∀ (s s1 : State) (d : Reg) (sg : BitVec 3) (a b : Src) (x lo hi v : Word), Ordinary s →
    let marked (srcs : List Src) (u : State) : State := (consume srcs u).modTh (fun h => h.markEmpty d.toNat)
    (∀ pa, LaterReady d s → s.th.watching = false → watchPlace sg.toNat x.toNat s = .ok (pa, s1) →
      let t := lo.toNat + hi.toNat % 2 ^ 31 * 2 ^ 32
      let installed (srcs : List Src) (t : Nat) : State :=
        ((marked srcs s1).modTh (fun h => h.commit)).ask .watchInstall pa (.watch d.toNat t) (fun m => { m with aux0 := BitVec.ofNat 64 t })
      (b.r ≠ 0 → Delivers ([a] ++ srcPair b) a.r s x → Delivers ([a] ++ srcPair b) b.r s lo → Delivers ([a] ++ srcPair b) (b.r + 1) s hi →
        exec (.waitc d sg a b) s = .next (installed ([a] ++ srcPair b) t)) ∧
      (b.r = 0 → Delivers [a, b] a.r s x → Delivers [a, b] b.r s 0 → exec (.waitc d sg a b) s = .next (installed [a, b] 0))) ∧
    (∀ p : P0, LaterReady d s → Delivers [a, b] a.r s x → Delivers [a, b] b.r s v → p0Place rAtomic 3 sg.toNat x.toNat 8 99 s = .ok (p, s1) → s1.th.lineHeld (s1.tileEid s1.cur.1) p.pa = false →
      exec (.postc d sg a b) s = .next (((marked [a, b] s1).p0Send .rsv p.pa p.la 8 (.post d.toNat v false) 0).modTh (fun h => h.commit)) ∧
      exec (.postce d sg a b) s = .next (((marked [a, b] s1).p0Send .rsv p.pa p.la 8 (.post d.toNat v true) 0).modTh (fun h => h.commit))) ∧
    (∀ kind : BitVec 3, Delivers [a, b] a.r s x → Delivers [a, b] b.r s v → x.toNat < 2 ^ 29 → s.th.sendOut < 4 →
      let q := (consume [a, b] s).th.addPend 0 (3 * 2 ^ 52 + x.toNat % 2 ^ 24 * 2 ^ 24) 0 .send
      let u := ((consume [a, b] s).modTh (fun _ => { q.2 with sendOut := q.2.sendOut + 1 })).modTh (fun h => h.commit)
      exec (.send a b kind) s = .next (u.send .req (if kind = 0 then .msgData else if kind = 1 then .msgRecast else .msgQueue)
        { Msg.zero with src := s.tileEid s.cur.1, dst := x.toNat % 2 ^ 24, slot := s.cur.2, asid := s.th.asid, tag := q.1, attr := BitVec.ofNat 32 (x.toNat / 2 ^ 24 + kind.toNat * 32), aux0 := v.zeroExtend 64 })) ∧
    (∀ k : BitVec 2, Delivers [a] a.r s x → x.toNat < 2 ^ 29 → s.th.prod.getLsbD (28 + k.toNat) = false →
      exec (.chon a k) s = .next (((consume [a] s).modTh (fun h => { h with chpeer := mset 0 h.chpeer k.toNat x, chmap := wsetb h.chmap k.toNat true })).modTh (fun h => h.commit))) ∧
    (∀ k : BitVec 2, exec (.choff k) s = .next ((s.modTh (fun h => { h with chmap := wsetb h.chmap k.toNat false })).modTh (fun h => h.commit)))

/-- R246, R247, R249: MCST and MCSTC read their source from the local banks, which correct and record what they must, commit, and send it to the
relay; MCSEQ asks the relay for the group's applied sequence number. -/
def Obligations.MulticastInstructions : Prop :=
  ∀ (s : State) (d : Reg) (sg : BitVec 3) (a b : Src) (x ctl off : Word), Ordinary s → LaterReady d s → LaterReady (pairHi d) s → d.toNat % 2 = 0 →
    let srcs := [a] ++ srcPair b
    let marked (s : State) : State := (consume srcs s).modTh (fun h => (h.markEmpty d.toNat).markEmpty (pairHi d).toNat)
    Delivers srcs a.r s x →
    (∀ p : Place, Delivers srcs b.r s ctl → Delivers srcs (b.r + 1) s off → ctl.toNat < 2 ^ 17 → off.toNat % 8 = 0 →
      let len := (ctl.toNat / 2 ^ 12 + 1) * 8
      let usable (ext : Nat) : Prop :=
        seg (fun g => g.r && g.s) sg.toNat x.toNat ext s = .ok p ∧ p.at_ % 8 = 0 ∧ (s.tile s.cur.1).rngCopy s.cur.2 p.at_ ext false = .pass ∧
        (s.tile s.cur.1).bankHeld s.cur.2 p.at_ ext = false ∧ (s.readCheck (s.spPa s.cur.1 p.at_) ext (s.ctxName s.cur.1 s.cur.2)).eccBad (s.spPa s.cur.1 p.at_) ext = false
      let sent (ext attr : Nat) (e c : State → Nat) (body : State → List Byte) : State :=
        let s := s.readCheck (s.spPa s.cur.1 p.at_) ext (s.ctxName s.cur.1 s.cur.2)
        let q := (marked s).th.addPend 6 (ctl.toNat % 2 ^ 12) 0 (.mcast d.toNat false)
        (((marked s).modTh (fun _ => q.2)).modTh (fun h => h.commit)).send .req .mcreq
          { Msg.zero with src := s.tileEid s.cur.1, dst := s.relay s.cur.1, slot := s.cur.2, asid := s.th.asid, tag := q.1, len := len - 1, attr := BitVec.ofNat 32 attr, aux0 := off.zeroExtend 64, aux1 := BitVec.ofNat 64 (e s), aux2 := BitVec.ofNat 64 (c s), data := body s }
      let pa := s.spPa s.cur.1 p.at_
      (usable len → exec (.mcst d sg a b) s = .next (sent len (ctl.toNat % 2 ^ 12) (fun _ => 0) (fun _ => 0) (fun s => rdBytes s.mem pa len))) ∧
      (usable (len + 16) → exec (.mcstc d sg a b) s = .next (sent (len + 16) (ctl.toNat % 2 ^ 12 + 4096) (fun s => rdLE s.mem pa 8) (fun s => rdLE s.mem (pa + 8) 8) (fun s => rdBytes s.mem (pa + 16) len)))) ∧
    (∀ lo hi : Word, d ≠ 0 → x.toNat < 2 ^ 12 → Delivers srcs b.r s lo → (b.r = 0 ∧ lo = 0 ∧ hi = 0 ∨ b.r ≠ 0 ∧ Delivers srcs (b.r + 1) s hi) → s.th.sequencing = false →
      let t := lo.toNat + hi.toNat % 2 ^ 31 * 2 ^ 32
      let q := (marked s).th.addPend noPath x.toNat 0 (.mcseq d.toNat t)
      exec (.mcseq d a b) s = .next ((((marked s).modTh (fun _ => q.2)).modTh (fun h => h.commit)).send .req .mcseqreq
        { Msg.zero with src := s.tileEid s.cur.1, dst := s.relay s.cur.1, slot := s.cur.2, asid := s.th.asid, tag := q.1, attr := x, aux0 := BitVec.ofNat 64 t }))

/-! ### Traps, privilege, control and status registers (R170, R175, R182, R280-R287) -/

/-- R182: a trap of a thread that is no visitor and on no predicted path, other than MCHK: what is saved where, the new status, and
the handler's address; nothing else changes but what the model keeps of a SPAWN under way (log 157), which the trap gives up. R282: TRAP and BREAK take a trap at themselves and do not commit. -/
def Obligations.TrapEntry : Prop :=
  (∀ (s : State) (code sub : Nat) (val : Word), s.th.isVisitor = false → s.th.shadow = none → code ≠ tMCHK →
      let t := s.trap code sub val
      t.th.estat = s.th.st ∧ t.th.epfx = s.th.pfx ∧ t.th.epc = s.th.pc ∧ t.th.ecause = BitVec.ofNat 32 (code + sub * 256) ∧ t.th.eval = val ∧
      (∀ n, n < 32 → t.th.st.getLsbD n = if n = 0 then false else if n = 14 then true else if n = 11 ∧ stPL s.th.st = 0 then true else s.th.st.getLsbD n) ∧
      t.th.pc = (s.th.tvec >>> 2) <<< 2 ∧
      { t.th with estat := s.th.estat, epfx := s.th.epfx, epc := s.th.epc, ecause := s.th.ecause, eval := s.th.eval, st := s.th.st, pc := s.th.pc, run := s.th.run, fetched := s.th.fetched } = s.th ∧
      OnlyThread s t) ∧
  (∀ (s : State) (a : Src) (u : BitVec 5) (v : Word), Ordinary s →
      let entered (code : Nat) (val : Word) : State := s.modTh (fun h =>
        { h with estat := h.st, epfx := h.pfx, epc := h.pc, ecause := BitVec.ofNat 32 (code + u.toNat * 256), eval := val, st := trapSt h.st, pc := wput h.tvec 0 2 0, run := .ready, fetched := none })
      (Delivers [a] a.r s v → exec (.trap a u) s = .next (entered 10 v)) ∧
      exec (.brk u) s = .next (entered 9 (insnWord (.brk u))) ∧
      (entered 10 v).th.instret = s.th.instret ∧ (entered 9 v).th.instret = s.th.instret)

/-- R283: ERET takes PC, ST and PFX back, never raising the level; the reserved bits of ST and PFX stay zero (R167, R168). -/
def Obligations.ExceptionReturn : Prop :=
  ∀ s : State, Ordinary s → 1 ≤ stPL s.th.st →
    ∃ t, exec .eret s = .next t ∧ t.th.pc = s.th.epc ∧ (∀ n, t.th.pfx.getLsbD n = (decide (n < 17) && s.th.epfx.getLsbD n)) ∧ stPL t.th.st = min (stPL s.th.estat) (stPL s.th.st) ∧ stPARK t.th.st = 0 ∧
      (∀ n, n < 11 ∨ n = 13 ∨ n = 14 → (wfld s.th.estat 3 3 < 6 ∨ n < 3 ∨ 5 < n) → t.th.st.getLsbD n = s.th.estat.getLsbD n) ∧ (∀ n, 15 ≤ n → n < 24 → t.th.st.getLsbD n = false) ∧
      { t.th with pc := s.th.pc, pfx := s.th.pfx, st := s.th.st, instret := s.th.instret, quantum := s.th.quantum } = s.th ∧ OnlyThread s t

/-- R170, R180: an instruction of a level above the thread's raises PRIV with its own word; so does a CSR out of reach. -/
def Obligations.PrivilegeTraps : Prop :=
  ∀ (s : State) (d : Reg) (sg : BitVec 3) (a b : Src) (c : BitVec 12), Ordinary s →
    let traps (i : Instr) : Prop := exec i s = .next (s.trap tPRIV 0 (insnWord i))
    (stPL s.th.st = 0 →
      traps .eret ∧ traps (.rqpush d a) ∧ traps (.rqpop d a) ∧ traps (.ctxsv d sg a b) ∧ traps (.ctxld d sg a b) ∧ traps (.splock d a) ∧ traps (.spunlock a) ∧ traps (.lagrant d a) ∧
      (0x100 ≤ c.toNat % 0x400 → traps (.csrxch d a c) ∧ traps (.csrbs d a c) ∧ traps (.csrbc d a c))) ∧
    (stPL s.th.st ≤ 1 → 0x300 ≤ c.toNat % 0x400 → traps (.csrxch d a c))

/-- R170, R172, R175: every CSR instruction whose range its level may read and, if it writes, write, commits: it gives the old half to rd
with the latch that reading CYCLE or INSTRET sets, unless rd is g0, and delivers its write. A written bit lands by its access; CSRs whose
fields have no rule of their own take exactly that. A write to a range changes no memory, no MMIO register, no link, and nothing of the
other ranges; CSRBS and CSRBC of a nonzero value to a range their level may not write raise PRIV with SUB 1. -/
def Obligations.CsrInstructions : Prop :=
  (∀ (s : State) (d : Reg) (a : Src) (c : BitVec 12) (u : BitVec 7) (v : Word), Ordinary s → destReady d s = .ok () → csrReadable (stPL s.th.st) c.toNat = true →
      let t := s.cur.1; let k := s.cur.2; let pl := stPL s.th.st
      let read (srcs : List Src) : State :=
        if d = 0 then consume srcs s
        else writeResult d (s.csrRead t k c.toNat) (if c = 0x009 then (consume srcs s).latchCycle t k else if c = 0x00B then (consume srcs s).latchInstret t k else consume srcs s)
      let done (srcs : List Src) (en w : Word) : State := ((read srcs).csrWrite pl t k (vdOf t) c.toNat en w).modTh (fun h => h.commit)
      (Delivers [a] a.r s v →
        (csrWritable pl c.toNat = true → exec (.csrxch d a c) s = .next (done [a] 0xFFFFFFFF v)) ∧
        (csrWritable pl c.toNat = true ∨ v = 0 → exec (.csrbs d a c) s = .next (done [a] v v) ∧ exec (.csrbc d a c) s = .next (done [a] v 0)) ∧
        (csrWritable pl c.toNat = false → v ≠ 0 → exec (.csrbs d a c) s = .next (s.trap tPRIV 1 (insnWord (.csrbs d a c))))) ∧
      (csrWritable pl c.toNat = true → exec (.csrxchi d c u) s = .next (done [] 0xFFFFFFFF (u.zeroExtend 32))) ∧
      (csrWritable pl c.toNat = true ∨ u = 0 →
        exec (.csrbsi d c u) s = .next (done [] (u.zeroExtend 32) (u.zeroExtend 32)) ∧ exec (.csrbci d c u) s = .next (done [] (u.zeroExtend 32) 0))) ∧
  (∀ (old en v rw w1c i : Nat), (rw &&& w1c) = 0 →
      (landBits old en v rw w1c).testBit i =
        if en.testBit i && rw.testBit i then v.testBit i else if en.testBit i && v.testBit i && w1c.testBit i then false else old.testBit i) ∧
  (∀ (s : State) (pl t k vd c : Nat) (en v : Word),
      let u := s.csrWrite pl t k vd c en v
      u.mem = s.mem ∧ u.mmio = s.mmio ∧ u.links = s.links ∧
      (csrBase c < 0x200 → u.dies = s.dies ∧ ∀ x j, (x, j) ≠ (t, k) → u.slot x j = s.slot x j) ∧
      (csrBase c < 0x200 →
        (u.slot t k).g = (s.slot t k).g ∧ (u.slot t k).fe = (s.slot t k).fe ∧ (u.slot t k).prod = (s.slot t k).prod ∧ (u.slot t k).poison = (s.slot t k).poison ∧
        (u.slot t k).pc = (s.slot t k).pc ∧ (u.slot t k).instret = (s.slot t k).instret ∧ (u.slot t k).sg = (s.slot t k).sg) ∧
      (0x200 ≤ csrBase c → csrBase c < 0x300 → u.dies = s.dies ∧ (∀ x, x ≠ t → u.tile x = s.tile x) ∧ ∀ j, u.slot t j = s.slot t j) ∧
      (0x300 ≤ csrBase c → u.tiles = s.tiles ∧ ∀ x, x ≠ vd → u.die x = s.die x) ∧
      (c ∈ [0x006, 0x007, 0x008, 0x010, 0x100, 0x101, 0x102, 0x103, 0x104, 0x105, 0x106, 0x107] →
        u.csrSlot t k c = landBits (s.csrSlot t k c) en.toNat v.toNat (csrRw pl c) 0))

/-- R280, R281, R285-R287: NOP and YIELD commit; PARK consumes a latched wake or parks after it commits; WAKE posts its message; HALT
ends the thread, leaving its groups and locks, except that slot 7 parks. -/
def Obligations.SystemInstructions : Prop :=
  ∀ (s : State) (a b : Src) (x y : Word), Ordinary s →
    let done (u : State) : State := u.modTh (fun h => h.commit)
    exec .nop s = .next (done s) ∧
    exec .yield s = .next ((done s).modTh (fun h => { h with yielded := true })) ∧
    (s.th.wl = true → exec .park s = .next ((done s).modTh (fun h => { h with wl := false }))) ∧
    (s.th.wl = false → exec .park s = .next ((done s).park pPARK)) ∧
    (Delivers [a, b] a.r s x → Delivers [a, b] b.r s y → x.toNat < 2 ^ 27 → y.toNat < 2 ^ 16 →
      let m : Msg := { Msg.zero with src := s.tileEid s.cur.1, dst := x.toNat / 2 ^ 15 * 4096 + x.toNat / 8 % 4096, slot := x.toNat % 8, asid := s.th.asid, aux2 := BitVec.ofNat 64 (stPL s.th.st) }
      (b.r = 0 → exec (.wake a b) s = .next ((done (consume [a, b] s)).post .wakeSlotMsg { m with attr := 11 })) ∧
      (b.r ≠ 0 → exec (.wake a b) s = .next ((done (consume [a, b] s)).post .wakeTagMsg { m with slot := s.cur.2, aux0 := BitVec.ofNat 64 (y.toNat + 0x10000) }))) ∧
    ((∀ p, p ∈ s.th.pend → p.path ≠ 0) → s.th.cbuf = [] → s.th.prod = 0 →
      let left := ((s.leaveAll s.cur.1 s.cur.2).unlockAll s.cur.1 s.cur.2).modTh (fun h => { h with fork := {} })
      (s.cur.2 ≠ 7 → exec .halt s = .next (((done left).modTh (fun h => { h with run := .halted })).checkRetire s.cur.1 s.cur.2)) ∧
      (s.cur.2 = 7 → exec .halt s = .next (left.park pPARK)))

/-! ### Forks, spawns, the ready queue, contexts and locks (R289-R300) -/

/-- R155-R157, R289-R291: FORK puts the number of parts into the join cell, seats recruits and takes part 0; JOINC counts down its cell
and takes the next unplaced part, commits with the error bit as the last one, or ends the thread; SPAWN reads its record at its home, in two parts where the
record ends a page (log entry 157), and, when it has come, sends it. -/
def Obligations.ForkJoinSpawn : Prop :=
  ∀ (s s1 : State) (d : Reg) (sg : BitVec 3) (a b : Src) (x n g q : Word) (cell : P0), Ordinary s →
    (let srcs := [a] ++ srcPair b
     Delivers srcs a.r s x → Delivers srcs b.r s n → Delivers srcs (b.r + 1) s g → destReady 1 s = .ok () → destReady 2 s = .ok () → destReady 4 s = .ok () → destReady d s = .ok () →
      0 < n.toNat → n.toNat < 2 ^ 31 → g ≠ 0 → (s.th.fork.v = false ∨ s.th.fork.umap = 0) → joinCell sg.toNat x.toNat s = .ok (cell, s1) →
      let idle := s1.idleTiles s1.cur.1
      let p := min (min (cdiv n.toNat g.toNat) (1 + idle.length)) (s1.tile s1.cur.1).fmax.toNat
      let s2 := s1.perform cell.pa (leBytes 8 p)
      let r := s2.recruitAll (s2.crewOf s1.cur.1 s2.cur.2) s1.th (idle.take (p - 1)) n.toNat p x.toNat
      let cont : Fork := if r.2 = [] then {} else { v := true, rpc := s1.th.pc + 4, n := n.toNat, p := p, seg := sg.toNat, joff := x, umap := r.2.foldl (fun m i => m ||| (1#256 <<< i)) 0 }
      exec (.fork d sg a b) s = .next ((writeResult d (BitVec.ofNat 32 p) ((consume srcs r.1).modTh (fun h =>
        { (((h.setG 1 0).setG 2 (BitVec.ofNat 32 (n.toNat / p))).setG 4 x) with fork := cont }))).modTh (fun h => h.commit))) ∧
    (Delivers [a] a.r s x → destReady d s = .ok () → s.cur.2 ≠ 7 → joinCell sg.toNat x.toNat s = .ok (cell, s1) →
      let old := rdLE s1.mem cell.pa 8
      let new := if old % 2 ^ 32 = 0 then nput old 63 1 1 else nput old 0 32 (old % 2 ^ 32 - 1)
      let f := s.th.fork
      let performed := s1.perform cell.pa (leBytes 8 new)
      (∀ j, f.v = true → f.seg = sg.toNat → f.joff = x → destReady 1 s = .ok () → destReady 2 s = .ok () → j < 256 → f.umap.getLsbD j = true → (∀ i, i < j → f.umap.getLsbD i = false) →
        exec (.joinc d sg a) s = .next ((consume [a] performed).modTh (fun h =>
          { ((h.setG 1 (BitVec.ofNat 32 (f.n * j / f.p))).setG 2 (BitVec.ofNat 32 (f.n * (j + 1) / f.p))).commitAt f.rpc with fork := { f with umap := f.umap &&& ~~~(1#256 <<< j) } }))) ∧
      (f.v = false → (∀ p, p ∈ s1.th.pend → p.path ≠ 0) → s1.th.cbuf = [] → s1.th.prod = 0 →
        (new % 2 ^ 32 = 0 → exec (.joinc d sg a) s = .next (commitWith [a] d (if new.testBit 63 then 1 else 0) performed)) ∧
        (new % 2 ^ 32 ≠ 0 → exec (.joinc d sg a) s = .next (consume [a] performed).haltNow))) ∧
    (Delivers [a, b] a.r s x → Delivers [a, b] b.r s q → LaterReady d s → q.toNat < 2 ^ 14 → p0PlaceAt rLoad 1 sg.toNat x.toNat 128 64 0 s = .ok (cell, s1) →
      let u := (((consume [a, b] s1).modTh (fun h => h.markEmpty d.toNat)).modTh (fun h => h.commit)).modTh (fun h => { h with fetched := none })
      let r := u.th.addPend noPath cell.pa 0 (.spawn d.toNat)
      (s1.th.fetched = none →
        exec (.spawn d sg a b) s = .next ((s1.p0Send .rd cell.pa cell.la (if (cell.la + 64) % 4096 = 0 then 64 else 128) (.record false) 0).block .answer)) ∧
      (∀ bs (half : P0) s2, s1.th.fetched = some (cell.pa, bs) → bs.length < 128 → p0PlaceAt rLoad 1 sg.toNat (x.toNat + 64) 64 64 0 s1 = .ok (half, s2) →
        exec (.spawn d sg a b) s = .next ((s2.p0Send .rd half.pa half.la 64 (.record true) 0).block .answer)) ∧
      ∀ bs, s1.th.fetched = some (cell.pa, bs) → 128 ≤ bs.length → s1.th.cbuf = [] → s1.fenceWaits 0x0F 3 = false →
      exec (.spawn d sg a b) s = .next ((u.modTh (fun _ => r.2)).send .req .launchFetch
        { Msg.zero with src := u.tileEid u.cur.1, dst := u.eid (8 + q.toNat % 2) 1, slot := u.cur.2, asid := r.2.asid, tag := r.1, aux1 := BitVec.ofNat 64 (q.toNat / 2), aux2 := BitVec.ofNat 64 (stPL s.th.st), data := bs.take 128 }))

/-- R293, R294: RQPUSH appends an entry, READY if its tag was latched, unless the tag is there or the queue is full; RQPOP takes the
head entry, else a queue word, else answers or parks. -/
def Obligations.ReadyQueueInstructions : Prop :=
  ∀ (s : State) (d : Reg) (a : Src) (x : Word), Ordinary s → 1 ≤ stPL s.th.st → Delivers [a] a.r s x → destReady d s = .ok () →
    let T := s.tile s.cur.1
    let tag := x.toNat % 2 ^ 16
    (x.toNat < 2 ^ 19 →
      (T.rq.any (fun e => e.tag == tag) = true → exec (.rqpush d a) s = .next (commitWith [a] d 2 s)) ∧
      (T.rq.any (fun e => e.tag == tag) = false → 64 ≤ T.rq.length → exec (.rqpush d a) s = .next (commitWith [a] d 1 s)) ∧
      (T.rq.any (fun e => e.tag == tag) = false → T.rq.length < 64 →
        let sleep := x.getLsbD 18 && !T.latch.contains tag
        let s1 := s.setTile s.cur.1 { T with rq := T.rq ++ [⟨tag, x.toNat / 2 ^ 16 % 4, sleep, T.rqOrder⟩], rqOrder := T.rqOrder + 1, latch := T.latch.filter (· != tag) }
        exec (.rqpush d a) s = .next (commitWith [a] d (if T.latch.contains tag then 3 else 0) (if sleep then s1 else s1.wakeRq s.cur.1 [0, 2])))) ∧
    (destReady (d + 1) s = .ok () → x.toNat < 8 → x.toNat / 2 ≠ 3 →
      (∀ e, x.toNat / 2 ≠ 1 → T.rqHead = some e →
        exec (.rqpop d a) s = .next (commitPair [a] d (e.tag + e.pri * 65536) (s.setTile s.cur.1 { T with rq := dropFirst (fun y => y == e) T.rq }))) ∧
      (∀ q, x.toNat / 2 = 1 ∨ x.toNat / 2 = 2 ∧ T.rqHead = none → T.msgq.find? (fun q => msgKind q.2 == 2) = some q →
        exec (.rqpop d a) s = .next (commitPair [a] d (q.2.aux0.toNat % 2 ^ 32 + (q.2.src % 2 ^ 24 + q.2.slot % 8 * 2 ^ 24 + 2 ^ 30) * 2 ^ 32)
          (((s.setTile s.cur.1 { T with msgq := dropFirst (fun y => y == q) T.msgq }).wrackTo q.2).unholdTile s.cur.1))) ∧
      (x.toNat / 2 = 0 → T.rqHead = none →
        (x.getLsbD 0 = false → exec (.rqpop d a) s = .next (commitPair [a] d (2 ^ 63) s)) ∧
        (x.getLsbD 0 = true → s.th.wl = false → exec (.rqpop d a) s = .next ((s.park pPARK).modTh (fun h => { h with parkReg := rqMark + x.toNat / 2 })))))

/-- R296-R300: CTXSV and CTXLD of the own context, SPLOCK, SPUNLOCK, LAGRANT and SCRUB, where the scratchpad range is free. -/
def Obligations.ContextLockAndScrub : Prop :=
  ∀ (s : State) (d : Reg) (sg : BitVec 3) (a b : Src) (x y : Word) (o : Nat), Ordinary s →
    let t := s.cur.1; let k := s.cur.2; let T := s.tile t
    (1 ≤ stPL s.th.st → Delivers [a, b] a.r s x → Delivers [a, b] b.r s 0 → destReady d s = .ok () → s.th.prod = 0 →
      (spRange true sg.toNat x.toNat 256 s = .ok o → s.th.poisoned = none → exec (.ctxsv d sg a b) s = .next (commitWith [a, b] d 0 (s.perform (s.spPa t o) s.th.selfRecord))) ∧
      (spRange false sg.toNat x.toNat 256 s = .ok o →
        let u := s.readCheck (s.spPa t o) 256 (s.ctxName t k)
        u.eccBad (s.spPa t o) 256 = false → exec (.ctxld d sg a b) s = .next ((consume [a, b] u).modTh (fun h => (h.loadSelf (rdBytes u.mem (s.spPa t o) 256)).commit)))) ∧
    (Delivers [a, b] a.r s x → Delivers [a, b] b.r s y →
      (y = 0 → exec (.scrub sg a b) s = .next ((consume [a, b] s).modTh (fun h => h.commit))) ∧
      (y ≠ 0 → y.toNat % 256 = 0 → y.toNat ≤ 0x400000 → spRange true sg.toNat x.toNat y.toNat s = .ok o →
        exec (.scrub sg a b) s = .next ((consume [a, b] (((s.zero (s.spPa t o) y.toNat).modTile t (fun T => T.markDirty o y.toNat)).fireWatches (s.spPa t o) y.toNat)).modTh (fun h => h.commit)))) ∧
    (1 ≤ stPL s.th.st → Delivers [a] a.r s x →
      (destReady d s = .ok () →
        ((∃ l, l ∈ T.locks ∧ l.slot ≠ k ∧ l.mask &&& x ≠ 0) → exec (.splock d a) s = .next (commitWith [a] d 1 s)) ∧
        (x ≠ 0 → T.locks = [] → exec (.splock d a) s = .next (commitWith [a] d 0 ((s.setTile t { T with locks := [⟨k, x, s.clock (vdOf t)⟩] }).after (vdOf t) 4096 (evTK .lockTimeout t k)))) ∧
        (8 ≤ x.toNat → x.toNat < 15 → T.lamask.getLsbD (x.toNat % 8) = false →
          (countOnes 8 T.lamask < 2 → exec (.lagrant d a) s = .next (commitWith [a] d 0 (s.modTile t (fun T => { T with lamask := wsetb T.lamask (x.toNat % 8) true })))) ∧
          (2 ≤ countOnes 8 T.lamask → exec (.lagrant d a) s = .next (commitWith [a] d 1 s))) ∧
        (x.toNat < 7 → (s.slot t x.toNat).shadow = none → exec (.lagrant d a) s = .next (commitWith [a] d 0 (s.modTile t (fun T => { T with lamask := wsetb T.lamask x.toNat false }))))) ∧
      exec (.spunlock a) s = .next (((((consume [a] s).modTh (fun h => h.commit)).modTile t (fun T' =>
        { T' with locks := (updWhere (fun l => l.slot == k) (fun l => { l with mask := l.mask &&& ~~~x }) T.locks).filter (fun l => l.mask != 0) })).notifyAll t).unholdTile t))

/-! ### Engine instructions (R252-R275) -/

/-- R163, R255, R257: engine-register moves write the register at commit; ERD and ERDH commit with rd empty, which the engine unit fills 2 cycles
later, the typical time (log entry 72); QPEND and QLEAVE are made from the queues; FMTP sets the prefix and ST.PP. -/
def Obligations.EngineRegisterMoves : Prop :=
  ∀ (s : State) (a : Src) (d : Reg) (eng : BitVec 3) (r : BitVec 8) (x : Word) (fa fb fo : BitVec 4) (rnd : BitVec 3) (sc : BitVec 2), CmdReady s →
    let wrote (v : DWord) : State := (consume [a] s).modTh (fun h => (setEreg h eng.toNat r.toNat v).commit)
    (stPP s.th.st = false → Delivers [a] a.r s x →
      exec (.ewr a eng r) s = .next (wrote (x.zeroExtend 64)) ∧ exec (.ewrs a eng r) s = .next (wrote (x.signExtend 64)) ∧
      exec (.ewrh a eng r) s = .next ((consume [a] s).modTh (fun h => (setEreg h eng.toNat r.toNat (x ++ (ereg h eng.toNat r.toNat).truncate 32)).commit))) ∧
    (stPP s.th.st = false → LaterReady d s →
      let v := s.eregRead s.cur.1 s.cur.2 eng.toNat r.toNat
      let later (w : Word) : State := (s.modTh (fun h => h.commit)).valueLater s.cur.1 s.cur.2 d.toNat false (w.zeroExtend 64) 2
      exec (.erd d eng r) s = .next (later (v.truncate 32)) ∧ exec (.erdh d eng r) s = .next (later ((v >>> 32).truncate 32))) ∧
    exec (.fmtp fa fb fo rnd sc) s = .next (s.modTh (fun h => { h.commit with pfx := ((sc ++ rnd) ++ fo ++ (fb ++ fa)).zeroExtend 32, st := h.st ||| 1 }))

/-- R252, R260-R265: a matrix command whose checks all pass and whose queue has room commits and enters the matrix queue as captured. -/
def Obligations.MatrixCommandsIssue : Prop :=
  ∀ (s : State) (a b : Src) (x y fmt : Word), CmdReady s →
    let put (i : Instr) (srcs : List Src) (c : EngCmd) : Prop := CmdAdmitted s 0 c → exec i s = .next (s.accepted srcs 0 c)
    (Delivers [a] a.r s x →
      (stPP s.th.st = false → x.toNat < 16 → x &&& s.th.accmask = x → put (.mzero a) [a] (s.newCmd opMZERO x 0 0 [] 0 [])) ∧
      (let c := s.newCmd opMSTORE x 0 fmt s.th.mx 0 []
       cmdFmt (.mstore a) (mget 0 s.th.mx 1) s = .ok fmt → mstoreIll c s.th = false → mstoreChecks c s = .ok () → put (.mstore a) [a] { c with wext := c.extC.wext s.th }) ∧
      (let c := s.newCmd opMREDUCE x 0 0 s.th.mx 0 []
       stPP s.th.st = false → mxBad s.th ([0, 3, 4, 14, 15] ++ cwRegs s.th) = false → 0 < c.nsl → c.nsl ≤ 4096 → mreduceChecks c s = .ok () →
        put (.mreduce a) [a] { c with energy := cdiv (c.rows * c.cols * c.nsl) 64 })) ∧
    (Delivers [a, b] a.r s x → Delivers [a, b] b.r s y → mmaIll s.th fmt = false →
      (let c := s.newCmd opMMA x y fmt s.th.mx 0 []
       cmdFmt (.mma a b) (mget 0 s.th.mx 1) s = .ok fmt → mmaChecks c s = .ok () →
        put (.mma a b) [a, b] { c with energy := mmaEnergy c.rows c.cols c.kdim (fmFA fmt) (fmFB fmt) }) ∧
      (let ms := gangMembers s.cur.1 (s.th.mxn 12)
       let c := { s.newCmd opMMAG x y fmt s.th.mx 0 [] with members := ms }
       cmdFmt (.mmag a b) (mget 0 s.th.mx 1) s = .ok fmt → mxBad s.th [12] = false → 2 ≤ ms.length → s.cur.1 ∈ ms.map (·.1) → mmagChecks c s = .ok () →
        put (.mmag a b) [a, b] { c with energy := mmaEnergy c.rows c.cols c.kdim (fmFA fmt) (fmFB fmt) * ms.length }))

/-- R252, R268-R270: a vector command whose checks all pass and whose queue has room commits and enters the vector queue with its VOP
code; VFILL and VIOTA read no first operand. -/
def Obligations.VectorCommandsIssue : Prop :=
  ∀ (s : State) (a b : Src) (x z : Word), CmdReady s →
    let put (i : Instr) (op : Nat) (srcs : List Src) (x : Word) : Prop :=
      ∀ fmt, cmdFmt i (mget 0 s.th.vx 1) s = .ok fmt → vopIll s.th op fmt = false →
        let c := s.newCmd (256 + op) x z fmt s.th.vx 0 []
        let c1 := { c with energy := cdiv c.total 16 * (if 0x10 ≤ op ∧ op ≤ 0x15 then 4 else 1), wext := c.vextZ.wext s.th }
        vecChecks c s = .ok () → CmdAdmitted s 1 c1 → exec i s = .next (s.accepted srcs 1 c1)
    (Delivers [a, b] a.r s x → Delivers [a, b] b.r s z →
      put (.vcvt a b) 0x00 [a, b] x ∧ put (.vadd a b) 0x01 [a, b] x ∧ put (.vsub a b) 0x02 [a, b] x ∧ put (.vmul a b) 0x03 [a, b] x ∧
      put (.vdiv a b) 0x04 [a, b] x ∧ put (.vmin a b) 0x05 [a, b] x ∧ put (.vmax a b) 0x06 [a, b] x ∧ put (.vfma a b) 0x07 [a, b] x ∧
      put (.vfms a b) 0x08 [a, b] x ∧ put (.vadds a b) 0x09 [a, b] x ∧ put (.vmuls a b) 0x0A [a, b] x ∧ put (.vfmas a b) 0x0B [a, b] x ∧
      put (.vabs a b) 0x0C [a, b] x ∧ put (.vneg a b) 0x0D [a, b] x ∧ put (.vrelu a b) 0x0E [a, b] x ∧ put (.vclamp a b) 0x0F [a, b] x ∧
      put (.vexp2 a b) 0x10 [a, b] x ∧ put (.vlog2 a b) 0x11 [a, b] x ∧ put (.vrcp a b) 0x12 [a, b] x ∧ put (.vrsq a b) 0x13 [a, b] x ∧
      put (.vsqrt a b) 0x14 [a, b] x ∧ put (.vtanh a b) 0x15 [a, b] x ∧ put (.vcmplt a b) 0x16 [a, b] x ∧ put (.vcmpeq a b) 0x17 [a, b] x ∧
      put (.vsel a b) 0x18 [a, b] x ∧ put (.vrsum a b) 0x19 [a, b] x ∧ put (.vrmax a b) 0x1A [a, b] x ∧ put (.vrmin a b) 0x1B [a, b] x ∧
      put (.vrsumsq a b) 0x1C [a, b] x ∧ put (.vdot a b) 0x1D [a, b] x) ∧
    (b.m ≠ 3 → Delivers [b] b.r s z → put (.vfill b) 0x1E [b] 0 ∧ put (.viota b) 0x1F [b] 0)

/-- R45-R47, R271: a ladle command captures its register set and joins its channel; LWPTR samples the write pointer, which reaches its pair 4 cycles
later, the typical time (R251, log entry 72); LCANCEL ends the active copy of the thread's own crew. -/
def Obligations.LadleInstructions : Prop :=
  ∀ (s : State) (a : Src) (d : Reg) (x : Word), CmdReady s → stPP s.th.st = false → Delivers [a] a.r s x →
    let t := s.cur.1; let k := s.cur.2; let ch := x.toNat % 2
    let c := s.newCopy (captureSet (64 * (x.toNat / 2)) s.th) ((s.tile t).ladle ch).next
    let u : State := (consume [a] s).modTh (fun h => h.commit)
    let joined : State :=
      ((u.modSlot t k (fun h => { h with qx := mset 0 h.qx 2 0 })).modLadle t ch
        (fun L => { L with waiting := L.waiting ++ [{ c with seq := L.next }], next := (L.next + 1) % 2 ^ 16 })).emitOnce (evTK .ladleCopyStart t ch)
    (x.toNat < 4 → c.ill = false → copyChecks c 1 true s = .ok () → ((u.tile t).ladle ch).full = false →
      (c.drain = false → c.gather = false → exec (.lfill a) s = .next joined) ∧
      (c.drain = false → c.gather = true → exec (.lgather a) s = .next joined) ∧
      (c.drain = true → c.gather = false → exec (.ldrain a) s = .next joined)) ∧
    (x.toNat < 2 → LaterReady d s → LaterReady (pairHi d) s →
      let L := (u.tile t).ladle ch
      exec (.lwptr a d) s = .next (u.valueLater t k d.toNat true (BitVec.ofNat 64 (L.bytes.toNat + L.seq % 2 ^ 16 * 2 ^ 32 + b2n L.done * 2 ^ 48 + b2n L.err * 2 ^ 63)) 4)) ∧
    (∀ q : Copy, x.toNat < 2 → ((u.tile t).ladle ch).active = some q → q.crew = (u.slot t k).crewid → q.err = 0 → q.k < q.total →
      exec (.lcancel a) s = .next ((u.modLadle t ch (fun L => { L with active := some { q with err := 5, stopped := 0 } })).emitOnce (evTK .ladleCopyEnd t ch)))

/-- R253, R266, R272, R273, R275, R353-R355: QSYNC waits for the slot's commands on the engines it names and may clear QERR's error bit; QCANCEL ends
queued commands; MQPUT, XCOPY and NPOST take their descriptor; NPOLL samples a queue's counter, which reaches its pair 4 cycles later, the typical
time (R251, log entry 72). -/
def Obligations.QueueControlInstructions : Prop :=
  ∀ (s : State) (a b : Src) (d : Reg) (x y : Word) (bs : List Byte), CmdReady s → stPP s.th.st = false →
    let t := s.cur.1; let k := s.cur.2; let vd := t / 256; let cl := clusterOf t
    let taken (srcs : List Src) (s : State) : State := (consume srcs s).modTh (fun h => h.commit)
    let done (srcs : List Src) (s : State) : State := (taken srcs s).modSlot t k (fun h => { h with qx := mset 0 h.qx 2 0 })
    (Delivers [a] a.r s x →
      (let own (q : List EngCmd) : Prop := ∃ c, c ∈ q ∧ c.slot = k ∧ c.op ≠ opSHARE
       let lad (ch : Nat) : Prop := ∃ c, c ∈ ((s.tile t).ladle ch).active.toList ++ ((s.tile t).ladle ch).waiting ∧ c.slot = k
       let busy : Prop := (x.getLsbD 0 = true ∧ own (s.tile t).mq) ∨ (x.getLsbD 1 = true ∧ own (s.tile t).vq) ∨ (x.getLsbD 2 = true ∧ lad 0) ∨ (x.getLsbD 3 = true ∧ lad 1)
       x.toNat < 32 →
        (busy → exec (.qsync a) s = .next (s.block .fence)) ∧
        (¬busy → exec (.qsync a) s = .next ((if x.getLsbD 4 then (consume [a] s).modSlot t k (fun h => { h with qx := mset 0 h.qx 0 (mget 0 h.qx 0 &&& ~~~8#64) })
          else consume [a] s).modTh (fun h => h.commit)))) ∧
      (x.toNat < 4 → let u := taken [a] s
        let v := if x.getLsbD 0 then u.cancelQueue t k 0 else u
        exec (.qcancel a) s = .next (if x.getLsbD 1 then v.cancelQueue t k 1 else v)) ∧
      (x.toNat < 2048 → LaterReady d s → LaterReady (pairHi d) s →
        let u := taken [a] s
        exec (.npoll a d) s = .next (u.valueLater t k d.toNat true (BitVec.ofNat 64 (if x.getLsbD 10 then u.nqErrors (x.toNat % 1024) else u.nqW (x.toNat % 1024) 3)) 4))) ∧
    (∀ s1 : State, Delivers [a, b] a.r s x → Delivers [a, b] b.r s y →
      (y.toNat < 8 → recordPlace y.toNat x.toNat 64 s = .ok (bs, s1) → (((consume [a, b] s1).die vd).tasks.filter (fun q => q.1 == cl)).length < 64 →
        ∃ r : TaskRec, r.bytes = bs ∧ r.ctx = s.ctxName t k ∧ r.crew = s.th.crewid ∧ r.asid = s.th.asid ∧ r.st = s.th.st ∧ r.rngs = s.th.rngs ∧ r.bad = 0 ∧
          (∀ j, j ∈ r.wait ↔ (j = 2 ∨ j = 3) ∧ r.dla (j - 2) ≠ 0 ∧ r.dla (j - 2) % 8 = 0) ∧
          exec (.mqput a b) s = .next (((((consume [a, b] s1).modTh (fun h => { h.commit with rngs := if r.fld 281 3 = 5 then xorshift h.rngs else h.rngs })).modSlot t k
            (fun h => { h with qx := mset 0 h.qx 2 0 })).modDie vd
            (fun D => { D with tasks := D.tasks ++ [(cl, r)] })).pokeTasks t)) ∧
      (let D := leNat bs
       let c := s1.newCopy (xcopyRegs D) 0
       y.toNat < 8 → recordPlace y.toNat x.toNat 256 s = .ok (bs, s1) → xcopyIll D = false → copyChecks c 5 false s1 = .ok () →
        (((taken [a, b] s1).die (xcopyDie D)).copyq.filter (fun q => q.1 == xcopyChan D)).length < 64 →
        exec (.xcopy a b) s = .next ((((taken [a, b] s1).modSlot (ctxTile c.ctx) k (fun h => { h with qx := mset 0 h.qx 2 0 })).modDie (xcopyDie D) (fun E => { E with copyq := E.copyq ++ [(xcopyChan D, c)] })).emitOnce (copyEvent (xcopyDie D) (xcopyChan D)))) ∧
      (let q := y.toNat % 1024
       let u := done [a, b] s1
       y.toNat < 2 ^ 13 → recordPlace (y.toNat / 1024) x.toNat 64 s = .ok (bs, s1) → (taken [a, b] s1).nqBusy q < 256 → u.nqV q = true → u.nqAsid q = (u.slot t k).asid → wrMalformed (leNat bs) = false →
        wrPidx (leNat bs) < u.nqPeers q → exec (.npost a b) s = .next (u.netPost q bs (s.ctxName t k))))

/-! ### Memory messages (R39, R50, R99, R122, R126, R234) -/

/-- R39, R43, R50, R99, R122: a request that nothing refuses, holds or passes on is performed at its home in one piece and answered: a
read with its bytes, a write with WRACK, a reservation with the word, which is then held for its requester. A host AtomicOp takes the
operands its requester has (log entry 138); bytes a writer had no good copy of leave their cells uncorrectable (log entry 165). -/
def Obligations.RequestsPerformed : Prop :=
  ∀ (s : State) (pa : Nat),
    let m := s.msg; let n := m.len + 1; let vd := m.dst / 256 % 16; let path := if s.fromManager m then 4 else 0
    let local_ : Prop := spaceOf pa = 0 ∨ spaceOf pa = 3 ∨ spaceOf pa = 4
    (local_ → atHome .rd path n (s.byP0 m) false s = .ok pa → bankWait .rd pa n s = .ok () →
      exec .rd s = .next (((if s.badCells pa n = 0 then s else s.recordEcc pa (msgCtx m)).scrub pa n (msgCtx m)).readAnswer (rdBytes s.mem pa n) (s.badCells pa n))) ∧
    (spaceOf pa = 5 → atHome .rd path n (s.byP0 m) false s = .ok pa → exec .rd s = .next (s.readAnswer (leBytes n (s.mmioRead pa n)) 0)) ∧
    (spaceOf pa = 1 → atHome .rd path n (s.byP0 m) false s = .ok pa → exec .rd s = .next (s.ioAsk (eidDie m.dst) .rd (fun tag s => s.ethOut (.cxlRead (eidDie m.dst) tag pa n)))) ∧
    (spaceOf pa = 2 → atHome .rd path n (s.byP0 m) false s = .ok pa → exec .rd s = .next (s.ioAsk (eidDie m.dst) .rd (fun tag s => s.hostOut (.pcieRead (eidDie m.dst) tag pa n)))) ∧
    (local_ → atHome .wr 0 n false true s = .ok pa → bankWait .wr pa n s = .ok () → exec .wr s = .next ((s.perform pa (leBytes n m.aux0.toNat)).answer .wrack id)) ∧
    (spaceOf pa = 2 → atHome .wr 0 n false true s = .ok pa →
      exec .wr s = .next (((s.hostOut (.pcieWrite vd pa (leBytes n m.aux0.toNat))).perform pa (leBytes n m.aux0.toNat)).answer .wrack id)) ∧
    (local_ → atHome .rsv 0 n false true s = .ok pa → bankWait .rsv pa n s = .ok () →
      exec .rsv s = .next ((((if s.eccBad pa n then s.recordEcc pa (msgCtx m) else s).scrub pa n (msgCtx m)).modDie
          (((if s.eccBad pa n then s.recordEcc pa (msgCtx m) else s).scrub pa n (msgCtx m)).watchDie pa) (fun D => { D with resvs := D.resvs ++ [⟨pa, m, []⟩] })).answer .rsvgnt
        (fun r => { r with aux0 := BitVec.ofNat 64 (rdLE s.mem pa n), attr := if s.eccBad pa n then 1 else 0 }))) ∧
    (spaceOf pa = 1 → atHome .rsv 0 n false true s = .ok pa →
      exec .rsv s = .next ((s.modDie (s.watchDie pa) (fun D => { D with resvs := D.resvs ++ [⟨pa, m, []⟩] })).ioAsk (eidDie m.dst) .rsv
        (fun tag s => s.ethOut (.cxlRead (eidDie m.dst) tag pa n)))) ∧
    (∀ p rd op v e, spaceOf pa = 2 → atHome .rsv 0 n false true s = .ok pa → s.pendOf m = some p → p.kind = .atomic rd op v e →
      exec .rsv s = .next ((s.modDie (s.watchDie pa) (fun D => { D with resvs := D.resvs ++ [⟨pa, m, []⟩] })).ioAsk (eidDie m.dst) .rsv
        (fun tag s => s.hostOut (.pcieAtomic (eidDie m.dst) tag pa op v e)))) ∧
    (∀ r, pa = s.canon m.pa → (s.die (s.watchDie pa)).resvs = [r] → r.pa = pa → r.holder.src = m.src → r.holder.slot = m.slot →
      let freed (u : State) : State := u.modDie (s.watchDie pa) (fun D => { D with resvs := dropFirst (fun r => r.pa == pa && r.holder.src == m.src && r.holder.slot == m.slot) D.resvs })
      (m.attr.getLsbD 0 = false → exec .rsvrel s = .next (({ freed s with pool := r.waiters ++ s.pool } : State).atomicDone r.holder)) ∧
      (m.attr.getLsbD 0 = true → exec .rsvrel s = .next
        (({ freed (s.performOut vd pa (leBytes (r.holder.len + 1) m.aux0.toNat)) with pool := r.waiters ++ (s.performOut vd pa (leBytes (r.holder.len + 1) m.aux0.toNat)).pool } : State).atomicDone r.holder))) ∧
    (pa = s.canon m.pa → s.fwdWrite pa = none → s.decodes vd pa = true → s.refuses 1 pa 8 false true = none → s.reserved pa 8 = false → bankWait .cwpost pa 8 s = .ok () → local_ →
      exec .cwpost s = .next (if s.eccBad pa 8 then (s.recordEcc pa (msgCtx m)).answer .wrack id
        else ((s.scrub pa 8 (msgCtx m)).performOut vd pa (leBytes 8 (postValue (rdLE s.mem pa 8) m.aux0.toNat (m.attr.getLsbD 0)))).answer .wrack id)) ∧
    (pa = s.canon m.pa → isMcUnit m.dst = false → s.fwdWrite pa = none → s.settlingPart pa = false → s.decodes vd pa = true →
      let data := damaged s.arg.bytes m.data; let runs := enabledRuns (wrbEnables m) 257 0 data
      (∀ q, q ∈ runs → s.refuses 6 (pa + q.1) q.2.length false true = none ∧ s.reserved (pa + q.1) q.2.length = false ∧
        (spaceOf pa = 3 → pa.testBit 22 = false → (s.tile (eidTile (nfld pa 24 24))).bankHeld 8 (nfld pa 0 22 + q.1) q.2.length = false)) →
      exec .wrb s = .next (((runs.foldl (fun s q => s.performOut vd (pa + q.1) q.2) s).poisonCells pa (m.attr.toNat / 2 ^ 24 % 16)).answer .wrack
        (fun r => if s.arg.bytes ≠ [] ∧ crc32c data ≠ crc32c m.data then { r with attr := 1 } else r)))

/-- R39, R69, R242: a write performed at a home changes the bytes written and no other. R50, R234: the value a word takes: of an atomic
by its operation, of a completion post by the value added and the error bit. -/
def Obligations.PerformedValues : Prop :=
  (∀ (s : State) (pa a : Nat) (bs : List Byte), s.MemOk → rdByte (s.perform pa bs).mem a = if pa ≤ a ∧ a < pa + bs.length then bs.getD (a - pa) 0 else rdByte s.mem a) ∧
  ∀ (old v e : Word) (c add : Nat) (err : Bool),
    atomicOp 0 old v e = BitVec.ofNat 32 (old.toNat + v.toNat) ∧ atomicOp 1 old v e = old &&& v ∧ atomicOp 2 old v e = old ||| v ∧ atomicOp 3 old v e = old ^^^ v ∧
    (atomicOp 4 old v e).toInt = min old.toInt v.toInt ∧ (atomicOp 5 old v e).toInt = max old.toInt v.toInt ∧
    (atomicOp 6 old v e).toNat = min old.toNat v.toNat ∧ (atomicOp 7 old v e).toNat = max old.toNat v.toNat ∧
    atomicOp 11 old v e = v ∧ atomicOp 12 old v e = (if old = e then v else old) ∧
    (c < 2 ^ 64 → postValue c add err % 2 ^ 63 = (c % 2 ^ 63 + add) % 2 ^ 63 ∧ (postValue c add err / 2 ^ 63 = if err ∨ 2 ^ 63 ≤ c then 1 else 0))

/-- R99, R126, R163, R229, R230, R243, R326: an answer fills the register of the access it answers, a pair as a whole, with poison where
its data are uncorrectable, and the access is no longer outstanding; a granted atomic sends back the new value. -/
def Obligations.AnswersFillRegisters : Prop :=
  ∀ (s : State) (tag path pa la rd : Nat),
    let m := s.msg; let t := m.dst % 4096; let k := m.slot; let bad := m.attr.getLsbD 0
    let found (kind : PendKind) : Prop := (s.slot t k).getPend m.tag = some ⟨tag, path, pa, la, kind⟩
    let v := m.aux0.toNat
    (∀ size sx, found (.load rd size sx) → isComputeTile t = true →
      exec .rdata s = .next ((if size = 8 then s.fillPair t k rd (BitVec.ofNat 32 v) (BitVec.ofNat 32 (v / 2 ^ 32)) bad
        else s.fillReg t k rd (if sx then BitVec.ofInt 32 (sgn (8 * size) v) else BitVec.ofNat 32 v) bad).donePend t k tag)) ∧
    (∀ d sg r md, found (.segld d sg r md) → isComputeTile t = true → m.memd = false → exec .rdatab s = .next (s.segArrived t k tag d sg r md pa la (leNat m.data) (m.attr != 0))) ∧
    (∀ n, found (.store n) → isComputeTile t = true → isMcUnit m.dst = false → exec .wrack s = .next (s.donePend t k tag)) ∧
    (∀ op w e, found (.atomic rd op w e) → isComputeTile t = true →
      let old := BitVec.ofNat 32 v
      let write := !bad && (op != 12 || old == e)
      exec .rsvgnt s = .next (((s.send .rsp .rsvrel { msgReply m with tag := 0, pa := pa, memd := spaceOf pa == 0 || spaceOf pa == 4, attr := BitVec.ofNat 32 (b2n write), aux0 := BitVec.ofNat 64 (atomicOp op old w e).toNat }).fillReg t k rd old bad).released t k tag)) ∧
    (∀ add err, found (.post rd add err) → isComputeTile t = true →
      exec .rsvgnt s = .next (((s.send .rsp .rsvrel { msgReply m with tag := 0, pa := pa, memd := spaceOf pa == 0 || spaceOf pa == 4, attr := BitVec.ofNat 32 (b2n (!bad)), aux0 := BitVec.ofNat 64 (postValue v add.toNat err) }).fillReg t k rd (BitVec.ofNat 32 v) bad).released t k tag)) ∧
    (∀ u : State, ((u.slot t k).getPend tag = some ⟨tag, path, pa, la, .released⟩ → eidPkg m.src = u.pkg → isComputeTile (eidTile m.src) = true → eidTile m.src = t → m.slot % 8 = k → m.tag = tag → u.atomicDone m = u.donePend t k tag)) ∧
    (∀ size sx, found (.load rd size sx) → isComputeTile t = true → m.memd = false → m.tag ≠ ctxTag →
      ((m.attr.toNat % 16 = 7 ∨ m.attr.toNat % 16 = 15) → k < 8 → exec .err s = .next (((s.fillLoad t k rd size sx 0 true).lostAt t k pa (m.attr.toNat % 16)).donePend t k tag)) ∧
      (1 ≤ m.attr.toNat % 16 → m.attr.toNat % 16 ≤ 5 → k < 8 → (s.slot t k).isVisitor = false →
        exec .err s = .next (((s.neverFilled t k rd (size == 8)).donePend t k tag).deferFor t k (if spaceOf pa = 3 then 0 else la) (m.attr.toNat % 16) pa)))

/-! ### Events of a slot (R55, R144, R161, R172, R173, R298, R321, R324) -/

/-- R96, R172, R173, R298, R324: a pending cause is taken in the order MCHK, RANGE, lock time-out, TIMER; a cleared block makes its thread
ready, a FENCE that waited commits once its scope holds nothing outstanding (log entry 126), and one inside an instruction lets it go on
before a cause is taken (R104); reading CYCLE or INSTRET latches the high half; writing TIMER drops a pending one; an expiry or a lock time-out leaves its
cause pending. -/
def Obligations.SlotEvents : Prop :=
  ∀ s : State,
    let t := s.arg.t; let k := s.arg.k; let h := s.slot t k
    let here : State := { s with cur := (t, k) }
    (h.isReady = true → h.fenced = false → h.shadow = none → h.isVisitor = false →
      (∀ n, h.pendMchk = some n → exec .pendingCauseTaken s = .next (here.trap tMCHK n 0)) ∧
      (∀ r rest, h.pendMchk = none → h.pendRange = r :: rest →
        exec .pendingCauseTaken s = .next ((here.modTh (fun h => { h with pendRange := rest })).trap tRANGE r.1 (BitVec.ofNat 32 r.2))) ∧
      (∀ m, h.pendMchk = none → h.pendRange = [] → h.pendLock = some m → exec .pendingCauseTaken s = .next ((here.modTh (fun h => { h with pendLock := none })).trap tTIMER 1 m)) ∧
      (h.pendMchk = none → h.pendRange = [] → h.pendLock = none → h.pendTimer = true → stINH h.st = false →
        exec .pendingCauseTaken s = .next ((here.modTh (fun h => { h with pendTimer := false })).trap tTIMER 0 0))) ∧
    (∀ mask scope, h.run = .blocked (.fencing mask scope) → h.frozen = false → h.cbuf = [] →
      (here.fenceWaits mask scope = false →
        exec .blockCleared s = .next ((s.setSlot t k { h.commit with run := .ready, lastIssue := some (s.clock (vdOf t)) }).quantumOut t k)) ∧
      (here.fenceWaits mask scope = true → exec .blockCleared s = .next s)) ∧
    (∀ mask scope, h.run = .blocked (.implicit mask scope) → h.frozen = false → h.cbuf = [] →
      (here.fenceWaits mask scope = false → exec .blockCleared s = .next (s.modSlot t k (fun h => { h with run := .ready, fenced := true }))) ∧
      (here.fenceWaits mask scope = true → exec .blockCleared s = .next s)) ∧
    (∀ b, h.run = .blocked b → (∀ mask scope, b ≠ .fencing mask scope ∧ b ≠ .implicit mask scope) → b ≠ .dividing → b ≠ .answer → b ≠ .leaf → b ≠ .drain → exec .blockCleared s = .next (s.modSlot t k (fun h => { h with run := .ready }))) ∧
    exec .cycleRead s = .next (s.modSlot t k (fun h => { h with cycleh := BitVec.ofNat 32 (s.clock (vdOf t) / 2 ^ 32) })) ∧
    exec .instretRead s = .next (s.modSlot t k (fun h => { h with instreth := BitVec.ofNat 32 (h.instret.toNat / 2 ^ 32) })) ∧
    exec .timerWrite s = .next
      { s.modSlot t k (fun h => { h with timer := BitVec.ofNat 32 s.arg.v, pendTimer := false }) with pool := s.pool.filter (fun e => e != evTK .timerExpire t k) } ∧
    ((s.modSlot t k (fun h => { h with pendTimer := true })).visitorOf (s.ctxName t k) = none → exec .timerExpire s = .next (s.modSlot t k (fun h => { h with pendTimer := true }))) ∧
    (∀ l, (s.tile t).locks.find? (fun l => l.slot == k && decide (l.since + 4096 ≤ s.clock (vdOf t))) = some l →
      exec .lockTimeout s = .next ((s.unlockAll t k).modSlot t k (fun h => { h with pendLock := some l.mask })))

/-- R161, R299, R321: a predicted branch resolves when its register fills: a correct prediction keeps the path, and what waits
in the commit buffer is released from the next cycle on; a wrong one brings back the registers put aside, discards the buffer and goes the
other way. -/
def Obligations.BranchResolution : Prop :=
  ∀ (s : State) (sh : Shadow),
    let t := s.arg.t; let k := s.arg.k; let h := s.slot t k
    let v := mget 0 sh.g sh.reg
    h.shadow = some sh → sh.fe.getLsbD sh.reg = true → sh.poison.getLsbD sh.reg = false → h.mismatch = 0 →
    (condHolds sh.cond v = sh.taken →
      let u := (((({ s with cur := (t, k) } : State).modSlot t k (fun h =>
        { h with shadow := none, st := wsetb h.st 15 false, instret := h.instret + 1, quantum := h.quantum + 1 })).lateRevoke t k).notify t k).quantumOut t k
      exec .branchResolve s = .next (if h.cbuf = [] then u else u.after (vdOf t) 1 (evTK .branchResolve t k))) ∧
    (condHolds sh.cond v ≠ sh.taken →
      let back (h : Slot) : Slot :=
        { h with g := sh.g, fe := sh.fe, prod := sh.prod, poison := sh.poison, st := sh.st, pfx := sh.pfx, rngs := sh.rngs, instret := sh.instret, quantum := sh.quantum, shadow := none, cbuf := [], run := .ready, pc := if sh.taken then sh.pcNot else sh.pcTaken }
      exec .branchResolve s = .next (((((({ s with cur := (t, k) } : State).modSlot t k back).dropDivide t k).lateRevoke t k).modSlot t k
        (fun h => { h with instret := h.instret + 1, quantum := h.quantum + 1, lastIssue := some (max (h.lastIssue.getD 0) (s.clock (vdOf t) - 3)) })).quantumOut t k))

/-- R129, R170, R339, R340, R346, R348: what a management controller writes: a CSR through its own port, a register of the MMIO map by the
register's own access, a Flume route entry, after which every multicast unit looks at its routes again; clearing V clears an error
record; a descriptor arrives whole or in pieces, each kept in its writer's buffer, the one with the last 8 bytes completing it, and a
buffer without a write for 65,536 cycles of the I/O die is freed with a corrected record. -/
def Obligations.RegisterEvents : Prop :=
  ∀ s : State,
    let a := s.arg; let vd := iodVd a.t
    let iod := a.n / 2 ^ 28; let off := a.n % 2 ^ 28; let n := if a.ok then 8 else 4
    let en := (2 ^ (8 * n) - 1) * 2 ^ (8 * (off % 8)); let v := a.v % 2 ^ (8 * n) * 2 ^ (8 * (off % 8))
    let lands : State := s.setReg iod (off / 8 * 8) (regFix (off / 8 * 8) (landBits (s.reg iod (off / 8 * 8)) en v (regRw (off / 8 * 8)) (regW1c (off / 8 * 8))))
    (let c := a.n % 0x1000; let d := a.n / 0x1000; let b := csrBase c; let sh := if csrHigh c = true then 2 ^ 32 else 1
     let on := 0xFFFFFFFF * sh; let rw := csrRw a.t b; let w1 := csrW1c a.t b
     a.k = 0 → 0x300 ≤ b →
      (on &&& (rw ||| w1) ≠ 0 → exec .registerWrite s = .next (s.putDie d b (landBits (s.csrDie d b) on (a.v % 2 ^ 32 * sh) rw w1))) ∧
      (on &&& (rw ||| w1) = 0 → exec .registerWrite s = .next s)) ∧
    (a.k = 1 → a.n < 2 ^ 29 → off % n = 0 → windowOf off = none →
      (off = 0x30 → a.v = 1 → exec .registerWrite s = .next (s.emit ⟨.packageReset, { v := 1 }⟩)) ∧
      ((off < 0x10000 ∧ off / 8 ≠ 6 ∨ 0x14000 ≤ off ∧ off < 0x20000 ∨ 0x26000 ≤ off ∧ off < 0x100000 ∨ 0x122000 ≤ off ∧ off < 0x800000 ∨ 0x1800000 ≤ off) → exec .registerWrite s = .next lands) ∧
      (0x100000 ≤ off → off < 0x122000 → off ≠ 0x121020 → exec .registerWrite s = .next (lands.emit ⟨.admissionChoice, { t := 8 + iod }⟩)) ∧
      (off = 0x121020 → exec .registerWrite s = .next ((lands.emitOnce capacityEvent).emit ⟨.admissionChoice, { t := 8 + iod }⟩)) ∧
      (0x10000 ≤ off → off < 0x14000 → exec .registerWrite s = .next
        (if off / 8 % 4 = 0 ∧ v.testBit 0 = true then s.emit ⟨.errorBankClear, { t := (off - 0x10000) / 0x400, k := off / 32 % 32 }⟩ else s)) ∧
      (0x20000 ≤ off → off < 0x26000 → exec .registerWrite s = .next
        (if isDie ((off - 0x20000) / 0x800) = true then s.csrPut 1 0 0 ((off - 0x20000) / 0x800) (0x300 + off % 0x800 / 8) en v else s)) ∧
      (0x800000 ≤ off → off < 0x1800000 → exec .registerWrite s = .next
        (if off % 4096 = 0 ∧ n = 4 then s.emit ⟨.doorbell, { t := iod, k := (off - 0x800000) / 4096, v := a.v % 2 ^ 32 }⟩ else s))) ∧
    (a.k = 2 → exec .registerWrite s = .next (((s.modDie a.t (fun D => { D with frt := mset 0 D.frt a.n (BitVec.ofNat 64 (a.v % 2 ^ 34)) })).mcLost 8).mcLost 9)) ∧
    (a.k = 3 → exec .registerWrite s = .next ((s.mcLost 8).mcLost 9)) ∧
    (let now := (s.die a.t).cycle; let x := mget BankTick.none (s.die a.t).bankIn a.k
     ((x.cycle ≠ now ∨ x.events = []) → exec .errorBankClear s =
        .next (s.modDie a.t (fun D => { D with banks := mset 0 D.banks a.k 0, bankIn := mset BankTick.none D.bankIn a.k ⟨now, 0, []⟩ }))) ∧
     (x.cycle = now → x.events ≠ [] → (x.base.getLsbD 0 = false ∨ x.base.getLsbD 1 = false) → exec .errorBankClear s =
        .next (s.modDie a.t (fun D => { D with banks := mset 0 D.banks a.k { x with base := 0 }.bank, bankIn := mset BankTick.none D.bankIn a.k { x with base := 0 } })))) ∧
    (∀ base size, windowOf a.k = some (base, size) →
      let mine (b : Staging) : Bool := b.win == base && b.writer == a.v
      let old := (s.die vd).staging.find? mine
      let busy : Prop := old = none ∧ 32 ≤ ((s.die vd).staging.filter (fun b => b.win == base)).length
      let bytes := ((List.range a.bytes.length).zip a.bytes).foldl (fun m p => mset 0 m (a.n + p.1) p.2) ((old.map (·.bytes)).getD [])
      let rest := (s.die vd).staging.filter (fun b => !mine b)
      let due : Ev := ⟨.descriptorBufferTimeout, { t := a.t, k := base, n := a.v }⟩
      let whole : Prop := a.n = 0 ∧ a.bytes.length = size
      let last : Prop := a.n ≤ size - 8 ∧ size ≤ a.n + a.bytes.length
      (whole → exec .descriptorPiece s = .next (s.emit (windowEvent a.t base (BitVec.ofNat 512 (leNat a.bytes))))) ∧
      (¬whole → busy → exec .descriptorPiece s = .next (s.holdDie vd ⟨.descriptorPiece, a⟩)) ∧
      (¬whole → ¬busy → last →
        exec .descriptorPiece s = .next (((s.modDie vd (fun D => { D with staging := rest })).unholdDie vd).emit
          (windowEvent a.t base (BitVec.ofNat 512 (leNat ((List.range size).map (fun i => mget 0 bytes i))))))) ∧
      (¬whole → ¬busy → ¬last →
        exec .descriptorPiece s = .next (((s.modDie vd (fun D => { D with staging := rest ++ [⟨base, a.v, bytes, s.clock vd⟩] })).unTimer due).after vd 65536 due))) ∧
    (let mine (b : Staging) : Bool := b.win == a.k && b.writer == a.n
     ((∃ b, b ∈ (s.die vd).staging ∧ mine b = true) →
      exec .descriptorBufferTimeout s = .next (((s.modDie vd (fun D => { D with staging := D.staging.filter (fun b => !mine b) })).logError vd (if a.k < 0x180000 then 23 else if a.k = 0x270000 then 22 else if 0x300000 ≤ a.k then 21 else 24) false cDOORBELL 0 0).unholdDie vd)) ∧
     ((∀ b, b ∈ (s.die vd).staging → mine b = false) → exec .descriptorBufferTimeout s = .next s))

/-! ### Threads that move (R51-R56) -/

/-- R51-R55: a drained thread leaves as a context packet, its slot reserved, a visitor's slot freed; a context takes a free slot, waits in a queue of
four, or goes back refused (one that comes from another visit whole, with its reason in PARK: log entry 31); at its origin it takes its reserved slot
again; a refused load is tried again later. -/
def Obligations.VisitorEvents : Prop :=
  ∀ s : State,
    let m := s.msg; let o := pkOrigin m.data
    (∀ dst pa la, let t := s.arg.t; let k := s.arg.k; let h := s.slot t k
      h.move = some (dst, pa, la) → (∀ p, p ∈ h.pend → p.path ≠ 0) → h.prod = 0 → h.poisoned = none →
      (h.isVisitor = true → exec .visitorDepart s = .next (((((s.creditInstret h.origin h.instret).setSlot t k {}).dropDivide t k).emit (evT .visitorSlotFree t)).send .req .ctx
        (ctxMsg (s.tileEid t) k dst pa (spaceOf pa == 4) h.asid (h.packet h.origin h.grd none)))) ∧
      (h.isVisitor = false → exec .visitorDepart s = .next ((s.modSlot t k (fun h => { (h.parkAs pVISITOR (s.clock (vdOf t))) with occ := .reserved, move := none })).send .req .ctx
        (ctxMsg (s.tileEid t) k dst pa (spaceOf pa == 4) h.asid (h.packet (s.ctxName t k) ((s.tile t).rng.any (fun e => e.mine k && (e.pending || e.held))) none))))) ∧
    (ctxPkg o = s.pkg → m.dst = ctxEid o → stPARK (pkWord m.data 4) = 0 → exec .ctx s = .next (s.homeAgain (ctxTile o) (ctxSlot o) m)) ∧
    (let t := s.ctxTarget m; let pa := s.canon m.pa
     ¬(ctxPkg o = s.pkg ∧ m.dst = ctxEid o) → isComputeTile t = true → s.decodes (vdOf t) pa = true → s.asidLive (vdOf t) m.asid = true → s.partitionGone t pa = false → s.settlingPart pa = false →
      (∀ k, (s.tile t).visq = [] → (s.tile t).freeSlot = some k → exec .ctx s = .next (s.visit t k m)) ∧
      (((s.tile t).visq ≠ [] ∨ (s.tile t).freeSlot = none) →
        ((s.tile t).visq.length < 4 → exec .ctx s = .next ((s.modTile t (fun T => { T with visq := T.visq ++ [(s.clock (vdOf t), m)] })).after (vdOf t) 16384 ⟨.visitorQueueTimeout, { msg := m, t := t }⟩)) ∧
        (4 ≤ (s.tile t).visq.length → exec .ctx s = .next (s.refuseCtx m 0)))) ∧
    (∀ q rest k, (s.tile s.arg.t).visq = q :: rest → (s.tile s.arg.t).freeSlot = some k →
      exec .visitorSlotFree s = .next ((((s.modTile s.arg.t (fun T => { T with visq := rest })).unTimer ⟨.visitorQueueTimeout, { msg := q.2, t := s.arg.t }⟩).visit s.arg.t k q.2).emitOnce capacityEvent)) ∧
    ((s.tile s.arg.t).visq.any (fun q => q.2 == m) = true →
      exec .visitorQueueTimeout s = .next ((s.modTile s.arg.t (fun T => { T with visq := dropFirst (fun q => q.2 == m) T.visq })).refuseCtx m 1)) ∧
    ((s.slot (m.dst % 4096) m.slot).occ = .reserved → exec .ctxref s = .next (s.refusedAt (m.dst % 4096) m.slot (m.attr.toNat % 4))) ∧
    (let h := s.slot s.arg.t s.arg.k
     (h.occ = .thread → h.run = .parked → stPARK h.st = pVISITOR → exec .visitorRetry s = .next (s.setSlot s.arg.t s.arg.k { h with run := .ready, st := stSetPARK h.st 0 })) ∧
     (h.isVisitor = true → h.run = .ready → 4096 ≤ h.quantum → exec .visitorQuantum s = .next ({ s with cur := (s.arg.t, s.arg.k) } : State).goHome))

/-! ### Messages to a tile (R145, R158-R160, R245, R285, R295, R329) -/

/-- R158, R160, R245, R285, R286, R294, R295: a data word enters its FIFO or the message queue; a queue word wakes slot 7 and readers of
the queue; a refused recast is answered; a wake readies a thread parked PARK, else latches; a tag wake readies its entry. -/
def Obligations.MessageEvents : Prop :=
  ∀ s : State,
    let m := s.msg; let t := m.dst % 4096; let ch := m.attr.toNat % 32; let k := ch / 4
    (isComputeTile t = true → s.fwdSlot t k m.asid = none → s.settling t k = false → s.mailing t k = false →
      ((s.slot t k).asid = m.asid →
        ((s.fifo t ch).length < 4 → (∀ q, q ∈ (s.tile t).msgq → msgKind q.2 = 0 → msgCh q.2 ≠ ch) → exec .msgData s = .next ((s.wordIn m).fifoPush t ch m)) ∧
        (4 ≤ (s.fifo t ch).length → (s.tile t).msgq.length < 32 → exec .msgData s = .next ((s.wordIn m).modTile t (fun T => { T with msgq := T.msgq ++ [(s.clock (vdOf t), m)] })))) ∧
      ((s.tile t).msgq.length < 32 → m.aux0.getLsbD 31 = false →
        exec .msgQueue s = .next ((((s.wordIn m).modTile t (fun T => { T with msgq := T.msgq ++ [(s.clock (vdOf t), m)] })).wakeSlot7 t).wakeRq t [1, 2]))) ∧
    (let k := (s.tile t).rolectl.toNat / 4 % 8
     isComputeTile t = true → s.settling t k = false → s.fwdSlot t k m.asid = none →
      (s.dry t k = false → exec .msgRecast s = .next (s.answer .msgref id)) ∧
      (∀ r, let a := (s.tile t).roletb.toNat % 2 ^ 56 + 32 * r
        s.dry t k = true → m.aux0.toNat % 2 ^ 32 = r → 1 ≤ r → r ≤ 3 → spaceOf a = 0 → s.decodes (vdOf t) a = true → s.eccBad a 24 = false →
        let s := s.readCheck a 24 (s.ctxName t k)
        let w (j : Nat) : Word := BitVec.ofNat 32 (rdLE s.mem (a + 4 * j) 4)
        let newRole (h : Slot) : Slot :=
          { h with chmap := w 1 &&& 0xF, chpeer := (List.range 4).foldl (fun (p : List (Nat × Word)) (j : Nat) => mset 0 p j (w (2 + j) &&& 0x1FFFFFFF)) [], pc := w 0 }
        exec .msgRecast s = .next (((s.modSlot t k (fun h => ((newRole h).setG 1 (BitVec.ofNat 32 r)).wake)).modTile t (fun T => { T with rolectl := wput T.rolectl 0 2 r })).wrackTo m))) ∧
    (∀ p, (s.slot t m.slot).getPend m.tag = some p → exec .msgref s = .next (s.sendDone t m.slot m.tag p.kind)) ∧
    (let h := s.slot t m.slot
     isComputeTile t = true → m.slot < 7 → s.fwdSlot t m.slot m.asid = none → s.settling t m.slot = false → h.occ = .thread → wakeAllowed m h.asid = true →
      (h.run = .parked → stPARK h.st = pPARK → exec .wakeSlotMsg s = .next (s.setSlot t m.slot h.wake)) ∧
      (h.run = .ready → exec .wakeSlotMsg s = .next (s.modSlot t m.slot (fun h => { h with wl := true })))) ∧
    (let tag := m.aux0.toNat % 2 ^ 16
     isComputeTile t = true →
      (∀ e, (s.tile t).rq.find? (fun e => e.tag == tag) = some e → e.sleep = true →
        exec .wakeTagMsg s = .next ((s.setTile t { s.tile t with rq := updWhere (fun e => e.tag == tag) (fun e => { e with sleep := false, order := (s.tile t).rqOrder }) (s.tile t).rq, rqOrder := (s.tile t).rqOrder + 1 }).wakeRq t [0, 2])) ∧
      ((s.tile t).rq.find? (fun e => e.tag == tag) = none → (s.tile t).latch.contains tag = false → (s.tile t).latch.length < 8 →
        exec .wakeTagMsg s = .next (s.setTile t { s.tile t with latch := (s.tile t).latch ++ [tag] }))) ∧
    (let h := s.slot t m.slot
     isComputeTile t = true → m.slot < 8 → h.occ = .thread → h.crewid = BitVec.ofNat 32 m.aux1.toNat → (∀ c, s.crewAt (vdOf t) (BitVec.ofNat 32 m.aux1.toNat).toNat = some c → c.state ≠ 1) → s.settling t m.slot = false → parkedFault h = true → m.aux0.getLsbD 17 = false →
      exec .wakeFaultMsg s = .next ((s.resumeSteps t m.slot (fun _ => true) false).modSlot t m.slot (fun h => h.wake))) ∧
    (let d := s.arg.desc.toNat; let c := d % 2 ^ 27
     d / 2 ^ 27 % 2 ^ 5 = 0 → d / 2 ^ 33 % 2 ^ 31 = 0 → d / 2 ^ 96 % 2 ^ 32 = 0 →
      exec .wakeDescriptor s = .next (s.post .wakeFaultMsg { Msg.zero with src := s.eid (8 + s.arg.t) 2, dst := c / 2 ^ 15 * 4096 + c / 8 % 4096, slot := c % 8, attr := 1, aux0 := BitVec.ofNat 64 (d / 2 ^ 32 % 2 * 2 ^ 17), aux1 := BitVec.ofNat 64 (d / 2 ^ 64 % 2 ^ 32) }))

/-! ### Walks, invalidations, sweeps and fault records (R25, R29, R30, R306, R328, R343, R344) -/

/-- R25, R26, R29, R30, R306, R328, R343, R344: a walk loads a TLB, parks its thread with a record, or asks the home of a leaf that lies
elsewhere to set its bits; a descriptor joins its queue; a die drops what a descriptor covers and answers once nothing it must wait for is
in flight; the last answer ends the descriptor; a record enters the ring, and is sent again until it has; a sweep joins its engine, writes
what it has read of a page to the page's place, and sets the page's bit. -/
def Obligations.WalkAndInvalidationEvents : Prop :=
  ∀ s : State,
    let a := s.arg; let m := s.msg
    (let h := s.slot a.t a.k
     (∀ pa e u, s.translate a.t h.asid a.v a.n = (.ok pa e, u) → exec .pageWalk s = .next u) ∧
     (∀ c l e r u, s.translate a.t h.asid a.v a.n = (.fault c l e r, u) → (u.slot a.t a.k).run = .ready →
       exec .pageWalk s = .next ((u.setSlot a.t a.k ((u.slot a.t a.k).parkAs r (u.clock (vdOf a.t)))).sendFrec a.t a.k a.v h.asid l c 0 a.n e)) ∧
     (∀ u x, s.translate a.t h.asid a.v a.n = (.askWait x, u) → exec .pageWalk s = .next (u.askNode a.t a.k h.asid a.v x 8)) ∧
     (∀ u e l x, s.translate a.t h.asid a.v a.n = (.orWait e l x, u) → exec .pageWalk s = .next (u.sendOr a.t a.k h.asid a.v a.n e l x)) ∧
     (∀ u, s.translate a.t h.asid a.v a.n = (.walkWait, u) → (u.slot a.t a.k).run = .ready →
       exec .pageWalk s = .next (u.setSlot a.t a.k ((u.slot a.t a.k).parkAs pWALKWAIT (u.clock (vdOf a.t)))))) ∧
    (∀ i, i = .invRange ∨ i = .invAsid ∨ i = .invAll →
      (m = Msg.zero → cwUsable s (iodVd a.t) (invCw a.desc.toNat) = true → (s.die (iodVd a.t)).invs ≠ [] →
        exec i s = .next (s.modDie (iodVd a.t) (fun D => { D with invs := D.invs ++ [⟨a.desc.toNat % 4, a.desc, 0, none⟩] }))) ∧
      (m ≠ Msg.zero → a.ok = true →
        let vd := eidDie m.dst; let d := descOf m
        let w := if vd < 4 then (s.checkRegions vd).dropTlb vd d else (s.dropUnitWalks vd).rewalkCovered vd d
        let u := w.modDie vd (fun D => { D with drains := D.drains ++ [⟨m, s.flying vd⟩] })
        (w.die vd).drains = [] →
        ((∃ x, x ∈ s.flying vd ∧ u.stillFlying x = true) → exec i s = .next (u.after vd 16 ⟨invInstr d, { msg := m, ok := false }⟩)) ∧
        ((∀ x, x ∈ s.flying vd → u.stillFlying x = false) → exec i s = .next ((u.modDie vd (fun D => { D with drains := [] })).send .rsp .invdone (msgReply m))))) ∧
    (∀ v rest, let vd := eidDie m.dst
      (s.die vd).invs = v :: rest →
      let left (n : Nat) : State := s.modDie vd (fun D => { D with invs := { v with left := n } :: rest })
      (1 < v.left → exec .invdone s = .next (left (v.left - 1))) ∧
      (v.left ≤ 1 → v.desc.getLsbD 2 = true → exec .invdone s = .next ((left 0).emit (evT .invWake vd))) ∧
      (v.left ≤ 1 → v.desc.getLsbD 2 = false → exec .invdone s = .next ((left 0).invFinish vd))) ∧
    ((s.wakeWalks.die a.t).invs = [] → exec .invWake s = .next s.wakeWalks) ∧
    (∀ v rest, (s.wakeWalks.die a.t).invs = v :: rest → v.left = 0 → exec .invWake s = .next (s.wakeWalks.invFinish a.t)) ∧
    (let vd := eidDie m.dst; let io := iodOf vd
     let base := s.reg io 0x180000; let size := 2 ^ (base / 2 ^ 56 % 32)
     let tail := s.reg io 0x180008 % 2 ^ 32; let head := s.reg io 0x180010 % 2 ^ 32
     let pa := base % 2 ^ 56 / (32 * size) * (32 * size) + 32 * (tail % size)
     let seq := (s.die vd).fqSeq + 1
     ((s.reg io 0x180018).testBit 0 = true → (tail + 2 ^ 32 - head) % 2 ^ 32 < size → spaceOf pa = 0 → s.decodes vd pa = true →
       exec .frec s = .next ((((((s.performOut vd pa (leBytes 32 (leNat (m.data.take 32) % 2 ^ 192 + seq % 2 ^ 64 * 2 ^ 192))).setReg io 0x180008 ((tail + 1) % 2 ^ 32)).modDie vd
         (fun D => { D with fqSeq := seq })).modTile (eidTile m.src) (fun T => { T with frecs := dropFirst (fun x => x == m) T.frecs })).msix vd 1))) ∧
     ((s.reg io 0x180018).testBit 0 = false → exec .frec s = .next ((s.setReg io 0x180018 (s.reg io 0x180018 ||| 2)).answer .err (fun r => { r with tag := 65533 })))) ∧
    (m ∈ (s.tile a.t).frecs → exec .frecResend s = .next ((s.send .bulk .frec m).after (vdOf a.t) 65536 ⟨.frecResend, { msg := m, t := a.t }⟩)) ∧
    (let vd := iodVd a.t; let d := a.desc.toNat; let n := a.n + 8 * a.k
     a.ok = true → ((s.die vd).sweeps.any (fun w => w.eng == n)) = false → swMalformed s vd d = false →
      exec .checkpointSweep s = .next ((s.modDie vd (fun D => { D with sweeps := D.sweeps ++ [{ eng := n, desc := a.desc }] })).sweepStep vd n)) ∧
    (∀ w bs st, let vd := iodVd a.t; let d := w.desc.toNat; let u := sweepUnit vd a.n w
      a.ok = false → a.k ≠ 0 → (s.die vd).sweeps.find? (fun w => w.eng == a.n) = some w →
      (w.stage = 2 → s.unitBad u = none → w.moved < 2 ^ (w.pages.headD (0, 0, 12)).2.2 → s.unitGot u (w.src + w.moved) = some (bs, st) → st = 0 →
        let n := min (256 - (w.src + w.moved) % 256) (256 - (swDst d + w.placed + w.moved) % 256)
        exec .checkpointSweep s = .next ((s.sweepOn vd a.n w (fun w => { w with moved := w.moved + n })).unitPut u (swDst d + w.placed + w.moved) 0 (bs.take n))) ∧
      (w.stage = 4 → s.unitBusy u = false → s.unitGot u (s.canon (swBmap d + w.i / 8)) = some (bs, st) → st = 0 →
        let old := leNat (bs.take 1); let j := w.i % 8
        exec .checkpointSweep s = .next (((s.sweepOn vd a.n w (fun x => { x with i := x.i + 1, stage := 0, pages := [], placed := w.placed + 2 ^ (w.pages.headD (0, 0, 12)).2.2 })).unitPut u
          (s.canon (swBmap d + w.i / 8)) 0 (leBytes 1 (old - (old / 2 ^ j % 2) * 2 ^ j + 2 ^ j))).sweepWake)))

/-! ### Copies and engine commands that run (R46-R49, R254, R263, R266, R267, R276-R278, R345, R362) -/

/-- R46-R49, R272: a channel starts its oldest copy; it moves part of a 256-byte segment at a time (how much is a free value), and a package
copy engine its 64 KiB step, an error leaving what moved before it; a failed tag is tried once more; a copy that ends posts its word and
frees the channel. A copy that starts frees a waiting place (R45). -/
def Obligations.CopyEvents : Prop :=
  ∀ s : State,
    let t := s.arg.t; let ch := s.arg.k; let L := (s.tile t).ladle ch
    (∀ c rest, L.active = none → L.waiting = c :: rest →
      exec .ladleCopyStart s = .next (((s.modLadle t ch (fun L => { L with active := some c, waiting := rest, bytes := BitVec.ofNat 32 c.bytes, seq := c.seq, done := false, err := false, retried := false })).emit
        (evTK .ladleSegmentCheck t ch)).engFreed t)) ∧
    (∀ c : Copy, L.active = some c → c.stopped = 0 → c.err = 0 → c.again = [] →
      ((s.die (vdOf t)).stopped = false → (s.slot t c.slot).frozen = false → c.k < c.total →
        let n := 1 + s.freshWord.1.toNat % min (256 - c.k % 256) (c.total - c.k)
        let run := copyMove (c.who t ch) (n + 1) c (if c.drain then [] else s.arg.bytes) c.k n s.freshWord.2
        let k1 := c.k + run.moved
        let c1 : Copy := { run.c with k := k1, bytes := max c.bytes (k1 / 256 * 256), got := if run.moved = 0 then run.c.got else none }
        let u := run.s.modLadle t ch (fun M => { M with active := some c1, bytes := BitVec.ofNat 32 c1.bytes, retried := L.retried && k1 / 256 == c.k / 256 })
        (run.stop = none → exec .ladleSegmentCheck s = .next (u.emitOnce (if c1.total ≤ k1 then evTK .ladleCopyEnd t ch else evTK .ladleSegmentCheck t ch))) ∧
        (∀ e, run.stop = some (.err e) → e ≠ eTAG → exec .ladleSegmentCheck s = .next ((u.modLadle t ch (fun L => { L with active := some { c1 with err := e } })).emitOnce (evTK .ladleCopyEnd t ch))) ∧
        (run.stop = some (.err eTAG) → L.retried = true →
          exec .ladleSegmentCheck s = .next ((u.modLadle t ch (fun L => { L with active := some { c1 with err := eTAG } })).emitOnce (evTK .ladleCopyEnd t ch))) ∧
        (run.stop = some (.err eTAG) → L.retried = false →
          exec .ladleSegmentCheck s = .next ((run.s.modLadle t ch (fun L => { L with active := some { c1 with k := k1 / 256 * 256, got := none }, retried := true })).emitOnce
            (evTK .ladleSegmentCheck t ch)))) ∧
      (∀ u, c.ending s.arg.ok = 0 → c.total ≤ c.k → s.remoteBusy t c.slot 1 ch = false →
        engPost (c.who t ch) c.cwen (opPlace false (c.seg (c.ctl 16 3)) ((c.reg 3 % 2 ^ 32 : Nat) : Int)) (c.reg 4) false s = .ok u →
        exec .ladleCopyEnd s = .next (((u.modLadle t ch (fun L => { L with active := none, done := true, err := false, bytes := BitVec.ofNat 32 c.total })).emit (evTK .ladleCopyStart t ch)).cmdGone t c.slot))) ∧
    (∀ c : Copy, let v := s.arg.v; let n := min (65536 - c.k % 65536) (c.total - c.k)
      s.arg.k = 5 → (s.die t).copyHead v = some c → s.unitBad (c.unit t v) = none → (s.die t).stopped = false → (∀ o, s.copyOwner c = some o → (s.slot o.1 o.2).frozen = false) → c.stopped = 0 → c.err = 0 → c.k < c.total →
      let run := copyMove (c.xwho t v) (n + 1) c [] c.k n s
      run.stop = none →
      exec .engineStep s = .next (((if run.moved = 0 then run.s else run.s.unitClear (c.unit t v)).setCopy t v { run.c with k := c.k + run.moved }).emitOnce (copyEvent t v)))

/-- R163, R254, R263, R266, R267, R276-R278, R345, R362: the head command of an engine takes a step; a checksum mismatch is replayed once; an ended
command posts and leaves its queue; a value an engine unit has on its way fills its register or pair (R163; log entry 72); a tile task is dispatched
to the first idle tile with a free bank; the power budget grants the oldest request; clocks follow power and heat, and a die at 115 °C stops. -/
def Obligations.EngineEvents : Prop :=
  ∀ s : State,
    let t := s.arg.t; let e := s.arg.k
    (∀ (c : EngCmd) rest, (s.tile t).engq e = c :: rest → e < 2 → c.stopped = 0 → c.op ≠ opSHARE → c.err = 0 →
      ((s.die (vdOf t)).stopped = false → (s.slot t c.slot).frozen = false → c.step < c.steps e → c.cancelled = false → s.gangReady t c = true → c.ask = false →
        (∀ c1 u y, s.arg.ok = true → (if e = 0 then matrixStep c t (s.unask t e c) else vectorStep c t (s.unask t e c)) = .ok (c1, u, y) →
          let c2 : EngCmd := { c1 with step := c.step + 1, replayed := false, ask := false, done := decide (c.steps e ≤ c.step + 1) }
          exec .engineStep s = .next (((u.tally t c y).modCmd t e 0 (fun _ => c2)).emitOnce (evTK (if c2.steps e ≤ c2.step then .engineCommandEnd else .engineStep) t e))) ∧
        (s.arg.ok = false → c.checked = true → c.replayed = false →
          exec .engineStep s = .next ((((s.unask t e c).logError (vdOf t) (4 + quadrant t) false cCHECKSUM 0 c.ctx).modCmd t e 0 (fun c => { c with replayed := true })).emit (evTK .engineStep t e)))) ∧
      (∀ u, c.steps e ≤ c.step → (c.who t e).busy s = false → endPosts c t e s = .ok (0, u) →
        let v := u.dropCmd t e 0 c; let q := (v.tile t).engq e
        exec .engineCommandEnd s = .next (if ((List.range q.length).zip q).any (fun p => p.2.over e p.1) then v.emitOnce (evTK .engineCommandEnd t e) else v))) ∧
    (∀ rd tag path pa la pair (v : DWord), let k := s.arg.n
      e = 8 → (s.slot t k).getPend s.arg.v = some ⟨tag, path, pa, la, .value rd pair v⟩ → (s.slot t k).prod.getLsbD rd = true →
        let u := s.modSlot t k (fun h => h.delPend s.arg.v)
        exec .engineStep s = .next (if pair then u.fillPair t k rd (BitVec.ofNat 32 v.toNat) (BitVec.ofNat 32 (v.toNat / 2 ^ 32)) false
          else u.fillReg t k rd (BitVec.ofNat 32 v.toNat) false)) ∧
    (let u := s.taskWatches t e
     ∀ cl r tl bank, (u.die t).stopped = false → (u.die t).tasks.find? (fun q => q.1 == e && q.2.wait.isEmpty) = some (cl, r) → r.bad = 0 → r.malformed = false → u.taskTile t e = some (tl, bank) →
      let v := u.modDie t (fun D => { D with tasks := D.tasks.filter (fun q => !(q.1 == e && q.2.id == r.id)) })
      exec .taskRecordStart s = .next (((((mzeroStep (2 ^ bank) tl v).modTile tl (fun T => { T with mq := T.mq ++ [r.cmd bank (v.needsLeave tl)] })).kick tl 0).engFreed (ctxTile r.ctx)).pokeTasks tl)) ∧
    (let D := s.die t
     ∀ u k n rest, D.powerq = (u, k, n) :: rest → (D.pleave.toNat + n ≤ D.pcap.toNat ∧ D.pwr.toNat < 1000 * D.plimit.toNat ∨ D.pleave = 0) →
      let v := (s.setDie t { D with powerq := rest, pleave := D.pleave + BitVec.ofNat 32 n, grants := D.grants + 1 }).leaveTo u k n
      exec .powerGrant s = .next (if rest = [] then v else v.emitOnce (evT .powerGrant t))) ∧
    (let v := s.modDie t (fun D => { D with pwr := BitVec.ofNat 32 s.arg.v })
     t < 4 → (v.die t).powerq = [] → 2000 ≤ dieMhz (v.die t) →
      exec .vfClockChange s = .next (v.setMhz t (if (v.die t).pwr.toNat < 1000 * (v.die t).plimit.toNat then max 2000 (min s.arg.n (v.die t).vfmax.toNat) else 2000))) ∧
    (let v := s.modDie t (fun D => { D with temp := BitVec.ofNat 32 s.arg.v })
     t < 4 →
      (s.arg.v < 800 → 2000 ≤ dieMhz (v.die t) → exec .thermalThrottle s = .next v) ∧
      (s.arg.v < 800 → dieMhz (v.die t) < 2000 → exec .thermalThrottle s = .next (v.setMhz t 2000)) ∧
      (840 < s.arg.v → s.arg.v < 920 → exec .thermalThrottle s = .next (v.setMhz t (if 1300 ≤ dieMhz (v.die t) then dieMhz (v.die t) - 100 else 1200))) ∧
      (920 ≤ s.arg.v →
        exec .thermalThrottle s = .next ((((v.setMhz t (if 1300 ≤ dieMhz (v.die t) then dieMhz (v.die t) - 100 else 1200))).modDie t (fun D => { D with stopped := true })).endAllLaunches)))

/-! ### Launches and crews (R291, R302-R317, R330-R337) -/

/-- R291, R303-R311, R317, R333: a doorbell moves the tail; a fetched record is checked, and enters the unit or ends; READY launches are admitted by
level; answers of the dies, which name the launch in AUX0[63:32] (log entry 78), run, retry, retire or end a launch; a cancel answers by the launch's
state. -/
def Obligations.LaunchEvents : Prop :=
  ∀ s : State,
    let a := s.arg; let m := s.msg; let vd := eidDie m.dst
    (let v := iodVd a.t; let n := (a.v + 65536 - s.qHead v a.k) % 65536
     a.v < 65536 → s.qV v a.k = true →
      (s.qLen v a.k < n → exec .doorbell s = .next (s.logError v 23 false cDOORBELL 0 0)) ∧
      (n ≤ s.qLen v a.k → a.v ≠ s.qTail v a.k → exec .doorbell s = .next ((s.qset v a.k 2 16 16 a.v).emitOnce (evTK .launchFetch v a.k)))) ∧
    (let v := a.t; let q := a.k; let head := s.qHead v q
     let pa := s.qRing v q + 128 * (head % s.qLen v q)
     let ev := evTK .launchFetch v q; let unit := luUnit v 0 ev
     let next (s : State) : State :=
       let u := (s.unitClear unit).qset v q 2 0 16 ((head + 1) % 65536)
       if (head + 1) % 65536 = s.qTail v q then u else u.emitOnce ev
     m = Msg.zero → a.n ≠ 1 → head ≠ s.qTail v q → spaceOf pa < 3 → s.decodes v pa = true →
      (∀ w, s.unitBytes unit pa 128 = (none, w) → exec .launchFetch s = .next w) ∧
      (∀ w bs, s.unitBytes unit pa 128 = (some (.ok bs), w) → exec .launchFetch s = .next (((next w).enterLaunch v q bs none).checkGo v (s.lu v).nextId))) ∧
    (m ≠ Msg.zero → exec .launchFetch s = .next ((s.enterLaunch vd (m.aux1.toNat % 4096) m.data (some m)).checkGo vd (s.lu vd).nextId)) ∧
    (let v := a.t; let ev : Ev := ⟨.launchFetch, { t := v, n := 1, v := a.v }⟩
     m = Msg.zero → a.n = 1 → ∀ l, s.launch? v a.v = some l → l.state = .check →
      (∀ u, s.checkLaunch v l ev = .again u → exec .launchFetch s = .next u) ∧
      (∀ st u, s.checkLaunch v l ev = .bad st u → exec .launchFetch s = .next ((u.endLaunch v l st).unitClear (luUnit v 0 ev))) ∧
      (∀ x u, s.checkLaunch v l ev = .good x u →
        let ds := [0, 1].filter (fun d => x.dla d != 0)
        let y : Launch := { x with state := if ds = [] then .ready else .depWait, deps := ds }
        exec .launchFetch s = .next (((((u.modLaunch v x.id (fun _ => y)).spawnAnswer y 0).depWatches v y ds).pokeAdmission v).unitClear (luUnit v 0 ev)))) ∧
    (let u := (((s.startAges a.t).spawnQuota a.t).startAges a.t).emptyRings a.t; let ev := evT .admissionChoice a.t
     let chose (v : State) : State := v.modLu a.t (fun L => { L with chosenAt := some (s.clock a.t) })
     a.n = 0 →
      ((s.lu a.t).chosenAt ≠ some (s.clock a.t) →
        (∀ v, u.admitLevel a.t 0 = some v → exec .admissionChoice s = .next (chose v)) ∧
        (∀ v, u.admitLevel a.t 0 = none → u.admitLevel a.t 1 = some v → exec .admissionChoice s = .next (chose v)) ∧
        ((∀ n, n < 4 → u.admitLevel a.t n = none) → exec .admissionChoice s = .next u)) ∧
      ((s.lu a.t).chosenAt = some (s.clock a.t) →
        (s.timed ev = true → exec .admissionChoice s = .next s) ∧ (s.timed ev = false → exec .admissionChoice s = .next (s.after a.t 1 ev)))) ∧
    (a.n = 1 → exec .admissionChoice s = .next s.pokeCapacity) ∧ (a.n = 2 → exec .admissionChoice s = .next (s.retryAdmitted a.t)) ∧
    (∀ l, s.launch? a.t a.k = some l →
      (l.state = .admitted → s.ep a.t l = 0 → exec .launchHold s = .next (s.modLaunch a.t l.id (fun l => { l with hold := true }))) ∧
      (l.state = .admitted → s.ep a.t l ≠ 0 → exec .launchHold s = .next (s.after a.t (s.die a.t).agep.toNat (evTK .launchHold a.t l.id))) ∧
      (a.n = 0 → l.holds = true → exec .launchRetranslate s = .next (s.rewalk a.t l l.unresolved)) ∧
      (∀ d, a.n = d + 1 → l.state = .depWait → d ∈ l.deps → 2 + d ∉ l.unresolved → exec .launchRetranslate s = .next (s.depWatches a.t l [d]))) ∧
    (let d := eidDie m.dst; let v := eidDie m.src
     let say (s : State) (i : Instr) (x : Nat) : State := s.answer i (fun r => { r with aux0 := BitVec.ofNat 64 (x + m.aux0.toNat % 2 ^ 32 * 2 ^ 32) })
     ∀ l, s.launch? v m.aux0.toNat = some l → l.mapla = 0 →
      (∀ sps, s.spots l.need d l.w l.h l.rect = some sps →
        exec .launch s = .next (say (((List.range sps.length).zip sps).foldl (fun (s : State) p => s.placeCrew v l m.aux1.toNat p.1 p.2) s) .ldoneAccept 0)) ∧
      (s.spots l.need d l.w l.h l.rect = none → exec .launch s = .next (say s .ldoneRefuse 1))) ∧
    (isComputeTile (eidTile m.dst) = false → ∀ l, s.launch? vd (m.aux0.toNat / 2 ^ 32 % 2 ^ 32) = some l →
      exec .ldoneAccept s = .next (((s.modLaunch vd l.id (fun l => { l with state := .running, hold := false })).cancelAnswers vd l 1).unheld vd l) ∧
      (l.cancelTo = [] → exec .ldoneRefuse s = .next ((s.modLaunch vd l.id (fun l => { l with state := .admitted })).trySend vd { l with state := .admitted }))) ∧
    (∀ l, s.launch? vd (m.aux0.toNat / 2 ^ 32 % 2 ^ 32) = some l →
      let err := l.err || m.aux0.getLsbD 2; let u := s.setLive vd l.asid (s.live vd l.asid - 1)
      (1 < l.left → exec .ldoneRetire s = .next (((u.modLaunch vd l.id (fun l => { l with left := l.left - 1, err := err })).pokeCapacity).pokeAdmission vd)) ∧
      (l.left ≤ 1 → exec .ldoneRetire s = .next (((u.modLaunch vd l.id (fun l => { l with left := 0, err := err })).endLaunch vd { l with state := .running } (if err then 7 else 0)).pokeCapacity))) ∧
    exec .ldoneSwap s = .next s.pokeCapacity ∧
    (let v := iodVd a.t; let d := a.desc.toNat; let pa := d / 2 ^ 64 % 2 ^ 56
     let u := if (s.lu v).chosenAt = some (s.clock v) then s else s.admitOnce v
     (u.launch? v (d % 2 ^ 32) = none → exec .launchCancel s = .next (u.agentResult v pa 2)) ∧
     (∀ l, u.launch? v (d % 2 ^ 32) = some l →
      ((l.state = .running ∨ l.state = .ended) → exec .launchCancel s = .next (u.agentResult v pa 1)) ∧
      (l.state = .sent → exec .launchCancel s = .next (u.modLaunch v l.id (fun l => { l with cancelTo := l.cancelTo ++ [pa] }))) ∧
      ((l.state = .check ∨ l.state = .depWait ∨ l.state = .ready ∨ l.state = .admitted) → exec .launchCancel s = .next ((u.agentResult v pa 0).cancelLaunch v l)))) ∧
    (∀ im, s.images.find? (fun im => im.savea == leNat m.data) = some im → (s.lu vd).readmit.any (fun c => c.id == im.crew.id) = false →
      exec .engcmdReadmit s = .next (((s.modLu vd (fun L => { L with readmit := L.readmit ++ [im.crew] })).pokeAdmission vd).answer .engdone id))

/-- R316, R330-R337: a crew whose threads have ended and whose work is done posts, leaves its tile and reports; a crew that has waited SWAPT cycles
for a fault is brought to rest and saved; a forwarding entry is retargeted (the layout of the update is log entry 160), which is answered once the
writes it sent on are performed, and expires; a crew is placed again; a migration descriptor is answered or starts. -/
def Obligations.CrewEvents : Prop :=
  ∀ s : State,
    let a := s.arg; let m := s.msg; let t := a.t
    (∀ c : Crew, s.crewAt (t / 256) a.k = some c → c.tile = t → c.state = 0 →
      (s.crewLive t c.slots = false →
        let v := s.modCrew c.vd c.id.toNat (fun c => { c with state := 2 })
        let u := c.slots.foldl (fun (s : State) k => s.cancelWatches t k) ((v.crewEntries c).foldl (fun (s : State) e => s.giveBack c e) v)
        (u.crewEntries c = [] → u.postReady c = true → (∀ k, k ∈ c.slots → ∀ p, p ∈ (u.slot t k).pend → awaited p = false) → u.crewWorks c = false → (u.tile t).div = none →
          let w := u.takeWords t c.slots
          exec .crewRetire s = .next ((((w.1.foldl (fun (s : State) x => s.wrackTo x.2) w.2).crewPost c c.err).vacate c).reportCrew c .ldoneRetire (2 + 4 * (if c.err then 1 else 0)))) ∧
        (u.crewWorks c = true → u.timed (evTK .crewRetire t c.id.toNat) = false → exec .crewRetire s = .next (u.after c.vd 16 (evTK .crewRetire t c.id.toNat)))) ∧
      (let hs := c.slots.map (s.slot t); let ev := evTK .crewSwap t c.id.toNat; let swapt := (s.die (t / 256)).swapt.toNat
       (∀ h, h ∈ hs → h.live = true → h.run = .parked) → (∃ h, h ∈ hs ∧ parkedFault h = true ∧ h.parkedAt + swapt < s.clock (vdOf t)) → s.inGang c = false → (s.tile t).fwdRoom = true → c.mig = none → s.timers = [] →
        exec .crewSwap s = .next ((s.modCrew c.vd c.id.toNat (fun c => { c with state := 1, woken := 0, kwake := 0, saved := false })).after c.vd 1 ev))) ∧
    (∀ (c x : Crew) u, s.crewAt (t / 256) a.k = some c → c.tile = t → c.state = 1 → s.quiesce c = (true, u) → u.crewAt c.vd c.id.toNat = some x → u.saving x = false →
      (x.saved = true → exec .crewSwap s = .next (u.leaveCrew x)) ∧
      (x.saved = false → u.crewLive t c.slots = true → u.partHeld t x.spbase x.spsize = false → (u.tile t).tagsUsed + (0x23100 + x.ossize + x.spsize + 255) / 256 < 65532 →
        let v := u.saveCrew x; let ev := evTK .crewSwap t c.id.toNat
        exec .crewSwap s = .next (if v.timers.any (fun p => p.2.2 == ev && decide (p.2.1 ≤ v.clock c.vd + 16)) then v else v.after c.vd 16 ev))) ∧
    exec .forwardExpire s = .next (s.modTile t (fun T => { T with fwd := T.fwd.filter (fun f => !(f.toTile && f.crew.toNat == a.v && decide (f.at_ + 2 ^ 24 ≤ s.clock (vdOf t)))) })) ∧
    (let u := m.dst % 4096; let d := leNat m.data; let id_ := d % 2 ^ 32
     let up (f : FwdEntry) : FwdEntry :=
       { f with toTile := true, target := d / 2 ^ 32 % 2 ^ 24, newSlots := (bitsOf 7 f.slots).zip (bitsOf 7 (d / 2 ^ 56 % 2 ^ 7)), newSp := d / 2 ^ 64 % 2 ^ 32, newOs := d / 2 ^ 96 % 2 ^ 32, at_ := s.clock (vdOf u) }
     let w := (s.modTile u (fun T => { T with fwd := updWhere (fun f => f.crew.toNat == id_ && !f.toTile) up T.fwd })).after (vdOf u) (2 ^ 24) ⟨.forwardExpire, { t := u, v := id_ }⟩
     (a.ok = true →
       (((s.tile u).fwd.find? (fun f => f.crew.toNat == id_ && !f.toTile) = none) → exec .engcmdFwdupd s = .next (w.answer .engdone id)) ∧
       (∀ f, (s.tile u).fwd.find? (fun f => f.crew.toNat == id_ && !f.toTile) = some f →
         let x := s.canon f.target + 0x23100; let n := f.ossize + f.spsize
         (w.writeUnderWay x n = false → exec .engcmdFwdupd s = .next (w.answer .engdone id)) ∧
         (w.writeUnderWay x n = true → exec .engcmdFwdupd s = .next (w.after (vdOf u) 16 ⟨.engcmdFwdupd, { msg := m, ok := false, v := x, n := n }⟩)))) ∧
     (a.ok = false →
       (s.writeUnderWay a.v a.n = false → exec .engcmdFwdupd s = .next (s.answer .engdone id)) ∧
       (s.writeUnderWay a.v a.n = true → exec .engcmdFwdupd s = .next (s.after (vdOf u) 16 ⟨.engcmdFwdupd, { msg := m, ok := false, v := a.v, n := a.n }⟩)))) ∧
    (∀ c, (s.die (eidDie m.dst)).crews.find? (fun c => c.state == 3 && c.id.toNat % 65536 == m.tag) = some c → exec .engdone s = .next (s.emitOnce (evTKN .crewRestore c.lu c.id.toNat 1))) ∧
    (∀ im, s.images.find? (fun im => im.crew.id.toNat == a.k) = some im →
      (a.n = 0 → s.findCrew im.crew.id.toNat = none → s.homeFor im.crew = none → exec .crewRestore s = .next ((s.modLu im.crew.lu (fun L => { L with readmit := im.crew :: L.readmit })).pokeAdmission im.crew.lu)) ∧
      (∀ new : Crew, a.n = 1 → s.findCrew a.k = some new → new.state = 3 → exec .crewRestore s = .next (s.restoreRun im new))) ∧
    (let v := iodVd t; let id := a.desc.toNat % 2 ^ 32
     a.ok = true →
      (s.findCrew id = none → exec .liveMigration s = .next (s.agentResult v (a.desc.toNat / 2 ^ 64 % 2 ^ 56) (if s.images.any (fun im => im.crew.id.toNat == id) then 3 else 2))) ∧
      (∀ c : Crew, s.findCrew id = some c → c.state = 0 → c.mig = none →
        (s.migSpot v c a.desc = none → exec .liveMigration s = .next (s.agentResult v (a.desc.toNat / 2 ^ 64 % 2 ^ 56) 1)) ∧
        (∀ sp, s.migSpot v c a.desc = some sp →
          exec .liveMigration s = .next ((s.modCrew c.vd id (fun c => { c with state := 4, mig := some (v, a.desc) })).emit ⟨.liveMigration, { t := c.tile, k := id, ok := false }⟩))))

/-! ### The guard manager and the filter (R57-R65, R70, R73, R74, R77, R78, R80-R85, R393) -/

/-- R62-R64, R73, R77, R78, R81-R85, R393: requests at a record's manager. An acquire of a FREE guard is granted, a stale or unlawful one
denied, any other joins the holder queue; a release stamps the changed sub-blocks with the new VERSION and serves the queue; BINIT,
BIND and UNBIND change the record; writeback notes, answers of owners and invalidation answers carry longer operations on. -/
def Obligations.GuardManagerEvents : Prop :=
  ∀ s : State,
    let m := s.msg; let pa := s.canon m.pa; let vd := eidDie m.dst; let r := s.rec_ pa; let D := s.die vd
    (s.mgrBusy vd pa = false →
      (∀ st, s.acqCheck vd pa m = some st → exec .acqreq s = .next (s.denyTo m st false)) ∧
      (s.acqCheck vd pa m = none → stale r m = true → exec .acqreq s = .next (s.denyTo m 0 true)) ∧
      (s.acqCheck vd pa m = none → stale r m = false → queueOf s vd pa = [] →
        (gSTATE r = 0 ∨ gSTATE r = 1 ∧ gSHCOUNT r < 65535 ∧ m.attr.getLsbD 0 = false) → exec .acqreq s = .next (s.grantTo vd pa m)) ∧
      (s.acqCheck vd pa m = none → stale r m = false → gSTATE r = 2 →
        (m.attr.getLsbD 2 = true → exec .acqreq s = .next (s.denyTo m gBUSY false)) ∧
        (m.attr.getLsbD 2 = false → D.gqueue.length < 4096 → exec .acqreq s = .next (s.enqueue vd pa m)))) ∧
    (m.attr.getLsbD 4 = false →
      (m.attr.getLsbD 0 = false → exec .relreq s = .next ((s.ackTo m gOK (gVERSION r)).freed vd pa false)) ∧
      (m.attr.getLsbD 0 = true → msgMap m = 0 → exec .relreq s = .next (((s.setOwner pa m.src).ackTo m gOK (gVERSION r)).freed vd pa true)) ∧
      (m.attr.getLsbD 0 = true → msgMap m ≠ 0 → gVERSION r ≠ 0xFFFFFFFF →
        exec .relreq s = .next (((((List.range 256).foldl (fun (s : State) i => if (msgMap m).getLsbD i then s.setStamp pa i (gVERSION r + 1) else s) (s.setVersion pa (gVERSION r + 1))).setOwner pa m.src).ackTo m gOK (gVERSION r + 1)).freed vd pa true)) ∧
      (m.attr.getLsbD 0 = true → msgMap m ≠ 0 → gVERSION r = 0xFFFFFFFF →
        let u := (s.setGState pa 3).setOwner pa m.src
        exec .relreq s = .next ((u.addOp vd ⟨pa, opWrapRecall, m.src, 0, m⟩).send .fwd .fwdRecall { u.fromMgr pa m.src with attr := 0x20 }))) ∧
    (∀ q, m.attr.getLsbD 3 = false → (queueOf s vd pa).find? (fun q => q.2.src == m.src && q.2.slot == m.slot) = some q → exec .wdraw s = .next ((s.dequeue vd pa q).ackTo m gOK 0)) ∧
    (m.attr.getLsbD 3 = false → (queueOf s vd pa).find? (fun q => q.2.src == m.src && q.2.slot == m.slot) = none → exec .wdraw s = .next s) ∧
    (m.attr.getLsbD 2 = true → exec .gredo s = .next (s.freed vd pa (m.attr.getLsbD 0))) ∧
    (∀ o, m.attr.getLsbD 2 = false → D.ops.find? (fun o => o.grec == pa && o.kind == opDelivered && o.req.src == m.src && o.req.slot == m.slot) = some o →
      let req : Msg := { o.req with attr := 0 }
      (o.left = s.mgrEid pa → exec .gredo s = .next (s.fromHome pa req (acqSpoff req) o.list false)) ∧
      (o.left ≠ s.mgrEid pa → gOV r = true → gOWNER r = o.left →
        exec .gredo s = .next ((s.addOp vd { o with kind := opServe, req := req }).sendServe pa o.left .fwdServe req (acqSpoff req) o.list)) ∧
      ((gOV r = false ∨ gOWNER r ≠ o.left) → o.req.attr.getLsbD 0 = false → exec .gredo s = .next (s.fromHome pa req (acqSpoff req) o.list false))) ∧
    (let arr := s.canon m.aux0.toNat
     s.mgrBusy vd pa = false → s.isGroup vd pa = false → (∀ g, g ∈ D.groups → overlaps arr 1024 g 64 = false ∧ overlaps arr 1024 (uARRAY (s.rec_ g)) (4 * uCAP (s.rec_ g)) = false) →
      (s.isGuard vd pa = false → (D.guards.filter (fun g => gASID (s.rec_ g) == m.asid)).length < 2 ^ 18 →
        exec .gadmBinit s = .next ((((s.putRec pa (1 + m.asid % 512 * 2 ^ 16 + arr / 1024 % 2 ^ 46 * 2 ^ 224)).allStamps pa 0).modDie vd (fun D => { D with guards := pa :: D.guards })).ackTo m gOK 0)) ∧
      (s.isGuard vd pa = true → gPOISON r = false → exec .gadmBinit s = .next (s.ackTo m gBUSY 0))) ∧
    (let mine := (piecesOfData pa 20 m.data).map (fun p => ({ p with pa := s.canon p.pa } : FiltPiece))
     let asks (q : Nat × Nat × Nat × FiltPiece) : Bool := q.1 == m.src && q.2.1 == m.slot && q.2.2.1 == m.tag && q.2.2.2.rec_ == pa
     let ps := (D.bindq.filter asks).map (·.2.2.2) ++ mine
     s.mgrBusy vd pa = false →
      (m.attr.getLsbD 2 = false → exec .gadmBind s = .next (s.modDie vd (fun D => { D with bindq := D.bindq ++ mine.map (fun p => (m.src, m.slot, m.tag, p)) }))) ∧
      (m.attr.getLsbD 2 = true → s.isGuard vd pa = true → gINIT r = true → gASID r = m.asid → gPOISON r = false → gBOUND r = false →
       (∀ p, p ∈ ps → s.filtered p.pa p.len = false ∧ s.claimed p.pa p.len = false) →
        exec .gadmBind s = .next (ps.foldl (fun (s : State) p => s.sendFilt .filtInstall pa p)
          (((s.modDie vd (fun D => { D with bindq := D.bindq.filter (fun q => !asks q) })).modDie vd (fun D => { D with pieces := D.pieces.filter (fun p => p.rec_ != pa) ++ ps })).addOp vd ⟨pa, opBind, ps.length, 0, m⟩)))) ∧
    (s.mgrBusy vd pa = false → s.isGuard vd pa = true → gINIT r = true → gASID r = m.asid → gPOISON r = false →
      ((gSTATE r ≠ 0 ∨ queueOf s vd pa ≠ []) → exec .gadmUnbind s = .next (s.ackTo m gBUSY 0) ∧ exec .gadmUnbindRetire s = .next (s.ackTo m gBUSY 0)) ∧
      (gSTATE r = 0 → queueOf s vd pa = [] → gBOUND r = true → gOV r = false →
        exec .gadmUnbind s = .next (s.removePieces vd pa m false) ∧ exec .gadmUnbindRetire s = .next (s.removePieces vd pa m true)) ∧
      (gSTATE r = 0 → queueOf s vd pa = [] → gBOUND r = false →
        exec .gadmUnbind s = .next (s.ackTo m gNOTBOUND 0) ∧ exec .gadmUnbindRetire s = .next (s.unbound vd pa m true))) ∧
    (exec .wbnote s = .next ((if gOV r = true ∧ gOWNER r = m.src then s.clearOV pa else s).ownerDone vd pa m.src)) ∧
    (let mine (o : MgrOp) : Bool := o.grec == pa && (o.kind == opServe || o.kind == opRedo) && o.left == m.src && o.req.slot == m.slot && o.req.tag == m.tag
     (∀ o, D.ops.find? mine = some o → o.req.attr.getLsbD 0 = false → exec .served s = .next (s.dropOp vd o)) ∧
     (D.ops.find? mine = none → exec .served s = .next s)) ∧
    (D.ops = [] → gOV r = true → gOWNER r = m.src → exec .notretained s = .next s) ∧
    (D.ops = [] → gOV r = false → exec .notretained s = .next (s.ownerDone vd pa m.src)) ∧
    (∀ o, D.ops.find? (fun o => o.grec == pa && (o.kind == opRetire || o.kind == opWrap)) = some o →
      (1 < o.left → exec .invack s = .next ((s.dropOp vd o).addOp vd { o with left := o.left - 1 })) ∧
      (o.left ≤ 1 → o.kind = opRetire →
        exec .invack s = .next (((({ s.dropOp vd o with mem := wrBytes (wrBytes (s.dropOp vd o).mem (gSADDR r) (List.replicate 1024 0)) pa (List.replicate 64 0) } : State).modDie vd (fun D => { D with guards := D.guards.filter (· != pa) })).ackTo o.req gOK 0).unholdDie vd))) ∧
    (let d := s.pieceDie pa; let p : FiltPiece := ⟨pa, m.aux0.toNat % 2 ^ 32, m.aux1.toNat⟩
     (s.filtered pa p.len = false → (s.die d).filter.length < (if d < 4 then 4096 else 1024) → exec .filtInstall s = .next (((s.modDie d (fun D => { D with filter := D.filter ++ [p] })).answer .ack (fun q => { q with memd := true }))) ∧
     exec .filtRemove s = .next ((s.modDie d (fun D => { D with filter := D.filter.filter (fun f => !(f.pa == pa && f.rec_ == m.aux1.toNat)) })).answer .ack (fun q => { q with memd := true }))))

/-! ### Guards at the tile (R61, R67, R74, R78, R83, R85, R393) -/

/-- R61, R67, R74, R78, R83, R85, R393: a grant and delivered units fill the entry, whose check decides; a denial ends the acquire or has the binding
read again; an acknowledgement writes an outcome; the owner of a copy serves, demotes, or writes it home (cells without good bytes marked: log entry
165), or answers that it has none; an invalidation drops every kept or retained entry. -/
def Obligations.GuardTileEvents : Prop :=
  ∀ s : State,
    let m := s.msg; let t := m.dst % 4096; let T := s.tile t
    (∀ e, T.rngAt m.slot m.pa = some e → e.pending = true →
      let got (e : RngEntry) : RngEntry := { e with ver := m.aux4.toNat % 2 ^ 32, listed := msgMap m, granted := true }
      exec .grant s = .next ((s.modTile t (fun T => T.rngMod m.slot m.pa got)).checkDelivery t (got e))) ∧
    (T.rngAt m.slot m.pa = none → exec .grant s = .next s) ∧
    (m.attr.getLsbD 20 = true → s.decodes (eidDie m.dst) (s.canon m.pa) = true → s.reserved (s.canon m.pa) m.data.length = false →
      exec .gdata s = .next (((s.performOut (eidDie m.dst) (s.canon m.pa) m.data).poisonCells (s.canon m.pa) (m.attr.toNat / 2 ^ 24 % 2 ^ 4)).answer .wrack id)) ∧
    (∀ e, m.attr.getLsbD 20 = false → T.bankHeld 8 (m.pa % 2 ^ 22) m.data.length = false → T.rng.find? (fun e => e.pending && e.inCopy (m.pa % 2 ^ 22) 1) = some e →
      let upd (x : RngEntry) : RngEntry :=
        { x with received := x.received + 1, crc := if m.attr.getLsbD 21 then some (m.aux0.toNat % 2 ^ 32) else x.crc }
      exec .gdata s = .next (((s.homeWrite m.pa m.data).modTile t (fun T => { T with rng := updWhere (fun x => x == e) upd T.rng })).checkDelivery t (upd e))) ∧
    (m.attr.getLsbD 22 = true → exec .deny s = .next (s.send .req .rd { s.mgrMsg t m.slot m.pa m.tag with len := 15 })) ∧
    (m.attr.getLsbD 22 = false → exec .deny s = .next (s.acqFail t m.slot m.pa m.tag (m.attr.toNat / 2 ^ 8 % 2 ^ 4))) ∧
    (∀ n path pa la rd, m.memd = false → m.tag ≠ 65535 → m.tag ≠ 65534 → (s.slot t m.slot).getPend m.tag = some ⟨n, path, pa, la, .guardOp rd false⟩ →
      exec .ack s = .next (s.outcome t m.slot m.tag rd (BitVec.ofNat 32 (m.attr.toNat / 2 ^ 8 % 2 ^ 4)))) ∧
    (let none_ : State := s.answer .notretained (fun q => { q with memd := true })
     (T.ownerEntry m.pa = none → ∀ i, i = .fwdDemote ∨ i = .fwdServeDemote ∨ i = .fwdRecall → exec i s = .next none_) ∧ (T.serveEntry m.pa = none → exec .fwdServe s = .next none_)) ∧
    (∀ n path pa la grec, isComputeTile t = true → isMcUnit m.dst = false → (s.slot t m.slot).getPend m.tag = some ⟨n, path, pa, la, .wb grec⟩ →
      exec .wrack s = .next ((s.donePend t m.slot n).wbStep t m.slot grec)) ∧
    (∀ e, T.ownerEntry m.pa = some e → (∀ u, u ∈ mapUnits (msgMap m) e.size → T.bankHeld 8 (e.spoff + u) 256 = false) →
      let r := s.readChecks ((mapUnits (msgMap m) e.size).map (fun u => s.spPa t (e.spoff + u))) 256 (s.ctxName t e.slot)
      let serve : State := r.serveUnits m.dst (m.aux4.toNat % 2 ^ 24) (m.aux4.toNat / 2 ^ 24 % 2 ^ 22) e.size (msgMap m) m.slot e.ver
        (fun u => (rdBytes r.mem (r.spPa t (e.spoff + u)) 256, r.eccBad (r.spPa t (e.spoff + u)) 256))
      let demote (s : State) (sent : Bool) : State := s.modTile t (fun T => { T with rng := updWhere (fun x => x == e) (fun x => { x with own := false, demoted := sent, st := if x.st = 4 then 5 else x.st }) T.rng })
      let done (s : State) : State := s.answer .served (fun q => { q with memd := true })
      exec .fwdServe s = .next (done serve) ∧ exec .fwdDemote s = .next (done (demote s false)) ∧ exec .fwdServeDemote s = .next (done (demote serve true)) ∧
      exec .fwdRecall s = .next (s.writeBack t e)) ∧
    (let keep (e : RngEntry) : Bool := !(e.grec == s.canon m.pa && (e.st == 4 || e.st == 5))
     exec .fwdInvalidate s = .next (({ s with tiles := s.tiles.map (fun p => (p.1, { p.2 with rng := p.2.rng.filter keep })) } : State).answer .invack (fun q => { q with memd := true })))

/-! ### Groups and watches (R104, R148-R154, R241, R242, R250) -/

/-- R104, R150-R152, R241: a member joins a group or makes it, leaves, and arrives; an arrival with too small a fence is sent back with the
SPAN; the last arrival releases, and the last acknowledgement rearms; a release clears ARR and wakes its thread. R242, R250: a watch
answers at once when its word is met, waits, is cancelled, is refused and sent again, and fills its register. -/
def Obligations.GroupAndWatchEvents : Prop :=
  ∀ s : State,
    let m := s.msg; let pa := s.canon m.pa; let vd := eidDie m.dst; let r := s.rec_ pa; let t := m.dst % 4096
    let who := m.aux0.toNat % 2 ^ 27
    let rearmed (u : State) : State :=
      let q := u.rec_ pa
      let v := ((u.recPut pa 80 16 0).recPut pa 32 16 (uRELOAD q)).recPut pa 1 2 0
      (if uRELOAD q = 0 then (v.recPut pa 0 1 0).modDie vd (fun D => { D with groups := D.groups.filter (· != pa) }) else v).unholdDie vd
    let released (u : State) : State :=
      let q := u.rec_ pa
      let v := ((u.recPut pa 1 2 1).recPut pa 48 16 (uNARR q)).recPut pa 96 32 (q / 2 ^ 96 % 2 ^ 32 + 1)
      let w := (List.range (uNARR q)).foldl (fun (x : State) i =>
        let c := rdLE x.mem (uARRAY q + 4 * i) 4 % 2 ^ 27
        x.send .fwd .grel { x.fromMgr pa (ctxEid c) with slot := ctxSlot c, aux0 := BitVec.ofNat 64 c, attr := BitVec.ofNat 32 (uSPAN q * 16) }) v
      if uNARR q = 0 then rearmed w else w
    let counted (u : State) : State :=
      let q := u.rec_ pa
      let v := (({ u with mem := wrLE u.mem (uARRAY q + 4 * uNARR q) 4 who } : State).recPut pa 80 16 (uNARR q + 1)).recPut pa 32 16 (uCOUNT q - 1)
      if uCOUNT q = 1 then released v else v
    (s.isGuard vd pa = false → s.isGroup vd pa = true →
      (uASID r ≠ m.asid → exec .grpreqJoin s = .next (s.grpAnswer m pa uWRONGASID) ∧ exec .grpreqLeave s = .next (s.grpAnswer m pa uWRONGASID) ∧
        exec .grpreqArrive s = .next (s.grpAnswer m pa uWRONGASID)) ∧
      (uASID r = m.asid →
        (uRELOAD r = uCAP r → exec .grpreqJoin s = .next (s.grpAnswer m pa uFULL)) ∧
        (uRELOAD r ≠ uCAP r → uBST r = 1 →
          exec .grpreqJoin s = .next (((s.recPut pa 16 16 (uRELOAD r + 1)).recPut pa 12 3 (max (uSPAN r) (spanOf (uANCHOR r) (ctxEid who)))).grpAnswer m pa uOK)) ∧
        (uRELOAD r ≠ uCAP r → uBST r = 0 → uNARR r + uCOUNT r ≠ uCAP r →
          exec .grpreqJoin s = .next ((((s.recPut pa 16 16 (uRELOAD r + 1)).recPut pa 32 16 (uCOUNT r + 1)).recPut pa 12 3 (max (uSPAN r) (spanOf (uANCHOR r) (ctxEid who)))).grpAnswer m pa uOK)) ∧
        (m.attr.getLsbD 3 = true → exec .grpreqLeave s = .next ((s.recPut pa 16 16 (uRELOAD r - 1)).grpAnswer m pa uOK)) ∧
        (m.attr.getLsbD 3 = false → uBST r = 0 → uCOUNT r ≠ 1 →
          exec .grpreqLeave s = .next (((s.recPut pa 16 16 (uRELOAD r - 1)).grpAnswer m pa uOK).recPut pa 32 16 (uCOUNT r - 1))) ∧
        (m.attr.getLsbD 3 = false → uBST r = 0 → uCOUNT r = 1 →
          exec .grpreqLeave s = .next (released (((s.recPut pa 16 16 (uRELOAD r - 1)).grpAnswer m pa uOK).recPut pa 32 16 0))) ∧
        (m.attr.getLsbD 3 = false → uBST r ≠ 0 → exec .grpreqLeave s = .next ((s.recPut pa 16 16 (uRELOAD r - 1)).grpAnswer m pa uOK)) ∧
        (uBST r = 1 → exec .grpreqArrive s = .next (s.holdDie vd (evM .grpreqArrive m))) ∧
        (uBST r = 0 → m.attr.toNat / 16 % 8 < uSPAN r → exec .grpreqArrive s = .next (s.grpAnswer m pa uRESPAN)) ∧
        (uBST r = 0 → uSPAN r ≤ m.attr.toNat / 16 % 8 → exec .grpreqArrive s = .next (counted (s.grpAnswer m pa uOK))) ∧
        (uBST r = 0 → s.arg.ok = true → exec .grpreqEngineArrival s = .next (counted (s.grpAnswer m pa uOK))) ∧
        (uBST r = 1 → s.arg.ok = true → exec .grpreqEngineArrival s = .next (s.holdDie vd (evM .grpreqEngineArrival m)))) ∧
      (uPEND r = 1 → exec .grelack s = .next (rearmed (s.recPut pa 48 16 0))) ∧
      (1 < uPEND r → exec .grelack s = .next (s.recPut pa 48 16 (uPEND r - 1)))) ∧
    (let arr := s.canon m.aux1.toNat; let cap := m.aux2.toNat % 2 ^ 16
     s.isGuard vd pa = false → s.isGroup vd pa = false → (s.die vd).guards = [] →
      (cap = 0 → exec .grpreqJoin s = .next (s.grpAnswer m pa uFULL)) ∧
      (cap ≠ 0 → exec .grpreqJoin s = .next (((s.putRec pa (1 + m.asid % 512 * 2 ^ 3 + 1 * 2 ^ 16 + 1 * 2 ^ 32 + cap * 2 ^ 64 + arr / 64 % 2 ^ 50 * 2 ^ 128 + ctxEid who % 2 ^ 24 * 2 ^ 192)).modDie vd
        (fun D => { D with groups := pa :: D.groups })).grpAnswer m pa uOK))) ∧
    (∀ n path rp la rd what j, (s.slot t m.slot).getPend m.tag = some ⟨n, path, rp, la, .group rd what j⟩ →
      let st := m.attr.toNat % 16; let span := m.attr.toNat / 16 % 8
      (∀ f, what = 0 → st = 0 → (s.slot t m.slot).freeGmem = some f →
        exec .grprsp s = .next ((s.modSlot t m.slot (fun h => { h with gmem := mset 0 h.gmem f (gmemWord rp false), gspan := mset 0 h.gspan f span })).outcome t m.slot m.tag rd 0)) ∧
      ((what = 1 ∨ what = 5) → exec .grprsp s = .next (s.outcome t m.slot m.tag rd (BitVec.ofNat 32 st))) ∧
      (what = 2 → st = 0 → exec .grprsp s = .next ((s.modSlot t m.slot (fun h => { h with gspan := mset 0 h.gspan j span })).outcome t m.slot m.tag rd 0)) ∧
      (what = 3 → st = 0 → exec .grprsp s = .next ((s.modSlot t m.slot (fun h => { h with gspan := mset 0 h.gspan j span })).settle t m.slot m.tag))) ∧
    (let k := who % 8
     let fs := (s.tile t).fwd.filter (fun f => f.slots.testBit k)
     let done (s : State) (latched : Word) : State := s.answer .grelack (fun q => { q with memd := true, aux0 := m.aux0, attr := latched })
     s.settling t k = false →
      (∀ j, (s.slot t k).member m.pa = some j → (s.slot t k).arrived j = true →
        let u := s.modSlot t k (fun h => { h.setArr j false with gspan := mset 0 h.gspan j (m.attr.toNat / 16 % 8) })
        let barw (p : Pend) : Bool := p.pa == gmemRec (mget 0 (s.slot t k).gmem j) && (match p.kind with | .group _ 3 _ => true | _ => false)
        ((u.slot t k).pend.find? barw = none → exec .grel s = .next (done ((u.wakeBarrier t k j).unholdTile t) 0)) ∧
        (∀ tag path rp la rd x, (u.slot t k).pend.find? barw = some ⟨tag, path, rp, la, .group rd 3 x⟩ →
          exec .grel s = .next (done (((u.outcome t k tag rd 0).wakeBarrier t k j).unholdTile t) 0))) ∧
      ((s.slot t k).member m.pa = none →
        (∀ f j, fs.findSome? (fun f => (s.latchable f k m.pa).map (fun j => (f, j))) = some (f, j) →
          exec .grel s = .next (done { s with mem := wrLE s.mem (s.latchAddr f k) 1 (rdLE s.mem (s.latchAddr f k) 1 ||| 2 ^ j) } 1)) ∧
        (fs = [] → exec .grel s = .next (done s 0)))) ∧
    (let v := rdLE s.mem pa 8; let want := m.aux0.toNat % 2 ^ 63
     atHome .watchInstall 0 8 false false s = .ok pa → s.decodes vd pa = true → watchSpace pa = true → outside pa = false →
      (cwHit v want = true → exec .watchInstall s = .next (s.answer .watchrsp (fun q => { q with aux0 := BitVec.ofNat 64 v }))) ∧
      (cwHit v want = false → ((s.die (s.watchDie pa)).watches.filter (fun w => w.req.dst == m.dst)).length < 256 →
        exec .watchInstall s = .next (s.modDie (s.watchDie pa) (fun D => { D with watches := D.watches ++ [⟨pa, want, m⟩] })))) ∧
    exec .watchCancel s = .next ((s.modDie (s.watchDie pa) (fun D => { D with watches := D.watches.filter (fun w => !(w.req.src == m.src && w.req.slot == m.slot && w.req.tag == m.tag)) })).answer .watchrsp (fun q => { q with attr := 2 })) ∧
    (∀ tag wp la rd tv, let a := s.arg
      (s.slot a.t a.k).getPend a.n = some ⟨tag, 9, wp, la, .watch rd tv⟩ →
      exec .watchRetry s = .next (s.send .req .watchInstall { s.mgrMsg a.t a.k wp tag with aux0 := BitVec.ofNat 64 tv })) ∧
    (∀ tag path wp la rd tv, isComputeTile t = true → m.tag < 16384 → (s.slot t m.slot).getPend m.tag = some ⟨tag, path, wp, la, .watch rd tv⟩ →
      (m.attr.toNat % 4 = 0 → exec .watchrsp s = .next ((s.outcome t m.slot tag rd (if m.aux0.getLsbD 63 then 1 else 0)).notifyAll t)) ∧
      (m.attr.toNat % 4 = 1 → exec .watchrsp s = .next (s.after (vdOf t) 1024 (evTKN .watchRetry t m.slot tag))))

/-! ### Multicast (R131-R139, R246-R249, R395) -/

/-- R133-R138, R246-R249: a store reaches its headgate over the relay and is stamped; members apply stores one stamp at a time and acknowledge; late
members are evicted; a refused or reserved line of a window copy does not pass unseen (log entry 148); a join passes through its window copy to
ACTIVE, a leave to LEFT; the sender's registers take the stamp, and applied-sequence reads wait for it. -/
def Obligations.MulticastEvents : Prop :=
  ∀ s : State,
    let m := s.msg; let vd := eidDie m.dst; let iod := vd - 8; let g := m.attr.toNat % 2 ^ 12; let t := m.dst % 4096; let stamp := m.aux3.toNat
    (isMcUnit m.dst = true →
      (s.atRelay m = false → exec .mcreq s = .next (s.headgate vd m)) ∧
      (let e := s.groupMap iod g
       s.atRelay m = true →
        (e.testBit 0 = false → exec .mcreq s = .next (s.stampTo m 4 0 false)) ∧
        (e.testBit 0 = true → e / 2 % 2 ^ 24 = m.dst → exec .mcreq s = .next (s.headgate vd m)) ∧
        (e.testBit 0 = true → e / 2 % 2 ^ 24 ≠ m.dst → exec .mcreq s = .next (s.sendFrom vd false .req .mcreq { m with dst := e / 2 % 2 ^ 24 })) ∧
        (e.testBit 0 = true → e.testBit 25 = true → 8 + e / 2 ^ 26 % 2 = vd → exec .mcseqreq s = .next (s.seqAtMember vd m)) ∧
        (e.testBit 0 = false → exec .mcseqreq s = .next (s.answer .mcseqrsp (fun r => { r with attr := 1 }))))) ∧
    (s.meValid iod g = true → s.meState iod g = meACTIVE →
      (stamp ≤ s.meApplied iod g → exec .mcapply s = .next s) ∧
      (s.meApplied iod g + 1 < stamp → exec .mcapply s = .next (s.holdDie vd (evM .mcapply m))) ∧
      (stamp = s.meApplied iod g + 1 → (s.die vd).mc.applying.any (fun a => a.group == g) = false →
        let at_ := s.meWbase iod g + m.aux0.toNat; let pa := s.canon at_
        (m.attr.getLsbD 12 = false → exec .mcapply s = .next (s.sendParts vd g stamp 0 at_ m (m.data.take (m.len + 1)))) ∧
        (m.attr.getLsbD 12 = true → s.reserved pa 8 = false → s.refuses 6 pa 8 false false = none →
          (s.mcDecide m (s.meWbase iod g) stamp = false → exec .mcapply s = .next ((s.readCheck pa 8 0).sendApplied vd g stamp 1 m)) ∧
          (s.mcDecide m (s.meWbase iod g) stamp = true → exec .mcapply s = .next ((s.readCheck pa 8 0).sendParts vd g stamp 0 at_ m (m.data.take (m.len + 1))))))) ∧
    (let upd (a : McApply) : McApply := if a.group = g && a.stamp = stamp then { a with acks := a.acks.filter (· != eidPkg m.src) } else a
     (s.die vd).mc.joins = [] →
      let u := (((s.mcMod vd (fun M => { M with outstanding := M.outstanding.map upd })).unTimer ⟨.memberTimeout, { t := vd, k := g, n := eidPkg m.src, v := stamp }⟩).settleStores vd)
      (u.die vd).mc.joins = [] → exec .mcack s = .next u) ∧
    (∀ tag path pa la rd, (s.slot t m.slot).getPend m.tag = some ⟨tag, path, pa, la, .mcast rd false⟩ →
      (m.attr.toNat / 16 % 16 ≠ 0 → exec .mcstamp s = .next (s.outcomePair t m.slot tag rd (m.attr.toNat / 16 % 16 * 2 ^ 32))) ∧
      (m.attr.toNat / 16 % 16 = 0 → m.attr.getLsbD 0 = false →
        exec .mcstamp s = .next (((s.fillPair t m.slot rd (BitVec.ofNat 32 stamp) (BitVec.ofNat 32 (stamp / 2 ^ 32)) false).modSlot t m.slot
          (fun h => { h with pend := h.pend.map (fun p => if p.tag = tag then { p with kind := .mcast rd true } else p) })).notify t m.slot))) ∧
    (∀ tag path pa la rd, (s.slot t m.slot).getPend m.tag = some ⟨tag, path, pa, la, .mcast rd true⟩ → m.attr.toNat / 16 % 16 = 0 → m.attr.getLsbD 0 = true →
      exec .mcstamp s = .next (s.donePend t m.slot tag)) ∧
    (∀ tag path pa la rd n, (s.slot t m.slot).getPend m.tag = some ⟨tag, path, pa, la, .mcseq rd n⟩ →
      exec .mcseqrsp s = .next ((s.outcomePair t m.slot tag rd (m.aux0.toNat % 2 ^ 63 + (if m.attr.getLsbD 0 then 2 ^ 63 else 0))).notifyAll t)) ∧
    (let a := s.arg
     (a.v ≠ 2 ^ 64 → (s.die a.t).mc.outstanding.any (fun x => x.group == a.k && x.stamp == a.v && x.acks.contains a.n) = true → exec .memberTimeout s = .next (s.evictMember a.t a.k a.n)) ∧
     (a.v ≠ 2 ^ 64 → (s.die a.t).mc.outstanding.any (fun x => x.group == a.k && x.stamp == a.v && x.acks.contains a.n) = false → exec .memberTimeout s = .next s)) ∧
    (isMcUnit m.dst = true → s.hgValid iod g = true →
      (s.hgState iod g ≠ stRUN → exec .mcjoinJoin s = .next (s.holdDie vd (evM .mcjoinJoin m)) ∧ exec .mcjoinLeave s = .next (s.holdDie vd (evM .mcjoinLeave m))) ∧
      (s.hgState iod g = stRUN → s.hgIn iod g (eidPkg m.src) = true → exec .mcjoinLeave s = .next ((s.hgPut iod g (eidPkg m.src) false).mcctl vd .mcctlLeft 3 m.src g 0 (s.hgNext iod g - 1))) ∧
      (let src := m.aux0.toNat % 2 ^ 24; let p := eidPkg m.src; let j : McJoin := ⟨g, p, src, s.hgNext iod g - 1, 0, m⟩
       let u := (s.hgSetState iod g stJOINHOLD).mcMod vd (fun M => { M with joins := M.joins ++ [j] })
       s.hgState iod g = stRUN → src = 0 → s.hgNmem iod g = 0 → s.hgIn iod g p = false → m.aux1.toNat % 32 = s.hgW iod g 0 / 2 ^ 12 % 32 → exec .mcjoinJoin s = .next (u.joinJoined vd j))) ∧
    (s.meValid iod g = true → s.meState iod g = meACTIVE →
      let tags := (List.range 7).map (fun j => 8 * g + j)
      exec .mcctlSnap s = .next (tags.foldl (fun (s : State) tag => s.mcAck vd tag) (s.mcMod vd (fun M => { M with applying := M.applying ++ [⟨g, stamp, m, tags, 2, 0⟩] })))) ∧
    (∀ (u : State) (x : McApply) tag, (u.die vd).mc.applying.find? (fun a => a.acks.contains tag) = some x → x.phase = 2 → x.next < u.meLines iod x.group →
      let pa := u.canon (u.meWbase iod x.group + 256 * x.next)
      u.refuses 6 pa 256 false false = none → u.reserved pa 256 = false →
        u.mcAck vd tag = (u.mcMod vd (fun M => { M with applying := updWhere (fun y => y == x) (fun _ => { x with next := x.next + 1 }) M.applying })).sendLine vd tag x.next pa x.msg) ∧
    (s.meValid iod g = true → s.meState iod g = meJOINING → exec .mcctlJoined s = .next (s.sendApplied vd g stamp 3 m)) ∧
    ((s.meValid iod g = false ∨ s.meState iod g ≠ meJOINING) → exec .mcctlJoined s = .next s) ∧
    (isMcUnit m.dst = true → exec .wrack s = .next (s.mcAck vd m.tag)) ∧
    (∀ (u : State) (x : McApply), let u1 := u.mcMod vd (fun M => { M with applying := dropFirst (fun y => y == x) M.applying })
      (x.phase = 0 → u.mcJobDone vd x = u1.sendApplied vd x.group x.stamp 1 x.msg) ∧ (x.phase = 1 → u.mcJobDone vd x = u1.applied vd x.group x.stamp) ∧
      (x.phase = 2 → u.mcJobDone vd x = (u1.snapAnswer x.msg 0).unholdDie vd) ∧ (x.phase = 3 → u.mcJobDone vd x = (u1.joinApplied vd x.group x.stamp x.msg).unholdDie vd)) ∧
    exec .mcctlEvict s = .next ((s.meSet iod g meFAILED).answerSeq vd g) ∧
    exec .mcctlLeft s = .next ((s.mcMod vd (fun M => { M with leaving := mset 0 M.leaving g (stamp + 1) })).checkLeft vd g) ∧
    (m.attr.toNat / 2 ^ 16 % 16 ≠ 0 → m.attr.toNat / 2 ^ 12 % 16 ≠ 0 → exec .mcctlrsp s = .next ((s.meSet iod g meFAILED).answerSeq vd g)) ∧
    (∀ j : McJoin, m.attr.toNat / 2 ^ 16 % 16 = 0 → m.attr.toNat / 2 ^ 12 % 16 = 0 → (s.die vd).mc.joins.find? (fun j => j.group == g && j.point == stamp && (j.phase == 1 && j.source == m.src)) = some j →
      exec .mcctlrsp s = .next (((s.unTimer ⟨.memberTimeout, { t := vd, k := g, n := eidPkg j.source, v := 2 ^ 64 }⟩).unTimer ⟨.memberTimeout, { t := vd, k := j.group, n := j.member, v := 2 ^ 64 }⟩).joinJoined vd j)) ∧
    (let d := s.arg.desc.toNat; let io := s.arg.t; let dg := d % 2 ^ 12
     let ask : Msg := { Msg.zero with src := s.eid (8 + io) 0x38, dst := s.meHg io dg, tag := 0x8000 + dg }
     d / 2 ^ 12 % 16 = 0 → d / 2 ^ 17 % 2 ^ 47 = 0 → d / 2 ^ 88 % 2 ^ 40 = 0 → s.meValid io dg = true →
      (s.meState io dg = meACTIVE → exec .mcLeaveDescriptor s = .next (s.send .req .mcjoinLeave { ask with attr := BitVec.ofNat 32 (dg + 4096) })) ∧
      (s.meState io dg ≠ meACTIVE →
        let u := s.meSet io dg meJOINING
        exec .mcJoinDescriptor s = .next (u.send .req .mcjoinJoin { Msg.zero with src := u.eid (8 + io) 0x38, dst := u.meHg io dg, tag := 0x8000 + dg, attr := BitVec.ofNat 32 dg, aux0 := BitVec.ofNat 64 (d / 2 ^ 64 % 2 ^ 24), aux1 := BitVec.ofNat 64 (u.meW io dg 1 / 2 ^ 56 % 32) })))

/-! ### Links and discovery (R116-R119, R140, R141, R341) -/

/-- R116-R119, R140, R141, R341: a frame with a good checksum hands its cells over and one with a bad one is dropped; acknowledgements free
cells and carry counts; NAK and the replay timer send again what is not acknowledged; a module that is lost ends every launch;
discovery messages take a hop, act at the end of their route, and answer back along it. -/
def Obligations.LinkEvents : Prop :=
  ∀ s : State,
    let a := s.arg; let key := a.t; let L := s.link key
    (let bs := a.bytes; let tr := leNat ((bs.drop 256).take 16)
     let cell (i : Nat) : Nat × Cell := (tr / 2 ^ (12 * i) % 2 ^ 12, BitVec.ofNat 512 (leNat ((bs.drop (64 * i)).take 64)))
     (bs.length = 272 → crc64 (bs.take 264) = tr / 2 ^ 64 % 2 ^ 64 →
       exec .sluiceFrame s = .next ((((List.range 4).map cell).foldl (fun (s : State) q => s.frameCell key q) (s.modLink key (fun L => L.trailer tr))).drainLink key)) ∧
     ((bs.length ≠ 272 ∨ crc64 (bs.take 264) ≠ tr / 2 ^ 64 % 2 ^ 64) → exec .sluiceFrame s = .next (s.modLink key (fun L => { L with trailerOk := false })))) ∧
    exec .linkAck s = .next (s.linkAnswer.drainLink key) ∧
    exec .linkNak s = .next ((s.linkAnswer.replay key).drainLink key) ∧
    exec .linkInit s = .next ((s.modLink key (fun M => { (if L.up then M else M.putLink initCell) with
      up := true, trailerOk := true, last := (List.range 4).foldl (fun m vc => mset 0 m vc 0) M.last, credits := (List.range 4).foldl (fun m vc => mset 0 m vc (leNat a.bytes / 2 ^ (64 + 16 * vc) % 2 ^ 16)) M.credits })).drainLink key) ∧
    (L.ackDue = true → exec .ackTimer s = .next (s.linkReply key 0)) ∧ (L.ackDue = false → exec .ackTimer s = .next s) ∧
    (L.unacked = [] → exec .replayTimeout s = .next s) ∧
    (L.unacked ≠ [] → L.replays < 8 → exec .replayTimeout s = .next ((s.modLink key (fun L => { L with txq := L.txq.filter (fun q => q.1 == 4095) ++ L.unacked, replays := L.replays + 1 })).armReplay key)) ∧
    (L.unacked ≠ [] → 8 ≤ L.replays → exec .replayTimeout s = .next ((s.modLink key (fun L => { L with up := false })).unTimer (replayEvent key))) ∧
    exec .retrainingComplete s = .next (((s.modLink key (fun L => { L with up := true, replays := 0, txq := L.txq.filter (fun q => q.1 == 4095) ++ L.unacked })).armReplay key).drainLink key) ∧
    (512 ≤ key → exec .linkDown s = .next (((((s.modLink key (fun L => { L with up := false })).unTimer (replayEvent key)).logError (linkDie key) (8 + (key - 512) % 16 / 4) true cLINKDOWN 0 0).endAllLaunches).mcLost (linkDie key))) ∧
    (∀ v2 e2, key < 512 → sluicePeer (key / 32) (key % 32 / 8) = some (v2, e2) →
      exec .linkDown s = .next ((((((s.modLink key (fun L => { L with up := false })).unTimer (replayEvent key)).logError (key / 32) (16 + key % 32 / 8) true cLINKDOWN 0 0).modLink (sluiceKey v2 e2 (key % 8)) (fun L => { L with up := false })).logError v2 (16 + e2) true cLINKDOWN 0 0).endAllLaunches)) ∧
    (let x := a.msg.aux0.toNat
     (x % 4 = 0 → a.msg.attr.toNat / 16 % 16 < 3 →
       exec .discQuery s = .next (s.discAnswer 0) ∧
       exec .discEnable s = .next ((((s.links.map (·.1)).filter (fun key => linkDie key == a.t)).foldl (fun (s : State) key => s.takeCells key ((s.link key).rx.length + 1))
         (s.modDie a.t (fun D => { D with enabled := true }))).discAnswer 0) ∧
       ((s.die a.t).vdAssigned.isSome = true → exec .discAssign s = .next (s.discAnswer 2)) ∧
       ((s.die a.t).vdAssigned = none →
        let v := a.msg.aux1.toNat % 16
        let u := s.modDie a.t (fun D => { D with vdAssigned := some (v, a.msg.aux1.toNat / 16 % 2 ^ 12), remapped := true })
        let keep (t : Nat) (f : FwdEntry) : Bool := vdOf t != v && !(f.toTile && eidPkg f.target == s.pkg && eidVd f.target == v)
        exec .discAssign s = .next ((u.tiles.foldl (fun (s : State) p => s.modTile p.1 (fun T => { T with fwd := T.fwd.filter (keep p.1) })) u).discAnswer 0))) ∧
     (x % 4 ≠ 0 → sluicePeer a.t (x / 16 % 4) = none → ∀ i, i = .discQuery ∨ i = .discAssign ∨ i = .discEnable ∨ i = .discrsp → exec i s = .next (s.logError a.t 20 false cUNREACH 0 0)) ∧
     (x % 4 = 0 → exec .discrsp s = .next (s.modDie a.t (fun D => { D with disc := D.disc ++ [a.msg] }))) ∧
     (∀ v e, x % 4 ≠ 0 → sluicePeer a.t (x / 16 % 4) = some (v, e) →
       let m2 : Msg := { a.msg with aux0 := BitVec.ofNat 64 (x % 4 - 1 + x / 64 % 16 * 16) }
       exec .discrsp s = .next (s.emit ⟨.discrsp, { a with t := v, v := e, msg := m2 }⟩) ∧
       (a.msg.attr.toNat / 16 % 16 = 0 → exec .discQuery s = .next (s.emit ⟨.discQuery, { a with t := v, k := a.k + 1, n := a.n * 4 % 64 + e, v := e, msg := m2 }⟩))))

/-! ### Host, devices, network, boot (R43, R338, R341, R349-R360) -/

/-- R338, R341, R349-R360: BAR reads and writes; AtomicOps are aborted; D3hot waits for launches; certificate chain, measurements and EXTEND; device
and link errors are recorded; network requests complete or fail (log entry 161); what the host and devices send completes the request that asked;
package reset ends launches and boots again. -/
def Obligations.HostAndNetworkEvents : Prop :=
  ∀ s : State,
    let a := s.arg
    (let o := a.v % 2 ^ 29
     a.k = 0 → s.failed (o / 2 ^ 28) = false → exec .hostBarRead s = .next (s.hostOut (.readDone a.t (s.mmioBytes o a.n)))) ∧
    (let pa := a.v % 2 ^ 39
     a.k = 2 → s.failed a.t = false →
      (s.decodes (iodVd a.t) pa = true → s.reserved pa a.n = false → s.refuses 7 pa a.n false false = none → exec .hostBarRead s = .next ((s.readCheck pa a.n 0).hostOut (.readDone a.t (rdBytes s.mem pa a.n)))) ∧
      (∀ c, s.decodes (iodVd a.t) pa = true → s.refuses 7 pa a.n false false = some c → exec .hostBarRead s = .next ((s.logError (iodVd a.t) 20 false cBOUND pa 0).hostOut (.completerAbort a.t))) ∧
      (∀ c, s.decodes (iodVd a.t) pa = true → s.refuses 7 pa a.bytes.length false true = some c → exec .hostBarWrite s = .next (s.logError (iodVd a.t) 20 false cBOUND pa 0)) ∧
      (s.decodes (iodVd a.t) pa = true → s.reserved pa a.bytes.length = false → s.refuses 7 pa a.bytes.length false true = none → exec .hostBarWrite s = .next (s.perform pa a.bytes))) ∧
    (a.k ≠ 0 → a.k ≠ 2 → a.k ≠ 4 → exec .hostBarRead s = .next (s.hostOut (.completerAbort a.t)) ∧ exec .hostBarWrite s = .next s) ∧
    exec .hostAtomicOp s = .next (s.hostOut (.completerAbort a.t)) ∧
    (let busy : Prop := ∃ v, (v = 8 ∨ v = 9) ∧ ∃ l, l ∈ (s.lu v).launches ∧ l.state ≠ .ended
     (a.v = 3 → ¬busy → exec .pcieD3hot s = .next ((s.modDie (8 + a.t) (fun D => { D with d3 := true })).hostOut (.powerState a.t 3))) ∧
     ((a.v ≠ 3 ∨ busy) → exec .pcieD3hot s = .next ((s.modDie (8 + a.t) (fun D => { D with d3 := false })).hostOut (.powerState a.t 0)))) ∧
    exec .getchain s = .next (s.hostOut (.doe a.t Config.certChain)) ∧
    (let resp := (setBits 16 (a.v % 2 ^ 16)).flatMap (fun j => digestBytes (s.mr j)) ++ a.bytes
     exec .getmeas s = .next (s.hostOut (.doe a.t (resp ++ Config.sign (digestBytes (s.mr 0) ++ digestBytes (Config.shake256 (leBytes 1 2 ++ a.bytes ++ leBytes 2 a.v ++ resp))))))) ∧
    (7 ≤ a.k → a.k ≤ 15 → a.bytes.length = 64 →
      exec .extendMr s = .next ((s.extendMr a.k a.bytes).hostOut (.doe a.t (digestBytes ((s.extendMr a.k a.bytes).mr a.k))))) ∧
    ((a.k < 7 ∨ 15 < a.k ∨ a.bytes.length ≠ 64) → exec .extendMr s = .next (s.hostOut (.doeError a.t))) ∧
    exec .cxlDeviceEvent s = .next (s.logError a.t (4 + a.k % 8 / 2) (!a.ok) cDEVICE a.v 0) ∧
    exec .aerLinkError s = .next ((s.logError a.t 0 (!a.ok) cLINK 0 0).hostOut (.aer a.t (!a.ok))) ∧
    (let q := a.k; let vd := netVd q
     ∀ r, s.netFind vd q a.n = some r → r.sent = true →
       exec .retransmissionExhaustion s = .next (s.netFail vd r) ∧
       (leNat (r.wr.take 64) % 4 = 0 → exec .netWriteAck s = .next (s.netDone vd r)) ∧
       (leNat (r.wr.take 64) % 4 = 1 → r.data = [] →
         exec .netReadData s = .next ((s.modNet vd r.id (fun r => { r with data := a.bytes.take (wrLen r.w) })).emitOnce ⟨.engineStep, { t := vd, k := 7, v := r.id }⟩))) ∧
    (∀ r, let vd := a.t; let u := s.netUnit vd r
     a.k = 7 → (s.die vd).net.find? (fun r => r.id == a.v) = some r → (s.die vd).stopped = false → s.unitBusy u = false → s.netBehind vd r = false →
      ((s.die vd).outs.find? (fun o => o.ev == u.ev && o.path < 16 && o.got.isSome) = none → s.unitFull vd u.ag = false → r.sent = true → r.data.length ≤ r.at_ → (r.incoming = true ∨ r.data ≠ []) →
        exec .engineStep s = .next (s.netDone vd r)) ∧
      ((s.die vd).outs.find? (fun o => o.ev == u.ev && o.path < 16 && o.got.isSome) = none → s.unitFull vd u.ag = false → r.sent = true → r.at_ < r.data.length →
        ∀ pa v, s.netPlace vd r r.at_ r.data.length 5 = (some (.ok pa), v) →
          let bs := (r.data.drop r.at_).take (min (r.data.length - r.at_) (256 - pa % 256))
          exec .engineStep s = .next ((v.unitPut u pa ((s.netLa vd r + r.at_) % 2 ^ 48) bs).modNet vd r.id (fun r => { r with at_ := r.at_ + bs.length })))) ∧
    (let vd := iodVd a.t; let e := s.rxW a.t a.k 0; let id_ := (s.die vd).netSeq
     ((e.testBit 0 = false ∨ s.rxW a.t a.k 2 % 2 ^ 32 < a.v + a.bytes.length) → exec .netIncomingWrite s = .next (s.ethOut (.refuse vd a.n))) ∧
     (e.testBit 0 = true → a.v + a.bytes.length ≤ s.rxW a.t a.k 2 % 2 ^ 32 →
       let r : NetReq := { q := 2048 + a.k % 2048, n := a.n, wr := leBytes 64 (if a.ok then 4 else 0), ctx := noCtx, id := id_, off := a.v, at_ := 0, data := a.bytes, sent := true }
       exec .netIncomingWrite s = .next ((s.modDie vd (fun D => { D with net := D.net ++ [r], netSeq := id_ + 1 })).emitOnce ⟨.engineStep, { t := vd, k := 7, v := id_ }⟩))) ∧
    (∀ i, i = .pcieCompletion ∨ i = .cxlMemResponse →
      ((s.die a.t).ioWait.find? (fun w => w.1 == a.k) = none → exec i s = .next s) ∧
      (∀ n pa ev, (s.die a.t).ioWait.find? (fun w => w.1 == a.k) = some (n, pa, ev) →
        let u : State := { s.modDie a.t (fun D => { D with ioWait := dropFirst (fun w => w.1 == a.k) D.ioWait }) with arg := ev.arg }
        let m := ev.arg.msg
        let bad := if a.ok then 0 else if a.v = 0 then 2 ^ cdiv (m.len + 1) 64 - 1 else a.v
        (ev.i = .rd → exec i s = .next (u.readAnswer (a.bytes.take (m.len + 1)) bad)) ∧
        (ev.i = .rsv → spaceOf pa = 2 → exec i s = .next ((u.readAnswer (a.bytes.take 4) bad).unreserve pa m)) ∧
        (ev.i = .rsv → spaceOf pa ≠ 2 → exec i s = .next (u.answer .rsvgnt (fun r => { r with aux0 := BitVec.ofNat 64 (leNat (a.bytes.take 8)), attr := BitVec.ofNat 32 (min bad 1) }))) ∧
        (ev.i = .cwpost → a.ok = true →
          exec i s = .next (((u.performOut (eidDie m.dst) pa (leBytes 8 (postValue (leNat (a.bytes.take 8)) m.aux0.toNat (m.attr.getLsbD 0)))).unreserve pa { m with len := 7 }).answer .wrack id)) ∧
        (ev.i = .watchInstall → exec i s = .next (u.watchWith pa (leNat (a.bytes.take 8)))))) ∧
    (let e := ({ s with links := [], egress := [] } : State).endAllLaunches
     let sent := (e.pool ++ e.egress.map (·.2)).filter (fun (ev : Ev) => (ev.i == .cwpost || ev.i == .wr) && decide (8 ≤ eidDie ev.arg.msg.src) && eidPkg ev.arg.msg.dst == s.pkg)
     let r0 : State := { State.reset with pkg := s.pkg, mem := e.mem, ecc := e.ecc, boot := s.boot, host := e.host, eth := e.eth, now := s.now, agenda := s.agenda, freeCtr := e.freeCtr, ecc1 := e.ecc1, pool := sent }
     exec .packageReset s = .next (r0.emit ⟨.boot, { boot := s.boot }⟩)) ∧
    (let u : State := { s with boot := a.boot, pkg := a.boot.pkg % 4096 }
     (a.boot.signatureGood = false → exec .boot s = .next ((u.setReg 0 BOOTST bootFAILED).setReg 1 BOOTST bootFAILED)) ∧
     let dies := assignedDies a.boot; let comp := dies.filter (· < 4)
     let u0 := u.extendMr 0 (digestBytes a.boot.imageDigest); let tab := topoTable u.pkg dies
     (a.boot.signatureGood = true → comp = [] → exec .boot s = .next (u0.setReg 0 BOOTST bootFAILED)) ∧
     (∀ v rest, a.boot.signatureGood = true → comp = v :: rest →
      let u1 := (((comp.foldl (fun (s : State) d => s.measureFree (2 + d)) (if 9 ∈ dies then u0.measureFree 1 else u0)).extendMr 6 tab).bootDrt dies)
      let u2 := ((dies.foldl (fun (s : State) d => s.modDie d (fun D => { D with vdAssigned := some (d, u1.pkg), enabled := true })) u1).bootLinks dies).homeWrite (v * 2 ^ 37) tab
      exec .boot s = .next ((dies.filter (8 ≤ ·)).foldl (fun (s : State) d => (s.setReg (d - 8) BOOTST 3).setReg (d - 8) TOPOPA (v * 2 ^ 37)) (if 9 ∈ dies then u2 else u2.setReg 1 BOOTST 2))))

/-! ### Registers with a generator, the rotation, reset (R169, R318-R320, R163, R311, R345, R346) -/

/-- R169: RNGS is CSR 0x005, read and written in all its bits at every level, with reset value 1; a write of zero stores 1. -/
def Obligations.GeneratorRegister : Prop :=
  (∀ t k, (State.reset.slot t k).rngs = 1) ∧
  ∀ (s : State) (pl t k vd : Nat) (v : Word),
    s.csrRead t k 0x005 = (s.slot t k).rngs ∧ ((s.csrWrite pl t k vd 0x005 0xFFFFFFFF v).slot t k).rngs = if v = 0 then 1 else v

/-- R319: the choice of COMPACT mode: slot 7 first, then the first eligible slot after ptr; ptr follows an issue of slots 0-6 in that mode, an attempt
that blocked changes nothing, a tile with nothing eligible is idle, and ptr starts at 6. -/
def Obligations.CompactRotation : Prop :=
  (∀ t, (State.reset.tile t).ptr = 6) ∧
  (∀ (T : Tile) (n k : Nat), T.rot.getLsbD 0 = false →
    (T.eligible n 7 = true → (T.pick n = some k ↔ k = 7)) ∧
    (T.eligible n 7 = false →
      (T.pick n = some k ↔ ∃ i, i < 7 ∧ k = (T.ptr + 1 + i) % 7 ∧ T.eligible n k = true ∧ ∀ j, j < i → T.eligible n ((T.ptr + 1 + j) % 7) = false) ∧
      (T.pick n = none ↔ ∀ i, i < 7 → T.eligible n i = false))) ∧
  (∀ (s : State) (t k : Nat),
    ((s.slot t k).run = .ready → (s.slot t k).isVisitor = false →
      (((s.noteIssue t k).tile t).ptr = if k < 7 ∧ (s.tile t).rot.getLsbD 0 = false then k else (s.tile t).ptr) ∧ ((s.noteIssue t k).slot t k).lastIssue = some (s.clock (vdOf t))) ∧
    ((s.slot t k).run = .blocked .register → s.noteIssue t k = s) ∧
    (s.canIssue t = none → stepTile t s = .next s))

/-- What reset leaves (R163, R311, R346, R361; that unwritten memory reads 0, that ST is 0 and that ADMASK is 0xF are the model's choices,
log entries 1, 3 and 27): no thread in any slot, every register full, no launch, nothing queued, AGEP and the power and clock registers
at their stated values, and the canonical form of memory. -/
def Obligations.ResetState : Prop :=
  State.reset.MemOk ∧ State.reset.mem = [] ∧ State.reset.pool = [] ∧ State.reset.timers = [] ∧ State.reset.images = [] ∧
  (∀ t k, (State.reset.slot t k).occ = .free ∧ (State.reset.slot t k).fe = 0xFFFFFFFF ∧ (State.reset.slot t k).st = 0) ∧
  (∀ vd, vd = 8 ∨ vd = 9 → (State.reset.die vd).agep = 0x100000 ∧ State.reset.admask vd = 0xF ∧ (State.reset.lu vd).launches = []) ∧
  (∀ vd, vd < 4 → (State.reset.die vd).plimit = 560) ∧ (State.reset.die 8).plimit = 230 ∧ (State.reset.die 9).plimit = 230 ∧
  (∀ vd, vd < 4 ∨ vd = 8 ∨ vd = 9 →
    let D := State.reset.die vd
    D.pathr = 8192 ∧ D.pcap = 0x40000 ∧ D.pleave = 0 ∧ D.vfstat = BitVec.ofNat 32 (2000 + 650 * 2 ^ 12) ∧ D.vfmax = 2200 ∧ D.pwr = 0 ∧ D.temp = 0 ∧ D.grants = 0 ∧ D.throt = 0)

/-! ### The step, and the encoding (R176, R177, R180, R9) -/

/-- A step runs what it fetches: when the agenda's turn falls to a tile whose picked slot has no pending cause, the word at its pc
decides: an instruction's own meaning follows, and the tile notes the issue; a word that decodes to none raises ILL with that word.
The word is the four bytes, lowest first, at the translated address, or what their home has sent. An event is performed with its own operands. Nothing but an
agenda that names no tile of the package ends in anything else than a next state. -/
def Obligations.StepRunsDecoded : Prop :=
  ∀ (s : State) (t k : Nat) (rest : List Turn),
    (let s0 : State := { s with agenda := rest }
     let s1 := ({ s0 with cur := (t, k) } : State).modTh (fun h => { h with yielded := false })
     s.agenda = .tile t :: rest → isComputeTile t = true → s0.prompt (fun x => x == t) = none → s0.canIssue t = some k → s1.th.hasCause = false → s1.th.isVisitor = false → s1.engStopped t k = none →
      s1.th.redo = [] →
      ∀ w u, s1.fetch = .ok (w, u) →
        (∀ i, decodeWord w = .ok i → u.th.mismatch = 0 →
          (∀ v, exec i u = .next v → step s = .next (v.noteIssue t k)) ∧ (∀ f, exec i u = .fault f → step s = .fault f) ∧ (∀ f, exec i u = .refused f → step s = .refused f)) ∧
        (∀ e, decodeWord w = .error e → step s = .next ((u.trap tILL 0 (BitVec.ofNat 32 w)).noteIssue t k))) ∧
    (∀ p pa u, seg rFetch 7 s.th.pc.toNat 4 s = .ok p → s.th.pc.toNat % 4 = 0 → p.sp = false → p0Translate p.at_ 0 4 0 s = .ok (pa, u) → u.fetchRefused pa = none →
      let v := u.dropNodes s.cur.1 (512 + s.cur.2) p.at_
      (u.afar pa = false → u.eccBad pa 4 = false → s.fetch = .ok (rdLE u.mem pa 4, v.readCheck pa 4 (v.ctxName v.cur.1 v.cur.2))) ∧
      (∀ w, u.afar pa = true → (u.tile s.cur.1).nodeAt (512 + s.cur.2) p.at_ pa = some w → w < 2 ^ 32 → s.fetch = .ok (w, v))) ∧
    (∀ p, seg rFetch 7 s.th.pc.toNat 4 s = .ok p → s.th.pc.toNat % 4 ≠ 0 → s.fetch = .error (s.trap tALIGN 0 s.th.pc)) ∧
    (∀ n m e, s.agenda = .event n :: rest → ({ s with agenda := rest } : State).choose n = some m → s.pool[m]? = some e →
      step s = exec e.i { s with agenda := rest, pool := s.pool.eraseIdx m, arg := e.arg })

/-- Every instruction and every event has a next state from every state; a step ends otherwise only on an agenda that names no tile
(the model's own stop, R111). -/
def Obligations.EveryInstructionProceeds : Prop :=
  (∀ (i : Instr) (s : State), ∃ t, exec i s = .next t) ∧
  ∀ s : State, (∃ t, step s = .next t) ∨ ∃ n rest, s.agenda = .tile n :: rest ∧ 1024 ≤ n ∧ step s = .fault (.noSuchTile n)

/-- Every instruction, every event and every step keep memory in its canonical form: addresses strictly rising, no byte listed that
equals an unlisted one. (That an unlisted byte reads 0 is the model's choice, log entry 1.) -/
def Obligations.MemoryStaysCanonical : Prop :=
  (∀ (i : Instr) (s t : State), s.MemOk → exec i s = .next t → t.MemOk) ∧
  ∀ s t : State, s.MemOk → step s = .next t → t.MemOk

/-- Words assembled field by field in the spec's own tables decode to the instructions they stand for; the two illegal words and an
unassigned major do not decode. -/
def Obligations.WordsDecode : Prop :=
  decodeWord 0x02284181 = .ok (.add 3 ⟨4, 0⟩ ⟨5, 2⟩) ∧ decodeWord 0x04418290 = .ok (.ldw 5 2 ⟨6, 0⟩ 4) ∧ decodeWord 0xFE202394 = .ok (.stw ⟨7, 2⟩ 1 ⟨0, 0⟩ 0xFE) ∧
  decodeWord 0xFFF44CA0 = .ok (.bnez ⟨9, 0⟩ 0x3FFD 1) ∧ decodeWord 0x1018001B = .ok (.fence 2 3) ∧ decodeWord 0x101820A9 = .ok (.fmadd 1 ⟨2, 0⟩ ⟨3, 0⟩ 4) ∧
  decodeWord 0x2848829A = .ok (.cas 5 2 ⟨8, 0⟩ ⟨9, 0⟩) ∧ decodeWord 0x6628461C = .ok (.acqX 12 1 ⟨4, 0⟩ ⟨5, 2⟩) ∧ decodeWord 0x010E0030 = .ok (.mma ⟨0, 0⟩ ⟨7, 0⟩) ∧
  decodeWord 0x078608B0 = .ok (.vfma ⟨2, 0⟩ ⟨3, 2⟩) ∧ decodeWord 0x06802531 = .ok (.erd 9 2 64) ∧ decodeWord 0x040051CB = .ok (.trap ⟨5, 0⟩ 3) ∧
  decodeWord 0x4848864C = .ok (.spawn 12 2 ⟨8, 0⟩ ⟨9, 0⟩) ∧ decodeWord 0x00180249 = .ok (.csrbs 4 ⟨0, 0⟩ 3) ∧
  decodeWord 0 = .error .illegalWord ∧ decodeWord 0xFFFFFFFF = .error .illegalWord ∧ decodeWord 0x7F = .error .illegalMajor

/-- Decoding the encoded word of a well-formed instruction gives it back, with every operand at every value its field admits. -/
def Obligations.EncodeDecode : Prop :=
  ∀ i : Instr, i.wellFormed = true → ∀ w, encode i = some w → w < 2 ^ 32 ∧ decodeWord w = .ok i ∧ decodeTableWord 32 w = some i
end

