-- ==== Sys2Proof/Laws/State.lean ====
section
/-! SUPPORT. One lemma per field for each update of the state, a tile or a slot, so that proofs need not unfold a record
update, and reading back what an update of a place wrote. -/

namespace Sys2Proof.Machine
open Sys2Proof

/-! ### The state -/

@[simp] theorem State.setTile_pkg (s : State) (t : Nat) (v : Tile) : (s.setTile t v).pkg = s.pkg := rfl
@[simp] theorem State.setTile_mem (s : State) (t : Nat) (v : Tile) : (s.setTile t v).mem = s.mem := rfl
@[simp] theorem State.setTile_ecc (s : State) (t : Nat) (v : Tile) : (s.setTile t v).ecc = s.ecc := rfl
@[simp] theorem State.setTile_ecc1 (s : State) (t : Nat) (v : Tile) : (s.setTile t v).ecc1 = s.ecc1 := rfl
@[simp] theorem State.setTile_dies (s : State) (t : Nat) (v : Tile) : (s.setTile t v).dies = s.dies := rfl
@[simp] theorem State.setTile_mmio (s : State) (t : Nat) (v : Tile) : (s.setTile t v).mmio = s.mmio := rfl
@[simp] theorem State.setTile_links (s : State) (t : Nat) (v : Tile) : (s.setTile t v).links = s.links := rfl
@[simp] theorem State.setTile_nextCrew (s : State) (t : Nat) (v : Tile) : (s.setTile t v).nextCrew = s.nextCrew := rfl
@[simp] theorem State.setTile_images (s : State) (t : Nat) (v : Tile) : (s.setTile t v).images = s.images := rfl
@[simp] theorem State.setTile_boot (s : State) (t : Nat) (v : Tile) : (s.setTile t v).boot = s.boot := rfl
@[simp] theorem State.setTile_cur (s : State) (t : Nat) (v : Tile) : (s.setTile t v).cur = s.cur := rfl
@[simp] theorem State.setTile_pool (s : State) (t : Nat) (v : Tile) : (s.setTile t v).pool = s.pool := rfl
@[simp] theorem State.setTile_timers (s : State) (t : Nat) (v : Tile) : (s.setTile t v).timers = s.timers := rfl
@[simp] theorem State.setTile_now (s : State) (t : Nat) (v : Tile) : (s.setTile t v).now = s.now := rfl
@[simp] theorem State.setTile_agenda (s : State) (t : Nat) (v : Tile) : (s.setTile t v).agenda = s.agenda := rfl
@[simp] theorem State.setTile_egress (s : State) (t : Nat) (v : Tile) : (s.setTile t v).egress = s.egress := rfl
@[simp] theorem State.setTile_host (s : State) (t : Nat) (v : Tile) : (s.setTile t v).host = s.host := rfl
@[simp] theorem State.setTile_eth (s : State) (t : Nat) (v : Tile) : (s.setTile t v).eth = s.eth := rfl
@[simp] theorem State.setTile_freeCtr (s : State) (t : Nat) (v : Tile) : (s.setTile t v).freeCtr = s.freeCtr := rfl
@[simp] theorem State.setTile_arg (s : State) (t : Nat) (v : Tile) : (s.setTile t v).arg = s.arg := rfl
@[simp] theorem State.modTile_pkg (s : State) (t : Nat) (f : Tile → Tile) : (s.modTile t f).pkg = s.pkg := rfl
@[simp] theorem State.modTile_mem (s : State) (t : Nat) (f : Tile → Tile) : (s.modTile t f).mem = s.mem := rfl
@[simp] theorem State.modTile_ecc (s : State) (t : Nat) (f : Tile → Tile) : (s.modTile t f).ecc = s.ecc := rfl
@[simp] theorem State.modTile_ecc1 (s : State) (t : Nat) (f : Tile → Tile) : (s.modTile t f).ecc1 = s.ecc1 := rfl
@[simp] theorem State.modTile_dies (s : State) (t : Nat) (f : Tile → Tile) : (s.modTile t f).dies = s.dies := rfl
@[simp] theorem State.modTile_mmio (s : State) (t : Nat) (f : Tile → Tile) : (s.modTile t f).mmio = s.mmio := rfl
@[simp] theorem State.modTile_links (s : State) (t : Nat) (f : Tile → Tile) : (s.modTile t f).links = s.links := rfl
@[simp] theorem State.modTile_nextCrew (s : State) (t : Nat) (f : Tile → Tile) : (s.modTile t f).nextCrew = s.nextCrew := rfl
@[simp] theorem State.modTile_images (s : State) (t : Nat) (f : Tile → Tile) : (s.modTile t f).images = s.images := rfl
@[simp] theorem State.modTile_boot (s : State) (t : Nat) (f : Tile → Tile) : (s.modTile t f).boot = s.boot := rfl
@[simp] theorem State.modTile_cur (s : State) (t : Nat) (f : Tile → Tile) : (s.modTile t f).cur = s.cur := rfl
@[simp] theorem State.modTile_pool (s : State) (t : Nat) (f : Tile → Tile) : (s.modTile t f).pool = s.pool := rfl
@[simp] theorem State.modTile_timers (s : State) (t : Nat) (f : Tile → Tile) : (s.modTile t f).timers = s.timers := rfl
@[simp] theorem State.modTile_now (s : State) (t : Nat) (f : Tile → Tile) : (s.modTile t f).now = s.now := rfl
@[simp] theorem State.modTile_agenda (s : State) (t : Nat) (f : Tile → Tile) : (s.modTile t f).agenda = s.agenda := rfl
@[simp] theorem State.modTile_egress (s : State) (t : Nat) (f : Tile → Tile) : (s.modTile t f).egress = s.egress := rfl
@[simp] theorem State.modTile_host (s : State) (t : Nat) (f : Tile → Tile) : (s.modTile t f).host = s.host := rfl
@[simp] theorem State.modTile_eth (s : State) (t : Nat) (f : Tile → Tile) : (s.modTile t f).eth = s.eth := rfl
@[simp] theorem State.modTile_freeCtr (s : State) (t : Nat) (f : Tile → Tile) : (s.modTile t f).freeCtr = s.freeCtr := rfl
@[simp] theorem State.modTile_arg (s : State) (t : Nat) (f : Tile → Tile) : (s.modTile t f).arg = s.arg := rfl
@[simp] theorem State.setSlot_pkg (s : State) (t k : Nat) (v : Slot) : (s.setSlot t k v).pkg = s.pkg := rfl
@[simp] theorem State.setSlot_mem (s : State) (t k : Nat) (v : Slot) : (s.setSlot t k v).mem = s.mem := rfl
@[simp] theorem State.setSlot_ecc (s : State) (t k : Nat) (v : Slot) : (s.setSlot t k v).ecc = s.ecc := rfl
@[simp] theorem State.setSlot_ecc1 (s : State) (t k : Nat) (v : Slot) : (s.setSlot t k v).ecc1 = s.ecc1 := rfl
@[simp] theorem State.setSlot_dies (s : State) (t k : Nat) (v : Slot) : (s.setSlot t k v).dies = s.dies := rfl
@[simp] theorem State.setSlot_mmio (s : State) (t k : Nat) (v : Slot) : (s.setSlot t k v).mmio = s.mmio := rfl
@[simp] theorem State.setSlot_links (s : State) (t k : Nat) (v : Slot) : (s.setSlot t k v).links = s.links := rfl
@[simp] theorem State.setSlot_nextCrew (s : State) (t k : Nat) (v : Slot) : (s.setSlot t k v).nextCrew = s.nextCrew := rfl
@[simp] theorem State.setSlot_images (s : State) (t k : Nat) (v : Slot) : (s.setSlot t k v).images = s.images := rfl
@[simp] theorem State.setSlot_boot (s : State) (t k : Nat) (v : Slot) : (s.setSlot t k v).boot = s.boot := rfl
@[simp] theorem State.setSlot_cur (s : State) (t k : Nat) (v : Slot) : (s.setSlot t k v).cur = s.cur := rfl
@[simp] theorem State.setSlot_pool (s : State) (t k : Nat) (v : Slot) : (s.setSlot t k v).pool = s.pool := rfl
@[simp] theorem State.setSlot_timers (s : State) (t k : Nat) (v : Slot) : (s.setSlot t k v).timers = s.timers := rfl
@[simp] theorem State.setSlot_now (s : State) (t k : Nat) (v : Slot) : (s.setSlot t k v).now = s.now := rfl
@[simp] theorem State.setSlot_agenda (s : State) (t k : Nat) (v : Slot) : (s.setSlot t k v).agenda = s.agenda := rfl
@[simp] theorem State.setSlot_egress (s : State) (t k : Nat) (v : Slot) : (s.setSlot t k v).egress = s.egress := rfl
@[simp] theorem State.setSlot_host (s : State) (t k : Nat) (v : Slot) : (s.setSlot t k v).host = s.host := rfl
@[simp] theorem State.setSlot_eth (s : State) (t k : Nat) (v : Slot) : (s.setSlot t k v).eth = s.eth := rfl
@[simp] theorem State.setSlot_freeCtr (s : State) (t k : Nat) (v : Slot) : (s.setSlot t k v).freeCtr = s.freeCtr := rfl
@[simp] theorem State.setSlot_arg (s : State) (t k : Nat) (v : Slot) : (s.setSlot t k v).arg = s.arg := rfl
@[simp] theorem State.modSlot_pkg (s : State) (t k : Nat) (f : Slot → Slot) : (s.modSlot t k f).pkg = s.pkg := rfl
@[simp] theorem State.modSlot_mem (s : State) (t k : Nat) (f : Slot → Slot) : (s.modSlot t k f).mem = s.mem := rfl
@[simp] theorem State.modSlot_ecc (s : State) (t k : Nat) (f : Slot → Slot) : (s.modSlot t k f).ecc = s.ecc := rfl
@[simp] theorem State.modSlot_ecc1 (s : State) (t k : Nat) (f : Slot → Slot) : (s.modSlot t k f).ecc1 = s.ecc1 := rfl
@[simp] theorem State.modSlot_dies (s : State) (t k : Nat) (f : Slot → Slot) : (s.modSlot t k f).dies = s.dies := rfl
@[simp] theorem State.modSlot_mmio (s : State) (t k : Nat) (f : Slot → Slot) : (s.modSlot t k f).mmio = s.mmio := rfl
@[simp] theorem State.modSlot_links (s : State) (t k : Nat) (f : Slot → Slot) : (s.modSlot t k f).links = s.links := rfl
@[simp] theorem State.modSlot_nextCrew (s : State) (t k : Nat) (f : Slot → Slot) : (s.modSlot t k f).nextCrew = s.nextCrew := rfl
@[simp] theorem State.modSlot_images (s : State) (t k : Nat) (f : Slot → Slot) : (s.modSlot t k f).images = s.images := rfl
@[simp] theorem State.modSlot_boot (s : State) (t k : Nat) (f : Slot → Slot) : (s.modSlot t k f).boot = s.boot := rfl
@[simp] theorem State.modSlot_cur (s : State) (t k : Nat) (f : Slot → Slot) : (s.modSlot t k f).cur = s.cur := rfl
@[simp] theorem State.modSlot_pool (s : State) (t k : Nat) (f : Slot → Slot) : (s.modSlot t k f).pool = s.pool := rfl
@[simp] theorem State.modSlot_timers (s : State) (t k : Nat) (f : Slot → Slot) : (s.modSlot t k f).timers = s.timers := rfl
@[simp] theorem State.modSlot_now (s : State) (t k : Nat) (f : Slot → Slot) : (s.modSlot t k f).now = s.now := rfl
@[simp] theorem State.modSlot_agenda (s : State) (t k : Nat) (f : Slot → Slot) : (s.modSlot t k f).agenda = s.agenda := rfl
@[simp] theorem State.modSlot_egress (s : State) (t k : Nat) (f : Slot → Slot) : (s.modSlot t k f).egress = s.egress := rfl
@[simp] theorem State.modSlot_host (s : State) (t k : Nat) (f : Slot → Slot) : (s.modSlot t k f).host = s.host := rfl
@[simp] theorem State.modSlot_eth (s : State) (t k : Nat) (f : Slot → Slot) : (s.modSlot t k f).eth = s.eth := rfl
@[simp] theorem State.modSlot_freeCtr (s : State) (t k : Nat) (f : Slot → Slot) : (s.modSlot t k f).freeCtr = s.freeCtr := rfl
@[simp] theorem State.modSlot_arg (s : State) (t k : Nat) (f : Slot → Slot) : (s.modSlot t k f).arg = s.arg := rfl
@[simp] theorem State.modTh_pkg (s : State) (f : Slot → Slot) : (s.modTh f).pkg = s.pkg := rfl
@[simp] theorem State.modTh_mem (s : State) (f : Slot → Slot) : (s.modTh f).mem = s.mem := rfl
@[simp] theorem State.modTh_ecc (s : State) (f : Slot → Slot) : (s.modTh f).ecc = s.ecc := rfl
@[simp] theorem State.modTh_ecc1 (s : State) (f : Slot → Slot) : (s.modTh f).ecc1 = s.ecc1 := rfl
@[simp] theorem State.modTh_dies (s : State) (f : Slot → Slot) : (s.modTh f).dies = s.dies := rfl
@[simp] theorem State.modTh_mmio (s : State) (f : Slot → Slot) : (s.modTh f).mmio = s.mmio := rfl
@[simp] theorem State.modTh_links (s : State) (f : Slot → Slot) : (s.modTh f).links = s.links := rfl
@[simp] theorem State.modTh_nextCrew (s : State) (f : Slot → Slot) : (s.modTh f).nextCrew = s.nextCrew := rfl
@[simp] theorem State.modTh_images (s : State) (f : Slot → Slot) : (s.modTh f).images = s.images := rfl
@[simp] theorem State.modTh_boot (s : State) (f : Slot → Slot) : (s.modTh f).boot = s.boot := rfl
@[simp] theorem State.modTh_cur (s : State) (f : Slot → Slot) : (s.modTh f).cur = s.cur := rfl
@[simp] theorem State.modTh_pool (s : State) (f : Slot → Slot) : (s.modTh f).pool = s.pool := rfl
@[simp] theorem State.modTh_timers (s : State) (f : Slot → Slot) : (s.modTh f).timers = s.timers := rfl
@[simp] theorem State.modTh_now (s : State) (f : Slot → Slot) : (s.modTh f).now = s.now := rfl
@[simp] theorem State.modTh_agenda (s : State) (f : Slot → Slot) : (s.modTh f).agenda = s.agenda := rfl
@[simp] theorem State.modTh_egress (s : State) (f : Slot → Slot) : (s.modTh f).egress = s.egress := rfl
@[simp] theorem State.modTh_host (s : State) (f : Slot → Slot) : (s.modTh f).host = s.host := rfl
@[simp] theorem State.modTh_eth (s : State) (f : Slot → Slot) : (s.modTh f).eth = s.eth := rfl
@[simp] theorem State.modTh_freeCtr (s : State) (f : Slot → Slot) : (s.modTh f).freeCtr = s.freeCtr := rfl
@[simp] theorem State.modTh_arg (s : State) (f : Slot → Slot) : (s.modTh f).arg = s.arg := rfl
@[simp] theorem State.setDie_pkg (s : State) (n : Nat) (v : Die) : (s.setDie n v).pkg = s.pkg := rfl
@[simp] theorem State.setDie_mem (s : State) (n : Nat) (v : Die) : (s.setDie n v).mem = s.mem := rfl
@[simp] theorem State.setDie_ecc (s : State) (n : Nat) (v : Die) : (s.setDie n v).ecc = s.ecc := rfl
@[simp] theorem State.setDie_ecc1 (s : State) (n : Nat) (v : Die) : (s.setDie n v).ecc1 = s.ecc1 := rfl
@[simp] theorem State.setDie_tiles (s : State) (n : Nat) (v : Die) : (s.setDie n v).tiles = s.tiles := rfl
@[simp] theorem State.setDie_mmio (s : State) (n : Nat) (v : Die) : (s.setDie n v).mmio = s.mmio := rfl
@[simp] theorem State.setDie_links (s : State) (n : Nat) (v : Die) : (s.setDie n v).links = s.links := rfl
@[simp] theorem State.setDie_nextCrew (s : State) (n : Nat) (v : Die) : (s.setDie n v).nextCrew = s.nextCrew := rfl
@[simp] theorem State.setDie_images (s : State) (n : Nat) (v : Die) : (s.setDie n v).images = s.images := rfl
@[simp] theorem State.setDie_boot (s : State) (n : Nat) (v : Die) : (s.setDie n v).boot = s.boot := rfl
@[simp] theorem State.setDie_cur (s : State) (n : Nat) (v : Die) : (s.setDie n v).cur = s.cur := rfl
@[simp] theorem State.setDie_pool (s : State) (n : Nat) (v : Die) : (s.setDie n v).pool = s.pool := rfl
@[simp] theorem State.setDie_timers (s : State) (n : Nat) (v : Die) : (s.setDie n v).timers = s.timers := rfl
@[simp] theorem State.setDie_now (s : State) (n : Nat) (v : Die) : (s.setDie n v).now = s.now := rfl
@[simp] theorem State.setDie_agenda (s : State) (n : Nat) (v : Die) : (s.setDie n v).agenda = s.agenda := rfl
@[simp] theorem State.setDie_egress (s : State) (n : Nat) (v : Die) : (s.setDie n v).egress = s.egress := rfl
@[simp] theorem State.setDie_host (s : State) (n : Nat) (v : Die) : (s.setDie n v).host = s.host := rfl
@[simp] theorem State.setDie_eth (s : State) (n : Nat) (v : Die) : (s.setDie n v).eth = s.eth := rfl
@[simp] theorem State.setDie_freeCtr (s : State) (n : Nat) (v : Die) : (s.setDie n v).freeCtr = s.freeCtr := rfl
@[simp] theorem State.setDie_arg (s : State) (n : Nat) (v : Die) : (s.setDie n v).arg = s.arg := rfl
@[simp] theorem State.modDie_pkg (s : State) (n : Nat) (f : Die → Die) : (s.modDie n f).pkg = s.pkg := rfl
@[simp] theorem State.modDie_mem (s : State) (n : Nat) (f : Die → Die) : (s.modDie n f).mem = s.mem := rfl
@[simp] theorem State.modDie_ecc (s : State) (n : Nat) (f : Die → Die) : (s.modDie n f).ecc = s.ecc := rfl
@[simp] theorem State.modDie_ecc1 (s : State) (n : Nat) (f : Die → Die) : (s.modDie n f).ecc1 = s.ecc1 := rfl
@[simp] theorem State.modDie_tiles (s : State) (n : Nat) (f : Die → Die) : (s.modDie n f).tiles = s.tiles := rfl
@[simp] theorem State.modDie_mmio (s : State) (n : Nat) (f : Die → Die) : (s.modDie n f).mmio = s.mmio := rfl
@[simp] theorem State.modDie_links (s : State) (n : Nat) (f : Die → Die) : (s.modDie n f).links = s.links := rfl
@[simp] theorem State.modDie_nextCrew (s : State) (n : Nat) (f : Die → Die) : (s.modDie n f).nextCrew = s.nextCrew := rfl
@[simp] theorem State.modDie_images (s : State) (n : Nat) (f : Die → Die) : (s.modDie n f).images = s.images := rfl
@[simp] theorem State.modDie_boot (s : State) (n : Nat) (f : Die → Die) : (s.modDie n f).boot = s.boot := rfl
@[simp] theorem State.modDie_cur (s : State) (n : Nat) (f : Die → Die) : (s.modDie n f).cur = s.cur := rfl
@[simp] theorem State.modDie_pool (s : State) (n : Nat) (f : Die → Die) : (s.modDie n f).pool = s.pool := rfl
@[simp] theorem State.modDie_timers (s : State) (n : Nat) (f : Die → Die) : (s.modDie n f).timers = s.timers := rfl
@[simp] theorem State.modDie_now (s : State) (n : Nat) (f : Die → Die) : (s.modDie n f).now = s.now := rfl
@[simp] theorem State.modDie_agenda (s : State) (n : Nat) (f : Die → Die) : (s.modDie n f).agenda = s.agenda := rfl
@[simp] theorem State.modDie_egress (s : State) (n : Nat) (f : Die → Die) : (s.modDie n f).egress = s.egress := rfl
@[simp] theorem State.modDie_host (s : State) (n : Nat) (f : Die → Die) : (s.modDie n f).host = s.host := rfl
@[simp] theorem State.modDie_eth (s : State) (n : Nat) (f : Die → Die) : (s.modDie n f).eth = s.eth := rfl
@[simp] theorem State.modDie_freeCtr (s : State) (n : Nat) (f : Die → Die) : (s.modDie n f).freeCtr = s.freeCtr := rfl
@[simp] theorem State.modDie_arg (s : State) (n : Nat) (f : Die → Die) : (s.modDie n f).arg = s.arg := rfl
@[simp] theorem State.emit_pkg (s : State) (e : Ev) : (s.emit e).pkg = s.pkg := rfl
@[simp] theorem State.emit_mem (s : State) (e : Ev) : (s.emit e).mem = s.mem := rfl
@[simp] theorem State.emit_ecc (s : State) (e : Ev) : (s.emit e).ecc = s.ecc := rfl
@[simp] theorem State.emit_ecc1 (s : State) (e : Ev) : (s.emit e).ecc1 = s.ecc1 := rfl
@[simp] theorem State.emit_tiles (s : State) (e : Ev) : (s.emit e).tiles = s.tiles := rfl
@[simp] theorem State.emit_dies (s : State) (e : Ev) : (s.emit e).dies = s.dies := rfl
@[simp] theorem State.emit_mmio (s : State) (e : Ev) : (s.emit e).mmio = s.mmio := rfl
@[simp] theorem State.emit_links (s : State) (e : Ev) : (s.emit e).links = s.links := rfl
@[simp] theorem State.emit_nextCrew (s : State) (e : Ev) : (s.emit e).nextCrew = s.nextCrew := rfl
@[simp] theorem State.emit_images (s : State) (e : Ev) : (s.emit e).images = s.images := rfl
@[simp] theorem State.emit_boot (s : State) (e : Ev) : (s.emit e).boot = s.boot := rfl
@[simp] theorem State.emit_cur (s : State) (e : Ev) : (s.emit e).cur = s.cur := rfl
@[simp] theorem State.emit_timers (s : State) (e : Ev) : (s.emit e).timers = s.timers := rfl
@[simp] theorem State.emit_now (s : State) (e : Ev) : (s.emit e).now = s.now := rfl
@[simp] theorem State.emit_agenda (s : State) (e : Ev) : (s.emit e).agenda = s.agenda := rfl
@[simp] theorem State.emit_egress (s : State) (e : Ev) : (s.emit e).egress = s.egress := rfl
@[simp] theorem State.emit_host (s : State) (e : Ev) : (s.emit e).host = s.host := rfl
@[simp] theorem State.emit_eth (s : State) (e : Ev) : (s.emit e).eth = s.eth := rfl
@[simp] theorem State.emit_freeCtr (s : State) (e : Ev) : (s.emit e).freeCtr = s.freeCtr := rfl
@[simp] theorem State.emit_arg (s : State) (e : Ev) : (s.emit e).arg = s.arg := rfl
@[simp] theorem State.emits_pkg (s : State) (l : List Ev) : (s.emits l).pkg = s.pkg := rfl
@[simp] theorem State.emits_mem (s : State) (l : List Ev) : (s.emits l).mem = s.mem := rfl
@[simp] theorem State.emits_ecc (s : State) (l : List Ev) : (s.emits l).ecc = s.ecc := rfl
@[simp] theorem State.emits_ecc1 (s : State) (l : List Ev) : (s.emits l).ecc1 = s.ecc1 := rfl
@[simp] theorem State.emits_tiles (s : State) (l : List Ev) : (s.emits l).tiles = s.tiles := rfl
@[simp] theorem State.emits_dies (s : State) (l : List Ev) : (s.emits l).dies = s.dies := rfl
@[simp] theorem State.emits_mmio (s : State) (l : List Ev) : (s.emits l).mmio = s.mmio := rfl
@[simp] theorem State.emits_links (s : State) (l : List Ev) : (s.emits l).links = s.links := rfl
@[simp] theorem State.emits_nextCrew (s : State) (l : List Ev) : (s.emits l).nextCrew = s.nextCrew := rfl
@[simp] theorem State.emits_images (s : State) (l : List Ev) : (s.emits l).images = s.images := rfl
@[simp] theorem State.emits_boot (s : State) (l : List Ev) : (s.emits l).boot = s.boot := rfl
@[simp] theorem State.emits_cur (s : State) (l : List Ev) : (s.emits l).cur = s.cur := rfl
@[simp] theorem State.emits_timers (s : State) (l : List Ev) : (s.emits l).timers = s.timers := rfl
@[simp] theorem State.emits_now (s : State) (l : List Ev) : (s.emits l).now = s.now := rfl
@[simp] theorem State.emits_agenda (s : State) (l : List Ev) : (s.emits l).agenda = s.agenda := rfl
@[simp] theorem State.emits_egress (s : State) (l : List Ev) : (s.emits l).egress = s.egress := rfl
@[simp] theorem State.emits_host (s : State) (l : List Ev) : (s.emits l).host = s.host := rfl
@[simp] theorem State.emits_eth (s : State) (l : List Ev) : (s.emits l).eth = s.eth := rfl
@[simp] theorem State.emits_freeCtr (s : State) (l : List Ev) : (s.emits l).freeCtr = s.freeCtr := rfl
@[simp] theorem State.emits_arg (s : State) (l : List Ev) : (s.emits l).arg = s.arg := rfl
@[simp] theorem State.after_pkg (s : State) (vd n : Nat) (e : Ev) : (s.after vd n e).pkg = s.pkg := rfl
@[simp] theorem State.after_mem (s : State) (vd n : Nat) (e : Ev) : (s.after vd n e).mem = s.mem := rfl
@[simp] theorem State.after_ecc (s : State) (vd n : Nat) (e : Ev) : (s.after vd n e).ecc = s.ecc := rfl
@[simp] theorem State.after_ecc1 (s : State) (vd n : Nat) (e : Ev) : (s.after vd n e).ecc1 = s.ecc1 := rfl
@[simp] theorem State.after_tiles (s : State) (vd n : Nat) (e : Ev) : (s.after vd n e).tiles = s.tiles := rfl
@[simp] theorem State.after_dies (s : State) (vd n : Nat) (e : Ev) : (s.after vd n e).dies = s.dies := rfl
@[simp] theorem State.after_mmio (s : State) (vd n : Nat) (e : Ev) : (s.after vd n e).mmio = s.mmio := rfl
@[simp] theorem State.after_links (s : State) (vd n : Nat) (e : Ev) : (s.after vd n e).links = s.links := rfl
@[simp] theorem State.after_nextCrew (s : State) (vd n : Nat) (e : Ev) : (s.after vd n e).nextCrew = s.nextCrew := rfl
@[simp] theorem State.after_images (s : State) (vd n : Nat) (e : Ev) : (s.after vd n e).images = s.images := rfl
@[simp] theorem State.after_boot (s : State) (vd n : Nat) (e : Ev) : (s.after vd n e).boot = s.boot := rfl
@[simp] theorem State.after_cur (s : State) (vd n : Nat) (e : Ev) : (s.after vd n e).cur = s.cur := rfl
@[simp] theorem State.after_pool (s : State) (vd n : Nat) (e : Ev) : (s.after vd n e).pool = s.pool := rfl
@[simp] theorem State.after_now (s : State) (vd n : Nat) (e : Ev) : (s.after vd n e).now = s.now := rfl
@[simp] theorem State.after_agenda (s : State) (vd n : Nat) (e : Ev) : (s.after vd n e).agenda = s.agenda := rfl
@[simp] theorem State.after_egress (s : State) (vd n : Nat) (e : Ev) : (s.after vd n e).egress = s.egress := rfl
@[simp] theorem State.after_host (s : State) (vd n : Nat) (e : Ev) : (s.after vd n e).host = s.host := rfl
@[simp] theorem State.after_eth (s : State) (vd n : Nat) (e : Ev) : (s.after vd n e).eth = s.eth := rfl
@[simp] theorem State.after_freeCtr (s : State) (vd n : Nat) (e : Ev) : (s.after vd n e).freeCtr = s.freeCtr := rfl
@[simp] theorem State.after_arg (s : State) (vd n : Nat) (e : Ev) : (s.after vd n e).arg = s.arg := rfl
@[simp] theorem State.unTimer_pkg (s : State) (e : Ev) : (s.unTimer e).pkg = s.pkg := rfl
@[simp] theorem State.unTimer_mem (s : State) (e : Ev) : (s.unTimer e).mem = s.mem := rfl
@[simp] theorem State.unTimer_ecc (s : State) (e : Ev) : (s.unTimer e).ecc = s.ecc := rfl
@[simp] theorem State.unTimer_ecc1 (s : State) (e : Ev) : (s.unTimer e).ecc1 = s.ecc1 := rfl
@[simp] theorem State.unTimer_tiles (s : State) (e : Ev) : (s.unTimer e).tiles = s.tiles := rfl
@[simp] theorem State.unTimer_dies (s : State) (e : Ev) : (s.unTimer e).dies = s.dies := rfl
@[simp] theorem State.unTimer_mmio (s : State) (e : Ev) : (s.unTimer e).mmio = s.mmio := rfl
@[simp] theorem State.unTimer_links (s : State) (e : Ev) : (s.unTimer e).links = s.links := rfl
@[simp] theorem State.unTimer_nextCrew (s : State) (e : Ev) : (s.unTimer e).nextCrew = s.nextCrew := rfl
@[simp] theorem State.unTimer_images (s : State) (e : Ev) : (s.unTimer e).images = s.images := rfl
@[simp] theorem State.unTimer_boot (s : State) (e : Ev) : (s.unTimer e).boot = s.boot := rfl
@[simp] theorem State.unTimer_cur (s : State) (e : Ev) : (s.unTimer e).cur = s.cur := rfl
@[simp] theorem State.unTimer_pool (s : State) (e : Ev) : (s.unTimer e).pool = s.pool := rfl
@[simp] theorem State.unTimer_now (s : State) (e : Ev) : (s.unTimer e).now = s.now := rfl
@[simp] theorem State.unTimer_agenda (s : State) (e : Ev) : (s.unTimer e).agenda = s.agenda := rfl
@[simp] theorem State.unTimer_egress (s : State) (e : Ev) : (s.unTimer e).egress = s.egress := rfl
@[simp] theorem State.unTimer_host (s : State) (e : Ev) : (s.unTimer e).host = s.host := rfl
@[simp] theorem State.unTimer_eth (s : State) (e : Ev) : (s.unTimer e).eth = s.eth := rfl
@[simp] theorem State.unTimer_freeCtr (s : State) (e : Ev) : (s.unTimer e).freeCtr = s.freeCtr := rfl
@[simp] theorem State.unTimer_arg (s : State) (e : Ev) : (s.unTimer e).arg = s.arg := rfl
@[simp] theorem State.hostOut_pkg (s : State) (h : HostOut) : (s.hostOut h).pkg = s.pkg := rfl
@[simp] theorem State.hostOut_mem (s : State) (h : HostOut) : (s.hostOut h).mem = s.mem := rfl
@[simp] theorem State.hostOut_ecc (s : State) (h : HostOut) : (s.hostOut h).ecc = s.ecc := rfl
@[simp] theorem State.hostOut_ecc1 (s : State) (h : HostOut) : (s.hostOut h).ecc1 = s.ecc1 := rfl
@[simp] theorem State.hostOut_tiles (s : State) (h : HostOut) : (s.hostOut h).tiles = s.tiles := rfl
@[simp] theorem State.hostOut_dies (s : State) (h : HostOut) : (s.hostOut h).dies = s.dies := rfl
@[simp] theorem State.hostOut_mmio (s : State) (h : HostOut) : (s.hostOut h).mmio = s.mmio := rfl
@[simp] theorem State.hostOut_links (s : State) (h : HostOut) : (s.hostOut h).links = s.links := rfl
@[simp] theorem State.hostOut_nextCrew (s : State) (h : HostOut) : (s.hostOut h).nextCrew = s.nextCrew := rfl
@[simp] theorem State.hostOut_images (s : State) (h : HostOut) : (s.hostOut h).images = s.images := rfl
@[simp] theorem State.hostOut_boot (s : State) (h : HostOut) : (s.hostOut h).boot = s.boot := rfl
@[simp] theorem State.hostOut_cur (s : State) (h : HostOut) : (s.hostOut h).cur = s.cur := rfl
@[simp] theorem State.hostOut_pool (s : State) (h : HostOut) : (s.hostOut h).pool = s.pool := rfl
@[simp] theorem State.hostOut_timers (s : State) (h : HostOut) : (s.hostOut h).timers = s.timers := rfl
@[simp] theorem State.hostOut_now (s : State) (h : HostOut) : (s.hostOut h).now = s.now := rfl
@[simp] theorem State.hostOut_agenda (s : State) (h : HostOut) : (s.hostOut h).agenda = s.agenda := rfl
@[simp] theorem State.hostOut_egress (s : State) (h : HostOut) : (s.hostOut h).egress = s.egress := rfl
@[simp] theorem State.hostOut_eth (s : State) (h : HostOut) : (s.hostOut h).eth = s.eth := rfl
@[simp] theorem State.hostOut_freeCtr (s : State) (h : HostOut) : (s.hostOut h).freeCtr = s.freeCtr := rfl
@[simp] theorem State.hostOut_arg (s : State) (h : HostOut) : (s.hostOut h).arg = s.arg := rfl
@[simp] theorem State.ethOut_pkg (s : State) (h : NetOut) : (s.ethOut h).pkg = s.pkg := rfl
@[simp] theorem State.ethOut_mem (s : State) (h : NetOut) : (s.ethOut h).mem = s.mem := rfl
@[simp] theorem State.ethOut_ecc (s : State) (h : NetOut) : (s.ethOut h).ecc = s.ecc := rfl
@[simp] theorem State.ethOut_ecc1 (s : State) (h : NetOut) : (s.ethOut h).ecc1 = s.ecc1 := rfl
@[simp] theorem State.ethOut_tiles (s : State) (h : NetOut) : (s.ethOut h).tiles = s.tiles := rfl
@[simp] theorem State.ethOut_dies (s : State) (h : NetOut) : (s.ethOut h).dies = s.dies := rfl
@[simp] theorem State.ethOut_mmio (s : State) (h : NetOut) : (s.ethOut h).mmio = s.mmio := rfl
@[simp] theorem State.ethOut_links (s : State) (h : NetOut) : (s.ethOut h).links = s.links := rfl
@[simp] theorem State.ethOut_nextCrew (s : State) (h : NetOut) : (s.ethOut h).nextCrew = s.nextCrew := rfl
@[simp] theorem State.ethOut_images (s : State) (h : NetOut) : (s.ethOut h).images = s.images := rfl
@[simp] theorem State.ethOut_boot (s : State) (h : NetOut) : (s.ethOut h).boot = s.boot := rfl
@[simp] theorem State.ethOut_cur (s : State) (h : NetOut) : (s.ethOut h).cur = s.cur := rfl
@[simp] theorem State.ethOut_pool (s : State) (h : NetOut) : (s.ethOut h).pool = s.pool := rfl
@[simp] theorem State.ethOut_timers (s : State) (h : NetOut) : (s.ethOut h).timers = s.timers := rfl
@[simp] theorem State.ethOut_now (s : State) (h : NetOut) : (s.ethOut h).now = s.now := rfl
@[simp] theorem State.ethOut_agenda (s : State) (h : NetOut) : (s.ethOut h).agenda = s.agenda := rfl
@[simp] theorem State.ethOut_egress (s : State) (h : NetOut) : (s.ethOut h).egress = s.egress := rfl
@[simp] theorem State.ethOut_host (s : State) (h : NetOut) : (s.ethOut h).host = s.host := rfl
@[simp] theorem State.ethOut_freeCtr (s : State) (h : NetOut) : (s.ethOut h).freeCtr = s.freeCtr := rfl
@[simp] theorem State.ethOut_arg (s : State) (h : NetOut) : (s.ethOut h).arg = s.arg := rfl
@[simp] theorem State.modLink_pkg (s : State) (n : Nat) (f : Link → Link) : (s.modLink n f).pkg = s.pkg := rfl
@[simp] theorem State.modLink_mem (s : State) (n : Nat) (f : Link → Link) : (s.modLink n f).mem = s.mem := rfl
@[simp] theorem State.modLink_ecc (s : State) (n : Nat) (f : Link → Link) : (s.modLink n f).ecc = s.ecc := rfl
@[simp] theorem State.modLink_ecc1 (s : State) (n : Nat) (f : Link → Link) : (s.modLink n f).ecc1 = s.ecc1 := rfl
@[simp] theorem State.modLink_tiles (s : State) (n : Nat) (f : Link → Link) : (s.modLink n f).tiles = s.tiles := rfl
@[simp] theorem State.modLink_dies (s : State) (n : Nat) (f : Link → Link) : (s.modLink n f).dies = s.dies := rfl
@[simp] theorem State.modLink_mmio (s : State) (n : Nat) (f : Link → Link) : (s.modLink n f).mmio = s.mmio := rfl
@[simp] theorem State.modLink_nextCrew (s : State) (n : Nat) (f : Link → Link) : (s.modLink n f).nextCrew = s.nextCrew := rfl
@[simp] theorem State.modLink_images (s : State) (n : Nat) (f : Link → Link) : (s.modLink n f).images = s.images := rfl
@[simp] theorem State.modLink_boot (s : State) (n : Nat) (f : Link → Link) : (s.modLink n f).boot = s.boot := rfl
@[simp] theorem State.modLink_cur (s : State) (n : Nat) (f : Link → Link) : (s.modLink n f).cur = s.cur := rfl
@[simp] theorem State.modLink_pool (s : State) (n : Nat) (f : Link → Link) : (s.modLink n f).pool = s.pool := rfl
@[simp] theorem State.modLink_timers (s : State) (n : Nat) (f : Link → Link) : (s.modLink n f).timers = s.timers := rfl
@[simp] theorem State.modLink_now (s : State) (n : Nat) (f : Link → Link) : (s.modLink n f).now = s.now := rfl
@[simp] theorem State.modLink_agenda (s : State) (n : Nat) (f : Link → Link) : (s.modLink n f).agenda = s.agenda := rfl
@[simp] theorem State.modLink_egress (s : State) (n : Nat) (f : Link → Link) : (s.modLink n f).egress = s.egress := rfl
@[simp] theorem State.modLink_host (s : State) (n : Nat) (f : Link → Link) : (s.modLink n f).host = s.host := rfl
@[simp] theorem State.modLink_eth (s : State) (n : Nat) (f : Link → Link) : (s.modLink n f).eth = s.eth := rfl
@[simp] theorem State.modLink_freeCtr (s : State) (n : Nat) (f : Link → Link) : (s.modLink n f).freeCtr = s.freeCtr := rfl
@[simp] theorem State.modLink_arg (s : State) (n : Nat) (f : Link → Link) : (s.modLink n f).arg = s.arg := rfl
@[simp] theorem State.putRec_pkg (s : State) (a v : Nat) : (s.putRec a v).pkg = s.pkg := rfl
@[simp] theorem State.putRec_ecc (s : State) (a v : Nat) : (s.putRec a v).ecc = s.ecc := rfl
@[simp] theorem State.putRec_ecc1 (s : State) (a v : Nat) : (s.putRec a v).ecc1 = s.ecc1 := rfl
@[simp] theorem State.putRec_tiles (s : State) (a v : Nat) : (s.putRec a v).tiles = s.tiles := rfl
@[simp] theorem State.putRec_dies (s : State) (a v : Nat) : (s.putRec a v).dies = s.dies := rfl
@[simp] theorem State.putRec_mmio (s : State) (a v : Nat) : (s.putRec a v).mmio = s.mmio := rfl
@[simp] theorem State.putRec_links (s : State) (a v : Nat) : (s.putRec a v).links = s.links := rfl
@[simp] theorem State.putRec_nextCrew (s : State) (a v : Nat) : (s.putRec a v).nextCrew = s.nextCrew := rfl
@[simp] theorem State.putRec_images (s : State) (a v : Nat) : (s.putRec a v).images = s.images := rfl
@[simp] theorem State.putRec_boot (s : State) (a v : Nat) : (s.putRec a v).boot = s.boot := rfl
@[simp] theorem State.putRec_cur (s : State) (a v : Nat) : (s.putRec a v).cur = s.cur := rfl
@[simp] theorem State.putRec_pool (s : State) (a v : Nat) : (s.putRec a v).pool = s.pool := rfl
@[simp] theorem State.putRec_timers (s : State) (a v : Nat) : (s.putRec a v).timers = s.timers := rfl
@[simp] theorem State.putRec_now (s : State) (a v : Nat) : (s.putRec a v).now = s.now := rfl
@[simp] theorem State.putRec_agenda (s : State) (a v : Nat) : (s.putRec a v).agenda = s.agenda := rfl
@[simp] theorem State.putRec_egress (s : State) (a v : Nat) : (s.putRec a v).egress = s.egress := rfl
@[simp] theorem State.putRec_host (s : State) (a v : Nat) : (s.putRec a v).host = s.host := rfl
@[simp] theorem State.putRec_eth (s : State) (a v : Nat) : (s.putRec a v).eth = s.eth := rfl
@[simp] theorem State.putRec_freeCtr (s : State) (a v : Nat) : (s.putRec a v).freeCtr = s.freeCtr := rfl
@[simp] theorem State.putRec_arg (s : State) (a v : Nat) : (s.putRec a v).arg = s.arg := rfl

@[simp] theorem State.block_eq (s : State) (b : Block) : s.block b = s.modTh (fun h => { h with run := .blocked b }) := rfl

/-! ### A tile -/

@[simp] theorem Tile.setSlot_rot (T : Tile) (k : Nat) (v : Slot) : (T.setSlot k v).rot = T.rot := rfl
@[simp] theorem Tile.setSlot_lamask (T : Tile) (k : Nat) (v : Slot) : (T.setSlot k v).lamask = T.lamask := rfl
@[simp] theorem Tile.setSlot_fmax (T : Tile) (k : Nat) (v : Slot) : (T.setSlot k v).fmax = T.fmax := rfl
@[simp] theorem Tile.setSlot_vla (T : Tile) (k : Nat) (v : Slot) : (T.setSlot k v).vla = T.vla := rfl
@[simp] theorem Tile.setSlot_vpa (T : Tile) (k : Nat) (v : Slot) : (T.setSlot k v).vpa = T.vpa := rfl
@[simp] theorem Tile.setSlot_vlstat (T : Tile) (k : Nat) (v : Slot) : (T.setSlot k v).vlstat = T.vlstat := rfl
@[simp] theorem Tile.setSlot_roletb (T : Tile) (k : Nat) (v : Slot) : (T.setSlot k v).roletb = T.roletb := rfl
@[simp] theorem Tile.setSlot_rolectl (T : Tile) (k : Nat) (v : Slot) : (T.setSlot k v).rolectl = T.rolectl := rfl
@[simp] theorem Tile.setSlot_rdry (T : Tile) (k : Nat) (v : Slot) : (T.setSlot k v).rdry = T.rdry := rfl
@[simp] theorem Tile.setSlot_ptr (T : Tile) (k : Nat) (v : Slot) : (T.setSlot k v).ptr = T.ptr := rfl
@[simp] theorem Tile.setSlot_issuedAt (T : Tile) (k : Nat) (v : Slot) : (T.setSlot k v).issuedAt = T.issuedAt := rfl
@[simp] theorem Tile.setSlot_div (T : Tile) (k : Nat) (v : Slot) : (T.setSlot k v).div = T.div := rfl
@[simp] theorem Tile.setSlot_divRes (T : Tile) (k : Nat) (v : Slot) : (T.setSlot k v).divRes = T.divRes := rfl
@[simp] theorem Tile.setSlot_divLast (T : Tile) (k : Nat) (v : Slot) : (T.setSlot k v).divLast = T.divLast := rfl
@[simp] theorem Tile.setSlot_ladles (T : Tile) (k : Nat) (v : Slot) : (T.setSlot k v).ladles = T.ladles := rfl
@[simp] theorem Tile.setSlot_mq (T : Tile) (k : Nat) (v : Slot) : (T.setSlot k v).mq = T.mq := rfl
@[simp] theorem Tile.setSlot_vq (T : Tile) (k : Nat) (v : Slot) : (T.setSlot k v).vq = T.vq := rfl
@[simp] theorem Tile.setSlot_acc (T : Tile) (k : Nat) (v : Slot) : (T.setSlot k v).acc = T.acc := rfl
@[simp] theorem Tile.setSlot_rng (T : Tile) (k : Nat) (v : Slot) : (T.setSlot k v).rng = T.rng := rfl
@[simp] theorem Tile.setSlot_fwd (T : Tile) (k : Nat) (v : Slot) : (T.setSlot k v).fwd = T.fwd := rfl
@[simp] theorem Tile.setSlot_rq (T : Tile) (k : Nat) (v : Slot) : (T.setSlot k v).rq = T.rq := rfl
@[simp] theorem Tile.setSlot_rqOrder (T : Tile) (k : Nat) (v : Slot) : (T.setSlot k v).rqOrder = T.rqOrder := rfl
@[simp] theorem Tile.setSlot_latch (T : Tile) (k : Nat) (v : Slot) : (T.setSlot k v).latch = T.latch := rfl
@[simp] theorem Tile.setSlot_msgq (T : Tile) (k : Nat) (v : Slot) : (T.setSlot k v).msgq = T.msgq := rfl
@[simp] theorem Tile.setSlot_fifos (T : Tile) (k : Nat) (v : Slot) : (T.setSlot k v).fifos = T.fifos := rfl
@[simp] theorem Tile.setSlot_dryAt (T : Tile) (k : Nat) (v : Slot) : (T.setSlot k v).dryAt = T.dryAt := rfl
@[simp] theorem Tile.setSlot_visq (T : Tile) (k : Nat) (v : Slot) : (T.setSlot k v).visq = T.visq := rfl
@[simp] theorem Tile.setSlot_locks (T : Tile) (k : Nat) (v : Slot) : (T.setSlot k v).locks = T.locks := rfl
@[simp] theorem Tile.setSlot_tlb (T : Tile) (k : Nat) (v : Slot) : (T.setSlot k v).tlb = T.tlb := rfl
@[simp] theorem Tile.setSlot_held (T : Tile) (k : Nat) (v : Slot) : (T.setSlot k v).held = T.held := rfl
@[simp] theorem Tile.setSlot_frecs (T : Tile) (k : Nat) (v : Slot) : (T.setSlot k v).frecs = T.frecs := rfl
@[simp] theorem Tile.setSlot_nodes (T : Tile) (k : Nat) (v : Slot) : (T.setSlot k v).nodes = T.nodes := rfl

/-! ### A slot -/

@[simp] theorem Slot.commit_occ (h : Slot) : (h.commit).occ = h.occ := rfl
@[simp] theorem Slot.commit_run (h : Slot) : (h.commit).run = h.run := rfl
@[simp] theorem Slot.commit_g (h : Slot) : (h.commit).g = h.g := rfl
@[simp] theorem Slot.commit_fe (h : Slot) : (h.commit).fe = h.fe := rfl
@[simp] theorem Slot.commit_poison (h : Slot) : (h.commit).poison = h.poison := rfl
@[simp] theorem Slot.commit_prod (h : Slot) : (h.commit).prod = h.prod := rfl
@[simp] theorem Slot.commit_pfx (h : Slot) : (h.commit).pfx = h.pfx := rfl
@[simp] theorem Slot.commit_rngs (h : Slot) : (h.commit).rngs = h.rngs := rfl
@[simp] theorem Slot.commit_mxcnan (h : Slot) : (h.commit).mxcnan = h.mxcnan := rfl
@[simp] theorem Slot.commit_mxcinf (h : Slot) : (h.commit).mxcinf = h.mxcinf := rfl
@[simp] theorem Slot.commit_mxcsat (h : Slot) : (h.commit).mxcsat = h.mxcsat := rfl
@[simp] theorem Slot.commit_cycleh (h : Slot) : (h.commit).cycleh = h.cycleh := rfl
@[simp] theorem Slot.commit_instreth (h : Slot) : (h.commit).instreth = h.instreth := rfl
@[simp] theorem Slot.commit_lcoord (h : Slot) : (h.commit).lcoord = h.lcoord := rfl
@[simp] theorem Slot.commit_crewid (h : Slot) : (h.commit).crewid = h.crewid := rfl
@[simp] theorem Slot.commit_chmap (h : Slot) : (h.commit).chmap = h.chmap := rfl
@[simp] theorem Slot.commit_chpeer (h : Slot) : (h.commit).chpeer = h.chpeer := rfl
@[simp] theorem Slot.commit_gmem (h : Slot) : (h.commit).gmem = h.gmem := rfl
@[simp] theorem Slot.commit_gspan (h : Slot) : (h.commit).gspan = h.gspan := rfl
@[simp] theorem Slot.commit_tvec (h : Slot) : (h.commit).tvec = h.tvec := rfl
@[simp] theorem Slot.commit_epc (h : Slot) : (h.commit).epc = h.epc := rfl
@[simp] theorem Slot.commit_ecause (h : Slot) : (h.commit).ecause = h.ecause := rfl
@[simp] theorem Slot.commit_eval (h : Slot) : (h.commit).eval = h.eval := rfl
@[simp] theorem Slot.commit_estat (h : Slot) : (h.commit).estat = h.estat := rfl
@[simp] theorem Slot.commit_timer (h : Slot) : (h.commit).timer = h.timer := rfl
@[simp] theorem Slot.commit_escr (h : Slot) : (h.commit).escr = h.escr := rfl
@[simp] theorem Slot.commit_epfx (h : Slot) : (h.commit).epfx = h.epfx := rfl
@[simp] theorem Slot.commit_asid (h : Slot) : (h.commit).asid = h.asid := rfl
@[simp] theorem Slot.commit_spbase (h : Slot) : (h.commit).spbase = h.spbase := rfl
@[simp] theorem Slot.commit_spsize (h : Slot) : (h.commit).spsize = h.spsize := rfl
@[simp] theorem Slot.commit_osbase (h : Slot) : (h.commit).osbase = h.osbase := rfl
@[simp] theorem Slot.commit_ossize (h : Slot) : (h.commit).ossize = h.ossize := rfl
@[simp] theorem Slot.commit_savea (h : Slot) : (h.commit).savea = h.savea := rfl
@[simp] theorem Slot.commit_vstat (h : Slot) : (h.commit).vstat = h.vstat := rfl
@[simp] theorem Slot.commit_accmask (h : Slot) : (h.commit).accmask = h.accmask := rfl
@[simp] theorem Slot.commit_sg (h : Slot) : (h.commit).sg = h.sg := rfl
@[simp] theorem Slot.commit_mx (h : Slot) : (h.commit).mx = h.mx := rfl
@[simp] theorem Slot.commit_vx (h : Slot) : (h.commit).vx = h.vx := rfl
@[simp] theorem Slot.commit_lx (h : Slot) : (h.commit).lx = h.lx := rfl
@[simp] theorem Slot.commit_qx (h : Slot) : (h.commit).qx = h.qx := rfl
@[simp] theorem Slot.commit_wl (h : Slot) : (h.commit).wl = h.wl := rfl
@[simp] theorem Slot.commit_loaded (h : Slot) : (h.commit).loaded = h.loaded := rfl
@[simp] theorem Slot.commit_pendMchk (h : Slot) : (h.commit).pendMchk = h.pendMchk := rfl
@[simp] theorem Slot.commit_pendRange (h : Slot) : (h.commit).pendRange = h.pendRange := rfl
@[simp] theorem Slot.commit_pendTimer (h : Slot) : (h.commit).pendTimer = h.pendTimer := rfl
@[simp] theorem Slot.commit_pendLock (h : Slot) : (h.commit).pendLock = h.pendLock := rfl
@[simp] theorem Slot.commit_lastIssue (h : Slot) : (h.commit).lastIssue = h.lastIssue := rfl
@[simp] theorem Slot.commit_yielded (h : Slot) : (h.commit).yielded = h.yielded := rfl
@[simp] theorem Slot.commit_fork (h : Slot) : (h.commit).fork = h.fork := rfl
@[simp] theorem Slot.commit_pend (h : Slot) : (h.commit).pend = h.pend := rfl
@[simp] theorem Slot.commit_chOut (h : Slot) : (h.commit).chOut = h.chOut := rfl
@[simp] theorem Slot.commit_sendOut (h : Slot) : (h.commit).sendOut = h.sendOut := rfl
@[simp] theorem Slot.commit_shadow (h : Slot) : (h.commit).shadow = h.shadow := rfl
@[simp] theorem Slot.commit_cbuf (h : Slot) : (h.commit).cbuf = h.cbuf := rfl
@[simp] theorem Slot.commit_grd (h : Slot) : (h.commit).grd = h.grd := rfl
@[simp] theorem Slot.commit_move (h : Slot) : (h.commit).move = h.move := rfl
@[simp] theorem Slot.commit_parkedAt (h : Slot) : (h.commit).parkedAt = h.parkedAt := rfl
@[simp] theorem Slot.commit_parkReg (h : Slot) : (h.commit).parkReg = h.parkReg := rfl
@[simp] theorem Slot.commit_mismatch (h : Slot) : (h.commit).mismatch = h.mismatch := rfl
@[simp] theorem Slot.commit_away (h : Slot) : (h.commit).away = h.away := rfl
@[simp] theorem Slot.commit_redo (h : Slot) : (h.commit).redo = h.redo := rfl
@[simp] theorem Slot.commit_bindAt (h : Slot) : (h.commit).bindAt = h.bindAt := rfl
@[simp] theorem Slot.commit_leave (h : Slot) : (h.commit).leave = h.leave := rfl
@[simp] theorem Slot.commit_frozen (h : Slot) : (h.commit).frozen = h.frozen := rfl
@[simp] theorem Slot.commit_fetched (h : Slot) : (h.commit).fetched = h.fetched := rfl
@[simp] theorem Slot.commit_joined (h : Slot) : (h.commit).joined = h.joined := rfl
@[simp] theorem Slot.commit_fenced (h : Slot) : (h.commit).fenced = h.fenced := rfl
@[simp] theorem Slot.commitAt_occ (h : Slot) (a : Word) : (h.commitAt a).occ = h.occ := rfl
@[simp] theorem Slot.commitAt_run (h : Slot) (a : Word) : (h.commitAt a).run = h.run := rfl
@[simp] theorem Slot.commitAt_g (h : Slot) (a : Word) : (h.commitAt a).g = h.g := rfl
@[simp] theorem Slot.commitAt_fe (h : Slot) (a : Word) : (h.commitAt a).fe = h.fe := rfl
@[simp] theorem Slot.commitAt_poison (h : Slot) (a : Word) : (h.commitAt a).poison = h.poison := rfl
@[simp] theorem Slot.commitAt_prod (h : Slot) (a : Word) : (h.commitAt a).prod = h.prod := rfl
@[simp] theorem Slot.commitAt_pfx (h : Slot) (a : Word) : (h.commitAt a).pfx = h.pfx := rfl
@[simp] theorem Slot.commitAt_rngs (h : Slot) (a : Word) : (h.commitAt a).rngs = h.rngs := rfl
@[simp] theorem Slot.commitAt_mxcnan (h : Slot) (a : Word) : (h.commitAt a).mxcnan = h.mxcnan := rfl
@[simp] theorem Slot.commitAt_mxcinf (h : Slot) (a : Word) : (h.commitAt a).mxcinf = h.mxcinf := rfl
@[simp] theorem Slot.commitAt_mxcsat (h : Slot) (a : Word) : (h.commitAt a).mxcsat = h.mxcsat := rfl
@[simp] theorem Slot.commitAt_cycleh (h : Slot) (a : Word) : (h.commitAt a).cycleh = h.cycleh := rfl
@[simp] theorem Slot.commitAt_instreth (h : Slot) (a : Word) : (h.commitAt a).instreth = h.instreth := rfl
@[simp] theorem Slot.commitAt_lcoord (h : Slot) (a : Word) : (h.commitAt a).lcoord = h.lcoord := rfl
@[simp] theorem Slot.commitAt_crewid (h : Slot) (a : Word) : (h.commitAt a).crewid = h.crewid := rfl
@[simp] theorem Slot.commitAt_chmap (h : Slot) (a : Word) : (h.commitAt a).chmap = h.chmap := rfl
@[simp] theorem Slot.commitAt_chpeer (h : Slot) (a : Word) : (h.commitAt a).chpeer = h.chpeer := rfl
@[simp] theorem Slot.commitAt_gmem (h : Slot) (a : Word) : (h.commitAt a).gmem = h.gmem := rfl
@[simp] theorem Slot.commitAt_gspan (h : Slot) (a : Word) : (h.commitAt a).gspan = h.gspan := rfl
@[simp] theorem Slot.commitAt_tvec (h : Slot) (a : Word) : (h.commitAt a).tvec = h.tvec := rfl
@[simp] theorem Slot.commitAt_epc (h : Slot) (a : Word) : (h.commitAt a).epc = h.epc := rfl
@[simp] theorem Slot.commitAt_ecause (h : Slot) (a : Word) : (h.commitAt a).ecause = h.ecause := rfl
@[simp] theorem Slot.commitAt_eval (h : Slot) (a : Word) : (h.commitAt a).eval = h.eval := rfl
@[simp] theorem Slot.commitAt_estat (h : Slot) (a : Word) : (h.commitAt a).estat = h.estat := rfl
@[simp] theorem Slot.commitAt_timer (h : Slot) (a : Word) : (h.commitAt a).timer = h.timer := rfl
@[simp] theorem Slot.commitAt_escr (h : Slot) (a : Word) : (h.commitAt a).escr = h.escr := rfl
@[simp] theorem Slot.commitAt_epfx (h : Slot) (a : Word) : (h.commitAt a).epfx = h.epfx := rfl
@[simp] theorem Slot.commitAt_asid (h : Slot) (a : Word) : (h.commitAt a).asid = h.asid := rfl
@[simp] theorem Slot.commitAt_spbase (h : Slot) (a : Word) : (h.commitAt a).spbase = h.spbase := rfl
@[simp] theorem Slot.commitAt_spsize (h : Slot) (a : Word) : (h.commitAt a).spsize = h.spsize := rfl
@[simp] theorem Slot.commitAt_osbase (h : Slot) (a : Word) : (h.commitAt a).osbase = h.osbase := rfl
@[simp] theorem Slot.commitAt_ossize (h : Slot) (a : Word) : (h.commitAt a).ossize = h.ossize := rfl
@[simp] theorem Slot.commitAt_savea (h : Slot) (a : Word) : (h.commitAt a).savea = h.savea := rfl
@[simp] theorem Slot.commitAt_vstat (h : Slot) (a : Word) : (h.commitAt a).vstat = h.vstat := rfl
@[simp] theorem Slot.commitAt_accmask (h : Slot) (a : Word) : (h.commitAt a).accmask = h.accmask := rfl
@[simp] theorem Slot.commitAt_sg (h : Slot) (a : Word) : (h.commitAt a).sg = h.sg := rfl
@[simp] theorem Slot.commitAt_mx (h : Slot) (a : Word) : (h.commitAt a).mx = h.mx := rfl
@[simp] theorem Slot.commitAt_vx (h : Slot) (a : Word) : (h.commitAt a).vx = h.vx := rfl
@[simp] theorem Slot.commitAt_lx (h : Slot) (a : Word) : (h.commitAt a).lx = h.lx := rfl
@[simp] theorem Slot.commitAt_qx (h : Slot) (a : Word) : (h.commitAt a).qx = h.qx := rfl
@[simp] theorem Slot.commitAt_wl (h : Slot) (a : Word) : (h.commitAt a).wl = h.wl := rfl
@[simp] theorem Slot.commitAt_loaded (h : Slot) (a : Word) : (h.commitAt a).loaded = h.loaded := rfl
@[simp] theorem Slot.commitAt_pendMchk (h : Slot) (a : Word) : (h.commitAt a).pendMchk = h.pendMchk := rfl
@[simp] theorem Slot.commitAt_pendRange (h : Slot) (a : Word) : (h.commitAt a).pendRange = h.pendRange := rfl
@[simp] theorem Slot.commitAt_pendTimer (h : Slot) (a : Word) : (h.commitAt a).pendTimer = h.pendTimer := rfl
@[simp] theorem Slot.commitAt_pendLock (h : Slot) (a : Word) : (h.commitAt a).pendLock = h.pendLock := rfl
@[simp] theorem Slot.commitAt_lastIssue (h : Slot) (a : Word) : (h.commitAt a).lastIssue = h.lastIssue := rfl
@[simp] theorem Slot.commitAt_yielded (h : Slot) (a : Word) : (h.commitAt a).yielded = h.yielded := rfl
@[simp] theorem Slot.commitAt_fork (h : Slot) (a : Word) : (h.commitAt a).fork = h.fork := rfl
@[simp] theorem Slot.commitAt_pend (h : Slot) (a : Word) : (h.commitAt a).pend = h.pend := rfl
@[simp] theorem Slot.commitAt_chOut (h : Slot) (a : Word) : (h.commitAt a).chOut = h.chOut := rfl
@[simp] theorem Slot.commitAt_sendOut (h : Slot) (a : Word) : (h.commitAt a).sendOut = h.sendOut := rfl
@[simp] theorem Slot.commitAt_shadow (h : Slot) (a : Word) : (h.commitAt a).shadow = h.shadow := rfl
@[simp] theorem Slot.commitAt_cbuf (h : Slot) (a : Word) : (h.commitAt a).cbuf = h.cbuf := rfl
@[simp] theorem Slot.commitAt_grd (h : Slot) (a : Word) : (h.commitAt a).grd = h.grd := rfl
@[simp] theorem Slot.commitAt_move (h : Slot) (a : Word) : (h.commitAt a).move = h.move := rfl
@[simp] theorem Slot.commitAt_parkedAt (h : Slot) (a : Word) : (h.commitAt a).parkedAt = h.parkedAt := rfl
@[simp] theorem Slot.commitAt_parkReg (h : Slot) (a : Word) : (h.commitAt a).parkReg = h.parkReg := rfl
@[simp] theorem Slot.commitAt_mismatch (h : Slot) (a : Word) : (h.commitAt a).mismatch = h.mismatch := rfl
@[simp] theorem Slot.commitAt_away (h : Slot) (a : Word) : (h.commitAt a).away = h.away := rfl
@[simp] theorem Slot.commitAt_redo (h : Slot) (a : Word) : (h.commitAt a).redo = h.redo := rfl
@[simp] theorem Slot.commitAt_bindAt (h : Slot) (a : Word) : (h.commitAt a).bindAt = h.bindAt := rfl
@[simp] theorem Slot.commitAt_leave (h : Slot) (a : Word) : (h.commitAt a).leave = h.leave := rfl
@[simp] theorem Slot.commitAt_frozen (h : Slot) (a : Word) : (h.commitAt a).frozen = h.frozen := rfl
@[simp] theorem Slot.commitAt_fetched (h : Slot) (a : Word) : (h.commitAt a).fetched = h.fetched := rfl
@[simp] theorem Slot.commitAt_joined (h : Slot) (a : Word) : (h.commitAt a).joined = h.joined := rfl
@[simp] theorem Slot.commitAt_fenced (h : Slot) (a : Word) : (h.commitAt a).fenced = h.fenced := rfl
@[simp] theorem Slot.wake_occ (h : Slot) : (h.wake).occ = h.occ := rfl
@[simp] theorem Slot.wake_pc (h : Slot) : (h.wake).pc = h.pc := rfl
@[simp] theorem Slot.wake_g (h : Slot) : (h.wake).g = h.g := rfl
@[simp] theorem Slot.wake_fe (h : Slot) : (h.wake).fe = h.fe := rfl
@[simp] theorem Slot.wake_poison (h : Slot) : (h.wake).poison = h.poison := rfl
@[simp] theorem Slot.wake_prod (h : Slot) : (h.wake).prod = h.prod := rfl
@[simp] theorem Slot.wake_pfx (h : Slot) : (h.wake).pfx = h.pfx := rfl
@[simp] theorem Slot.wake_rngs (h : Slot) : (h.wake).rngs = h.rngs := rfl
@[simp] theorem Slot.wake_mxcnan (h : Slot) : (h.wake).mxcnan = h.mxcnan := rfl
@[simp] theorem Slot.wake_mxcinf (h : Slot) : (h.wake).mxcinf = h.mxcinf := rfl
@[simp] theorem Slot.wake_mxcsat (h : Slot) : (h.wake).mxcsat = h.mxcsat := rfl
@[simp] theorem Slot.wake_cycleh (h : Slot) : (h.wake).cycleh = h.cycleh := rfl
@[simp] theorem Slot.wake_instret (h : Slot) : (h.wake).instret = h.instret := rfl
@[simp] theorem Slot.wake_instreth (h : Slot) : (h.wake).instreth = h.instreth := rfl
@[simp] theorem Slot.wake_lcoord (h : Slot) : (h.wake).lcoord = h.lcoord := rfl
@[simp] theorem Slot.wake_crewid (h : Slot) : (h.wake).crewid = h.crewid := rfl
@[simp] theorem Slot.wake_chmap (h : Slot) : (h.wake).chmap = h.chmap := rfl
@[simp] theorem Slot.wake_chpeer (h : Slot) : (h.wake).chpeer = h.chpeer := rfl
@[simp] theorem Slot.wake_gmem (h : Slot) : (h.wake).gmem = h.gmem := rfl
@[simp] theorem Slot.wake_gspan (h : Slot) : (h.wake).gspan = h.gspan := rfl
@[simp] theorem Slot.wake_tvec (h : Slot) : (h.wake).tvec = h.tvec := rfl
@[simp] theorem Slot.wake_epc (h : Slot) : (h.wake).epc = h.epc := rfl
@[simp] theorem Slot.wake_ecause (h : Slot) : (h.wake).ecause = h.ecause := rfl
@[simp] theorem Slot.wake_eval (h : Slot) : (h.wake).eval = h.eval := rfl
@[simp] theorem Slot.wake_estat (h : Slot) : (h.wake).estat = h.estat := rfl
@[simp] theorem Slot.wake_timer (h : Slot) : (h.wake).timer = h.timer := rfl
@[simp] theorem Slot.wake_escr (h : Slot) : (h.wake).escr = h.escr := rfl
@[simp] theorem Slot.wake_epfx (h : Slot) : (h.wake).epfx = h.epfx := rfl
@[simp] theorem Slot.wake_asid (h : Slot) : (h.wake).asid = h.asid := rfl
@[simp] theorem Slot.wake_spbase (h : Slot) : (h.wake).spbase = h.spbase := rfl
@[simp] theorem Slot.wake_spsize (h : Slot) : (h.wake).spsize = h.spsize := rfl
@[simp] theorem Slot.wake_osbase (h : Slot) : (h.wake).osbase = h.osbase := rfl
@[simp] theorem Slot.wake_ossize (h : Slot) : (h.wake).ossize = h.ossize := rfl
@[simp] theorem Slot.wake_savea (h : Slot) : (h.wake).savea = h.savea := rfl
@[simp] theorem Slot.wake_vstat (h : Slot) : (h.wake).vstat = h.vstat := rfl
@[simp] theorem Slot.wake_accmask (h : Slot) : (h.wake).accmask = h.accmask := rfl
@[simp] theorem Slot.wake_sg (h : Slot) : (h.wake).sg = h.sg := rfl
@[simp] theorem Slot.wake_mx (h : Slot) : (h.wake).mx = h.mx := rfl
@[simp] theorem Slot.wake_vx (h : Slot) : (h.wake).vx = h.vx := rfl
@[simp] theorem Slot.wake_lx (h : Slot) : (h.wake).lx = h.lx := rfl
@[simp] theorem Slot.wake_qx (h : Slot) : (h.wake).qx = h.qx := rfl
@[simp] theorem Slot.wake_wl (h : Slot) : (h.wake).wl = h.wl := rfl
@[simp] theorem Slot.wake_loaded (h : Slot) : (h.wake).loaded = h.loaded := rfl
@[simp] theorem Slot.wake_pendMchk (h : Slot) : (h.wake).pendMchk = h.pendMchk := rfl
@[simp] theorem Slot.wake_pendRange (h : Slot) : (h.wake).pendRange = h.pendRange := rfl
@[simp] theorem Slot.wake_pendTimer (h : Slot) : (h.wake).pendTimer = h.pendTimer := rfl
@[simp] theorem Slot.wake_pendLock (h : Slot) : (h.wake).pendLock = h.pendLock := rfl
@[simp] theorem Slot.wake_lastIssue (h : Slot) : (h.wake).lastIssue = h.lastIssue := rfl
@[simp] theorem Slot.wake_yielded (h : Slot) : (h.wake).yielded = h.yielded := rfl
@[simp] theorem Slot.wake_fork (h : Slot) : (h.wake).fork = h.fork := rfl
@[simp] theorem Slot.wake_pend (h : Slot) : (h.wake).pend = h.pend := rfl
@[simp] theorem Slot.wake_chOut (h : Slot) : (h.wake).chOut = h.chOut := rfl
@[simp] theorem Slot.wake_sendOut (h : Slot) : (h.wake).sendOut = h.sendOut := rfl
@[simp] theorem Slot.wake_shadow (h : Slot) : (h.wake).shadow = h.shadow := rfl
@[simp] theorem Slot.wake_cbuf (h : Slot) : (h.wake).cbuf = h.cbuf := rfl
@[simp] theorem Slot.wake_grd (h : Slot) : (h.wake).grd = h.grd := rfl
@[simp] theorem Slot.wake_quantum (h : Slot) : (h.wake).quantum = h.quantum := rfl
@[simp] theorem Slot.wake_move (h : Slot) : (h.wake).move = h.move := rfl
@[simp] theorem Slot.wake_parkedAt (h : Slot) : (h.wake).parkedAt = h.parkedAt := rfl
@[simp] theorem Slot.wake_parkReg (h : Slot) : (h.wake).parkReg = h.parkReg := rfl
@[simp] theorem Slot.wake_mismatch (h : Slot) : (h.wake).mismatch = h.mismatch := rfl
@[simp] theorem Slot.wake_away (h : Slot) : (h.wake).away = h.away := rfl
@[simp] theorem Slot.wake_redo (h : Slot) : (h.wake).redo = h.redo := rfl
@[simp] theorem Slot.wake_bindAt (h : Slot) : (h.wake).bindAt = h.bindAt := rfl
@[simp] theorem Slot.wake_leave (h : Slot) : (h.wake).leave = h.leave := rfl
@[simp] theorem Slot.wake_frozen (h : Slot) : (h.wake).frozen = h.frozen := rfl
@[simp] theorem Slot.wake_fetched (h : Slot) : (h.wake).fetched = h.fetched := rfl
@[simp] theorem Slot.wake_joined (h : Slot) : (h.wake).joined = h.joined := rfl
@[simp] theorem Slot.wake_fenced (h : Slot) : (h.wake).fenced = h.fenced := rfl
@[simp] theorem Slot.takeTrap_occ (h : Slot) (c n : Nat) (v : Word) : (h.takeTrap c n v).occ = h.occ := rfl
@[simp] theorem Slot.takeTrap_g (h : Slot) (c n : Nat) (v : Word) : (h.takeTrap c n v).g = h.g := rfl
@[simp] theorem Slot.takeTrap_fe (h : Slot) (c n : Nat) (v : Word) : (h.takeTrap c n v).fe = h.fe := rfl
@[simp] theorem Slot.takeTrap_poison (h : Slot) (c n : Nat) (v : Word) : (h.takeTrap c n v).poison = h.poison := rfl
@[simp] theorem Slot.takeTrap_prod (h : Slot) (c n : Nat) (v : Word) : (h.takeTrap c n v).prod = h.prod := rfl
@[simp] theorem Slot.takeTrap_pfx (h : Slot) (c n : Nat) (v : Word) : (h.takeTrap c n v).pfx = h.pfx := rfl
@[simp] theorem Slot.takeTrap_rngs (h : Slot) (c n : Nat) (v : Word) : (h.takeTrap c n v).rngs = h.rngs := rfl
@[simp] theorem Slot.takeTrap_mxcnan (h : Slot) (c n : Nat) (v : Word) : (h.takeTrap c n v).mxcnan = h.mxcnan := rfl
@[simp] theorem Slot.takeTrap_mxcinf (h : Slot) (c n : Nat) (v : Word) : (h.takeTrap c n v).mxcinf = h.mxcinf := rfl
@[simp] theorem Slot.takeTrap_mxcsat (h : Slot) (c n : Nat) (v : Word) : (h.takeTrap c n v).mxcsat = h.mxcsat := rfl
@[simp] theorem Slot.takeTrap_cycleh (h : Slot) (c n : Nat) (v : Word) : (h.takeTrap c n v).cycleh = h.cycleh := rfl
@[simp] theorem Slot.takeTrap_instret (h : Slot) (c n : Nat) (v : Word) : (h.takeTrap c n v).instret = h.instret := rfl
@[simp] theorem Slot.takeTrap_instreth (h : Slot) (c n : Nat) (v : Word) : (h.takeTrap c n v).instreth = h.instreth := rfl
@[simp] theorem Slot.takeTrap_lcoord (h : Slot) (c n : Nat) (v : Word) : (h.takeTrap c n v).lcoord = h.lcoord := rfl
@[simp] theorem Slot.takeTrap_crewid (h : Slot) (c n : Nat) (v : Word) : (h.takeTrap c n v).crewid = h.crewid := rfl
@[simp] theorem Slot.takeTrap_chmap (h : Slot) (c n : Nat) (v : Word) : (h.takeTrap c n v).chmap = h.chmap := rfl
@[simp] theorem Slot.takeTrap_chpeer (h : Slot) (c n : Nat) (v : Word) : (h.takeTrap c n v).chpeer = h.chpeer := rfl
@[simp] theorem Slot.takeTrap_gmem (h : Slot) (c n : Nat) (v : Word) : (h.takeTrap c n v).gmem = h.gmem := rfl
@[simp] theorem Slot.takeTrap_gspan (h : Slot) (c n : Nat) (v : Word) : (h.takeTrap c n v).gspan = h.gspan := rfl
@[simp] theorem Slot.takeTrap_tvec (h : Slot) (c n : Nat) (v : Word) : (h.takeTrap c n v).tvec = h.tvec := rfl
@[simp] theorem Slot.takeTrap_timer (h : Slot) (c n : Nat) (v : Word) : (h.takeTrap c n v).timer = h.timer := rfl
@[simp] theorem Slot.takeTrap_escr (h : Slot) (c n : Nat) (v : Word) : (h.takeTrap c n v).escr = h.escr := rfl
@[simp] theorem Slot.takeTrap_asid (h : Slot) (c n : Nat) (v : Word) : (h.takeTrap c n v).asid = h.asid := rfl
@[simp] theorem Slot.takeTrap_spbase (h : Slot) (c n : Nat) (v : Word) : (h.takeTrap c n v).spbase = h.spbase := rfl
@[simp] theorem Slot.takeTrap_spsize (h : Slot) (c n : Nat) (v : Word) : (h.takeTrap c n v).spsize = h.spsize := rfl
@[simp] theorem Slot.takeTrap_osbase (h : Slot) (c n : Nat) (v : Word) : (h.takeTrap c n v).osbase = h.osbase := rfl
@[simp] theorem Slot.takeTrap_ossize (h : Slot) (c n : Nat) (v : Word) : (h.takeTrap c n v).ossize = h.ossize := rfl
@[simp] theorem Slot.takeTrap_savea (h : Slot) (c n : Nat) (v : Word) : (h.takeTrap c n v).savea = h.savea := rfl
@[simp] theorem Slot.takeTrap_vstat (h : Slot) (c n : Nat) (v : Word) : (h.takeTrap c n v).vstat = h.vstat := rfl
@[simp] theorem Slot.takeTrap_accmask (h : Slot) (c n : Nat) (v : Word) : (h.takeTrap c n v).accmask = h.accmask := rfl
@[simp] theorem Slot.takeTrap_sg (h : Slot) (c n : Nat) (v : Word) : (h.takeTrap c n v).sg = h.sg := rfl
@[simp] theorem Slot.takeTrap_mx (h : Slot) (c n : Nat) (v : Word) : (h.takeTrap c n v).mx = h.mx := rfl
@[simp] theorem Slot.takeTrap_vx (h : Slot) (c n : Nat) (v : Word) : (h.takeTrap c n v).vx = h.vx := rfl
@[simp] theorem Slot.takeTrap_lx (h : Slot) (c n : Nat) (v : Word) : (h.takeTrap c n v).lx = h.lx := rfl
@[simp] theorem Slot.takeTrap_qx (h : Slot) (c n : Nat) (v : Word) : (h.takeTrap c n v).qx = h.qx := rfl
@[simp] theorem Slot.takeTrap_wl (h : Slot) (c n : Nat) (v : Word) : (h.takeTrap c n v).wl = h.wl := rfl
@[simp] theorem Slot.takeTrap_loaded (h : Slot) (c n : Nat) (v : Word) : (h.takeTrap c n v).loaded = h.loaded := rfl
@[simp] theorem Slot.takeTrap_pendMchk (h : Slot) (c n : Nat) (v : Word) : (h.takeTrap c n v).pendMchk = h.pendMchk := rfl
@[simp] theorem Slot.takeTrap_pendRange (h : Slot) (c n : Nat) (v : Word) : (h.takeTrap c n v).pendRange = h.pendRange := rfl
@[simp] theorem Slot.takeTrap_pendTimer (h : Slot) (c n : Nat) (v : Word) : (h.takeTrap c n v).pendTimer = h.pendTimer := rfl
@[simp] theorem Slot.takeTrap_pendLock (h : Slot) (c n : Nat) (v : Word) : (h.takeTrap c n v).pendLock = h.pendLock := rfl
@[simp] theorem Slot.takeTrap_lastIssue (h : Slot) (c n : Nat) (v : Word) : (h.takeTrap c n v).lastIssue = h.lastIssue := rfl
@[simp] theorem Slot.takeTrap_yielded (h : Slot) (c n : Nat) (v : Word) : (h.takeTrap c n v).yielded = h.yielded := rfl
@[simp] theorem Slot.takeTrap_fork (h : Slot) (c n : Nat) (v : Word) : (h.takeTrap c n v).fork = h.fork := rfl
@[simp] theorem Slot.takeTrap_pend (h : Slot) (c n : Nat) (v : Word) : (h.takeTrap c n v).pend = h.pend := rfl
@[simp] theorem Slot.takeTrap_chOut (h : Slot) (c n : Nat) (v : Word) : (h.takeTrap c n v).chOut = h.chOut := rfl
@[simp] theorem Slot.takeTrap_sendOut (h : Slot) (c n : Nat) (v : Word) : (h.takeTrap c n v).sendOut = h.sendOut := rfl
@[simp] theorem Slot.takeTrap_shadow (h : Slot) (c n : Nat) (v : Word) : (h.takeTrap c n v).shadow = h.shadow := rfl
@[simp] theorem Slot.takeTrap_cbuf (h : Slot) (c n : Nat) (v : Word) : (h.takeTrap c n v).cbuf = h.cbuf := rfl
@[simp] theorem Slot.takeTrap_grd (h : Slot) (c n : Nat) (v : Word) : (h.takeTrap c n v).grd = h.grd := rfl
@[simp] theorem Slot.takeTrap_quantum (h : Slot) (c n : Nat) (v : Word) : (h.takeTrap c n v).quantum = h.quantum := rfl
@[simp] theorem Slot.takeTrap_move (h : Slot) (c n : Nat) (v : Word) : (h.takeTrap c n v).move = h.move := rfl
@[simp] theorem Slot.takeTrap_parkedAt (h : Slot) (c n : Nat) (v : Word) : (h.takeTrap c n v).parkedAt = h.parkedAt := rfl
@[simp] theorem Slot.takeTrap_parkReg (h : Slot) (c n : Nat) (v : Word) : (h.takeTrap c n v).parkReg = h.parkReg := rfl
@[simp] theorem Slot.takeTrap_mismatch (h : Slot) (c n : Nat) (v : Word) : (h.takeTrap c n v).mismatch = h.mismatch := rfl
@[simp] theorem Slot.takeTrap_away (h : Slot) (c n : Nat) (v : Word) : (h.takeTrap c n v).away = h.away := rfl
@[simp] theorem Slot.takeTrap_redo (h : Slot) (c n : Nat) (v : Word) : (h.takeTrap c n v).redo = h.redo := rfl
@[simp] theorem Slot.takeTrap_bindAt (h : Slot) (c n : Nat) (v : Word) : (h.takeTrap c n v).bindAt = h.bindAt := rfl
@[simp] theorem Slot.takeTrap_leave (h : Slot) (c n : Nat) (v : Word) : (h.takeTrap c n v).leave = h.leave := rfl
@[simp] theorem Slot.takeTrap_frozen (h : Slot) (c n : Nat) (v : Word) : (h.takeTrap c n v).frozen = h.frozen := rfl
@[simp] theorem Slot.takeTrap_joined (h : Slot) (c n : Nat) (v : Word) : (h.takeTrap c n v).joined = h.joined := rfl
@[simp] theorem Slot.takeTrap_fenced (h : Slot) (c n : Nat) (v : Word) : (h.takeTrap c n v).fenced = h.fenced := rfl
@[simp] theorem Slot.eret_occ (h : Slot) : (h.eret).occ = h.occ := rfl
@[simp] theorem Slot.eret_run (h : Slot) : (h.eret).run = h.run := rfl
@[simp] theorem Slot.eret_g (h : Slot) : (h.eret).g = h.g := rfl
@[simp] theorem Slot.eret_fe (h : Slot) : (h.eret).fe = h.fe := rfl
@[simp] theorem Slot.eret_poison (h : Slot) : (h.eret).poison = h.poison := rfl
@[simp] theorem Slot.eret_prod (h : Slot) : (h.eret).prod = h.prod := rfl
@[simp] theorem Slot.eret_rngs (h : Slot) : (h.eret).rngs = h.rngs := rfl
@[simp] theorem Slot.eret_mxcnan (h : Slot) : (h.eret).mxcnan = h.mxcnan := rfl
@[simp] theorem Slot.eret_mxcinf (h : Slot) : (h.eret).mxcinf = h.mxcinf := rfl
@[simp] theorem Slot.eret_mxcsat (h : Slot) : (h.eret).mxcsat = h.mxcsat := rfl
@[simp] theorem Slot.eret_cycleh (h : Slot) : (h.eret).cycleh = h.cycleh := rfl
@[simp] theorem Slot.eret_instret (h : Slot) : (h.eret).instret = h.instret := rfl
@[simp] theorem Slot.eret_instreth (h : Slot) : (h.eret).instreth = h.instreth := rfl
@[simp] theorem Slot.eret_lcoord (h : Slot) : (h.eret).lcoord = h.lcoord := rfl
@[simp] theorem Slot.eret_crewid (h : Slot) : (h.eret).crewid = h.crewid := rfl
@[simp] theorem Slot.eret_chmap (h : Slot) : (h.eret).chmap = h.chmap := rfl
@[simp] theorem Slot.eret_chpeer (h : Slot) : (h.eret).chpeer = h.chpeer := rfl
@[simp] theorem Slot.eret_gmem (h : Slot) : (h.eret).gmem = h.gmem := rfl
@[simp] theorem Slot.eret_gspan (h : Slot) : (h.eret).gspan = h.gspan := rfl
@[simp] theorem Slot.eret_tvec (h : Slot) : (h.eret).tvec = h.tvec := rfl
@[simp] theorem Slot.eret_epc (h : Slot) : (h.eret).epc = h.epc := rfl
@[simp] theorem Slot.eret_ecause (h : Slot) : (h.eret).ecause = h.ecause := rfl
@[simp] theorem Slot.eret_eval (h : Slot) : (h.eret).eval = h.eval := rfl
@[simp] theorem Slot.eret_estat (h : Slot) : (h.eret).estat = h.estat := rfl
@[simp] theorem Slot.eret_timer (h : Slot) : (h.eret).timer = h.timer := rfl
@[simp] theorem Slot.eret_escr (h : Slot) : (h.eret).escr = h.escr := rfl
@[simp] theorem Slot.eret_epfx (h : Slot) : (h.eret).epfx = h.epfx := rfl
@[simp] theorem Slot.eret_asid (h : Slot) : (h.eret).asid = h.asid := rfl
@[simp] theorem Slot.eret_spbase (h : Slot) : (h.eret).spbase = h.spbase := rfl
@[simp] theorem Slot.eret_spsize (h : Slot) : (h.eret).spsize = h.spsize := rfl
@[simp] theorem Slot.eret_osbase (h : Slot) : (h.eret).osbase = h.osbase := rfl
@[simp] theorem Slot.eret_ossize (h : Slot) : (h.eret).ossize = h.ossize := rfl
@[simp] theorem Slot.eret_savea (h : Slot) : (h.eret).savea = h.savea := rfl
@[simp] theorem Slot.eret_vstat (h : Slot) : (h.eret).vstat = h.vstat := rfl
@[simp] theorem Slot.eret_accmask (h : Slot) : (h.eret).accmask = h.accmask := rfl
@[simp] theorem Slot.eret_sg (h : Slot) : (h.eret).sg = h.sg := rfl
@[simp] theorem Slot.eret_mx (h : Slot) : (h.eret).mx = h.mx := rfl
@[simp] theorem Slot.eret_vx (h : Slot) : (h.eret).vx = h.vx := rfl
@[simp] theorem Slot.eret_lx (h : Slot) : (h.eret).lx = h.lx := rfl
@[simp] theorem Slot.eret_qx (h : Slot) : (h.eret).qx = h.qx := rfl
@[simp] theorem Slot.eret_wl (h : Slot) : (h.eret).wl = h.wl := rfl
@[simp] theorem Slot.eret_loaded (h : Slot) : (h.eret).loaded = h.loaded := rfl
@[simp] theorem Slot.eret_pendMchk (h : Slot) : (h.eret).pendMchk = h.pendMchk := rfl
@[simp] theorem Slot.eret_pendRange (h : Slot) : (h.eret).pendRange = h.pendRange := rfl
@[simp] theorem Slot.eret_pendTimer (h : Slot) : (h.eret).pendTimer = h.pendTimer := rfl
@[simp] theorem Slot.eret_pendLock (h : Slot) : (h.eret).pendLock = h.pendLock := rfl
@[simp] theorem Slot.eret_lastIssue (h : Slot) : (h.eret).lastIssue = h.lastIssue := rfl
@[simp] theorem Slot.eret_yielded (h : Slot) : (h.eret).yielded = h.yielded := rfl
@[simp] theorem Slot.eret_fork (h : Slot) : (h.eret).fork = h.fork := rfl
@[simp] theorem Slot.eret_pend (h : Slot) : (h.eret).pend = h.pend := rfl
@[simp] theorem Slot.eret_chOut (h : Slot) : (h.eret).chOut = h.chOut := rfl
@[simp] theorem Slot.eret_sendOut (h : Slot) : (h.eret).sendOut = h.sendOut := rfl
@[simp] theorem Slot.eret_shadow (h : Slot) : (h.eret).shadow = h.shadow := rfl
@[simp] theorem Slot.eret_cbuf (h : Slot) : (h.eret).cbuf = h.cbuf := rfl
@[simp] theorem Slot.eret_grd (h : Slot) : (h.eret).grd = h.grd := rfl
@[simp] theorem Slot.eret_quantum (h : Slot) : (h.eret).quantum = h.quantum := rfl
@[simp] theorem Slot.eret_move (h : Slot) : (h.eret).move = h.move := rfl
@[simp] theorem Slot.eret_parkedAt (h : Slot) : (h.eret).parkedAt = h.parkedAt := rfl
@[simp] theorem Slot.eret_parkReg (h : Slot) : (h.eret).parkReg = h.parkReg := rfl
@[simp] theorem Slot.eret_mismatch (h : Slot) : (h.eret).mismatch = h.mismatch := rfl
@[simp] theorem Slot.eret_away (h : Slot) : (h.eret).away = h.away := rfl
@[simp] theorem Slot.eret_redo (h : Slot) : (h.eret).redo = h.redo := rfl
@[simp] theorem Slot.eret_bindAt (h : Slot) : (h.eret).bindAt = h.bindAt := rfl
@[simp] theorem Slot.eret_leave (h : Slot) : (h.eret).leave = h.leave := rfl
@[simp] theorem Slot.eret_frozen (h : Slot) : (h.eret).frozen = h.frozen := rfl
@[simp] theorem Slot.eret_fetched (h : Slot) : (h.eret).fetched = h.fetched := rfl
@[simp] theorem Slot.eret_joined (h : Slot) : (h.eret).joined = h.joined := rfl
@[simp] theorem Slot.eret_fenced (h : Slot) : (h.eret).fenced = h.fenced := rfl
@[simp] theorem Slot.delPend_occ (h : Slot) (n : Nat) : (h.delPend n).occ = h.occ := rfl
@[simp] theorem Slot.delPend_run (h : Slot) (n : Nat) : (h.delPend n).run = h.run := rfl
@[simp] theorem Slot.delPend_pc (h : Slot) (n : Nat) : (h.delPend n).pc = h.pc := rfl
@[simp] theorem Slot.delPend_g (h : Slot) (n : Nat) : (h.delPend n).g = h.g := rfl
@[simp] theorem Slot.delPend_fe (h : Slot) (n : Nat) : (h.delPend n).fe = h.fe := rfl
@[simp] theorem Slot.delPend_poison (h : Slot) (n : Nat) : (h.delPend n).poison = h.poison := rfl
@[simp] theorem Slot.delPend_prod (h : Slot) (n : Nat) : (h.delPend n).prod = h.prod := rfl
@[simp] theorem Slot.delPend_st (h : Slot) (n : Nat) : (h.delPend n).st = h.st := rfl
@[simp] theorem Slot.delPend_pfx (h : Slot) (n : Nat) : (h.delPend n).pfx = h.pfx := rfl
@[simp] theorem Slot.delPend_rngs (h : Slot) (n : Nat) : (h.delPend n).rngs = h.rngs := rfl
@[simp] theorem Slot.delPend_mxcnan (h : Slot) (n : Nat) : (h.delPend n).mxcnan = h.mxcnan := rfl
@[simp] theorem Slot.delPend_mxcinf (h : Slot) (n : Nat) : (h.delPend n).mxcinf = h.mxcinf := rfl
@[simp] theorem Slot.delPend_mxcsat (h : Slot) (n : Nat) : (h.delPend n).mxcsat = h.mxcsat := rfl
@[simp] theorem Slot.delPend_cycleh (h : Slot) (n : Nat) : (h.delPend n).cycleh = h.cycleh := rfl
@[simp] theorem Slot.delPend_instret (h : Slot) (n : Nat) : (h.delPend n).instret = h.instret := rfl
@[simp] theorem Slot.delPend_instreth (h : Slot) (n : Nat) : (h.delPend n).instreth = h.instreth := rfl
@[simp] theorem Slot.delPend_lcoord (h : Slot) (n : Nat) : (h.delPend n).lcoord = h.lcoord := rfl
@[simp] theorem Slot.delPend_crewid (h : Slot) (n : Nat) : (h.delPend n).crewid = h.crewid := rfl
@[simp] theorem Slot.delPend_chmap (h : Slot) (n : Nat) : (h.delPend n).chmap = h.chmap := rfl
@[simp] theorem Slot.delPend_chpeer (h : Slot) (n : Nat) : (h.delPend n).chpeer = h.chpeer := rfl
@[simp] theorem Slot.delPend_gmem (h : Slot) (n : Nat) : (h.delPend n).gmem = h.gmem := rfl
@[simp] theorem Slot.delPend_gspan (h : Slot) (n : Nat) : (h.delPend n).gspan = h.gspan := rfl
@[simp] theorem Slot.delPend_tvec (h : Slot) (n : Nat) : (h.delPend n).tvec = h.tvec := rfl
@[simp] theorem Slot.delPend_epc (h : Slot) (n : Nat) : (h.delPend n).epc = h.epc := rfl
@[simp] theorem Slot.delPend_ecause (h : Slot) (n : Nat) : (h.delPend n).ecause = h.ecause := rfl
@[simp] theorem Slot.delPend_eval (h : Slot) (n : Nat) : (h.delPend n).eval = h.eval := rfl
@[simp] theorem Slot.delPend_estat (h : Slot) (n : Nat) : (h.delPend n).estat = h.estat := rfl
@[simp] theorem Slot.delPend_timer (h : Slot) (n : Nat) : (h.delPend n).timer = h.timer := rfl
@[simp] theorem Slot.delPend_escr (h : Slot) (n : Nat) : (h.delPend n).escr = h.escr := rfl
@[simp] theorem Slot.delPend_epfx (h : Slot) (n : Nat) : (h.delPend n).epfx = h.epfx := rfl
@[simp] theorem Slot.delPend_asid (h : Slot) (n : Nat) : (h.delPend n).asid = h.asid := rfl
@[simp] theorem Slot.delPend_spbase (h : Slot) (n : Nat) : (h.delPend n).spbase = h.spbase := rfl
@[simp] theorem Slot.delPend_spsize (h : Slot) (n : Nat) : (h.delPend n).spsize = h.spsize := rfl
@[simp] theorem Slot.delPend_osbase (h : Slot) (n : Nat) : (h.delPend n).osbase = h.osbase := rfl
@[simp] theorem Slot.delPend_ossize (h : Slot) (n : Nat) : (h.delPend n).ossize = h.ossize := rfl
@[simp] theorem Slot.delPend_savea (h : Slot) (n : Nat) : (h.delPend n).savea = h.savea := rfl
@[simp] theorem Slot.delPend_vstat (h : Slot) (n : Nat) : (h.delPend n).vstat = h.vstat := rfl
@[simp] theorem Slot.delPend_accmask (h : Slot) (n : Nat) : (h.delPend n).accmask = h.accmask := rfl
@[simp] theorem Slot.delPend_sg (h : Slot) (n : Nat) : (h.delPend n).sg = h.sg := rfl
@[simp] theorem Slot.delPend_mx (h : Slot) (n : Nat) : (h.delPend n).mx = h.mx := rfl
@[simp] theorem Slot.delPend_vx (h : Slot) (n : Nat) : (h.delPend n).vx = h.vx := rfl
@[simp] theorem Slot.delPend_lx (h : Slot) (n : Nat) : (h.delPend n).lx = h.lx := rfl
@[simp] theorem Slot.delPend_qx (h : Slot) (n : Nat) : (h.delPend n).qx = h.qx := rfl
@[simp] theorem Slot.delPend_wl (h : Slot) (n : Nat) : (h.delPend n).wl = h.wl := rfl
@[simp] theorem Slot.delPend_loaded (h : Slot) (n : Nat) : (h.delPend n).loaded = h.loaded := rfl
@[simp] theorem Slot.delPend_pendMchk (h : Slot) (n : Nat) : (h.delPend n).pendMchk = h.pendMchk := rfl
@[simp] theorem Slot.delPend_pendRange (h : Slot) (n : Nat) : (h.delPend n).pendRange = h.pendRange := rfl
@[simp] theorem Slot.delPend_pendTimer (h : Slot) (n : Nat) : (h.delPend n).pendTimer = h.pendTimer := rfl
@[simp] theorem Slot.delPend_pendLock (h : Slot) (n : Nat) : (h.delPend n).pendLock = h.pendLock := rfl
@[simp] theorem Slot.delPend_lastIssue (h : Slot) (n : Nat) : (h.delPend n).lastIssue = h.lastIssue := rfl
@[simp] theorem Slot.delPend_yielded (h : Slot) (n : Nat) : (h.delPend n).yielded = h.yielded := rfl
@[simp] theorem Slot.delPend_fork (h : Slot) (n : Nat) : (h.delPend n).fork = h.fork := rfl
@[simp] theorem Slot.delPend_chOut (h : Slot) (n : Nat) : (h.delPend n).chOut = h.chOut := rfl
@[simp] theorem Slot.delPend_sendOut (h : Slot) (n : Nat) : (h.delPend n).sendOut = h.sendOut := rfl
@[simp] theorem Slot.delPend_shadow (h : Slot) (n : Nat) : (h.delPend n).shadow = h.shadow := rfl
@[simp] theorem Slot.delPend_cbuf (h : Slot) (n : Nat) : (h.delPend n).cbuf = h.cbuf := rfl
@[simp] theorem Slot.delPend_grd (h : Slot) (n : Nat) : (h.delPend n).grd = h.grd := rfl
@[simp] theorem Slot.delPend_quantum (h : Slot) (n : Nat) : (h.delPend n).quantum = h.quantum := rfl
@[simp] theorem Slot.delPend_move (h : Slot) (n : Nat) : (h.delPend n).move = h.move := rfl
@[simp] theorem Slot.delPend_parkedAt (h : Slot) (n : Nat) : (h.delPend n).parkedAt = h.parkedAt := rfl
@[simp] theorem Slot.delPend_parkReg (h : Slot) (n : Nat) : (h.delPend n).parkReg = h.parkReg := rfl
@[simp] theorem Slot.delPend_mismatch (h : Slot) (n : Nat) : (h.delPend n).mismatch = h.mismatch := rfl
@[simp] theorem Slot.delPend_away (h : Slot) (n : Nat) : (h.delPend n).away = h.away := rfl
@[simp] theorem Slot.delPend_redo (h : Slot) (n : Nat) : (h.delPend n).redo = h.redo := rfl
@[simp] theorem Slot.delPend_bindAt (h : Slot) (n : Nat) : (h.delPend n).bindAt = h.bindAt := rfl
@[simp] theorem Slot.delPend_leave (h : Slot) (n : Nat) : (h.delPend n).leave = h.leave := rfl
@[simp] theorem Slot.delPend_frozen (h : Slot) (n : Nat) : (h.delPend n).frozen = h.frozen := rfl
@[simp] theorem Slot.delPend_fetched (h : Slot) (n : Nat) : (h.delPend n).fetched = h.fetched := rfl
@[simp] theorem Slot.delPend_joined (h : Slot) (n : Nat) : (h.delPend n).joined = h.joined := rfl
@[simp] theorem Slot.delPend_fenced (h : Slot) (n : Nat) : (h.delPend n).fenced = h.fenced := rfl
@[simp] theorem Slot.dropProd_occ (h : Slot) (r : Nat) : (h.dropProd r).occ = h.occ := rfl
@[simp] theorem Slot.dropProd_run (h : Slot) (r : Nat) : (h.dropProd r).run = h.run := rfl
@[simp] theorem Slot.dropProd_pc (h : Slot) (r : Nat) : (h.dropProd r).pc = h.pc := rfl
@[simp] theorem Slot.dropProd_g (h : Slot) (r : Nat) : (h.dropProd r).g = h.g := rfl
@[simp] theorem Slot.dropProd_fe (h : Slot) (r : Nat) : (h.dropProd r).fe = h.fe := rfl
@[simp] theorem Slot.dropProd_poison (h : Slot) (r : Nat) : (h.dropProd r).poison = h.poison := rfl
@[simp] theorem Slot.dropProd_st (h : Slot) (r : Nat) : (h.dropProd r).st = h.st := rfl
@[simp] theorem Slot.dropProd_pfx (h : Slot) (r : Nat) : (h.dropProd r).pfx = h.pfx := rfl
@[simp] theorem Slot.dropProd_rngs (h : Slot) (r : Nat) : (h.dropProd r).rngs = h.rngs := rfl
@[simp] theorem Slot.dropProd_mxcnan (h : Slot) (r : Nat) : (h.dropProd r).mxcnan = h.mxcnan := rfl
@[simp] theorem Slot.dropProd_mxcinf (h : Slot) (r : Nat) : (h.dropProd r).mxcinf = h.mxcinf := rfl
@[simp] theorem Slot.dropProd_mxcsat (h : Slot) (r : Nat) : (h.dropProd r).mxcsat = h.mxcsat := rfl
@[simp] theorem Slot.dropProd_cycleh (h : Slot) (r : Nat) : (h.dropProd r).cycleh = h.cycleh := rfl
@[simp] theorem Slot.dropProd_instret (h : Slot) (r : Nat) : (h.dropProd r).instret = h.instret := rfl
@[simp] theorem Slot.dropProd_instreth (h : Slot) (r : Nat) : (h.dropProd r).instreth = h.instreth := rfl
@[simp] theorem Slot.dropProd_lcoord (h : Slot) (r : Nat) : (h.dropProd r).lcoord = h.lcoord := rfl
@[simp] theorem Slot.dropProd_crewid (h : Slot) (r : Nat) : (h.dropProd r).crewid = h.crewid := rfl
@[simp] theorem Slot.dropProd_chmap (h : Slot) (r : Nat) : (h.dropProd r).chmap = h.chmap := rfl
@[simp] theorem Slot.dropProd_chpeer (h : Slot) (r : Nat) : (h.dropProd r).chpeer = h.chpeer := rfl
@[simp] theorem Slot.dropProd_gmem (h : Slot) (r : Nat) : (h.dropProd r).gmem = h.gmem := rfl
@[simp] theorem Slot.dropProd_gspan (h : Slot) (r : Nat) : (h.dropProd r).gspan = h.gspan := rfl
@[simp] theorem Slot.dropProd_tvec (h : Slot) (r : Nat) : (h.dropProd r).tvec = h.tvec := rfl
@[simp] theorem Slot.dropProd_epc (h : Slot) (r : Nat) : (h.dropProd r).epc = h.epc := rfl
@[simp] theorem Slot.dropProd_ecause (h : Slot) (r : Nat) : (h.dropProd r).ecause = h.ecause := rfl
@[simp] theorem Slot.dropProd_eval (h : Slot) (r : Nat) : (h.dropProd r).eval = h.eval := rfl
@[simp] theorem Slot.dropProd_estat (h : Slot) (r : Nat) : (h.dropProd r).estat = h.estat := rfl
@[simp] theorem Slot.dropProd_timer (h : Slot) (r : Nat) : (h.dropProd r).timer = h.timer := rfl
@[simp] theorem Slot.dropProd_escr (h : Slot) (r : Nat) : (h.dropProd r).escr = h.escr := rfl
@[simp] theorem Slot.dropProd_epfx (h : Slot) (r : Nat) : (h.dropProd r).epfx = h.epfx := rfl
@[simp] theorem Slot.dropProd_asid (h : Slot) (r : Nat) : (h.dropProd r).asid = h.asid := rfl
@[simp] theorem Slot.dropProd_spbase (h : Slot) (r : Nat) : (h.dropProd r).spbase = h.spbase := rfl
@[simp] theorem Slot.dropProd_spsize (h : Slot) (r : Nat) : (h.dropProd r).spsize = h.spsize := rfl
@[simp] theorem Slot.dropProd_osbase (h : Slot) (r : Nat) : (h.dropProd r).osbase = h.osbase := rfl
@[simp] theorem Slot.dropProd_ossize (h : Slot) (r : Nat) : (h.dropProd r).ossize = h.ossize := rfl
@[simp] theorem Slot.dropProd_savea (h : Slot) (r : Nat) : (h.dropProd r).savea = h.savea := rfl
@[simp] theorem Slot.dropProd_vstat (h : Slot) (r : Nat) : (h.dropProd r).vstat = h.vstat := rfl
@[simp] theorem Slot.dropProd_accmask (h : Slot) (r : Nat) : (h.dropProd r).accmask = h.accmask := rfl
@[simp] theorem Slot.dropProd_sg (h : Slot) (r : Nat) : (h.dropProd r).sg = h.sg := rfl
@[simp] theorem Slot.dropProd_mx (h : Slot) (r : Nat) : (h.dropProd r).mx = h.mx := rfl
@[simp] theorem Slot.dropProd_vx (h : Slot) (r : Nat) : (h.dropProd r).vx = h.vx := rfl
@[simp] theorem Slot.dropProd_lx (h : Slot) (r : Nat) : (h.dropProd r).lx = h.lx := rfl
@[simp] theorem Slot.dropProd_qx (h : Slot) (r : Nat) : (h.dropProd r).qx = h.qx := rfl
@[simp] theorem Slot.dropProd_wl (h : Slot) (r : Nat) : (h.dropProd r).wl = h.wl := rfl
@[simp] theorem Slot.dropProd_loaded (h : Slot) (r : Nat) : (h.dropProd r).loaded = h.loaded := rfl
@[simp] theorem Slot.dropProd_pendMchk (h : Slot) (r : Nat) : (h.dropProd r).pendMchk = h.pendMchk := rfl
@[simp] theorem Slot.dropProd_pendRange (h : Slot) (r : Nat) : (h.dropProd r).pendRange = h.pendRange := rfl
@[simp] theorem Slot.dropProd_pendTimer (h : Slot) (r : Nat) : (h.dropProd r).pendTimer = h.pendTimer := rfl
@[simp] theorem Slot.dropProd_pendLock (h : Slot) (r : Nat) : (h.dropProd r).pendLock = h.pendLock := rfl
@[simp] theorem Slot.dropProd_lastIssue (h : Slot) (r : Nat) : (h.dropProd r).lastIssue = h.lastIssue := rfl
@[simp] theorem Slot.dropProd_yielded (h : Slot) (r : Nat) : (h.dropProd r).yielded = h.yielded := rfl
@[simp] theorem Slot.dropProd_fork (h : Slot) (r : Nat) : (h.dropProd r).fork = h.fork := rfl
@[simp] theorem Slot.dropProd_pend (h : Slot) (r : Nat) : (h.dropProd r).pend = h.pend := rfl
@[simp] theorem Slot.dropProd_chOut (h : Slot) (r : Nat) : (h.dropProd r).chOut = h.chOut := rfl
@[simp] theorem Slot.dropProd_sendOut (h : Slot) (r : Nat) : (h.dropProd r).sendOut = h.sendOut := rfl
@[simp] theorem Slot.dropProd_shadow (h : Slot) (r : Nat) : (h.dropProd r).shadow = h.shadow := rfl
@[simp] theorem Slot.dropProd_cbuf (h : Slot) (r : Nat) : (h.dropProd r).cbuf = h.cbuf := rfl
@[simp] theorem Slot.dropProd_grd (h : Slot) (r : Nat) : (h.dropProd r).grd = h.grd := rfl
@[simp] theorem Slot.dropProd_quantum (h : Slot) (r : Nat) : (h.dropProd r).quantum = h.quantum := rfl
@[simp] theorem Slot.dropProd_move (h : Slot) (r : Nat) : (h.dropProd r).move = h.move := rfl
@[simp] theorem Slot.dropProd_parkedAt (h : Slot) (r : Nat) : (h.dropProd r).parkedAt = h.parkedAt := rfl
@[simp] theorem Slot.dropProd_parkReg (h : Slot) (r : Nat) : (h.dropProd r).parkReg = h.parkReg := rfl
@[simp] theorem Slot.dropProd_mismatch (h : Slot) (r : Nat) : (h.dropProd r).mismatch = h.mismatch := rfl
@[simp] theorem Slot.dropProd_away (h : Slot) (r : Nat) : (h.dropProd r).away = h.away := rfl
@[simp] theorem Slot.dropProd_redo (h : Slot) (r : Nat) : (h.dropProd r).redo = h.redo := rfl
@[simp] theorem Slot.dropProd_bindAt (h : Slot) (r : Nat) : (h.dropProd r).bindAt = h.bindAt := rfl
@[simp] theorem Slot.dropProd_leave (h : Slot) (r : Nat) : (h.dropProd r).leave = h.leave := rfl
@[simp] theorem Slot.dropProd_frozen (h : Slot) (r : Nat) : (h.dropProd r).frozen = h.frozen := rfl
@[simp] theorem Slot.dropProd_fetched (h : Slot) (r : Nat) : (h.dropProd r).fetched = h.fetched := rfl
@[simp] theorem Slot.dropProd_joined (h : Slot) (r : Nat) : (h.dropProd r).joined = h.joined := rfl
@[simp] theorem Slot.dropProd_fenced (h : Slot) (r : Nat) : (h.dropProd r).fenced = h.fenced := rfl
@[simp] theorem Slot.commit_pc (h : Slot) : h.commit.pc = h.pc + 4 := rfl
@[simp] theorem Slot.commit_instret (h : Slot) : h.commit.instret = h.instret + 1 := rfl
@[simp] theorem Slot.commitAt_pc (h : Slot) (a : Word) : (h.commitAt a).pc = a := rfl
@[simp] theorem Slot.wake_run (h : Slot) : h.wake.run = .ready := rfl
@[simp] theorem Slot.setG_zero (h : Slot) (v : Word) : h.setG 0 v = h := rfl
@[simp] theorem Slot.markEmpty_zero (h : Slot) : h.markEmpty 0 = h := rfl
@[simp] theorem Slot.emptyReg_zero (h : Slot) : h.emptyReg 0 = h := rfl
@[simp] theorem Slot.fill_zero (h : Slot) (v : Word) (b : Bool) : h.fill 0 v b = h := rfl

/-! ### Reading a sparse map -/

theorem mget_mput {α : Type} (d : α) (m : SMap α) (a b : Nat) (v : α) : mget d (mput m a v) b = if a = b then v else mget d m b := by
  induction m with
  | nil => simp [mput, mget]
  | cons p rest ih =>
    obtain ⟨k, w⟩ := p
    by_cases h1 : a < k
    · simp [mput, mget, h1]
    · by_cases h2 : k = a
      · subst h2; simp only [mput, Nat.lt_irrefl, if_false, if_true, mget]; split <;> rfl
      · simp only [mput, h1, h2, if_false, mget, ih]
        by_cases h3 : k = b
        · subst h3; simp [Ne.symm h2]
        · simp [h3]

@[simp] theorem mget_mput_same {α : Type} (d : α) (m : SMap α) (a : Nat) (v : α) : mget d (mput m a v) a = v := by simp [mget_mput]
theorem mget_mput_other {α : Type} (d : α) (m : SMap α) {a b : Nat} (v : α) (h : b ≠ a) : mget d (mput m a v) b = mget d m b := by
  simp [mget_mput, Ne.symm h]

/-! ### Reading back a place -/

@[simp] theorem State.tile_setTile (s : State) (t : Nat) (v : Tile) : (s.setTile t v).tile t = v := mget_mput_same _ _ _ _
theorem State.tile_setTile_other (s : State) {t n : Nat} (v : Tile) (h : n ≠ t) : (s.setTile t v).tile n = s.tile n := mget_mput_other _ _ _ h
@[simp] theorem State.tile_modTile (s : State) (t : Nat) (f : Tile → Tile) : (s.modTile t f).tile t = f (s.tile t) := mget_mput_same _ _ _ _
theorem State.tile_modTile_other (s : State) {t n : Nat} (f : Tile → Tile) (h : n ≠ t) : (s.modTile t f).tile n = s.tile n := mget_mput_other _ _ _ h
@[simp] theorem Tile.slot_setSlot (T : Tile) (k : Nat) (v : Slot) : (T.setSlot k v).slot k = v := mget_mput_same _ _ _ _
theorem Tile.slot_setSlot_other (T : Tile) {k n : Nat} (v : Slot) (h : n ≠ k) : (T.setSlot k v).slot n = T.slot n := mget_mput_other _ _ _ h
@[simp] theorem State.slot_setSlot (s : State) (t k : Nat) (v : Slot) : (s.setSlot t k v).slot t k = v := by simp [State.slot, State.setSlot]
@[simp] theorem State.slot_modSlot (s : State) (t k : Nat) (f : Slot → Slot) : (s.modSlot t k f).slot t k = f (s.slot t k) := by simp [State.modSlot]
theorem State.slot_setSlot_other (s : State) (t k : Nat) (v : Slot) {a b : Nat} (h : a ≠ t ∨ b ≠ k) : (s.setSlot t k v).slot a b = s.slot a b := by
  by_cases ha : a = t
  · subst ha; simp [State.slot, State.setSlot]; exact Tile.slot_setSlot_other _ _ (h.resolve_left (by simp))
  · simp [State.slot, State.setSlot, State.tile_setTile_other _ _ ha]
@[simp] theorem State.th_modTh (s : State) (f : Slot → Slot) : (s.modTh f).th = f s.th := by simp [State.th, State.modTh]
@[simp] theorem State.die_setDie (s : State) (n : Nat) (v : Die) : (s.setDie n v).die n = v := mget_mput_same _ _ _ _
@[simp] theorem State.die_modDie (s : State) (n : Nat) (f : Die → Die) : (s.modDie n f).die n = f (s.die n) := mget_mput_same _ _ _ _
theorem State.die_setDie_other (s : State) {n k : Nat} (v : Die) (h : k ≠ n) : (s.setDie n v).die k = s.die k := mget_mput_other _ _ _ h
theorem State.die_modDie_other (s : State) {n k : Nat} (f : Die → Die) (h : k ≠ n) : (s.modDie n f).die k = s.die k := mget_mput_other _ _ _ h

@[simp] theorem State.emit_tile (s : State) (e : Ev) (t : Nat) : (s.emit e).tile t = s.tile t := rfl
@[simp] theorem State.emit_slot (s : State) (e : Ev) (t k : Nat) : (s.emit e).slot t k = s.slot t k := rfl
@[simp] theorem State.emit_th (s : State) (e : Ev) : (s.emit e).th = s.th := rfl
@[simp] theorem State.emits_tile (s : State) (l : List Ev) (t : Nat) : (s.emits l).tile t = s.tile t := rfl
@[simp] theorem State.emits_slot (s : State) (l : List Ev) (t k : Nat) : (s.emits l).slot t k = s.slot t k := rfl
@[simp] theorem State.emits_th (s : State) (l : List Ev) : (s.emits l).th = s.th := rfl
@[simp] theorem State.after_tile (s : State) (vd n : Nat) (e : Ev) (t : Nat) : (s.after vd n e).tile t = s.tile t := rfl
@[simp] theorem State.after_slot (s : State) (vd n : Nat) (e : Ev) (t k : Nat) : (s.after vd n e).slot t k = s.slot t k := rfl
@[simp] theorem State.after_th (s : State) (vd n : Nat) (e : Ev) : (s.after vd n e).th = s.th := rfl
@[simp] theorem State.unTimer_tile (s : State) (e : Ev) (t : Nat) : (s.unTimer e).tile t = s.tile t := rfl
@[simp] theorem State.unTimer_slot (s : State) (e : Ev) (t k : Nat) : (s.unTimer e).slot t k = s.slot t k := rfl
@[simp] theorem State.unTimer_th (s : State) (e : Ev) : (s.unTimer e).th = s.th := rfl
@[simp] theorem State.hostOut_tile (s : State) (h : HostOut) (t : Nat) : (s.hostOut h).tile t = s.tile t := rfl
@[simp] theorem State.hostOut_slot (s : State) (h : HostOut) (t k : Nat) : (s.hostOut h).slot t k = s.slot t k := rfl
@[simp] theorem State.hostOut_th (s : State) (h : HostOut) : (s.hostOut h).th = s.th := rfl
@[simp] theorem State.setDie_tile (s : State) (n : Nat) (v : Die) (t : Nat) : (s.setDie n v).tile t = s.tile t := rfl
@[simp] theorem State.setDie_slot (s : State) (n : Nat) (v : Die) (t k : Nat) : (s.setDie n v).slot t k = s.slot t k := rfl
@[simp] theorem State.setDie_th (s : State) (n : Nat) (v : Die) : (s.setDie n v).th = s.th := rfl
@[simp] theorem State.modDie_tile (s : State) (n : Nat) (f : Die → Die) (t : Nat) : (s.modDie n f).tile t = s.tile t := rfl
@[simp] theorem State.modDie_slot (s : State) (n : Nat) (f : Die → Die) (t k : Nat) : (s.modDie n f).slot t k = s.slot t k := rfl
@[simp] theorem State.modDie_th (s : State) (n : Nat) (f : Die → Die) : (s.modDie n f).th = s.th := rfl
@[simp] theorem State.modLink_tile (s : State) (n : Nat) (f : Link → Link) (t : Nat) : (s.modLink n f).tile t = s.tile t := rfl
@[simp] theorem State.modLink_slot (s : State) (n : Nat) (f : Link → Link) (t k : Nat) : (s.modLink n f).slot t k = s.slot t k := rfl
@[simp] theorem State.modLink_th (s : State) (n : Nat) (f : Link → Link) : (s.modLink n f).th = s.th := rfl
@[simp] theorem State.putRec_tile (s : State) (a v : Nat) (t : Nat) : (s.putRec a v).tile t = s.tile t := rfl
@[simp] theorem State.putRec_slot (s : State) (a v : Nat) (t k : Nat) : (s.putRec a v).slot t k = s.slot t k := rfl
@[simp] theorem State.putRec_th (s : State) (a v : Nat) : (s.putRec a v).th = s.th := rfl
@[simp] theorem State.emit_die (s : State) (e : Ev) (d : Nat) : (s.emit e).die d = s.die d := rfl
@[simp] theorem State.emits_die (s : State) (l : List Ev) (d : Nat) : (s.emits l).die d = s.die d := rfl
@[simp] theorem State.after_die (s : State) (vd n : Nat) (e : Ev) (d : Nat) : (s.after vd n e).die d = s.die d := rfl
@[simp] theorem State.unTimer_die (s : State) (e : Ev) (d : Nat) : (s.unTimer e).die d = s.die d := rfl
@[simp] theorem State.hostOut_die (s : State) (h : HostOut) (d : Nat) : (s.hostOut h).die d = s.die d := rfl
@[simp] theorem State.setTile_die (s : State) (n : Nat) (v : Tile) (d : Nat) : (s.setTile n v).die d = s.die d := rfl
@[simp] theorem State.modTile_die (s : State) (n : Nat) (f : Tile → Tile) (d : Nat) : (s.modTile n f).die d = s.die d := rfl
@[simp] theorem State.setSlot_die (s : State) (n k : Nat) (v : Slot) (d : Nat) : (s.setSlot n k v).die d = s.die d := rfl
@[simp] theorem State.modSlot_die (s : State) (n k : Nat) (f : Slot → Slot) (d : Nat) : (s.modSlot n k f).die d = s.die d := rfl
@[simp] theorem State.modTh_die (s : State) (f : Slot → Slot) (d : Nat) : (s.modTh f).die d = s.die d := rfl
@[simp] theorem State.modLink_die (s : State) (n : Nat) (f : Link → Link) (d : Nat) : (s.modLink n f).die d = s.die d := rfl
@[simp] theorem State.putRec_die (s : State) (a v : Nat) (d : Nat) : (s.putRec a v).die d = s.die d := rfl

end Sys2Proof.Machine
end

