-- ==== Sys2Proof/Laws/Memory.lean ====
section
/-! SUPPORT. Memory: every operation keeps the canonical form, and what is read back after a write. -/

namespace Sys2Proof.Machine
open Sys2Proof

/-! ### Rising keys -/

theorem risingFrom_weaken {α : Type} {a b : Nat} {m : SMap α} (h : b ≤ a) (hm : risingFrom a m = true) : risingFrom b m = true := by
  cases m with
  | nil => rfl
  | cons c rest => obtain ⟨k, v⟩ := c; simp [risingFrom] at hm ⊢; exact ⟨by omega, hm.2⟩

theorem risingFrom_mput {α : Type} (m : SMap α) (n : Nat) (v : α) (lo : Nat) (h : risingFrom lo m = true) (hn : lo ≤ n) : risingFrom lo (mput m n v) = true := by
  induction m generalizing lo with
  | nil => simp [mput, risingFrom, hn]
  | cons c rest ih =>
    obtain ⟨k, w⟩ := c
    simp [risingFrom] at h
    unfold mput
    split
    · simp [risingFrom, hn, h.2]; omega
    · split
      · subst_vars; simp [risingFrom, h]
      · simp [risingFrom, h.1]; exact ih _ h.2 (by omega)

theorem risingFrom_mdel {α : Type} (m : SMap α) (n lo : Nat) (h : risingFrom lo m = true) : risingFrom lo (mdel m n) = true := by
  induction m generalizing lo with
  | nil => rfl
  | cons c rest ih =>
    obtain ⟨k, w⟩ := c
    simp [risingFrom] at h
    unfold mdel
    split
    · exact risingFrom_weaken (by omega) h.2
    · simp [risingFrom, h.1]; exact ih _ h.2

theorem risingFrom_filter {α : Type} (p : Nat × α → Bool) (m : SMap α) (lo : Nat) (h : risingFrom lo m = true) : risingFrom lo (m.filter p) = true := by
  induction m generalizing lo with
  | nil => rfl
  | cons c rest ih =>
    obtain ⟨k, w⟩ := c
    simp [risingFrom] at h
    by_cases hp : p (k, w) = true
    · simp [hp, risingFrom, h.1]; exact ih _ h.2
    · simp [hp]; exact ih _ (risingFrom_weaken (by omega) h.2)

theorem mput_mem {α : Type} (m : SMap α) (n : Nat) (v : α) (c : Nat × α) (h : c ∈ mput m n v) : c = (n, v) ∨ c ∈ m := by
  induction m with
  | nil => simp [mput] at h; exact .inl h
  | cons d rest ih =>
    obtain ⟨k, w⟩ := d
    unfold mput at h
    split at h
    · simpa using h
    · split at h
      · rcases List.mem_cons.mp h with h | h
        · exact .inl h
        · exact .inr (List.mem_cons_of_mem _ h)
      · rcases List.mem_cons.mp h with h | h
        · exact .inr (h ▸ List.mem_cons_self ..)
        · exact (ih h).imp id (List.mem_cons_of_mem _)

theorem mdel_mem {α : Type} (m : SMap α) (n : Nat) (c : Nat × α) (h : c ∈ mdel m n) : c ∈ m := by
  induction m with
  | nil => exact h
  | cons d rest ih =>
    obtain ⟨k, w⟩ := d
    unfold mdel at h
    split at h
    · exact List.mem_cons_of_mem _ h
    · rcases List.mem_cons.mp h with h | h
      · exact h ▸ List.mem_cons_self ..
      · exact List.mem_cons_of_mem _ (ih h)

/-! ### The canonical form -/

theorem Memory.wf_iff (m : Memory) : Memory.wf m = true ↔ risingFrom 0 m = true ∧ ∀ c, c ∈ m → c.2 ≠ 0 := by
  simp [Memory.wf]

theorem Memory.wf_nil : Memory.wf [] = true := rfl

theorem Memory.wf_wrByte (m : Memory) (a : Nat) (b : Byte) (h : Memory.wf m = true) : Memory.wf (wrByte m a b) = true := by
  rw [Memory.wf_iff] at h ⊢
  unfold wrByte mset
  split
  · exact ⟨risingFrom_mdel _ _ _ h.1, fun c hc => h.2 c (mdel_mem _ _ _ hc)⟩
  · refine ⟨risingFrom_mput _ _ _ _ h.1 (Nat.zero_le _), fun c hc => ?_⟩
    rcases mput_mem _ _ _ _ hc with rfl | hc
    · assumption
    · exact h.2 c hc

theorem Memory.wf_wrBytes (m : Memory) (a : Nat) (bs : List Byte) (h : Memory.wf m = true) : Memory.wf (wrBytes m a bs) = true := by
  induction bs generalizing m a with
  | nil => exact h
  | cons b bs ih => exact ih _ _ (Memory.wf_wrByte _ _ _ h)

theorem Memory.wf_wrLE (m : Memory) (a n v : Nat) (h : Memory.wf m = true) : Memory.wf (wrLE m a n v) = true := Memory.wf_wrBytes _ _ _ h

theorem Memory.wf_filter (m : Memory) (p : Nat × Byte → Bool) (h : Memory.wf m = true) : Memory.wf (m.filter p) = true := by
  rw [Memory.wf_iff] at h ⊢
  exact ⟨risingFrom_filter _ _ _ h.1, fun c hc => h.2 c (List.mem_of_mem_filter hc)⟩

theorem Memory.wf_foldl {β : Type} (f : Memory → β → Memory) (hf : ∀ m b, Memory.wf m = true → Memory.wf (f m b) = true) (l : List β) (m : Memory)
    (h : Memory.wf m = true) : Memory.wf (l.foldl f m) = true := by
  induction l generalizing m with
  | nil => exact h
  | cons b l ih => exact ih _ (hf _ _ h)

/-! ### Reading back -/

/-- A key below every listed one reads as the default. -/
theorem mget_below {α : Type} (d : α) (m : SMap α) (lo n : Nat) (h : risingFrom lo m = true) (hn : n < lo) : mget d m n = d := by
  induction m generalizing lo with
  | nil => rfl
  | cons c rest ih =>
    obtain ⟨k, w⟩ := c
    simp [risingFrom] at h
    have hk : k ≠ n := by omega
    simp [mget, hk]; exact ih _ h.2 (by omega)

theorem mget_mdel {α : Type} (d : α) (m : SMap α) (n k lo : Nat) (h : risingFrom lo m = true) : mget d (mdel m n) k = if k = n then d else mget d m k := by
  induction m generalizing lo with
  | nil => simp [mdel, mget]
  | cons c rest ih =>
    obtain ⟨j, w⟩ := c
    simp [risingFrom] at h
    unfold mdel
    split
    · subst_vars
      split
      · subst_vars; exact mget_below _ _ _ _ h.2 (by omega)
      · rename_i hk; simp [mget, Ne.symm hk]
    · rename_i hj
      simp only [mget]
      split
      · subst_vars; simp [hj]
      · exact ih _ h.2

/-- A byte reads as it was last written. -/
theorem rdByte_wrByte (m : Memory) (a k : Nat) (b : Byte) (h : Memory.wf m = true) : rdByte (wrByte m a b) k = if k = a then b else rdByte m k := by
  have hr := ((Memory.wf_iff m).mp h).1
  unfold rdByte wrByte mset
  split
  · subst_vars; exact mget_mdel _ _ _ _ _ hr
  · split
    · subst_vars; exact mget_mput_same _ _ _ _
    · exact mget_mput_other _ _ _ (by assumption)

/-- A write changes the bytes written and no other. -/
theorem rdByte_wrBytes (m : Memory) (a k : Nat) (bs : List Byte) (h : Memory.wf m = true) :
    rdByte (wrBytes m a bs) k = if a ≤ k ∧ k < a + bs.length then bs.getD (k - a) 0 else rdByte m k := by
  induction bs generalizing m a with
  | nil => simp [wrBytes]
  | cons b bs ih =>
    rw [wrBytes, ih _ _ (Memory.wf_wrByte _ _ _ h), rdByte_wrByte _ _ _ _ h]
    by_cases h1 : k = a
    · subst h1; simp
    · by_cases h2 : a + 1 ≤ k ∧ k < a + 1 + bs.length
      · obtain ⟨j, rfl⟩ : ∃ j, k = a + 1 + j := ⟨k - (a + 1), by omega⟩
        have e1 : a + 1 + j - (a + 1) = j := by omega
        have e2 : a + 1 + j - a = j + 1 := by omega
        have h3 : a ≤ a + 1 + j ∧ a + 1 + j < a + (bs.length + 1) := by omega
        simp [h2, h3, e1, e2]
      · have h3 : ¬(a ≤ k ∧ k < a + (bs.length + 1)) := by omega
        rw [if_neg h2, if_neg h1]; simp only [List.length_cons]; rw [if_neg h3]

@[simp] theorem length_rdBytes (m : Memory) (a n : Nat) : (rdBytes m a n).length = n := by
  induction n generalizing a with
  | zero => rfl
  | succ n ih => simp [rdBytes, ih]

@[simp] theorem length_leBytes (n v : Nat) : (leBytes n v).length = n := by
  induction n generalizing v with
  | zero => rfl
  | succ n ih => simp [leBytes, ih]

/-- The bytes of a number spell it. -/
theorem leNat_leBytes (n v : Nat) : leNat (leBytes n v) = v % 256 ^ n := by
  induction n generalizing v with
  | zero => simp [leBytes, leNat, Nat.mod_one]
  | succ n ih =>
    have e : (BitVec.ofNat 8 v).toNat = v % 256 := by simp
    simp only [leBytes, leNat, ih, e]
    rw [Nat.pow_succ', Nat.mod_mul]

theorem rdBytes_wrBytes_same (m : Memory) (a : Nat) (bs : List Byte) (h : Memory.wf m = true) : rdBytes (wrBytes m a bs) a bs.length = bs := by
  have key : ∀ (n j : Nat), j + n = bs.length → rdBytes (wrBytes m a bs) (a + j) n = bs.drop j := by
    intro n
    induction n with
    | zero => intro j hj; simp [rdBytes]; omega
    | succ n ih =>
      intro j hj
      have hlt : j < bs.length := by omega
      have hin : a ≤ a + j ∧ a + j < a + bs.length := by omega
      have e : a + j - a = j := by omega
      rw [rdBytes, rdByte_wrBytes _ _ _ _ h, Nat.add_assoc, ih (j + 1) (by omega)]
      rw [if_pos hin, e, List.drop_eq_getElem_cons hlt]; simp [List.getD, hlt]
  simpa using key bs.length 0 (by omega)

/-- A number read where it was written. -/
theorem rdLE_wrLE_same (m : Memory) (a n v : Nat) (h : Memory.wf m = true) : rdLE (wrLE m a n v) a n = v % 256 ^ n := by
  have := rdBytes_wrBytes_same m a (leBytes n v) h
  rw [length_leBytes] at this
  rw [rdLE, wrLE, this, leNat_leBytes]

/-- Bytes outside a write read as before. -/
theorem rdBytes_wrBytes_other (m : Memory) (a b n : Nat) (bs : List Byte) (h : Memory.wf m = true) (hd : b + n ≤ a ∨ a + bs.length ≤ b) :
    rdBytes (wrBytes m a bs) b n = rdBytes m b n := by
  induction n generalizing b with
  | zero => rfl
  | succ n ih =>
    have hout : ¬(a ≤ b ∧ b < a + bs.length) := by omega
    rw [rdBytes, rdByte_wrBytes _ _ _ _ h, if_neg hout, ih (b + 1) (by omega), rdBytes]

/-! ### Writes at a home -/


end Sys2Proof.Machine
end

