-- ==== Sys2Proof/Laws/Operands.lean ====
section
/-! SUPPORT. What the shared operand operations can answer: sources, destinations, the checks before operands, segments, commits
and sends. One lemma per operation, to be cited instead of unfolding it. -/

namespace Sys2Proof.Machine
open Sys2Proof

/-! ### Sources and destinations -/

/-- All that reading a source can answer. -/
theorem readSrc_cases (i : Instr) (srcs : List Src) (r : Reg) (s : State) :
    (s.th.isChan r.toNat = true ∧ s.th.shadow.isSome = false ∧ s.th.isVisitor = true ∧ readSrc i srcs r s = .error s.goHome) ∨
    (s.th.isChan r.toNat = true ∧ s.th.shadow.isSome = true ∧ readSrc i srcs r s = .error (s.block .predicted)) ∨
    (s.th.isChan r.toNat = true ∧ s.th.isVisitor = false ∧ s.th.shadow.isSome = false ∧
      ((∃ m rest, s.fifo s.cur.1 (chanOf s.cur.2 r.toNat) = m :: rest ∧ readSrc i srcs r s = .ok (BitVec.ofNat 32 m.aux0.toNat)) ∨
       (s.fifo s.cur.1 (chanOf s.cur.2 r.toNat) = [] ∧ ∃ t, readSrc i srcs r s = .error t))) ∨
    (s.th.isChan r.toNat = false ∧ s.th.isFull r.toNat = true ∧ wbit s.th.poison r.toNat = true ∧
      readSrc i srcs r s = .error (s.trap tMCHK 1 (BitVec.ofNat 32 r.toNat))) ∨
    (s.th.isChan r.toNat = false ∧ s.th.isFull r.toNat = true ∧ wbit s.th.poison r.toNat = false ∧ readSrc i srcs r s = .ok (s.th.greg r.toNat)) ∨
    (s.th.isChan r.toNat = false ∧ s.th.isFull r.toNat = false ∧ ∃ t, readSrc i srcs r s = .error t) := by
  unfold readSrc
  cases hc : s.th.isChan r.toNat
  · cases hf : s.th.isFull r.toNat
    · simp only [hc, hf, Bool.false_eq_true, if_false]
      refine .inr (.inr (.inr (.inr (.inr ⟨trivial, trivial, ?_⟩))))
      split
      · exact ⟨_, rfl⟩
      · split <;> exact ⟨_, rfl⟩
    · cases hp : wbit s.th.poison r.toNat <;> simp [hc, hf, hp]
  · cases hv : s.th.isVisitor
    · cases hs : s.th.shadow.isSome
      · cases hq : s.fifo s.cur.1 (chanOf s.cur.2 r.toNat) with
        | cons m rest => simp [hc, hv, hs, hq]
        | nil =>
          simp only [hc, hv, hs, hq, if_true, Bool.false_eq_true, if_false]
          refine .inr (.inr (.inl ⟨trivial, trivial, trivial, .inr ⟨trivial, ?_⟩⟩))
          split
          · exact ⟨_, rfl⟩
          · split <;> exact ⟨_, rfl⟩
      · simp [hc, hs]
    · cases hs : s.th.shadow.isSome <;> simp [hc, hv, hs]

/-- A full register that is no channel and carries no poison delivers its value, g0 delivers zero. -/
theorem delivers_plain (srcs : List Src) (r : Reg) (s : State) (hc : s.th.isChan r.toNat = false) (hf : s.th.isFull r.toNat = true)
    (hp : wbit s.th.poison r.toNat = false) : Delivers srcs r s (s.th.greg r.toNat) := by
  intro i; simp [readSrc, hc, hf, hp]

/-- What a source delivers does not depend on the instruction that reads it. -/
theorem delivers_of_one (i : Instr) (srcs : List Src) (r : Reg) (s : State) (x : Word) (h : readSrc i srcs r s = .ok x) : Delivers srcs r s x := by
  intro j
  rcases readSrc_cases i srcs r s with h1 | h1 | h1 | h1 | h1 | h1
  · simp [h1.2.2.2] at h
  · simp [h1.2.2] at h
  · obtain ⟨hc, hv, hs, h1 | ⟨-, t, h1⟩⟩ := h1
    · obtain ⟨m, rest, hq, h1⟩ := h1
      rw [h1] at h
      simp only [readSrc, hc, hv, hs, hq, if_true, Bool.false_eq_true, if_false]
      exact h
    · simp [h1] at h
  · simp [h1.2.2.2] at h
  · obtain ⟨hc, hf, hp, h1⟩ := h1
    rw [h1] at h
    simp only [readSrc, hc, hf, hp, if_true, Bool.false_eq_true, if_false]
    exact h
  · obtain ⟨-, -, t, h1⟩ := h1
    simp [h1] at h

/-- The two outcomes of a destination that is filled at once. -/
theorem destReady_ok (d : Reg) (s : State) : destReady d s = .ok () ↔
    if s.th.isChan d.toNat then s.th.isVisitor = false ∧ s.th.shadow.isSome = false ∧ mget 0 s.th.chOut (d.toNat - 28) < 4 ∧ (s.tile s.cur.1).tagsFull = false
    else d.toNat = 0 ∨ wbit s.th.prod d.toNat = false := by
  unfold destReady
  cases hc : s.th.isChan d.toNat
  · by_cases h0 : d.toNat = 0
    · rw [h0] at hc; simp [h0, hc]
    · cases hp : wbit s.th.prod d.toNat <;> simp [h0, hc, hp]
  · cases hv : s.th.isVisitor
    · cases hs : s.th.shadow.isSome
      · by_cases h4 : 4 ≤ mget 0 s.th.chOut (d.toNat - 28)
        · simp [hc, hv, hs, h4]
        · cases (s.tile s.cur.1).tagsFull <;> simp [hc, hv, hs, h4]; omega
      · simp [hc, hs]
    · cases hs : s.th.shadow.isSome <;> simp [hc, hv, hs]

/-- A destination that is filled later is free exactly when it is no enabled channel and has no producer outstanding. -/
theorem laterReady_of_one (i : Instr) (d : Reg) (s : State) (h : destLater i d s = .ok ()) : s.th.isChan d.toNat = false ∧ (d = 0 ∨ wbit s.th.prod d.toNat = false) := by
  unfold destLater at h
  split at h
  · simp at h
  · rename_i hc
    refine ⟨by simpa using hc, ?_⟩
    split at h
    · simp at h
    · rename_i hp
      by_cases h0 : d = 0
      · exact .inl h0
      · refine .inr ?_
        simp only [ne_eq, h0, not_false_eq_true, bne_iff_ne, Bool.and_eq_true, true_and, Bool.not_eq_true] at hp
        exact hp

theorem laterReady_iff (d : Reg) (s : State) : LaterReady d s ↔ s.th.isChan d.toNat = false ∧ (d = 0 ∨ wbit s.th.prod d.toNat = false) := by
  refine ⟨fun h => laterReady_of_one .nop d s (h .nop), fun ⟨hc, h⟩ i => ?_⟩
  rcases h with rfl | h
  · simp only [destLater, hc, Bool.false_eq_true, if_false]; rfl
  · simp [destLater, hc, h]

/-! ### Before the operands -/

/-- The checks before operands pass for an ordinary thread of a level that is high enough. -/
theorem enter_ordinary (i : Instr) (c : Cls) (fmt : Bool) (pl : Nat) (s : State) (h : Ordinary s) (hpl : pl ≤ stPL s.th.st) : enter i c fmt pl s = .ok () := by
  obtain ⟨hv, hs, hp, ht⟩ := h
  simp [enter, hv, hs, hp, ht, Nat.not_lt.mpr hpl]

/-- A scalar instruction looks only at the format bit: visitors and predicted paths run it (R54, R161). -/
theorem enter_scalar (i : Instr) (s : State) (h : stPP s.th.st = false) : enter i .scalar false 0 s = .ok () := by
  simp [enter, h]

/-- An ordinary thread below the level of its instruction raises PRIV. -/
theorem enter_priv (i : Instr) (c : Cls) (fmt : Bool) (pl : Nat) (s : State) (h : Ordinary s) (hpl : stPL s.th.st < pl) :
    enter i c fmt pl s = .error (s.trap tPRIV 0 (insnWord i)) := by
  obtain ⟨hv, hs, hp, -⟩ := h
  simp [enter, hv, hs, hp, hpl]

/-- A trap of an ordinary thread, other than a machine check, is the entry of R182. -/
theorem trap_ordinary (s : State) (code sub : Nat) (val : Word) (h : Ordinary s) (hc : code ≠ tMCHK) :
    s.trap code sub val = s.modTh (fun h => h.takeTrap code sub val) := by
  obtain ⟨hv, hs, -⟩ := h
  simp [State.trap, hv, hs, hc]

/-! ### Segments -/

/-- All that a segment check can answer (R10). -/
theorem segCheck_cases (rights : Seg → Bool) (g : Seg) (spbase spsize off n : Nat) :
    (rights g = false ∧ segCheck rights g spbase spsize off n = .error 1) ∨
    (rights g = true ∧ g.limit.toNat < off + n - 1 ∧ segCheck rights g spbase spsize off n = .error 2) ∨
    (rights g = true ∧ off + n - 1 ≤ g.limit.toNat ∧ g.s = true ∧ (g.base.toNat % 2 ^ 22 + off < spbase ∨ spbase + spsize < g.base.toNat % 2 ^ 22 + off + n) ∧
      segCheck rights g spbase spsize off n = .error 5) ∨
    (rights g = true ∧ off + n - 1 ≤ g.limit.toNat ∧ g.s = true ∧ spbase ≤ g.base.toNat % 2 ^ 22 + off ∧ g.base.toNat % 2 ^ 22 + off + n ≤ spbase + spsize ∧
      segCheck rights g spbase spsize off n = .ok ⟨g.base.toNat % 2 ^ 22 + off, true⟩) ∨
    (rights g = true ∧ off + n - 1 ≤ g.limit.toNat ∧ g.s = false ∧ 2 ^ 48 ≤ g.base.toNat + off + n - 1 ∧ segCheck rights g spbase spsize off n = .error 3) ∨
    (rights g = true ∧ off + n - 1 ≤ g.limit.toNat ∧ g.s = false ∧ g.base.toNat + off + n - 1 < 2 ^ 48 ∧
      segCheck rights g spbase spsize off n = .ok ⟨g.base.toNat + off, false⟩) := by
  unfold segCheck segBounds
  cases hr : rights g
  · simp
  · by_cases hl : g.limit.toNat < off + n - 1
    · simp [hl]
    · have hl' : off + n - 1 ≤ g.limit.toNat := Nat.not_lt.mp hl
      cases hs : g.s
      · by_cases hb : 2 ^ 48 ≤ g.base.toNat + off + n - 1
        · rw [if_neg (by simp), if_neg hl]
          exact .inr (.inr (.inr (.inr (.inl ⟨rfl, hl', rfl, hb, by rw [if_neg (by simp), if_pos hb]⟩))))
        · rw [if_neg (by simp), if_neg hl]
          exact .inr (.inr (.inr (.inr (.inr ⟨rfl, hl', rfl, Nat.not_le.mp hb, by rw [if_neg (by simp), if_neg hb]⟩))))
      · rw [if_neg (by simp), if_neg hl]
        by_cases h1 : g.base.toNat % 2 ^ 22 + off < spbase
        · exact .inr (.inr (.inl ⟨rfl, hl', rfl, .inl h1, by simp only [if_true, h1, decide_true, Bool.true_or]⟩))
        · by_cases h2 : spbase + spsize < g.base.toNat % 2 ^ 22 + off + n
          · exact .inr (.inr (.inl ⟨rfl, hl', rfl, .inr h2, by simp only [if_true, h2, decide_true, Bool.or_true]⟩))
          · exact .inr (.inr (.inr (.inl ⟨rfl, hl', rfl, Nat.not_lt.mp h1, Nat.not_lt.mp h2, by simp only [if_true, h1, h2, decide_false, Bool.or_self, Bool.false_eq_true, if_false]⟩)))

/-! ### Commits -/

/-- Sources read under modes 00 and 01 that are no channels are left as they are. -/
theorem consume_plain (srcs : List Src) (s : State) (h : ∀ a, a ∈ srcs → s.th.isChan a.r.toNat = false ∧ a.m ≠ 2) : consume srcs s = s := by
  have hm : ∀ r : Reg, modeOf srcs r ≠ 2 := by
    intro r
    unfold modeOf
    have : srcs.any (fun a => a.r == r && a.m == 2) = false := by
      rw [Bool.eq_false_iff]; intro hx
      obtain ⟨a, ha, hx⟩ := List.any_eq_true.mp hx
      simp at hx; exact (h a ha).2 hx.2
    rw [this]; simp; split <;> simp
  unfold consume
  have key : ∀ l : List Reg, (∀ r, r ∈ l → s.th.isChan r.toNat = false) →
      l.foldl (fun s r => if s.th.isChan r.toNat then s.fifoPop s.cur.1 (chanOf s.cur.2 r.toNat) else if modeOf srcs r = 2 then s.modTh (fun h => h.emptyReg r.toNat) else s) s = s := by
    intro l hl
    induction l with
    | nil => rfl
    | cons r l ih =>
      rw [List.foldl_cons, hl r (List.mem_cons_self ..), if_neg (by simp), if_neg (hm r)]
      exact ih (fun q hq => hl q (List.mem_cons_of_mem _ hq))
  refine key _ (fun r hr => ?_)
  obtain ⟨a, ha, rfl⟩ := List.mem_map.mp (List.mem_dedup.mp hr)
  exact (h a ha).1

/-- A result to a register that is no channel. -/
theorem writeResult_plain (d : Reg) (v : Word) (s : State) (h : s.th.isChan d.toNat = false) : writeResult d v s = s.modTh (fun h => h.setG d.toNat v) := by
  simp [writeResult, h]

/-- A commit whose registers are no channels and whose sources are kept. -/
theorem commitWith_plain (srcs : List Src) (d : Reg) (v : Word) (s : State) (h : ∀ a, a ∈ srcs → s.th.isChan a.r.toNat = false ∧ a.m ≠ 2)
    (hd : s.th.isChan d.toNat = false) : commitWith srcs d v s = (s.modTh (fun h => h.setG d.toNat v)).modTh (fun h => h.commit) := by
  rw [commitWith, consume_plain srcs s h, writeResult_plain d v s hd]

/-! ### Messages -/

/-- A message to an endpoint of its own die enters the pool. -/
theorem send_here (s : State) (vc : Vc) (mk : Instr) (m : Msg) (h : s.way (eidVd m.src) false m = .here) : s.send vc mk m = s.emit (evM mk m) := by
  simp only [State.send, State.sendFrom, State.pass, h]

/-- A message to another die or package joins those that wait for its link module. -/
theorem send_link (s : State) (vc : Vc) (mk : Instr) (m : Msg) (key : Nat) (h : s.way (eidVd m.src) false m = .link key) :
    s.send vc mk m = s.toLink key mk m := by
  simp only [State.send, State.sendFrom, State.pass, h]

/-- The meaning of an instruction ends in a next state either way. -/
theorem finish_next (x : M State) : ∃ t, finish x = .next t := by
  cases x <;> exact ⟨_, rfl⟩

theorem finish_ok (t : State) : finish (.ok t) = .next t := rfl
theorem finish_error (t : State) : finish (.error t) = .next t := rfl

/-! ### What a message and a check of memory leave alone -/

/-- Nothing of a tile, of memory, or of whose turn it is has changed: what sending a message or recording an error may not touch. -/
def SameTiles (s t : State) : Prop := t.cur = s.cur ∧ t.tiles = s.tiles ∧ t.mem = s.mem ∧ t.ecc = s.ecc ∧ t.arg = s.arg ∧ t.agenda = s.agenda

theorem SameTiles.refl (s : State) : SameTiles s s := ⟨rfl, rfl, rfl, rfl, rfl, rfl⟩
theorem SameTiles.trans {s t u : State} (h : SameTiles s t) (g : SameTiles t u) : SameTiles s u := by
  obtain ⟨a, b, c, d, e, f⟩ := h; obtain ⟨a', b', c', d', e', f'⟩ := g
  exact ⟨a'.trans a, b'.trans b, c'.trans c, d'.trans d, e'.trans e, f'.trans f⟩
theorem SameTiles.slot {s t : State} (h : SameTiles s t) (u k : Nat) : t.slot u k = s.slot u k := by
  simp only [State.slot, State.tile, h.2.1]
theorem SameTiles.th {s t : State} (h : SameTiles s t) : t.th = s.th := by
  simp only [State.th, h.1, h.slot]

theorem sameTiles_msix (s : State) (vd vec : Nat) : SameTiles s (s.msix vd vec) := by
  unfold State.msix; split <;> exact SameTiles.refl _
theorem sameTiles_reportUc (s : State) (vd : Nat) : SameTiles s (s.reportUc vd) := by
  unfold State.reportUc
  refine SameTiles.trans (t := State.msix _ 8 0) ?_ (sameTiles_msix _ 9 0)
  exact sameTiles_msix { s with mmio := _ } 8 0
theorem sameTiles_logError (s : State) (vd bank : Nat) (uc : Bool) (cause addr ctx : Nat) : SameTiles s (s.logError vd bank uc cause addr ctx) := by
  unfold State.logError
  simp only
  split
  · exact sameTiles_reportUc (s.setDie vd _) vd
  · exact SameTiles.refl _
theorem sameTiles_transmit (s : State) (key vc : Nat) (cells : List Cell) : SameTiles s (s.transmit key vc cells) := by
  unfold State.transmit
  simp only
  split
  · unfold State.armReplay; simp only; split <;> exact SameTiles.refl _
  · exact SameTiles.refl _
theorem sameTiles_drainSome (f key : Nat) (s : State) : SameTiles s (s.drainSome f key) := by
  induction f generalizing s with
  | zero => exact SameTiles.refl _
  | succ f ih =>
    unfold State.drainSome
    split
    · exact SameTiles.refl _
    · split
      · exact SameTiles.refl _
      · refine SameTiles.trans ?_ (ih _)
        exact sameTiles_transmit { s with egress := _ } key _ _
theorem sameTiles_toLink (s : State) (key : Nat) (i : Instr) (m : Msg) : SameTiles s (s.toLink key i m) := by
  unfold State.toLink State.drainLink
  split
  · exact sameTiles_drainSome _ key { s with egress := _ }
  · exact SameTiles.refl _
theorem sameTiles_pass (s t : State) (vd : Nat) (transit : Bool) (i : Instr) (m : Msg) (h : s.pass vd transit i m = .ok t) : SameTiles s t := by
  unfold State.pass at h
  split at h <;> cases h
  · exact SameTiles.refl _
  · exact sameTiles_toLink _ _ _ _

/-- Sending a message changes no tile and no byte: it waits in the pool or at a link, or its loss is recorded. -/
theorem sameTiles_sendFrom (s : State) (vd : Nat) (transit : Bool) (vc : Vc) (i : Instr) (m : Msg) : SameTiles s (s.sendFrom vd transit vc i m) := by
  unfold State.sendFrom
  split
  · exact sameTiles_pass _ _ _ _ _ _ ‹_›
  · split
    · split <;> rename_i h
      · split at h <;> exact sameTiles_pass _ _ _ _ _ _ h
      · exact sameTiles_logError _ _ _ _ _ _ _
    · exact sameTiles_logError _ _ _ _ _ _ _
theorem sameTiles_send (s : State) (vc : Vc) (i : Instr) (m : Msg) : SameTiles s (s.send vc i m) := sameTiles_sendFrom s _ _ _ _ _
theorem sameTiles_wrackTo (s : State) (m : Msg) : SameTiles s (s.wrackTo m) := by
  unfold State.wrackTo; split
  · exact SameTiles.refl _
  · exact sameTiles_send _ _ _ _

theorem sameTiles_foldl {α : Type} (f : State → α → State) (h : ∀ s a, SameTiles s (f s a)) (l : List α) (s : State) : SameTiles s (l.foldl f s) := by
  induction l generalizing s with
  | nil => exact SameTiles.refl _
  | cons a l ih => exact (h s a).trans (ih _)

/-- A read of memory that corrects and records what it must changes no tile and no byte. -/
theorem sameTiles_readCheck (s : State) (pa n ctx : Nat) : SameTiles s (s.readCheck pa n ctx) := by
  have h1 : SameTiles s (s.scrub pa n ctx) := sameTiles_foldl _ (fun _ _ => sameTiles_logError _ _ _ _ _ _ _) _ { s with ecc1 := _ }
  unfold State.readCheck
  simp only
  split
  · exact h1.trans (sameTiles_logError _ _ _ _ _ _ _)
  · exact h1
theorem notify_cur (s : State) (t k : Nat) : (s.notify t k).cur = s.cur ∧ (s.notify t k).mem = s.mem := by
  unfold State.notify State.notifySlot State.emitOnce; (repeat' split) <;> exact ⟨rfl, rfl⟩
theorem wakeReader_cur (s : State) (t k r : Nat) : (s.wakeReader t k r).cur = s.cur ∧ (s.wakeReader t k r).mem = s.mem := by
  unfold State.wakeReader State.wakeIf; (repeat' split) <;> first | exact ⟨rfl, rfl⟩ | (simp only; split <;> exact ⟨rfl, rfl⟩)
theorem fifoPush_cur (s : State) (t ch : Nat) (m : Msg) : (s.fifoPush t ch m).cur = s.cur ∧ (s.fifoPush t ch m).mem = s.mem :=
  ⟨(notify_cur _ _ _).1.trans (wakeReader_cur _ _ _ _).1, (notify_cur _ _ _).2.trans (wakeReader_cur _ _ _ _).2⟩
theorem unholdTile_cur (s : State) (t : Nat) : (s.unholdTile t).cur = s.cur ∧ (s.unholdTile t).mem = s.mem := ⟨rfl, rfl⟩
theorem modTile_cur (s : State) (t : Nat) (f : Tile → Tile) : (s.modTile t f).cur = s.cur ∧ (s.modTile t f).mem = s.mem := ⟨rfl, rfl⟩
theorem fifoPop_cur (s : State) (t ch : Nat) : (s.fifoPop t ch).cur = s.cur ∧ (s.fifoPop t ch).mem = s.mem := by
  unfold State.fifoPop
  cases s.fifo t ch with
  | nil => exact ⟨rfl, rfl⟩
  | cons m rest =>
    simp only
    generalize hu : s.modTile t _ = u
    have h : (u.wrackTo m).cur = s.cur ∧ (u.wrackTo m).mem = s.mem := by
      have g := sameTiles_wrackTo u m
      exact ⟨g.1.trans (hu ▸ rfl), g.2.2.1.trans (hu ▸ rfl)⟩
    generalize u.wrackTo m = w at h
    split
    · exact h
    · exact ⟨(unholdTile_cur _ _).1.trans ((fifoPush_cur _ _ _ _).1.trans h.1), (unholdTile_cur _ _).2.trans ((fifoPush_cur _ _ _ _).2.trans h.2)⟩
/-- Taking the operands leaves the issuing slot's name and memory as they were. -/
theorem consume_cur (srcs : List Src) (s : State) : (consume srcs s).cur = s.cur ∧ (consume srcs s).mem = s.mem := by
  unfold consume
  generalize (srcs.map (·.r)).dedup = l
  induction l generalizing s with
  | nil => exact ⟨rfl, rfl⟩
  | cons r l ih =>
    simp only [List.foldl_cons]
    refine ⟨(ih _).1.trans ?_, (ih _).2.trans ?_⟩
    · split
      · exact (fifoPop_cur _ _ _).1
      · split <;> rfl
    · split
      · exact (fifoPop_cur _ _ _).2
      · split <;> rfl
end Sys2Proof.Machine
end

