-- ==== Sys2Proof/Tests/Slice0.lean ====
section
/-! SUPPORT. Tests: the checks of WellFormed, words written out from the spec's encodings, single steps on small states, and for
every statement with hypotheses a state that meets them. -/

namespace Sys2Proof.Tests
open Sys2Proof Sys2Proof.Machine

/- One theorem at a time: the checks below would otherwise hold many threads at once. -/
set_option Elab.async false

/-! ### Small machines -/

def segS : Seg := { limit := 0x3FFFFF, r := true, w := true, x := true, a := true, k := true, s := true }
def segM : Seg := { limit := 0xFFFFFFFF, r := true, w := true, x := true, a := true, g := true, k := true }
/-- A supervisor thread with registers, a scratchpad segment (1) and a memory segment (2). -/
def th0 : Slot :=
  { occ := .thread, pc := 0x100, st := 0x800, tvec := 0x2003, spsize := 0x400000, ossize := 0x80000, g := [(1, 0x80000000), (2, 0xFFFFFFFF), (3, 64), (4, 7)], sg := [(1, segS), (2, segM)] }
/-- The tile of that thread; its TLB maps linear page 0 to physical page 0 with every right. -/
def tile0 (h : Slot) : Tile := { (({} : Tile).setSlot 0 h) with tlb := [⟨0, 0, 0, 0, true, true, true, true, true⟩] }
def one (h : Slot) : State := State.reset.setTile 0 (tile0 h)
def s0 : State := one th0
/-- An event's machine. -/
def ev (a : Arg) (s : State) : State := { s with arg := a }
def msg (m : Msg) (s : State) : State := { s with arg := { msg := m } }

/-! ### Deciding the hypotheses -/

def isNext (o : Out) (p : State → Bool) : Bool :=
  match o with
  | .next s => p s
  | _ => false
def okB {α : Type} (x : M α) (p : α → Bool) : Bool :=
  match x with
  | .ok a => p a
  | .error _ => false
theorem ok_of {α : Type} {x : M α} {p : α → Bool} (h : okB x p = true) : ∃ a, x = .ok a ∧ p a = true := by
  cases x with
  | ok a => exact ⟨a, rfl, h⟩
  | error e => simp [okB] at h
/-- A source delivers x, tried with one instruction. -/
theorem dl {srcs : List Src} {r : Reg} {s : State} {x : Word} (h : okB (readSrc .nop srcs r s) (· == x) = true) : Delivers srcs r s x := by
  obtain ⟨a, h1, h2⟩ := ok_of h
  exact delivers_of_one .nop srcs r s x (by rw [h1, eq_of_beq h2])
theorem lr {d : Reg} {s : State} (h : okB (destLater .nop d s) (fun _ => true) = true) : LaterReady d s := by
  obtain ⟨a, h1, -⟩ := ok_of h
  exact (laterReady_iff d s).mpr (laterReady_of_one .nop d s h1)
theorem dr {d : Reg} {s : State} (h : okB (destReady d s) (fun _ => true) = true) : destReady d s = .ok () := by
  obtain ⟨a, h1, -⟩ := ok_of h
  exact h1
theorem ordinary {s : State} (h : (!s.th.isVisitor && s.th.shadow.isNone && !stPP s.th.st && !(s.tile s.cur.1).tagsFull) = true) : Ordinary s := by
  simp at h
  exact ⟨h.1.1.1, h.1.1.2, h.1.2, h.2⟩

/-! ### Witnesses: scalar instructions -/

theorem witness_IntegerRegisterResults : stPP s0.th.st = false ∧ Delivers [⟨1, 0⟩, ⟨2, 2⟩] 1 s0 0x80000000 ∧ Delivers [⟨1, 0⟩, ⟨2, 2⟩] 2 s0 0xFFFFFFFF ∧ destReady 31 s0 = .ok () :=
  ⟨by decide +kernel, dl (by decide +kernel), dl (by decide +kernel), dr (by decide +kernel)⟩
theorem witness_ImmediateResults : stPP s0.th.st = false ∧ Delivers [⟨0, 1⟩] 0 s0 0 ∧ destReady 0 s0 = .ok () :=
  ⟨by decide +kernel, dl (by decide +kernel), dr (by decide +kernel)⟩
theorem witness_CompareResults : stPP s0.th.st = false ∧ Delivers [⟨1, 1⟩, ⟨1, 2⟩] 1 s0 0x80000000 ∧ Delivers [⟨1, 1⟩] 1 s0 0x80000000 ∧ destReady 5 s0 = .ok () :=
  ⟨by decide +kernel, dl (by decide +kernel), dl (by decide +kernel), dr (by decide +kernel)⟩
theorem witness_SelectAndFieldResults_select :
    stPP s0.th.st = false ∧ destReady 5 s0 = .ok () ∧ Delivers [⟨1, 0⟩, ⟨2, 0⟩, plain 4] 1 s0 0x80000000 ∧ Delivers [⟨1, 0⟩, ⟨2, 0⟩, plain 4] 2 s0 0xFFFFFFFF ∧ Delivers [⟨1, 0⟩, ⟨2, 0⟩, plain 4] 4 s0 7 :=
  ⟨by decide +kernel, dr (by decide +kernel), dl (by decide +kernel), dl (by decide +kernel), dl (by decide +kernel)⟩
theorem witness_SelectAndFieldResults_field :
    Delivers [⟨1, 0⟩] 1 s0 0x80000000 ∧ (31#5).toNat + (0#5).toNat ≤ 31 ∧ (0#5).toNat + (31#5).toNat ≤ 31 :=
  ⟨dl (by decide +kernel), by decide, by decide⟩
theorem witness_SelectAndFieldResults_insert :
    Delivers [⟨1, 0⟩, plain 2] 1 s0 0x80000000 ∧ Delivers [⟨1, 0⟩, plain 2] 2 s0 0xFFFFFFFF ∧ s0.th.isChan (2 : Reg).toNat = false ∧ destReady 2 s0 = .ok () :=
  ⟨dl (by decide +kernel), dl (by decide +kernel), by decide +kernel, dr (by decide +kernel)⟩
theorem witness_BitOperationResults : stPP s0.th.st = false ∧ Delivers [⟨0, 0⟩] 0 s0 0 ∧ destReady 5 s0 = .ok () ∧ (⟨31, 2⟩ : Src).wf = true :=
  ⟨by decide +kernel, dl (by decide +kernel), dr (by decide +kernel), by decide⟩
theorem witness_DivisionResults_issue : stPP s0.th.st = false ∧ destReady 5 s0 = .ok () ∧ (s0.tile s0.cur.1).divFree s0.cur.2 = true ∧
    (Delivers [⟨1, 0⟩, ⟨2, 0⟩] 1 s0 0x80000000 ∧ Delivers [⟨1, 0⟩, ⟨2, 0⟩] 2 s0 0xFFFFFFFF ∧ (0x80000000 : Word).toInt = -2147483648 ∧ (0xFFFFFFFF : Word).toInt = -1) ∧
    (Delivers [⟨1, 0⟩, ⟨4, 0⟩] 1 s0 0x80000000 ∧ Delivers [⟨1, 0⟩, ⟨4, 0⟩] 4 s0 7 ∧ (7 : Word) ≠ 0 ∧ ¬((0x80000000 : Word).toInt = -2147483648 ∧ (7 : Word).toInt = -1)) ∧
    (Delivers [⟨1, 0⟩, ⟨0, 0⟩] 1 s0 0x80000000 ∧ Delivers [⟨1, 0⟩, ⟨0, 0⟩] 0 s0 0) ∧ Delivers [⟨4, 0⟩] 4 s0 7 :=
  ⟨by decide +kernel, dr (by decide +kernel), by decide +kernel, ⟨dl (by decide +kernel), dl (by decide +kernel), by decide, by decide⟩,
    ⟨dl (by decide +kernel), dl (by decide +kernel), by decide, by decide⟩, ⟨dl (by decide +kernel), dl (by decide +kernel)⟩, dl (by decide +kernel)⟩
def divOp0 : DivOp := ⟨7, .div 5 ⟨1, 0⟩ ⟨4, 0⟩, 5, [⟨1, 0⟩, ⟨4, 0⟩], 3, 0, 1⟩
def sDiv : State := s0.modTile 0 (fun T => { T with div := some divOp0 })
theorem witness_DivisionResults_done : (sDiv.tile sDiv.arg.t).div = some divOp0 ∧
    (((commitWith divOp0.srcs 5 3 { sDiv.setTile 0 { sDiv.tile 0 with div := none, divLast := (sDiv.tile 0).divLast } with cur := (0, 7) }).modTh
      (fun h => { h with st := h.st ||| divOp0.flags, rngs := divOp0.rngs, run := .ready })).tile 0).divNext = none :=
  ⟨by decide +kernel, by decide +kernel⟩
theorem witness_BranchAndJumpTargets : stPP s0.th.st = false ∧ s0.predicts ⟨1, 0⟩ = false ∧ Delivers [⟨1, 0⟩] 1 s0 0x80000000 ∧ s0.th.isChan (31 : Reg).toNat = false ∧ destReady 1 s0 = .ok () :=
  ⟨by decide +kernel, by decide +kernel, dl (by decide +kernel), by decide +kernel, dr (by decide +kernel)⟩
theorem witness_FloatResults : stPP s0.th.st = false ∧ destReady 5 s0 = .ok () ∧ (Delivers [⟨1, 0⟩, ⟨2, 0⟩] 1 s0 0x80000000 ∧ Delivers [⟨1, 0⟩, ⟨2, 0⟩] 2 s0 0xFFFFFFFF) ∧ Delivers [⟨1, 0⟩] 1 s0 0x80000000 ∧
    Delivers [⟨1, 0⟩, ⟨2, 0⟩, plain 0] 1 s0 0x80000000 ∧ Delivers [⟨1, 0⟩, ⟨2, 0⟩, plain 0] 2 s0 0xFFFFFFFF ∧ Delivers [⟨1, 0⟩, ⟨2, 0⟩, plain 0] 0 s0 0 :=
  ⟨by decide +kernel, dr (by decide +kernel), ⟨dl (by decide +kernel), dl (by decide +kernel)⟩, dl (by decide +kernel), dl (by decide +kernel), dl (by decide +kernel), dl (by decide +kernel)⟩

/-! ### Witnesses: operands and commit -/

/-- Register 1 empty without a producer, 2 empty with one, 3 full with poison. -/
def thE : Slot := { th0 with fe := 0xFFFFFFF9, prod := 4, poison := 8 }
theorem witness_SourceDelivery_registers :
    let s := one thE
    (∀ r, r < 28 → s.th.isChan r = false) ∧ s.th.poison.getLsbD 0 = false ∧ (s.th.fe.getLsbD 4 = true ∧ s.th.poison.getLsbD 4 = false) ∧ (s.th.fe.getLsbD 3 = true ∧ s.th.poison.getLsbD 3 = true) ∧
    (s.th.fe.getLsbD 1 = false ∧ s.th.prod.getLsbD 1 = false) ∧ (s.th.fe.getLsbD 2 = false ∧ modeOf [⟨2, 1⟩] 2 = 1) ∧ (s.th.prod.getLsbD 2 = true ∧ modeOf [⟨2, 2⟩] 2 = 2) ∧ modeOf [⟨2, 0⟩] 2 = 0 := by decide +kernel
/-- Channel register c3 (r31) on; its FIFO holds a word, that of c0 (r28) none. -/
def sCh : State := (one { th0 with chmap := 9 }).modTile 0 (fun T => { T with fifos := [(3, [{ Msg.zero with aux0 := 9 }])] })
theorem witness_SourceDelivery_channels :
    (sCh.th.isChan 31 = true ∧ sCh.th.isVisitor = false ∧ sCh.th.shadow = none ∧ sCh.fifo sCh.cur.1 (chanOf sCh.cur.2 31) = [{ Msg.zero with aux0 := 9 }]) ∧
    (sCh.th.isChan 28 = true ∧ sCh.fifo sCh.cur.1 (chanOf sCh.cur.2 28) = []) := by decide +kernel
theorem witness_CommitFrame : (∀ a, a ∈ ([⟨31, 2⟩, ⟨0, 1⟩] : List Src) → s0.th.isChan a.r.toNat = false) ∧ s0.th.isChan (31 : Reg).toNat = false := by decide +kernel
/-! ### Witnesses: memory instructions -/

theorem witness_SegmentAndAccessChecks_conditions :
    let g : Seg := { base := 0xFFFFFFFFF000, limit := 0x1FFF, r := true }
    let p : Seg := { base := 0x400010, limit := 0xFF, r := true, s := true }
    0 < 4 ∧ rStore g = false ∧ (rLoad g = true ∧ g.limit.toNat < 0x1FFD + 4 - 1) ∧
    (0x1FFC + 4 - 1 ≤ g.limit.toNat ∧ g.s = false ∧ 0xFFFFFFFFFFFF < g.base.toNat + 0x1FFC + 4 - 1) ∧ g.base.toNat + 0xFFC + 4 - 1 ≤ 0xFFFFFFFFFFFF ∧
    (rLoad p = true ∧ 0xFC + 4 - 1 ≤ p.limit.toNat ∧ p.s = true ∧ (p.base.toNat % 2 ^ 22 + 0 < 0x14 ∨ 0x14 + 0x100 < p.base.toNat % 2 ^ 22 + 0 + 4) ∧
      0x14 ≤ p.base.toNat % 2 ^ 22 + 4 ∧ p.base.toNat % 2 ^ 22 + 0xFC + 4 ≤ 0x14 + 0x100) := by decide +kernel

/-- A range-table entry of slot 0 in state st: region 0x1000-0x10FF, copy at 0x2000. -/
def re (st : Nat) : RngEntry := ⟨st, false, 0, 0, 1, 0, 0, 0x400, 0x1000, 0x2000, true, 0, 0, 5, false, false, 0, 0, false, false, 0, 0, none, false, false, 0⟩
def sR (st : Nat) : State := s0.modTile 0 (fun T => { T with rng := [re st] })
theorem witness_SegmentAndAccessChecks_scratchpad :
    let c (s : State) (off : Nat) := segCheck rStore (s.th.seg 1) s.th.spbase s.th.spsize off 4
    s0.th.isVisitor = false ∧ c s0 0x400000 = .error 2 ∧ (c s0 2 = .ok ⟨2, true⟩ ∧ 2 % 4 ≠ 0) ∧ (c s0 0x20FC = .ok ⟨0x20FC, true⟩ ∧ 0x20FC % 4 = 0) ∧
    ((sR 3).tile 0).rngCopy 0 0x20FC 4 true = .violation 3 ∧ ((sR 0).tile 0).rngCopy 0 0x20FC 4 true = .wait ∧ ((sR 2).tile 0).rngCopy 0 0x20FC 4 true = .pass ∧
    ((s0.modTile 0 (fun T => { T with locks := [⟨1, 0xFFFFFFFF, 0⟩] })).tile 0).bankHeld 0 0x20FC 4 = true ∧ ((sR 2).tile 0).bankHeld 0 0x20FC 4 = false := by decide +kernel
theorem witness_SegmentAndAccessChecks_memory :
    let c (off : Nat) := segCheck rStore (s0.th.seg 2) s0.th.spbase s0.th.spsize off 4
    (c 0x10FC = .ok ⟨0x10FC, false⟩ ∧ c 0xFFC = .ok ⟨0xFFC, false⟩) ∧ ((sR 3).tile 0).rngRegion 0 0x10FC 4 true = .violation 3 ∧ ((sR 0).tile 0).rngRegion 0 0x10FC 4 true = .wait ∧
    (((sR 2).tile 0).rngRegion 0 0x10FC 4 true = .redirect 0x20FC ∧ ((sR 2).tile 0).bankHeld 0 0x20FC 4 = false) ∧ ((sR 2).tile 0).rngRegion 0 0xFFC 4 true = .pass ∧
    s0.tlbLookup s0.cur.1 s0.th.asid 0xFFC 2 = some ⟨0, 0, 0, 0, true, true, true, true, true⟩ ∧
    (s0.tlbLookup s0.cur.1 s0.th.asid 0x1100 2 = none ∧ (kindWrites 2 && s0.swept s0.th.asid 0x1100) = false ∧ s0.walk (vdOf s0.cur.1) s0.th.asid 0x1100 2 (fun a => (s0.tile s0.cur.1).nodeAt s0.th.asid 0x1100 a) = .fault 10 4 0 2) := by decide +kernel

theorem witness_AddressAndSegmentReads : Ordinary s0 ∧ destReady 31 s0 = .ok () ∧ Delivers [⟨0, 0⟩] 0 s0 0 ∧
    segBounds (s0.th.seg 1) s0.th.spbase s0.th.spsize 0x7F 1 = .ok ⟨0x7F, true⟩ ∧ segBounds (s0.th.seg 1) s0.th.spbase s0.th.spsize 0xFFFFFF80 1 = .error 2 :=
  ⟨ordinary (by decide +kernel), dr (by decide +kernel), dl (by decide +kernel), by decide +kernel, by decide +kernel⟩

theorem witness_LoadsIssue : Ordinary s0 ∧ Delivers [⟨3, 0⟩] 3 s0 64 ∧ LaterReady 30 s0 ∧ LaterReady (pairHi 30) s0 ∧ (30 : Reg).toNat % 2 = 0 ∧
    (∃ p, loadPlace 1 0x23C 4 s0 = .ok p ∧ true = true) ∧ (∃ p, loadPlace 1 0x3E 2 s0 = .ok p ∧ true = true) ∧ (∃ p, loadPlace 2 0x3F 1 s0 = .ok p ∧ true = true) ∧
    (∃ p, loadPlace 2 0x38 8 s0 = .ok p ∧ true = true) ∧ ∃ p, loadPlace 2 0x40 16 s0 = .ok p ∧ true = true :=
  ⟨ordinary (by decide +kernel), dl (by decide +kernel), lr (by decide +kernel), lr (by decide +kernel), by decide, ok_of (p := fun _ => true) (by decide +kernel),
    ok_of (p := fun _ => true) (by decide +kernel), ok_of (p := fun _ => true) (by decide +kernel), ok_of (p := fun _ => true) (by decide +kernel), ok_of (p := fun _ => true) (by decide +kernel)⟩

/-- A store passes its checks and its line is not held back. -/
def stored (sn off n : Nat) (s : State) : Bool := okB (p0Place rStore 2 sn off n 0 s) (fun p => !p.2.th.lineHeld (p.2.tileEid p.2.cur.1) p.1.pa)
theorem witness_StoresIssue : Ordinary s0 ∧ Delivers [⟨1, 0⟩, ⟨3, 0⟩] 1 s0 0x80000000 ∧ Delivers [⟨1, 0⟩, ⟨3, 0⟩] 3 s0 64 ∧
    stored 1 0x3C 4 s0 = true ∧ stored 2 0x3E 2 s0 = true ∧ stored 2 0x3F 1 s0 = true ∧ stored 2 0x38 8 s0 = true ∧
    Delivers [⟨1, 0⟩, ⟨2, 0⟩, ⟨3, 0⟩] 1 s0 0x80000000 ∧ Delivers [⟨1, 0⟩, ⟨2, 0⟩, ⟨3, 0⟩] 2 s0 0xFFFFFFFF ∧ Delivers [⟨1, 0⟩, ⟨2, 0⟩, ⟨3, 0⟩] 3 s0 64 :=
  ⟨ordinary (by decide +kernel), dl (by decide +kernel), dl (by decide +kernel), by decide +kernel, by decide +kernel, by decide +kernel, by decide +kernel, dl (by decide +kernel), dl (by decide +kernel), dl (by decide +kernel)⟩

def atomicOk (sn off n op : Nat) (s : State) : Bool := okB (p0Place rAtomic 3 sn off n op s) (fun p => !p.2.th.lineHeld (p.2.tileEid p.2.cur.1) p.1.pa)
theorem witness_AtomicsIssue : Ordinary s0 ∧ LaterReady 5 s0 ∧ Delivers [⟨3, 0⟩, ⟨1, 0⟩] 3 s0 64 ∧ Delivers [⟨3, 0⟩, ⟨1, 0⟩] 1 s0 0x80000000 ∧
    ((List.range 8) ++ [11, 12]).all (fun op => atomicOk 1 64 4 op s0) = true ∧
    Delivers [⟨3, 0⟩, ⟨1, 0⟩, plain 5] 3 s0 64 ∧ Delivers [⟨3, 0⟩, ⟨1, 0⟩, plain 5] 1 s0 0x80000000 ∧ Delivers [⟨3, 0⟩, ⟨1, 0⟩, plain 5] 5 s0 0 :=
  ⟨ordinary (by decide +kernel), lr (by decide +kernel), dl (by decide +kernel), dl (by decide +kernel), by decide +kernel, dl (by decide +kernel), dl (by decide +kernel), dl (by decide +kernel)⟩

/-- A store to the own scratchpad outstanding, and a stamped multicast. -/
def pSt : Pend := ⟨1, 0, 3 * 2 ^ 52, 0, .store 4⟩
def pMc (stamped : Bool) : Pend := ⟨2, 6, 5, 0, .mcast 6 stamped⟩
def sP (l : List Pend) : State := one { th0 with pend := l }
theorem witness_FenceWaitsForScope :
    let s := sP [pSt, pMc true]
    (s.th.shadow = none ∧ stPP s.th.st = false) ∧ (s.th.cbuf = [] ∧ s.fenceWaits (0x40 : BitVec 8).toNat (3 : BitVec 3).toNat = false) ∧
    s.fenceWaits (0x01 : BitVec 8).toNat (0 : BitVec 3).toNat = true ∧ s.fenceWaits (0x40 : BitVec 8).toNat (4 : BitVec 3).toNat = true := by decide +kernel
/-! ### Witnesses: guards, groups, completion, multicast -/

/-- Registers: 1 a record's offset, 2 a scratchpad offset, 4-5 a control pair, 6 the value 1. -/
def thG : Slot := { th0 with g := [(1, 0x400), (2, 0x3FFF00), (3, 0x800), (4, 0xC00), (5, 0x800), (6, 1), (7, 0xFFFF), (8, 0x1FFF)] }
def sG : State := one thG
def recOk (rights : Seg → Bool) (off n al : Nat) (p : Nat × State → Bool) (s : State) : Bool := okB (recPlace rights 2 off n al s) (fun q => recSpace q.1 && p q)
/-- A record at offset 0x400 and a second operand at off2, each checked before the record and then the operand's n2 bytes are placed. -/
def twoOk (rights : Seg → Bool) (n off2 m2 al2 n2 : Nat) (p : Nat × State → Nat × State → Bool) (s : State) : Bool :=
  okB (recSeg rights 2 0x400 64 n s) (fun rp => okB (recSeg rights 2 off2 m2 al2 s) (fun ap => okB (recAt rp 64 s) (fun q => okB (recAt ap n2 q.2) (fun r => p q r))))
theorem witness_GuardRequestsIssue_records : Ordinary sG ∧ LaterReady 9 sG ∧
    (Delivers [⟨1, 0⟩, ⟨4, 0⟩] 1 sG 0x400 ∧ Delivers [⟨1, 0⟩, ⟨4, 0⟩] 4 sG 0xC00 ∧
      twoOk rGuardW 64 0xC00 1 1024 1024 (fun q r => recSpace q.1 && recSpace r.1 && q.1 / 2 ^ 37 == r.1 / 2 ^ 37) sG = true) ∧
    (Delivers [⟨1, 0⟩, ⟨0, 0⟩] 0 sG 0 ∧ Delivers [⟨1, 0⟩, ⟨6, 0⟩] 6 sG 1 ∧ recOk rGuardR 0x400 64 64 (fun _ => true) sG = true) ∧
    (Delivers [⟨1, 0⟩, ⟨2, 0⟩] 2 sG 0x3FFF00 ∧ (0x3FFF00 : Word).toNat < 2 ^ 22 ∧ (0x3FFF00 : Word).toNat % 256 = 0 ∧ recOk rGuardR 0x400 64 64 (fun q => !(q.2.tile 0).engaged 0 q.1) sG = true) :=
  ⟨ordinary (by decide +kernel), lr (by decide +kernel), ⟨dl (by decide +kernel), dl (by decide +kernel), by decide +kernel⟩, ⟨dl (by decide +kernel), dl (by decide +kernel), by decide +kernel⟩,
    dl (by decide +kernel), by decide, by decide, by decide +kernel⟩
theorem witness_GuardRequestsIssue_bind :
    let srcs := [⟨1, 0⟩] ++ srcPair ⟨4, 0⟩
    Delivers srcs 1 sG 0x400 ∧ Delivers srcs 4 sG 0xC00 ∧ Delivers srcs (4 + 1) sG 0x800 ∧ (0x800 : Word).toNat < 2 ^ 13 ∧
    okB (recSeg rGuardR 2 0x400 64 64 sG) (fun rp => okB (seg rGuardW 2 0xC00 256 sG) (fun p => p.at_ % 256 == 0 &&
      okB (recAt rp 64 sG) (fun q => recSpace q.1 && (q.2.th.bindFrom p.at_ (p.at_ + 256) == (p.at_, [])) &&
        okB (bindWalk p.at_ 1042 p.at_ (p.at_ + 256) [] q.2) (fun r => r.1.all (fun x => spaceOf x.1 == 0 || spaceOf x.1 == 1 || spaceOf x.1 == 4))))) = true :=
  ⟨dl (by decide +kernel), dl (by decide +kernel), dl (by decide +kernel), by decide, by decide +kernel⟩
theorem witness_GuardRequestsIssue_release : Delivers [⟨1, 0⟩] 1 (sG.modTile 0 (fun T => { T with rng := [re 2] })) 0x400 ∧
    recOk rGuardR 0x400 64 64 (fun q => (q.2.tile 0).rngAt 0 q.1 == some (re 2) && !q.2.copyBusy 0 (re 2)) (sG.modTile 0 (fun T => { T with rng := [re 2] })) = true ∧ (re 2).held = true :=
  ⟨dl (by decide +kernel), by decide +kernel, by decide⟩

/-- A member of the group whose record lies at 0x400, with ARR as given. -/
def sMem (arr : Bool) : State := one { thG with gmem := [(0, gmemWord 0x400 arr)] }
theorem witness_GroupRequestsIssue_join :
    let srcs := [⟨1, 0⟩] ++ srcPair ⟨4, 0⟩
    Ordinary sG ∧ LaterReady 9 sG ∧ Delivers srcs 1 sG 0x400 ∧ Delivers srcs 4 sG 0xC00 ∧ Delivers srcs (4 + 1) sG 0x800 ∧ (0x800 : Word).toNat < 2 ^ 16 ∧
    twoOk rGroup 64 0xC00 (4 * max (0x800 : Word).toNat 1) 64 (4 * max (0x800 : Word).toNat 1) (fun q r => groupSpace q.1 && groupSpace r.1 && q.1 / 2 ^ 37 == r.1 / 2 ^ 37 &&
      decide (r.2.th.gmemUsed < 8) && r.2.th.member q.1 == none && !r.2.th.joining.contains q.1) sG = true :=
  ⟨ordinary (by decide +kernel), lr (by decide +kernel), dl (by decide +kernel), dl (by decide +kernel), dl (by decide +kernel), by decide, by decide +kernel⟩
theorem witness_GroupRequestsIssue_member : Ordinary (sMem false) ∧ LaterReady 9 (sMem false) ∧ Delivers [⟨1, 0⟩] 1 (sMem false) 0x400 ∧ Delivers [⟨1, 0⟩] 1 (sMem true) 0x400 ∧
    recOk rGroup 0x400 64 64 (fun q => groupSpace q.1 && q.2.th.member q.1 == some 0 && !q.2.th.arrived 0 && !q.2.fenceWaits 0x0F (q.2.th.span 0)) (sMem false) = true ∧
    recOk rGroup 0x400 64 64 (fun q => groupSpace q.1 && q.2.th.member q.1 == some 0 && q.2.th.arrived 0) (sMem true) = true :=
  ⟨ordinary (by decide +kernel), lr (by decide +kernel), dl (by decide +kernel), dl (by decide +kernel), by decide +kernel, by decide +kernel⟩

theorem witness_CompletionAndChannelInstructions_watch : Ordinary sG ∧ LaterReady 9 sG ∧ sG.th.watching = false ∧ okB (watchPlace 2 0x400 sG) (fun _ => true) = true ∧ okB (watchPlace 1 0x400 sG) (fun _ => true) = true ∧
    (Delivers ([⟨1, 0⟩] ++ srcPair ⟨4, 0⟩) 1 sG 0x400 ∧ Delivers ([⟨1, 0⟩] ++ srcPair ⟨4, 0⟩) 4 sG 0xC00 ∧ Delivers ([⟨1, 0⟩] ++ srcPair ⟨4, 0⟩) (4 + 1) sG 0x800) ∧ Delivers [⟨1, 0⟩, ⟨0, 0⟩] 0 sG 0 :=
  ⟨ordinary (by decide +kernel), lr (by decide +kernel), by decide +kernel, by decide +kernel, by decide +kernel, ⟨dl (by decide +kernel), dl (by decide +kernel), dl (by decide +kernel)⟩, dl (by decide +kernel)⟩
theorem witness_CompletionAndChannelInstructions_post : Delivers [⟨1, 0⟩, ⟨7, 0⟩] 1 sG 0x400 ∧ Delivers [⟨1, 0⟩, ⟨7, 0⟩] 7 sG 0xFFFF ∧ atomicOk 2 0x400 8 99 sG = true ∧ atomicOk 1 0x400 8 99 sG = true :=
  ⟨dl (by decide +kernel), dl (by decide +kernel), by decide +kernel, by decide +kernel⟩
theorem witness_CompletionAndChannelInstructions_send : Delivers [⟨1, 0⟩, ⟨7, 0⟩] 1 sG 0x400 ∧ (0x400 : Word).toNat < 2 ^ 29 ∧ sG.th.sendOut < 4 ∧ (sG.th.prod.getLsbD (28 + (3 : BitVec 2).toNat) = false) :=
  ⟨dl (by decide +kernel), by decide, by decide +kernel, by decide +kernel⟩

theorem witness_MulticastInstructions_store :
    let srcs := [⟨1, 0⟩] ++ srcPair ⟨8, 0⟩
    Ordinary sG ∧ LaterReady 10 sG ∧ LaterReady (pairHi 10) sG ∧ (10 : Reg).toNat % 2 = 0 ∧ Delivers srcs 1 sG 0x400 ∧ Delivers srcs 8 sG 0x1FFF ∧ Delivers srcs (8 + 1) sG 0 ∧ (0x1FFF : Word).toNat < 2 ^ 17 ∧ (0 : Word).toNat % 8 = 0 ∧
    okB (seg (fun g => g.r && g.s) 1 0x400 (((0x1FFF : Word).toNat / 2 ^ 12 + 1) * 8 + 16) sG) (fun p => p.at_ % 8 == 0 && (sG.tile 0).rngCopy 0 p.at_ 32 false == .pass && !(sG.tile 0).bankHeld 0 p.at_ 32 && !sG.eccBad (sG.spPa 0 p.at_) 32) = true :=
  ⟨ordinary (by decide +kernel), lr (by decide +kernel), lr (by decide +kernel), by decide, dl (by decide +kernel), dl (by decide +kernel), dl (by decide +kernel), by decide, by decide, by decide +kernel⟩
theorem witness_MulticastInstructions_sequence :
    let srcs := [⟨1, 0⟩] ++ srcPair ⟨4, 0⟩
    Delivers srcs 1 sG 0x400 ∧ (0x400 : Word).toNat < 2 ^ 12 ∧ Delivers srcs 4 sG 0xC00 ∧ Delivers srcs (4 + 1) sG 0x800 ∧ sG.th.sequencing = false ∧ Delivers ([⟨1, 0⟩] ++ srcPair ⟨0, 0⟩) 0 sG 0 :=
  ⟨dl (by decide +kernel), by decide, dl (by decide +kernel), dl (by decide +kernel), by decide +kernel, dl (by decide +kernel)⟩

/-! ### Witnesses: traps, registers, system instructions -/

theorem witness_TrapEntry : s0.th.isVisitor = false ∧ s0.th.shadow = none ∧ tTRAP ≠ tMCHK ∧ Ordinary s0 ∧ Delivers [⟨0, 0⟩] 0 s0 0 :=
  ⟨by decide +kernel, by decide +kernel, by decide, ordinary (by decide +kernel), dl (by decide +kernel)⟩
theorem witness_ExceptionReturn : Ordinary s0 ∧ 1 ≤ stPL s0.th.st := ⟨ordinary (by decide +kernel), by decide +kernel⟩
theorem witness_PrivilegeTraps : Ordinary (one { th0 with st := 0 }) ∧ stPL (one { th0 with st := 0 }).th.st = 0 ∧ 0x100 ≤ (0x100 : BitVec 12).toNat % 0x400 ∧ stPL s0.th.st ≤ 1 ∧ 0x300 ≤ (0xFFF : BitVec 12).toNat % 0x400 :=
  ⟨ordinary (by decide +kernel), by decide +kernel, by decide, by decide +kernel, by decide⟩
theorem witness_CsrInstructions : Ordinary s0 ∧ destReady 5 s0 = .ok () ∧ csrReadable (stPL s0.th.st) 0x300 = true ∧ csrWritable (stPL s0.th.st) 0x1FF = true ∧ csrWritable (stPL s0.th.st) 0x300 = false ∧
    Delivers [⟨0, 0⟩] 0 s0 0 ∧ Delivers [⟨2, 0⟩] 2 s0 0xFFFFFFFF :=
  ⟨ordinary (by decide +kernel), dr (by decide +kernel), by decide +kernel, by decide +kernel, by decide +kernel, dl (by decide +kernel), dl (by decide +kernel)⟩
theorem witness_SystemInstructions : Ordinary s0 ∧ s0.th.wl = false ∧ (one { th0 with wl := true }).th.wl = true ∧ Ordinary (one { th0 with wl := true }) ∧
    Delivers [⟨3, 0⟩, ⟨0, 0⟩] 3 s0 64 ∧ Delivers [⟨3, 0⟩, ⟨0, 0⟩] 0 s0 0 ∧ Delivers [⟨3, 0⟩, ⟨4, 0⟩] 4 s0 7 ∧ (∀ p, p ∈ s0.th.pend → p.path ≠ 0) ∧ s0.th.cbuf = [] ∧ s0.th.prod = 0 ∧ s0.cur.2 ≠ 7 ∧
    (∀ p, p ∈ ({ s0 with cur := (0, 7) } : State).th.pend → p.path ≠ 0) ∧ Ordinary { s0 with cur := (0, 7) } ∧ ({ s0 with cur := (0, 7) } : State).th.prod = 0 :=
  ⟨ordinary (by decide +kernel), by decide +kernel, by decide +kernel, ordinary (by decide +kernel), dl (by decide +kernel), dl (by decide +kernel), dl (by decide +kernel), by decide +kernel, by decide +kernel,
    by decide +kernel, by decide +kernel, by decide +kernel, ordinary (by decide +kernel), by decide +kernel⟩

/-! ### Witnesses: forks, queues, contexts -/

def thF : Slot := { th0 with g := [(1, 0x400), (2, 0x3FFF00), (3, 0x400), (4, 3), (5, 1), (6, 8)] }
def sF : State := one thF
theorem witness_ForkJoinSpawn_fork :
    let srcs := [⟨3, 0⟩] ++ srcPair ⟨4, 0⟩
    Ordinary sF ∧ Delivers srcs 3 sF 0x400 ∧ Delivers srcs 4 sF 3 ∧ Delivers srcs (4 + 1) sF 1 ∧ destReady 1 sF = .ok () ∧ destReady 2 sF = .ok () ∧ destReady 4 sF = .ok () ∧ destReady 9 sF = .ok () ∧
    0 < (3 : Word).toNat ∧ (3 : Word).toNat < 2 ^ 31 ∧ (1 : Word) ≠ 0 ∧ sF.th.fork.v = false ∧ okB (joinCell 2 0x400 sF) (fun _ => true) = true :=
  ⟨ordinary (by decide +kernel), dl (by decide +kernel), dl (by decide +kernel), dl (by decide +kernel), dr (by decide +kernel), dr (by decide +kernel), dr (by decide +kernel), dr (by decide +kernel), by decide, by decide, by decide,
    by decide +kernel, by decide +kernel⟩
/-- Parts 1 and 2 of a fork on segment 2, offset 0x400, not yet placed. -/
def sJ : State := one { thF with fork := { v := true, rpc := 0x200, n := 3, p := 3, seg := 2, joff := 0x400, umap := 6 } }
theorem witness_ForkJoinSpawn_join : Ordinary sJ ∧ Delivers [⟨3, 0⟩] 3 sJ 0x400 ∧ destReady 9 sJ = .ok () ∧ sJ.cur.2 ≠ 7 ∧ okB (joinCell 2 0x400 sJ) (fun _ => true) = true ∧
    (sJ.th.fork.v = true ∧ sJ.th.fork.seg = (2 : BitVec 3).toNat ∧ sJ.th.fork.joff = 0x400 ∧ destReady 1 sJ = .ok () ∧ destReady 2 sJ = .ok () ∧ sJ.th.fork.umap.getLsbD 1 = true ∧ ∀ i, i < 1 → sJ.th.fork.umap.getLsbD i = false) ∧
    (sF.th.fork.v = false ∧ okB (joinCell 2 0x400 sF) (fun q => q.2.th.pend.all (fun p => p.path != 0) && q.2.th.cbuf == [] && q.2.th.prod == 0) = true) :=
  ⟨ordinary (by decide +kernel), dl (by decide +kernel), dr (by decide +kernel), by decide +kernel, by decide +kernel,
    ⟨by decide +kernel, by decide +kernel, by decide +kernel, dr (by decide +kernel), dr (by decide +kernel), by decide +kernel, by decide +kernel⟩, by decide +kernel, by decide +kernel⟩
/-- The record of a SPAWN has been read. -/
def sFd (n : Nat) : State := sF.modTh (fun h => { h with fetched := some (0x400, List.replicate n 1) })
theorem witness_ForkJoinSpawn_spawn : Delivers [⟨3, 0⟩, ⟨4, 0⟩] 3 sF 0x400 ∧ Delivers [⟨3, 0⟩, ⟨4, 0⟩] 4 sF 3 ∧ LaterReady 9 sF ∧ (3 : Word).toNat < 2 ^ 14 ∧
    okB (p0PlaceAt rLoad 1 2 0x400 128 64 0 sF) (fun q => q.2.th.fetched == none) = true ∧
    (List.replicate 128 (1 : Byte)).length = 128 ∧ okB (p0PlaceAt rLoad 1 2 0x400 128 64 0 (sFd 128)) (fun q => q.2.th.fetched == some (q.1.pa, List.replicate 128 1) && q.2.th.cbuf == [] && !q.2.fenceWaits 0x0F 3) = true ∧
    okB (p0PlaceAt rLoad 1 2 0x400 128 64 0 (sFd 64)) (fun q => q.2.th.fetched == some (q.1.pa, List.replicate 64 1) && okB (p0PlaceAt rLoad 1 2 (0x400 + 64) 64 64 0 q.2) (fun _ => true)) = true :=
  ⟨dl (by decide +kernel), dl (by decide +kernel), lr (by decide +kernel), by decide, by decide +kernel, by simp, by decide +kernel, by decide +kernel⟩

/-- A full ready queue, and one with an entry of tag 7. -/
def sRq (l : List RqEntry) (latch : List Nat) : State := s0.modTile 0 (fun T => { T with rq := l, latch := latch })
theorem witness_ReadyQueueInstructions : Ordinary s0 ∧ 1 ≤ stPL s0.th.st ∧ Delivers [⟨4, 0⟩] 4 s0 7 ∧ destReady 8 s0 = .ok () ∧ destReady (8 + 1) s0 = .ok () ∧ (7 : Word).toNat < 2 ^ 19 ∧
    ((sRq [⟨7, 0, true, 0⟩] []).tile 0).rq.any (fun e => e.tag == 7) = true ∧ (s0.tile 0).rq.any (fun e => e.tag == 7) = false ∧
    64 ≤ ((sRq ((List.range 64).map (fun i => ⟨i + 8, 0, true, i⟩)) []).tile 0).rq.length ∧ (s0.tile 0).rq.length < 64 ∧ ((sRq [⟨9, 1, false, 3⟩] []).tile 0).rqHead = some ⟨9, 1, false, 3⟩ ∧
    (s0.tile 0).rqHead = none ∧ s0.th.wl = false ∧ (0 : Word).toNat / 2 = 0 ∧ (1 : Word).getLsbD 0 = true ∧ (5 : Word).toNat / 2 = 2 ∧
    ((s0.modTile 0 (fun T => { T with msgq := [(0, { Msg.zero with attr := 64 })] })).tile 0).msgq.find? (fun q => msgKind q.2 == 2) = some (0, { Msg.zero with attr := 64 }) :=
  ⟨ordinary (by decide +kernel), by decide +kernel, dl (by decide +kernel), dr (by decide +kernel), dr (by decide +kernel), by decide, by decide +kernel, by decide +kernel, by decide +kernel, by decide +kernel, by decide +kernel,
    by decide +kernel, by decide +kernel, by decide, by decide, by decide, by decide +kernel⟩

theorem witness_ContextLockAndScrub_context : Ordinary sF ∧ 1 ≤ stPL sF.th.st ∧ Delivers [⟨2, 0⟩, ⟨0, 0⟩] 2 sF 0x3FFF00 ∧ Delivers [⟨2, 0⟩, ⟨0, 0⟩] 0 sF 0 ∧ destReady 9 sF = .ok () ∧ sF.th.prod = 0 ∧
    spRange true 1 0x3FFF00 256 sF = .ok 0x3FFF00 ∧ sF.th.poisoned = none ∧ spRange false 1 0x3FFF00 256 sF = .ok 0x3FFF00 ∧ sF.eccBad (sF.spPa 0 0x3FFF00) 256 = false :=
  ⟨ordinary (by decide +kernel), by decide +kernel, dl (by decide +kernel), dl (by decide +kernel), dr (by decide +kernel), by decide +kernel, by decide +kernel, by decide +kernel, by decide +kernel, by decide +kernel⟩
theorem witness_ContextLockAndScrub_locks :
    (∃ l, l ∈ ((s0.modTile 0 (fun T => { T with locks := [⟨1, 0x80000000, 0⟩] })).tile 0).locks ∧ l.slot ≠ 0 ∧ l.mask &&& 0x80000000 ≠ 0) ∧ Delivers [⟨1, 0⟩] 1 s0 0x80000000 ∧ (s0.tile 0).locks = [] ∧
    (Delivers [⟨6, 0⟩] 6 sF 8 ∧ 8 ≤ (8 : Word).toNat ∧ (8 : Word).toNat < 15 ∧ (sF.tile 0).lamask.getLsbD 0 = false ∧ countOnes 8 (sF.tile 0).lamask < 2 ∧ 2 ≤ countOnes 8 0x60) ∧
    ((6 : Word).toNat < 7 ∧ (sF.slot 0 6).shadow = none) ∧ spRange true 1 0x3FFF00 256 sF = .ok 0x3FFF00 ∧ (256 : Word).toNat % 256 = 0 ∧ (256 : Word).toNat ≤ 0x400000 :=
  ⟨⟨⟨1, 0x80000000, 0⟩, by decide +kernel⟩, dl (by decide +kernel), by decide +kernel, ⟨dl (by decide +kernel), by decide, by decide, by decide +kernel, by decide +kernel, by decide +kernel⟩, by decide +kernel, by decide +kernel, by decide, by decide⟩
/-! ### Witnesses: engine commands -/

theorem cmdReady {s : State} (h : (!s.th.isVisitor && s.th.shadow.isNone && s.th.cbuf == [] && !(s.tile s.cur.1).tagsFull && ((s.tile s.cur.1).mq ++ (s.tile s.cur.1).vq).all (fun c => c.slot != s.cur.2 || c.op == 7 || !c.held s)) = true) : CmdReady s := by
  simp only [Bool.and_eq_true, Bool.not_eq_true', Option.isNone_iff_eq_none, beq_iff_eq, List.all_eq_true] at h
  refine ⟨h.1.1.1.1, h.1.1.1.2, h.1.1.2, h.1.2, fun c hc hs ho => ?_⟩
  have := h.2 c hc
  simpa [hs, ho] using this
def admitted (s : State) (e : Nat) (c : EngCmd) : Bool := s.th.leave == none && !s.needsLeave s.cur.1 c.energy && s.room s.cur.1 e c

/-- Matrix registers for BF16 operands of one row and column, k = 32, in the scratchpad; a gang of tiles 0 and 1. -/
def thM : Slot :=
  { th0 with g := [(1, 0x400), (2, 0x800), (3, 1)], accmask := 0xF,
             mx := [(0, 0x111110), (1, 0x11), (2, 32), (4, 64), (5, 64), (6, 64), (12, 3), (13, 0x400), (14, 1), (15, 64)],
             vx := [(0, 0x1249), (2, 0x800), (3, 0xC00), (9, 32)],
             lx := [(0, 0x1100), (1, 0x400), (2, 0x800), (16, 64), (32, 1), (48, 1), (64, 0x1101), (65, 0x400), (66, 0x800), (80, 64),
                    (128, 0x1100), (144, 0)] }
def sM : State := (one thM).setTile 1 (tile0 thM)
theorem witness_EngineRegisterMoves : CmdReady sM ∧ stPP sM.th.st = false ∧ Delivers [⟨1, 0⟩] 1 sM 0x400 ∧ LaterReady 9 sM :=
  ⟨cmdReady (by decide +kernel), by decide +kernel, dl (by decide +kernel), lr (by decide +kernel)⟩
theorem witness_MatrixCommandsIssue_single : CmdReady sM ∧ Delivers [⟨3, 0⟩] 3 sM 1 ∧ (1 : Word).toNat < 16 ∧ (1 : Word) &&& sM.th.accmask = 1 ∧ admitted sM 0 (sM.newCmd opMZERO 1 0 0 [] 0 []) = true ∧
    (Delivers [⟨1, 0⟩] 1 sM 0x400 ∧ okB (cmdFmt (.mstore ⟨1, 0⟩) (mget 0 sM.th.mx 1) sM) (fun fmt => let c := sM.newCmd opMSTORE 0x400 0 fmt sM.th.mx 0 []
      !mstoreIll c sM.th && okB (mstoreChecks c sM) (fun _ => admitted sM 0 { c with wext := c.extC.wext sM.th })) = true) ∧
    (let c := sM.newCmd opMREDUCE 0x400 0 0 sM.th.mx 0 []
     mxBad sM.th ([0, 3, 4, 14, 15] ++ cwRegs sM.th) = false ∧ 0 < c.nsl ∧ c.nsl ≤ 4096 ∧ okB (mreduceChecks c sM) (fun _ => admitted sM 0 { c with energy := cdiv (c.rows * c.cols * c.nsl) 64 }) = true) :=
  ⟨cmdReady (by decide +kernel), dl (by decide +kernel), by decide, by decide +kernel, by decide +kernel, ⟨dl (by decide +kernel), by decide +kernel⟩, by decide +kernel⟩
theorem witness_MatrixCommandsIssue_pair : Delivers [⟨1, 0⟩, ⟨2, 0⟩] 1 sM 0x400 ∧ Delivers [⟨1, 0⟩, ⟨2, 0⟩] 2 sM 0x800 ∧
    okB (cmdFmt (.mma ⟨1, 0⟩ ⟨2, 0⟩) (mget 0 sM.th.mx 1) sM) (fun fmt => let c := sM.newCmd opMMA 0x400 0x800 fmt sM.th.mx 0 []
      !mmaIll sM.th fmt && okB (mmaChecks c sM) (fun _ => admitted sM 0 { c with energy := mmaEnergy c.rows c.cols c.kdim (fmFA fmt) (fmFB fmt) })) = true ∧
    okB (cmdFmt (.mmag ⟨1, 0⟩ ⟨2, 0⟩) (mget 0 sM.th.mx 1) sM) (fun fmt => let ms := gangMembers sM.cur.1 (sM.th.mxn 12); let c := { sM.newCmd opMMAG 0x400 0x800 fmt sM.th.mx 0 [] with members := ms }
      !mxBad sM.th [12] && decide (2 ≤ ms.length) && ms.contains sM.cur && okB (mmagChecks c sM) (fun _ => admitted sM 0 { c with energy := mmaEnergy c.rows c.cols c.kdim (fmFA fmt) (fmFB fmt) * ms.length })) = true :=
  ⟨dl (by decide +kernel), dl (by decide +kernel), by decide +kernel, by decide +kernel⟩
/-- A vector command of every code passes its checks here. -/
def vecOk (op : Nat) (x : Word) : Bool :=
  okB (cmdFmt .nop (mget 0 sM.th.vx 1) sM) (fun fmt => let c := sM.newCmd (256 + op) x 0x800 fmt sM.th.vx 0 []
    !vopIll sM.th op fmt && okB (vecChecks c sM) (fun _ => admitted sM 1 { c with energy := cdiv c.total 16 * (if 0x10 ≤ op ∧ op ≤ 0x15 then 4 else 1), wext := c.vextZ.wext sM.th }))
theorem witness_VectorCommandsIssue : CmdReady sM ∧ Delivers [⟨1, 0⟩, ⟨2, 0⟩] 1 sM 0x400 ∧ Delivers [⟨1, 0⟩, ⟨2, 0⟩] 2 sM 0x800 ∧ (List.range 30).all (fun op => vecOk op 0x400) = true ∧
    (0 : BitVec 2) ≠ 3 ∧ Delivers [⟨2, 0⟩] 2 sM 0x800 ∧ vecOk 0x1E 0 = true ∧ vecOk 0x1F 0 = true :=
  ⟨cmdReady (by decide +kernel), dl (by decide +kernel), dl (by decide +kernel), by decide +kernel, by decide, dl (by decide +kernel), by decide +kernel, by decide +kernel⟩

/-- Ladle register sets: 0 a fill, 1 a drain. -/
def ladleOk (x : Word) : Bool :=
  let c := sM.newCopy (captureSet (64 * (x.toNat / 2)) sM.th) ((sM.tile 0).ladle (x.toNat % 2)).next
  !c.ill && okB (copyChecks c 1 true sM) (fun _ => !((sM.tile 0).ladle (x.toNat % 2)).full) && c.drain == decide (2 ≤ x.toNat) && !c.gather
def thGather : Slot := { thM with lx := [(0, 0x1112), (1, 0x400), (2, 0x800), (5, 0x100), (6, 3), (16, 64), (17, 2), (33, 64), (49, 64)] }
theorem witness_LadleInstructions_issue : CmdReady sM ∧ stPP sM.th.st = false ∧ Delivers [⟨0, 0⟩] 0 sM 0 ∧ Delivers [⟨3, 0⟩] 3 sM 1 ∧ (ladleOk 0 && ladleOk 1 && ladleOk 2 && ladleOk 3) = true ∧ LaterReady 8 sM ∧ LaterReady (pairHi 8) sM ∧
    (let s := one thGather; let c := s.newCopy (captureSet 0 s.th) 0; c.ill = false ∧ okB (copyChecks c 1 true s) (fun _ => true) = true ∧ c.gather = true ∧ c.drain = false) :=
  ⟨cmdReady (by decide +kernel), by decide +kernel, dl (by decide +kernel), dl (by decide +kernel), by decide +kernel, lr (by decide +kernel), lr (by decide +kernel), by decide +kernel⟩
def copy0 : Copy := sM.newCopy (captureSet 0 sM.th) 0
def sLad (f : Ladle → Ladle) : State := sM.modLadle 0 0 f
theorem witness_LadleInstructions_cancel : ((( sLad (fun L => { L with active := some copy0 })).tile 0).ladle 0).active = some copy0 ∧ copy0.crew = sM.th.crewid ∧ copy0.err = 0 ∧ copy0.k < copy0.total := by decide +kernel

/-- A tile task of all zeros, an XCOPY of 64 bytes, and a work request of 64 bytes, in the scratchpad; queue 0 of the network configured. -/
def xcopyBytes : List Byte := leBytes 256 (0x1 * 2 ^ 4 + 0x1 * 2 ^ 8 + 0x800 * 2 ^ 64 + 0x400 * 2 ^ 32 + 64 * 2 ^ 256)
def wrBytes0 : List Byte := leBytes 64 (64 * 2 ^ 128)
def sQ : State :=
  let s := (sM.homeWrite (sM.spPa 0 0x400) xcopyBytes).homeWrite (sM.spPa 0 0x800) wrBytes0
  (s.setReg 0 0x400000 1).setReg 0 0x400010 1
theorem witness_QueueControlInstructions_one : CmdReady sQ ∧ stPP sQ.th.st = false ∧ Delivers [⟨3, 0⟩] 3 sQ 1 ∧ (1 : Word).toNat < 32 ∧ LaterReady 8 sQ ∧ LaterReady (pairHi 8) sQ ∧
    (∃ c, c ∈ ((sQ.modTile 0 (fun T => { T with mq := [sQ.newCmd opMMA 0 0 0 [] 0 []] })).tile 0).mq ∧ c.slot = 0 ∧ c.op ≠ opSHARE) ∧ (sQ.tile 0).mq = [] ∧ (sQ.tile 0).vq = [] :=
  ⟨cmdReady (by decide +kernel), by decide +kernel, dl (by decide +kernel), by decide, lr (by decide +kernel), lr (by decide +kernel), ⟨sQ.newCmd opMMA 0 0 0 [] 0 [], by decide +kernel⟩, by decide +kernel, by decide +kernel⟩
theorem witness_QueueControlInstructions_two : Delivers [⟨1, 0⟩, ⟨3, 0⟩] 1 sQ 0x400 ∧ Delivers [⟨1, 0⟩, ⟨3, 0⟩] 3 sQ 1 ∧ Delivers [⟨2, 0⟩, ⟨3, 0⟩] 2 sQ 0x800 ∧
    okB (recordPlace 1 0x400 64 sQ) (fun r => decide (((r.2.die 0).tasks.filter (fun q => q.1 == clusterOf 0)).length < 64)) = true ∧
    okB (recordPlace 1 0x400 256 sQ) (fun r => let D := leNat r.1; !xcopyIll D && okB (copyChecks (r.2.newCopy (xcopyRegs D) 0) 5 false r.2) (fun _ => decide (((r.2.die (xcopyDie D)).copyq.filter (fun q => q.1 == xcopyChan D)).length < 64))) = true := 
  ⟨dl (by decide +kernel), dl (by decide +kernel), dl (by decide +kernel), by decide +kernel, by decide +kernel⟩
theorem witness_QueueControlInstructions_npost : Delivers [⟨2, 0⟩, ⟨1, 0⟩] 2 sQ 0x800 ∧ Delivers [⟨2, 0⟩, ⟨1, 0⟩] 1 sQ 0x400 ∧ (0x400 : Word).toNat < 2 ^ 13 ∧
    okB (recordPlace ((0x400 : Word).toNat / 1024) 0x800 64 sQ) (fun r => decide (r.2.nqBusy 0 < 256) && r.2.nqV 0 && r.2.nqAsid 0 == r.2.th.asid && !wrMalformed (leNat r.1) && decide (wrPidx (leNat r.1) < r.2.nqPeers 0)) = true :=
  ⟨dl (by decide +kernel), dl (by decide +kernel), by decide, by decide +kernel⟩
/-! ### Witnesses: messages at homes and tiles -/

/-- Page tables of ASID 0: the first GiB maps to itself. -/
def pt (s : State) : State := { s with mem := wrLE (wrLE (wrLE s.mem 0 16 0x100001) 0x100000 8 0x101001) 0x101000 8 0x3F }
def m8 (pa : Nat) : Msg := { Msg.zero with pa := pa, len := 7, dst := 0x10 }
def homeOk (i : Instr) (load write : Bool) (pa : Nat) : Bool := let s := msg (m8 pa) s0; okB (atHome i 0 8 (load && s.byP0 s.msg) write s) (· == pa) && okB (bankWait i pa 8 s) (fun _ => true) && !s.eccBad pa 8
theorem witness_RequestsPerformed_local : (spaceOf 0x1000 = 0 ∧ spaceOf (3 * 2 ^ 52) = 3) ∧ (msg (m8 0x1000) s0).fromManager (m8 0x1000) = false ∧ homeOk .rd true false 0x1000 = true ∧ homeOk .rd true false (3 * 2 ^ 52) = true ∧ homeOk .wr false true (3 * 2 ^ 52) = true ∧
    homeOk .rsv false true 0x1FF8 = true ∧ homeOk .rd true false (5 * 2 ^ 52) = true ∧ homeOk .rd true false (2 * 2 ^ 52) = true ∧ (let s := msg (m8 (2 ^ 52)) ((s0.setReg 0 0x500000 1).setReg 0 0x500010 1); okB (atHome .rd 0 8 (s.byP0 s.msg) false s) (· == 2 ^ 52) = true) ∧ homeOk .wr false true (2 * 2 ^ 52) = true := by decide +kernel
def sRsv : State := msg (m8 0x1000) (s0.modDie 0 (fun D => { D with resvs := [⟨0x1000, m8 0x1000, []⟩] }))
def mWrb : Msg := { m8 0x1000 with len := 63, attr := 0x3F, aux0 := 0xFFFFFFFFFFFFFFFF, data := List.replicate 64 1 }
theorem witness_RequestsPerformed_others :
    (0x1000 = sRsv.canon sRsv.msg.pa ∧ (sRsv.die (sRsv.watchDie 0x1000)).resvs = [⟨0x1000, m8 0x1000, []⟩] ∧ sRsv.msg.attr.getLsbD 0 = false ∧ ({ m8 0x1000 with attr := 1 } : Msg).attr.getLsbD 0 = true) ∧
    (let s := msg (m8 0x1000) s0; 0x1000 = s.canon s.msg.pa ∧ s.fwdWrite 0x1000 = none ∧ s.decodes 0 0x1000 = true ∧ s.refuses 1 0x1000 8 false true = none ∧ s.reserved 0x1000 8 = false ∧
      okB (bankWait .cwpost 0x1000 8 s) (fun _ => true) = true ∧ s.eccBad 0x1000 8 = false) ∧
    (let s := msg mWrb s0; isMcUnit s.msg.dst = false ∧ s.fwdWrite 0x1000 = none ∧ s.settlingPart 0x1000 = false ∧ s.decodes 0 0x1000 = true ∧
      (enabledRuns (wrbEnables s.msg) 257 0 s.msg.data).all (fun q => s.refuses 6 (0x1000 + q.1) q.2.length false true == none && !s.reserved (0x1000 + q.1) q.2.length) = true ∧ enabledRuns (wrbEnables s.msg) 257 0 s.msg.data ≠ []) ∧
    (let s : State := { msg { mWrb with pa := 3 * 2 ^ 52 + 0x400 } s0 with arg := { msg := { mWrb with pa := 3 * 2 ^ 52 + 0x400 }, bytes := [1] } }
      let pa := s.canon s.msg.pa; spaceOf pa = 3 ∧ s.fwdWrite pa = none ∧ s.settlingPart pa = false ∧ s.decodes 0 pa = true ∧
      (enabledRuns (wrbEnables s.msg) 257 0 (damaged s.arg.bytes s.msg.data)).all (fun q => s.refuses 6 (pa + q.1) q.2.length false true == none && !s.reserved (pa + q.1) q.2.length && !(s.tile (eidTile (nfld pa 24 24))).bankHeld 8 (nfld pa 0 22 + q.1) q.2.length) = true ∧
      s.arg.bytes ≠ [] ∧ crc32c (damaged s.arg.bytes s.msg.data) ≠ crc32c s.msg.data) ∧
    (let s := { msg (m8 (2 * 2 ^ 52)) (sP [⟨0, 0, 2 * 2 ^ 52, 0, .atomic 5 0 1 0⟩]) with ecc := [0x1FF8] };
      okB (atHome .rsv 0 8 false true s) (· == 2 * 2 ^ 52) = true ∧ s.pendOf s.msg = some ⟨0, 0, 2 * 2 ^ 52, 0, .atomic 5 0 1 0⟩ ∧ s.eccBad 0x1FF8 8 = true) ∧
    (let s := msg (m8 (2 ^ 52)) ((s0.setReg 0 0x500000 1).setReg 0 0x500010 1); okB (atHome .rsv 0 8 false true s) (· == 2 ^ 52) = true) := by decide +kernel
theorem witness_PerformedValues : s0.MemOk ∧ (2 ^ 64 - 1 : Nat) < 2 ^ 64 := ⟨rfl, by decide⟩

/-- An access outstanding in slot 0 of tile 0 under tag 9, and the message that answers it. -/
def sA (kind : PendKind) (m : Msg) : State := msg { m with tag := 9 } (sP [⟨9, 0, 0x1000, 0x1000, kind⟩])
theorem witness_AnswersFillRegisters :
    let found (kind : PendKind) (m : Msg) : Prop := ((sA kind m).slot ((sA kind m).msg.dst % 4096) (sA kind m).msg.slot).getPend (sA kind m).msg.tag = some ⟨9, 0, 0x1000, 0x1000, kind⟩
    found (.load 5 8 false) Msg.zero ∧ found (.load 5 1 true) Msg.zero ∧ found (.segld 3 1 2 0) Msg.zero ∧ (found (.store 4) Msg.zero ∧ found .released Msg.zero ∧ isComputeTile 0 = true ∧ isMcUnit 0 = false) ∧ found (.atomic 5 12 1 0) Msg.zero ∧ found (.post 5 1 true) Msg.zero ∧
    (found (.load 5 8 false) { Msg.zero with attr := 7 } ∧ ({ Msg.zero with attr := 7 } : Msg).attr.toNat % 16 = 7 ∧ ({ Msg.zero with attr := 5 } : Msg).attr.toNat % 16 = 5 ∧ 1 ≤ ({ Msg.zero with attr := 5 } : Msg).attr.toNat % 16 ∧ (sA (.load 5 8 false) Msg.zero).msg.tag ≠ ctxTag ∧ ((sA (.load 5 8 false) Msg.zero).slot 0 0).isVisitor = false) := by decide +kernel

def sh0 : Shadow := ⟨3, 0, true, 0x200, 0x104, [(3, 0)], 0xFFFFFFFF, 0, 0, 0x800, 0, 1, 0, 0⟩
def sV (h : Slot) : State := one h
theorem witness_SlotEvents_causes :
    let ok (h : Slot) : Prop := ((sV h).slot (sV h).arg.t (sV h).arg.k).isReady = true ∧ ((sV h).slot 0 0).fenced = false ∧ ((sV h).slot 0 0).shadow = none ∧ ((sV h).slot 0 0).isVisitor = false
    (ok { th0 with pendMchk := some 2 }) ∧ ok { th0 with pendRange := [(0x81, 0)] } ∧ ok { th0 with pendLock := some 1 } ∧ (ok { th0 with pendTimer := true } ∧ stINH th0.st = false) := by decide +kernel
theorem witness_SlotEvents_others :
    ((sV { th0 with run := .blocked .register }).slot 0 0).run = .blocked .register ∧ Block.register ≠ .dividing ∧ Block.register ≠ .answer ∧ Block.register ≠ .leaf ∧ Block.register ≠ .drain ∧ (∀ mask scope, Block.register ≠ .fencing mask scope ∧ Block.register ≠ .implicit mask scope) ∧
    (s0.modSlot 0 0 (fun h => { h with pendTimer := true })).visitorOf (s0.ctxName 0 0) = none ∧
    (let s : State := (s0.modTile 0 (fun T => { T with locks := [⟨0, 1, 0⟩] })).modDie 0 (fun D => { D with cycle := 4096 }); (s.tile 0).locks.find? (fun l => l.slot == 0 && decide (l.since + 4096 ≤ s.clock 0)) = some ⟨0, 1, 0⟩) :=
  ⟨by decide +kernel, by decide, by decide, by decide, by decide, by simp, by decide +kernel, by decide +kernel⟩
/-- A thread in a FENCE of scope 0 over path 0, with the accesses of `l` outstanding. -/
def sFn (l : List Pend) : State := sV { th0 with pend := l, run := .blocked (.fencing 1 0) }
theorem witness_SlotEvents_fence :
    let ok (s : State) : Prop := (s.slot s.arg.t s.arg.k).run = .blocked (.fencing 1 0) ∧ (s.slot s.arg.t s.arg.k).frozen = false ∧ (s.slot s.arg.t s.arg.k).cbuf = []
    let inside (l : List Pend) : Slot := { th0 with pend := l, run := .blocked (.implicit 1 0) }
    (ok (sFn []) ∧ (sFn []).fenceWaits 1 0 = false) ∧ (ok (sFn [pSt]) ∧ (sFn [pSt]).fenceWaits 1 0 = true) ∧
    (inside []).run = .blocked (.implicit 1 0) ∧ (inside []).frozen = false ∧ (inside []).cbuf = [] ∧ (sV (inside [])).fenceWaits 1 0 = false ∧ (sV (inside [pSt])).fenceWaits 1 0 = true := by decide +kernel
theorem witness_BranchResolution : ((sV { th0 with shadow := some sh0 }).slot 0 0).shadow = some sh0 ∧ sh0.fe.getLsbD sh0.reg = true ∧ sh0.poison.getLsbD sh0.reg = false ∧ th0.mismatch = 0 ∧ ((sV { th0 with shadow := some sh0 }).slot 0 0).cbuf = [] ∧
    condHolds sh0.cond (mget 0 sh0.g sh0.reg) = sh0.taken ∧ condHolds ({ sh0 with taken := false } : Shadow).cond (mget 0 sh0.g sh0.reg) ≠ ({ sh0 with taken := false } : Shadow).taken := by decide +kernel
theorem witness_RegisterEvents_writes :
    (ev { k := 0, n := 0x5005 } s0).arg.k = 0 ∧ (ev { k := 2 } s0).arg.k = 2 ∧ (ev { k := 3 } s0).arg.k = 3 ∧
    (let on (n : Nat) : BitVec 64 := BitVec.ofNat 64 (0xFFFFFFFF * (if csrHigh (n % 0x1000) = true then 2 ^ 32 else 1))
     let wr (n : Nat) : Bool := BitVec.ofNat 64 (csrRw 2 (csrBase (n % 0x1000)) ||| csrW1c 2 (csrBase (n % 0x1000))) &&& on n != 0
     (List.range 0x100).any (fun i => decide (0x300 ≤ csrBase (0x300 + i)) && wr (0x300 + i)) = true ∧ (List.range 0x100).any (fun i => decide (0x300 ≤ csrBase (0x300 + i)) && !wr (0x300 + i)) = true) ∧
    (windowOf 0x30 = none ∧ windowOf 0x121020 = none ∧ 0x30 % 4 = 0) ∧
    (let x : BankTick := ⟨(s0.die 0).cycle, 0, [(2, 1)]⟩; x.cycle = (s0.die 0).cycle ∧ x.events ≠ [] ∧ x.base.getLsbD 0 = false ∧ (mget BankTick.none (s0.die 0).bankIn 0).events = []) ∧
    (let ok (off : Nat) : Bool := decide (off < 2 ^ 29) && decide (off % 2 ^ 28 % 8 = 0) && windowOf (off % 2 ^ 28) == none
     (ok 0 = true ∧ ok 0x14000 = true ∧ ok 0x26000 = true ∧ ok 0x122000 = true ∧ ok 0x1800000 = true) ∧ ok 0x10008 = true ∧ ok 0x121FF8 = true ∧ ok 0x13FF8 = true ∧ ok 0x20000 = true ∧ ok 0x25FF8 = true ∧ (ok 0x800000 = true ∧ ok 0x17FFFF8 = true)) := by decide +kernel
theorem witness_RegisterEvents_pieces :
    windowOf 0x27000F = some (0x270000, 16) ∧
    (let b : Staging := ⟨0x270000, 1, [(0, 9)], 0⟩
     let sB (l : List Staging) : State := s0.modDie 8 (fun D => { D with staging := l })
     ((sB [b]).die 8).staging.find? (fun b => b.win == 0x270000 && b.writer == 1) = some b ∧
     (((sB []).die 8).staging.find? (fun b => b.win == 0x270000 && b.writer == 1) = none ∧ ((sB []).die 8).staging.length < 32) ∧
     (let l := (List.range 32).map (fun i => ({ b with writer := i + 2 } : Staging)); ((sB l).die 8).staging.find? (fun b => b.win == 0x270000 && b.writer == 1) = none ∧ 32 ≤ (((sB l).die 8).staging.filter (fun b => b.win == 0x270000)).length)) ∧
    (0 = 0 ∧ (leBytes 16 1).length = 16) ∧ (8 ≤ 16 - 8 ∧ 16 ≤ 8 + (leBytes 8 1).length) ∧ ¬(0 ≤ 16 - 8 ∧ 16 ≤ 0 + (leBytes 8 1).length) := by decide +kernel

/-! ### Witnesses: visitors, messages, walks -/

theorem witness_VisitorEvents_depart : (let h := (s0.modSlot 0 0 (fun h => { h with occ := .visitor, move := some (0x10, 0x1000, 0x1000) })).slot 0 0; h.move = some (0x10, 0x1000, 0x1000) ∧ (∀ p, p ∈ h.pend → p.path ≠ 0) ∧ h.prod = 0 ∧ h.poisoned = none ∧ h.isVisitor = true) ∧
    (let h := (s0.modSlot 0 0 (fun h => { h with move := some (0x10, 0x1000, 0x1000) })).slot 0 0; h.move = some (0x10, 0x1000, 0x1000) ∧ (∀ p, p ∈ h.pend → p.path ≠ 0) ∧ h.prod = 0 ∧ h.poisoned = none ∧ h.isVisitor = false) := by decide +kernel
/-- A packet of slot 0 of tile 0, sent to the tile that holds page 0; and one that comes back. -/
def mCtx (dst : Nat) : Msg := { Msg.zero with dst := dst, pa := 0x1000, len := 319, data := th0.packet 0 false none }
def sCtx (f : Tile → Tile) : State := msg (mCtx 0x10) (pt (s0.modTile 0x10 f))
def tCtx : Nat := (sCtx id).ctxTarget (sCtx id).msg
def sCtxT (f : Tile → Tile) : State := ev { msg := mCtx 0x10, t := tCtx } (pt (s0.modTile tCtx f))
def full (T : Tile) : Tile := { T with slots := (List.range 8).map (fun k => (k, th0)) }
def takenIn (s : State) : Bool :=
  let m := s.msg; let t := s.ctxTarget m; let pa := s.canon m.pa
  !(ctxPkg (pkOrigin m.data) == s.pkg && m.dst == ctxEid (pkOrigin m.data)) && isComputeTile t && s.decodes (vdOf t) pa && s.asidLive (vdOf t) m.asid && !s.partitionGone t pa && !s.settlingPart pa
theorem witness_VisitorEvents_arrive :
    (let s := msg (mCtx 0) s0; ctxPkg (pkOrigin s.msg.data) = s.pkg ∧ s.msg.dst = ctxEid (pkOrigin s.msg.data) ∧ stPARK (pkWord s.msg.data 4) = 0) ∧
    (let s := sCtxT id; takenIn s = true ∧ (s.tile (s.ctxTarget s.msg)).visq = [] ∧ (s.tile (s.ctxTarget s.msg)).freeSlot = some 0) ∧
    (let s := sCtxT full; takenIn s = true ∧ (s.tile (s.ctxTarget s.msg)).freeSlot = none ∧ (s.tile (s.ctxTarget s.msg)).visq.length < 4) ∧
    (let s := sCtxT (fun T => { T with visq := List.replicate 4 (0, mCtx 0x10) }); takenIn s = true ∧ (s.tile (s.ctxTarget s.msg)).visq ≠ [] ∧ 4 ≤ (s.tile (s.ctxTarget s.msg)).visq.length) ∧
    (let s := sCtxT (fun T => { T with visq := [(0, mCtx 0x10)] }); (s.tile s.arg.t).visq = [(0, mCtx 0x10)] ∧ (s.tile s.arg.t).freeSlot = some 0 ∧ (s.tile s.arg.t).visq.any (fun q => q.2 == s.msg) = true) := by decide +kernel
theorem witness_VisitorEvents_home : (let s := msg { Msg.zero with dst := 0 } (s0.modSlot 0 0 (fun h => { h with occ := .reserved })); (s.slot (s.msg.dst % 4096) s.msg.slot).occ = .reserved) ∧
    (let h := (s0.modSlot 0 0 (fun h => { h.parkAs pVISITOR 0 with occ := .thread })).slot 0 0; h.occ = .thread ∧ h.run = .parked ∧ stPARK h.st = pVISITOR) ∧
    (let h := (s0.modSlot 0 0 (fun h => { h with occ := .visitor, quantum := 4096 })).slot 0 0; h.isVisitor = true ∧ h.run = .ready ∧ 4096 ≤ h.quantum) := by decide +kernel

def mD : Msg := { Msg.zero with dst := 0, attr := 1, len := 7 }
theorem witness_MessageEvents_words :
    (let s := msg mD s0; let t := s.msg.dst % 4096; let ch := s.msg.attr.toNat % 32; isComputeTile t = true ∧ s.fwdSlot t (ch / 4) s.msg.asid = none ∧ s.settling t (ch / 4) = false ∧ s.mailing t (ch / 4) = false ∧ (s.slot t (ch / 4)).asid = s.msg.asid ∧ (s.fifo t ch).length < 4 ∧
      (∀ q, q ∈ (s.tile t).msgq → msgKind q.2 = 0 → msgCh q.2 ≠ ch) ∧ (s.tile t).msgq.length < 32 ∧ s.msg.aux0.getLsbD 31 = false) ∧
    (let s := msg mD (s0.modTile 0 (fun T => { T with fifos := [(1, List.replicate 4 mD)] })); 4 ≤ (s.fifo 0 1).length ∧ (s.tile 0).msgq.length < 32 ∧ (s.slot 0 0).asid = s.msg.asid ∧ s.fwdSlot 0 0 s.msg.asid = none) := by decide +kernel
/-- A reader of channel 1 parked SYNCREAD for as long as RDRY. -/
def sDry : State := (s0.modSlot 0 0 (fun h => { h.parkAs pSYNCREAD 0 with chmap := 15, parkReg := 29 })).modDie 0 (fun D => { D with cycle := 4096 })
theorem witness_MessageEvents_recast : (let s := msg { Msg.zero with aux0 := 3 } sDry; isComputeTile 0 = true ∧ s.settling 0 0 = false ∧ s.fwdSlot 0 0 s.msg.asid = none ∧ (s.tile 0).rolectl.toNat / 4 % 8 = 0 ∧ s.dry 0 0 = true ∧ s.msg.aux0.toNat % 2 ^ 32 = 3 ∧ spaceOf 96 = 0 ∧ (s.tile 0).roletb.toNat % 2 ^ 56 + 32 * 3 = 96 ∧ s.decodes 0 96 = true ∧ s.eccBad 96 24 = false) ∧ s0.dry 0 0 = false := by decide +kernel
theorem witness_MessageEvents_wakes :
    (let s := msg { Msg.zero with tag := 9 } (sP [⟨9, 0, 0, 0, .send⟩]); (s.slot (s.msg.dst % 4096) s.msg.slot).getPend s.msg.tag = some ⟨9, 0, 0, 0, .send⟩) ∧
    (let s := msg Msg.zero (s0.modSlot 0 0 (fun h => h.parkAs pPARK 0)); isComputeTile 0 = true ∧ s.msg.slot < 7 ∧ s.fwdSlot 0 0 s.msg.asid = none ∧ s.settling 0 0 = false ∧ (s.slot 0 0).occ = .thread ∧ wakeAllowed s.msg (s.slot 0 0).asid = true ∧ (s.slot 0 0).run = .parked ∧ stPARK (s.slot 0 0).st = pPARK) ∧
    (s0.slot 0 0).run = .ready ∧
    (let s := msg { Msg.zero with aux0 := 0xFFFF } (s0.modTile 0 (fun T => { T with rq := [⟨0xFFFF, 0, true, 0⟩] })); (s.tile 0).rq.find? (fun e => e.tag == s.msg.aux0.toNat % 2 ^ 16) = some ⟨0xFFFF, 0, true, 0⟩) ∧
    ((s0.tile 0).rq.find? (fun e => e.tag == 0) = none ∧ (s0.tile 0).latch.contains 0 = false ∧ (s0.tile 0).latch.length < 8) ∧
    (let s := msg Msg.zero (s0.modSlot 0 0 (fun h => h.parkAs pPAGE 0)); let h := s.slot 0 0; h.occ = .thread ∧ h.crewid = BitVec.ofNat 32 s.msg.aux1.toNat ∧ s.crewAt 0 (BitVec.ofNat 32 s.msg.aux1.toNat).toNat = none ∧ s.settling 0 0 = false ∧ parkedFault h = true ∧ s.msg.aux0.getLsbD 17 = false) ∧
    (let d := (0x100000000 : Nat); d / 2 ^ 27 % 2 ^ 5 = 0 ∧ d / 2 ^ 33 % 2 ^ 31 = 0 ∧ d / 2 ^ 96 % 2 ^ 32 = 0) := by decide +kernel

def trIs (x : Tr × State) (k : Nat) : Bool :=
  match x with
  | (.ok _ _, _) => k == 0
  | (.fault _ _ _ _, u) => k == 1 && (u.slot 0 0).run == .ready
  | (.walkWait, u) => k == 2 && (u.slot 0 0).run == .ready
  | _ => false
/-- A table entry under migration (bit 58). -/
def sWalkWait : State := { pt s0 with mem := wrLE (pt s0).mem 0x100000 8 (0x101001 + 2 ^ 58) }
theorem witness_WalkAndInvalidationEvents_walk : trIs ((pt s0).translate 0 0 0x5000 1) 0 = true ∧ trIs (s0.translate 0 0 0x5000 1) 1 = true ∧ trIs (sWalkWait.translate 0 0 0x5000 1) 2 = true := by decide +kernel
/-- Table 2 lies in another package; what its home has sent of one entry, or nothing. -/
def sOr (l : List NodeRead) : State := { ((pt s0).modDie 0 (fun D => { D with frt := [(1, 0x3FFFFFFFF)] })).modTile 0 (fun T => { T with nodes := l }) with mem := wrLE (pt s0).mem 0x100000 8 (4 * 2 ^ 52 + 2 ^ 40 + 0x101001) }
def pOr : Nat := 4 * 2 ^ 52 + 2 ^ 40 + 0x101000
theorem witness_WalkAndInvalidationEvents_leaf_elsewhere : ((sOr [⟨0, 0x5000, pOr, 0x1F⟩]).translate 0 0 0x5000 1).1 = .orWait 0x1F 3 pOr ∧ ((sOr []).translate 0 0 0x5000 1).1 = .askWait pOr := by decide +kernel
def inv0 : Inv := ⟨0, BitVec.ofNat 512 (64 * 2 ^ 128), 1, none⟩
def sInvd (v : Inv) : State := msg { Msg.zero with dst := 0x800 } (s0.modDie (eidDie 0x800) (fun D => { D with invs := [v] }))
theorem witness_WalkAndInvalidationEvents_queued : (let s := ev { t := 0, desc := 1 } (s0.modDie 8 (fun D => { D with invs := [inv0] })); cwUsable s (iodVd s.arg.t) (invCw s.arg.desc.toNat) = true ∧ (s.die (iodVd s.arg.t)).invs ≠ []) := by decide +kernel
theorem witness_WalkAndInvalidationEvents_forwarded : (let m : Msg := { Msg.zero with dst := 0x008, aux0 := 1 }; let s := msg m s0; m ≠ Msg.zero ∧ s.arg.ok = true ∧ eidDie m.dst < 4 ∧ (((s.dropTlb 0 (descOf m))).die 0).drains = [] ∧ s.flying (eidDie m.dst) = []) ∧
    (let m : Msg := { Msg.zero with dst := 0x008, aux0 := 1 }; let s := msg m (sP [pSt]); s.flying 0 = [(0, 0, 1)] ∧ (((s.dropTlb 0 (descOf m))).die 0).drains = [] ∧
      ((s.dropTlb 0 (descOf m)).modDie 0 (fun D => { D with drains := D.drains ++ [⟨m, s.flying 0⟩] })).stillFlying (0, 0, 1) = true) ∧ 4 ≤ eidDie 0x800 := by decide +kernel
theorem witness_WalkAndInvalidationEvents_done : ((sInvd inv0).die (eidDie 0x800)).invs = inv0 :: [] ∧ inv0.left ≤ 1 ∧ inv0.desc.getLsbD 2 = false ∧
      ({ inv0 with desc := 4 } : Inv).desc.getLsbD 2 = true ∧ 1 < ({ inv0 with left := 2 } : Inv).left := by decide +kernel
theorem witness_WalkAndInvalidationEvents_wake :
    (s0.wakeWalks.die s0.arg.t).invs = [] ∧ (let s := ev { t := 8 } (s0.modDie 8 (fun D => { D with invs := [{ inv0 with left := 0 }] })); (s.wakeWalks.die s.arg.t).invs = [{ inv0 with left := 0 }]) := by decide +kernel
/-- A fault queue of 16 records at 0x200000, enabled. -/
def sFq : State := msg { Msg.zero with dst := 0x800, data := List.replicate 32 0 } ((s0.setReg 0 0x180000 (4 * 2 ^ 56 + 0x200000)).setReg 0 0x180018 1)
theorem witness_WalkAndInvalidationEvents_frec : (let s := sFq; let io := iodOf (eidDie s.msg.dst); (s.reg io 0x180018).testBit 0 = true ∧ (s.reg io 0x180008 % 2 ^ 32 + 2 ^ 32 - s.reg io 0x180010 % 2 ^ 32) % 2 ^ 32 < 2 ^ (s.reg io 0x180000 / 2 ^ 56 % 32) ∧ s.decodes (eidDie s.msg.dst) 0x200000 = true) ∧
    (s0.reg 0 0x180018).testBit 0 = false ∧ (let s := msg Msg.zero (s0.modTile 0 (fun T => { T with frecs := [Msg.zero] })); s.msg ∈ (s.tile s.arg.t).frecs) := by decide +kernel
/-- One page of ASID 0 listed at 0x300000, copied to space 2. -/
def dSweep : Desc := BitVec.ofNat 512 (0x300000 * 2 ^ 64 + 1 * 2 ^ 128 + 2 * 2 ^ 52 * 2 ^ 192 + 0x310000 * 2 ^ 256 + 0x320000 * 2 ^ 320)
/-- Engine 3 of vd 8 in a sweep, with the answer `bs` to its read of `pa`. -/
def sSwp (w : Sweep) (pa : Nat) (bs : List Byte) : State :=
  ev { t := 0, n := 3, k := 2, ok := false } (s0.modDie 8 (fun D => { D with sweeps := [w], outs := [⟨35, 1, 5, pa, bs.length, 0, noCtx, false, sweepGo 8 3, some (bs, 0)⟩] }))
theorem witness_WalkAndInvalidationEvents_sweep : (let s := ev { t := 0, desc := dSweep } s0; s.arg.ok = true ∧ ((s.die (iodVd s.arg.t)).sweeps.any (fun w => w.eng == s.arg.n + 8 * s.arg.k)) = false ∧ swMalformed s (iodVd s.arg.t) s.arg.desc.toNat = false) ∧
    (let w : Sweep := { eng := 3, desc := dSweep, stage := 2, pages := [(0, 0, 12)], src := 0x5000 }
     let s := sSwp w 0x5000 (leBytes 256 7); let u := sweepUnit 8 3 w
     (s.die (iodVd s.arg.t)).sweeps.find? (fun w => w.eng == s.arg.n) = some w ∧ s.arg.ok = false ∧ s.arg.k ≠ 0 ∧ s.unitBad u = none ∧ w.moved < 2 ^ (w.pages.headD (0, 0, 12)).2.2 ∧ s.unitGot u (w.src + w.moved) = some (leBytes 256 7, 0)) ∧
    (let w : Sweep := { eng := 3, desc := dSweep, stage := 4, pages := [(0, 0, 12)] }
     let pa := s0.canon (swBmap dSweep.toNat + w.i / 8); let s := sSwp w pa [0]; let u := sweepUnit 8 3 w
     (s.die (iodVd s.arg.t)).sweeps.find? (fun w => w.eng == s.arg.n) = some w ∧ s.unitBusy u = false ∧ s.unitGot u pa = some ([0], 0)) := by decide +kernel

/-! ### Witnesses: copies, engines, launches -/

def emOk {α : Type} (x : EM α) (p : α → Bool) : Bool :=
  match x with
  | .ok a => p a
  | .error _ => false
def allMoved (r : CopyRun) (n : Nat) : Bool := decide (r.moved = n) && r.stop.isNone
theorem witness_CopyEvents_start : (let s := ev { t := 0, k := 0 } (sLad (fun L => { L with waiting := [copy0] })); ((s.tile s.arg.t).ladle s.arg.k).active = none ∧ ((s.tile s.arg.t).ladle s.arg.k).waiting = copy0 :: []) := by decide +kernel
/-- The copy with one byte left, so that the part that moves is that byte. -/
def copy1 : Copy := { copy0 with k := copy0.total - 1, bytes := 0 }
def sSeg (c : Copy) : State := ev { t := 0, k := 0 } (pt (sLad (fun L => { L with active := some c })))
theorem witness_CopyEvents_segment : (let s := sSeg copy1; ((s.tile s.arg.t).ladle s.arg.k).active = some copy1 ∧ copy1.stopped = 0 ∧ copy1.err = 0 ∧ copy1.again = [] ∧ (s.die (vdOf s.arg.t)).stopped = false ∧ (s.slot s.arg.t copy1.slot).frozen = false ∧ copy1.k < copy1.total ∧
      min (256 - copy1.k % 256) (copy1.total - copy1.k) = 1 ∧ allMoved (copyMove (copy1.who s.arg.t s.arg.k) 2 copy1 (if copy1.drain then [] else s.arg.bytes) copy1.k 1 s.freshWord.2) 1 = true) := by decide +kernel
/-- Whatever the part that moves, the copy's next access tells how it ends. -/
theorem copyMove_index_stop {w : EngWho} {c : Copy} {d : List Byte} {k n : Nat} {s s1 : State} {st : EStop} (h : copyIndex w c (k / c.count 0) s = .error (st, s1)) :
    (copyMove w (1 + n + 1) c d k (1 + n) s).stop = some st := by
  simp [copyMove, h]
def emErr {α : Type} (x : EM α) (e : EStop) : Bool :=
  match x with
  | .error (st, _) => st == e
  | .ok _ => false
/-- A gather of rows of 64 bytes at its second row, whose index, 9, is above IDXMAX = 3 (R49). -/
def copyG : Copy := { (one thGather).newCopy (captureSet 0 (one thGather).th) 0 with k := 64 }
def sGx : State := let s := one thGather; (s.modLadle 0 0 (fun L => { L with active := some copyG })).homeWrite (s.spPa 0 0x100) (leBytes 8 (2 + 9 * 2 ^ 32))
theorem witness_CopyEvents_error : (let s := ev { t := 0, k := 0 } sGx
    ((s.tile 0).ladle 0).active = some copyG ∧ copyG.stopped = 0 ∧ copyG.err = 0 ∧ copyG.again = [] ∧ copyG.k < copyG.total ∧ emErr (copyIndex (copyG.who 0 0) copyG (copyG.k / copyG.count 0) s.freshWord.2) (.err eGATHERIDX) = true ∧ eGATHERIDX ≠ eTAG) := by decide +kernel
/-- A fill whose byte arrives damaged (the segment's bytes as they came are the event's). -/
theorem witness_CopyEvents_tag : (let s : State := { sSeg copy1 with arg := { t := 0, k := 0, bytes := [1] } }
    copy1.drain = false ∧ (copyMove (copy1.who 0 0) 2 copy1 s.arg.bytes copy1.k 1 s.freshWord.2).stop = some (.err eTAG) ∧ ((s.tile 0).ladle 0).retried = false ∧ (({ (s.tile 0).ladle 0 with retried := true } : Ladle).retried = true)) := by decide +kernel
theorem witness_CopyEvents_end : (let c : Copy := { copy0 with k := copy0.total }; let s := ev { t := 0, k := 0 } (sLad (fun L => { L with active := some c })); ((s.tile s.arg.t).ladle s.arg.k).active = some c ∧ c.ending s.arg.ok = 0 ∧ c.total ≤ c.k ∧ s.remoteBusy s.arg.t c.slot 1 s.arg.k = false ∧
      emOk (engPost (c.who s.arg.t s.arg.k) c.cwen (opPlace false (c.seg (c.ctl 16 3)) ((c.reg 3 % 2 ^ 32 : Nat) : Int)) (c.reg 4) false s) (fun _ => true) = true) := by decide +kernel
def xcopy0 : Copy := sQ.newCopy (xcopyRegs (leNat xcopyBytes)) 0
/-- The package copy engine has what it asked for. -/
def sXc : State := ev { t := 1, k := 5, v := 2 } (sQ.modDie 1 (fun D =>
  { D with
    copyq := [(2, xcopy0)]
    outs := [⟨0x20, 1, 5, 3 * 2 ^ 52 + 0x400, 64, 0, noCtx, false, copyEvent 1 2, some (List.replicate 64 0, 0)⟩] }))
theorem witness_CopyEvents_engine : (let s := sXc; (s.die s.arg.t).copyHead s.arg.v = some xcopy0 ∧ s.unitBad (xcopy0.unit s.arg.t s.arg.v) = none ∧ (s.die s.arg.t).stopped = false ∧ (s.copyOwner xcopy0).all (fun o => !(s.slot o.1 o.2).frozen) = true ∧ xcopy0.stopped = 0 ∧ xcopy0.err = 0 ∧ xcopy0.k < xcopy0.total ∧
      (copyMove (xcopy0.xwho s.arg.t s.arg.v) (min (65536 - xcopy0.k % 65536) (xcopy0.total - xcopy0.k) + 1) xcopy0 [] xcopy0.k (min (65536 - xcopy0.k % 65536) (xcopy0.total - xcopy0.k)) s).stop = none) := by decide +kernel

/-- A matrix queue that holds one command: MZERO of bank 0, or one done with all its steps. -/
def cZero : EngCmd := sM.newCmd opMZERO 1 0 0 [] 0 []
def cMma : EngCmd := sM.newCmd opMMA 0x400 0x800 0 sM.th.mx 0 []
def sEng (c : EngCmd) : State := ev { t := 0, k := 0 } (sM.modTile 0 (fun T => { T with mq := [c] }))
theorem witness_EngineEvents_step : (let s := sEng cZero; (s.tile s.arg.t).engq s.arg.k = cZero :: [] ∧ s.arg.k < 2 ∧ cZero.stopped = 0 ∧ (s.slot s.arg.t cZero.slot).frozen = false ∧ cZero.op ≠ opSHARE ∧ cZero.err = 0 ∧ (s.die (s.arg.t / 256)).stopped = false ∧ cZero.step < cZero.steps s.arg.k ∧ cZero.cancelled = false ∧
      s.gangReady s.arg.t cZero = true ∧ cZero.ask = false ∧ s.arg.ok = true ∧ emOk (matrixStep cZero s.arg.t (s.unask s.arg.t s.arg.k cZero)) (fun _ => true) = true) ∧
    (cMma.checked = true ∧ cMma.replayed = false ∧ cMma.step < cMma.steps 0) ∧
    (let c : EngCmd := { cZero with step := cZero.steps 0 }; let s := sEng c; c.steps s.arg.k ≤ c.step ∧ (c.who s.arg.t s.arg.k).busy s = false ∧ emOk (endPosts c s.arg.t s.arg.k s) (fun q => q.1 == 0) = true) := by decide +kernel
/-- A tile task on FP32 operands with nothing to wait for. -/
def taskRec0 : TaskRec := ⟨0, [], 0, 0, 0, 0, 0, 1, leBytes 64 (1 * 2 ^ 240 + 1 * 2 ^ 269 + 1 * 2 ^ 273 + 1 * 2 ^ 277)⟩
theorem witness_EngineEvents_task : (let s := ev { t := 0, k := 3 } (s0.modDie 0 (fun D => { D with tasks := [(3, taskRec0)] })); let u := s.taskWatches s.arg.t s.arg.k;
      (u.die s.arg.t).stopped = false ∧ (u.die s.arg.t).tasks.find? (fun q => q.1 == s.arg.k && q.2.wait.isEmpty) = some (3, taskRec0) ∧ taskRec0.bad = 0 ∧ taskRec0.malformed = false ∧ (u.taskTile s.arg.t s.arg.k).isSome = true) := by decide +kernel
theorem witness_EngineEvents_power : (let s := s0.modDie 0 (fun D => { D with powerq := [(5, 0, 100)], pcap := 100, plimit := 1, pwr := 999 }); let D := s.die 0; D.powerq = (5, 0, 100) :: [] ∧ D.pleave.toNat + 100 ≤ D.pcap.toNat ∧ D.pwr.toNat < 1000 * D.plimit.toNat) ∧ (s0.die 0).pleave = 0 ∧
    (let s := ev { t := 3, v := 500000, n := 2200 } s0; let v := s.modDie s.arg.t (fun D => { D with pwr := BitVec.ofNat 32 s.arg.v }); s.arg.t < 4 ∧ (v.die s.arg.t).powerq = [] ∧ 2000 ≤ dieMhz (v.die s.arg.t)) ∧
    (let w (D : Die) : Die := { D with vfstat := 0x514B0 }; dieMhz ((s0.modDie 0 w).die 0) < 2000) ∧ (840 < 919 ∧ 919 < 920) ∧
    (let s := ev { t := 0, k := 8, v := 9 } (sV { th0 with pend := [⟨9, 14, 0, 0, .value 6 true 7⟩], prod := 0xC0 }); (s.slot s.arg.t s.arg.n).getPend s.arg.v = some ⟨9, 14, 0, 0, .value 6 true 7⟩ ∧ (s.slot s.arg.t s.arg.n).prod.getLsbD 6 = true) := by decide +kernel

/-- Queue 0 of vd 8 is valid, asid 0, of 16 records at 0x5000, one record placed; 256 crews are allowed; the kernel at 0x400 has one thread. -/
def recBytes : List Byte := leBytes 128 (segS.toNat + { segM with x := true }.toNat * 2 ^ 128 + 0x400 * 2 ^ 256 + 1 * 2 ^ 400)
def sLu0 : State :=
  let s := pt s0
  let s := { s with mem := wrLE (wrLE s.mem 0x400 8 (1 + 0x100 * 2 ^ 32)) 0x5000 128 (leNat recBytes) }
  ((((s.setReg 0 0x100000 (1 + 4 * 2 ^ 13)).setReg 0 0x100008 0x5000).setReg 0 0x100010 (1 * 2 ^ 16)).setReg 0 0x100018 (16 * 2 ^ 42 + 0x100 * 2 ^ 24)).setReg 0 0x120000 256
def goodIs (c : Checked) : Bool := match c with | .good _ _ => true | _ => false
def badIs (c : Checked) : Bool := match c with | .bad _ _ => true | _ => false
theorem witness_LaunchEvents_doorbell : (let s := ev { t := 0, k := 0, v := 16 } sLu0; let v := iodVd s.arg.t; s.arg.v < 65536 ∧ s.qV v s.arg.k = true ∧ (s.arg.v + 65536 - s.qHead v s.arg.k) % 65536 ≤ s.qLen v s.arg.k ∧ s.arg.v ≠ s.qTail v s.arg.k ∧ s.qLen v s.arg.k < (17 + 65536 - s.qHead v s.arg.k) % 65536) := by decide +kernel
/-- The launch unit has the record it asked for, or the kernel. -/
def luGot (pa : Nat) (bs : List Byte) (e : Ev) (s : State) : State := s.modDie 8 (fun D => { D with outs := [⟨1, 1, 0, pa, bs.length, 0, noCtx, false, e, some (bs, 0)⟩] })
def sLuGot : State := ev { t := 8, k := 0 } (luGot 0x5000 recBytes (evTK .launchFetch 8 0) sLu0)
theorem witness_LaunchEvents_fetch : (let s := ev { t := 8, k := 0 } sLu0; let pa := s.qRing 8 0 + 128 * (s.qHead 8 0 % s.qLen 8 0); s.msg = Msg.zero ∧ s.arg.n ≠ 1 ∧ s.qHead 8 0 ≠ s.qTail 8 0 ∧ spaceOf pa = 0 ∧ s.decodes 8 pa = true ∧ (s.unitBytes (luUnit 8 0 (evTK .launchFetch 8 0)) pa 128).1 = none) ∧
    (sLuGot.unitBytes (luUnit 8 0 (evTK .launchFetch 8 0)) 0x5000 128).1 = some (.ok recBytes) ∧ (msg { Msg.zero with dst := 0x801 } sLu0).msg ≠ Msg.zero := by decide +kernel
/-- A launch in a unit. -/
def launch0 : Launch := { newLaunch 1 0 recBytes none with crewN := 1, scratch := 0x100, left := 1, state := .ready, since := some 0 }
def sLu (l : Launch) : State := sLu0.modLu 8 (fun L => { L with launches := [l], nextId := 2 })
/-- Its check. -/
def sLuCheck (l : Launch) (got : Bool) : State :=
  let e : Ev := ⟨.launchFetch, { t := 8, n := 1, v := 1 }⟩
  ev { t := 8, n := 1, v := 1 } (if got then luGot 0x400 (leBytes 64 (1 + 0x100 * 2 ^ 32)) e (sLu l) else sLu l)
def checkIs (l : Launch) (got : Bool) : Nat :=
  match (sLuCheck l got).checkLaunch 8 l ⟨.launchFetch, { t := 8, n := 1, v := 1 }⟩ with
  | .again _ => 0
  | .bad _ _ => 1
  | .good _ _ => 2
theorem witness_LaunchEvents_check : (let l : Launch := { launch0 with state := .check }; let s := sLuCheck l true; s.msg = Msg.zero ∧ s.arg.n = 1 ∧ s.launch? s.arg.t s.arg.v = some l ∧ checkIs l true = 2 ∧ checkIs l false = 0 ∧ checkIs { l with bytes := List.replicate 128 0 } true = 1) := by decide +kernel
theorem witness_LaunchEvents_admission : ((ev { t := 8 } (sLu launch0)).arg.n = 0 ∧ ((sLu launch0).lu 8).chosenAt ≠ some ((sLu launch0).clock 8)) ∧
    (let s := (sLu launch0).modLu 8 (fun L => { L with chosenAt := some 0 }); (s.lu 8).chosenAt = some (s.clock 8) ∧ s.timed (evT .admissionChoice 8) = false ∧ (s.after 8 1 (evT .admissionChoice 8)).timed (evT .admissionChoice 8) = true) ∧
    (let s := sLu launch0; let u := (((s.startAges 8).spawnQuota 8).startAges 8).emptyRings 8; (u.admitLevel 8 0).isSome = true) ∧
    (let s := (sLu { launch0 with pl := 1, bytes := leBytes 128 (leNat recBytes + 1 * 2 ^ 368) }); let u := (((s.startAges 8).spawnQuota 8).startAges 8).emptyRings 8; u.admitLevel 8 0 = none ∧ (u.admitLevel 8 1).isSome = true) ∧
    (let u := (((s0.startAges 8).spawnQuota 8).startAges 8).emptyRings 8; ∀ n, n < 4 → u.admitLevel 8 n = none) := by decide +kernel
theorem witness_LaunchEvents_hold : (let l := { launch0 with state := .admitted }; let s := ev { t := 8, k := 1 } (sLu l); s.launch? s.arg.t s.arg.k = some l ∧ l.state = .admitted ∧ s.ep 8 l = 0 ∧ s.arg.n = 0 ∧ l.holds = true ∧ (let l2 : Launch := { launch0 with state := .depWait, deps := [0] }; let s := ev { t := 8, k := 1, n := 1 } (sLu l2); s.launch? s.arg.t s.arg.k = some l2 ∧ s.arg.n = 0 + 1 ∧ l2.state = .depWait ∧ 0 ∈ l2.deps ∧ 2 + 0 ∉ l2.unresolved) ∧
      (let l1 := { launch0 with state := .admitted, bytes := leBytes 128 (leNat recBytes + 1 * 2 ^ 368) }; (sLu l1).ep 8 l1 ≠ 0)) := by decide +kernel
theorem witness_LaunchEvents_dies : (let m : Msg := { Msg.zero with src := 0x801, dst := 0, aux0 := 1 }; let l := { launch0 with state := .sent }; let s := msg m (sLu l); s.launch? (eidDie m.src) m.aux0.toNat = some l ∧ l.mapla = 0) ∧
    (let s := sLu launch0; (s.spots launch0.need 0 1 1 false).isSome = true ∧ s.spots { launch0.need with threads := 7 } 0 16 16 true = none) ∧
    (let l := { launch0 with state := .sent }; let s := msg { Msg.zero with dst := 0x801, aux0 := 0x100000000 } (sLu l); isComputeTile (eidTile s.msg.dst) = false ∧ s.launch? (eidDie s.msg.dst) (s.msg.aux0.toNat / 2 ^ 32 % 2 ^ 32) = some l ∧ l.cancelTo = [] ∧ l.left ≤ 1 ∧ 1 < ({ l with left := 2 } : Launch).left) := by decide +kernel
theorem witness_LaunchEvents_cancel : (let ok (st : LState) : Prop := (let l : Launch := { launch0 with state := st }; let s := ev { t := 0, desc := 1 } ((sLu l).modLu 8 (fun L => { L with chosenAt := some 0 }))
      (s.lu (iodVd s.arg.t)).chosenAt = some (s.clock 8) ∧ s.launch? (iodVd s.arg.t) (s.arg.desc.toNat % 2 ^ 32) = some l)
     ok .ready ∧ ok .sent ∧ ok .running) ∧ (s0.lu 8).chosenAt ≠ some (s0.clock 8) ∧ (s0.admitOnce 8).launch? 8 1 = none := by decide +kernel
/-- A crew of one thread in slot 0 of tile 0. -/
def crew0 : Crew := { id := 1, tile := 0, slots := [0], launch := 1, lu := 8, index := 0, state := 0, err := false, spbase := 0, spsize := 0x400000, osbase := 0, ossize := 0x80000, accmask := 0, savea := 0x40000, recruit := false, mig := none }
def image0 : Image := ⟨0x40000, crew0, [th0], [], [], [], [], [], []⟩
theorem witness_LaunchEvents_readmit : (let s := msg { Msg.zero with dst := 0x801, data := leBytes 64 0x40000 } { sLu launch0 with images := [image0] }; s.images.find? (fun im => im.savea == leNat s.msg.data) = some image0 ∧ (s.lu (eidDie s.msg.dst)).readmit.any (fun c => c.id == image0.crew.id) = false) := by decide +kernel

/-! ### Witnesses: crews, guards -/

def sCrew (c : Crew) (h : Slot) : State := ev { t := 0, k := 1 } ((s0.modSlot 0 0 (fun _ => h)).modDie 0 (fun D => { D with crews := [c] }))
def emptied (s : State) (c : Crew) : State :=
  c.slots.foldl (fun (s : State) k => s.cancelWatches s.arg.t k) ((s.crewEntries c).foldl (fun (s : State) e => s.giveBack c e) (s.modCrew c.vd c.id.toNat (fun c => { c with state := 2 })))
theorem witness_CrewEvents_retire : (let s := sCrew crew0 { th0 with run := .halted, crewid := 1 }; let t := s.arg.t; let u := emptied s crew0;
      s.crewAt (t / 256) s.arg.k = some crew0 ∧ crew0.tile = t ∧ crew0.state = 0 ∧ s.crewLive t crew0.slots = false ∧ u.crewEntries crew0 = [] ∧ u.postReady crew0 = true ∧ (∀ k, k ∈ crew0.slots → ∀ p, p ∈ (u.slot t k).pend → awaited p = false) ∧ u.crewWorks crew0 = false ∧ (u.tile t).div = none) ∧
    (let s := (sCrew crew0 { th0 with run := .halted, crewid := 1 }).modTile 0 (fun T => { T with mq := [{ cZero with crew := 1 }] }); let u := emptied s crew0;
      s.crewLive 0 crew0.slots = false ∧ u.crewWorks crew0 = true ∧ u.timed (evTK .crewRetire 0 crew0.id.toNat) = false) := by decide +kernel
def hFault : Slot := ({ th0 with crewid := 1 } : Slot).parkAs pPAGE 0
theorem witness_CrewEvents_swap : (let s : State := (sCrew crew0 hFault).modDie 0 (fun D => { D with cycle := 0x30D41 }); let hs := crew0.slots.map (s.slot 0); s.crewAt (s.arg.t / 256) s.arg.k = some crew0 ∧ (∀ h, h ∈ hs → h.live = true → h.run = .parked) ∧
      (hs.any (fun h => parkedFault h && decide (h.parkedAt + (s.die 0).swapt.toNat < s.clock 0))) = true ∧ s.inGang crew0 = false ∧ (s.tile 0).fwdRoom = true ∧ crew0.mig = none ∧ s.timers = []) ∧
    (let ok (c : Crew) : Bool := (let s := sCrew c hFault; let q := s.quiesce c
       s.crewAt (s.arg.t / 256) s.arg.k == some c && q.1 && q.2.crewAt c.vd c.id.toNat == some c && !q.2.saving c && q.2.crewLive 0 c.slots && !q.2.partHeld 0 c.spbase c.spsize && decide ((q.2.tile 0).tagsUsed + (0x23100 + c.ossize + c.spsize + 255) / 256 < 65532))
     ok { crew0 with state := 1 } = true ∧ ok { crew0 with state := 1, saved := true } = true) := by decide +kernel
def fwd0 : FwdEntry := { s0.newFwd crew0 false 0x100000 [] 0 0 with spsize := 0x100, ossize := 0 }
def sFwd (l : List FwdEntry) (p : List Ev) : State := msg { Msg.zero with data := leBytes 64 1 } { s0.modTile 0 (fun T => { T with fwd := l }) with pool := p }
def fwdW (s : State) : State := (s.modTile 0 (fun T => { T with fwd := updWhere (fun f => f.crew.toNat == 1 && !f.toTile) (fun f => { f with toTile := true, target := 0, newSlots := [], newSp := 0, newOs := 0, at_ := s.clock 0 }) T.fwd })).after 0 (2 ^ 24) ⟨.forwardExpire, { v := 1 }⟩
def wrIn : Ev := ⟨.wr, { msg := { Msg.zero with pa := 0x123108 } }⟩
theorem witness_CrewEvents_update : leNat (sFwd [] []).msg.data % 2 ^ 32 = 1 ∧ (sFwd [] []).arg.ok = true ∧ ((sFwd [] []).tile 0).fwd.find? (fun f => f.crew.toNat == 1 && !f.toTile) = none ∧
    ((sFwd [fwd0] []).tile 0).fwd.find? (fun f => f.crew.toNat == 1 && !f.toTile) = some fwd0 ∧ (sFwd [fwd0] []).canon fwd0.target + 0x23100 = 0x123100 ∧ fwd0.ossize + fwd0.spsize = 0x100 ∧
    (fwdW (sFwd [fwd0] [])).writeUnderWay 0x123100 0x100 = false ∧ (fwdW (sFwd [fwd0] [wrIn])).writeUnderWay 0x123100 0x100 = true ∧
    (let s := ev { ok := false, v := 0x123100, n := 0x100 } (sFwd [] []); s.arg.ok = false ∧ s.writeUnderWay s.arg.v s.arg.n = false) ∧
    (let s := ev { ok := false, v := 0x123100, n := 0x100 } (sFwd [] [wrIn]); s.writeUnderWay s.arg.v s.arg.n = true) := by decide +kernel
theorem witness_CrewEvents_return : (let c : Crew := { crew0 with state := 3 }; let s := msg { Msg.zero with tag := 1 } (sCrew c hFault); (s.die (eidDie s.msg.dst)).crews.find? (fun c => c.state == 3 && c.id.toNat % 65536 == s.msg.tag) = some c) ∧
    (let s := ev { k := 1 } { s0 with images := [image0], dies := s0.dies.map (fun p => (p.1, { p.2 with stopped := true })) }; s.images.find? (fun im => im.crew.id.toNat == s.arg.k) = some image0 ∧ s.arg.n = 0 ∧ s.findCrew image0.crew.id.toNat = none ∧ s.homeFor image0.crew = none) ∧
    (let c : Crew := { crew0 with state := 3 }; let s := ev { k := 1, n := 1 } { sCrew c hFault with images := [image0] }; s.images.find? (fun im => im.crew.id.toNat == s.arg.k) = some image0 ∧ s.arg.n = 1 ∧ s.findCrew s.arg.k = some c ∧ c.state = 3) := by decide +kernel
theorem witness_CrewEvents_migration_absent : (let s := ev { t := 0, desc := 7 } (sCrew crew0 hFault); s.arg.ok = true ∧ s.findCrew (s.arg.desc.toNat % 2 ^ 32) = none) := by decide +kernel
theorem witness_CrewEvents_migration_nowhere : (let s := ev { t := 0, desc := 1 } ((sCrew crew0 hFault).setReg 0 0x121020 0); s.findCrew (s.arg.desc.toNat % 2 ^ 32) = some crew0 ∧ crew0.state = 0 ∧ crew0.mig = none ∧ s.migSpot (iodVd s.arg.t) crew0 s.arg.desc = none) := by decide +kernel
theorem witness_CrewEvents_migration : (let s := ev { t := 0, desc := BitVec.ofNat 512 (1 + 2 ^ 32) } (sCrew crew0 hFault); s.findCrew (s.arg.desc.toNat % 2 ^ 32) = some crew0 ∧ (s.migSpot (iodVd s.arg.t) crew0 s.arg.desc).isSome = true) := by decide +kernel

/-- A guard record at 0x1000 (die 0) and a request of slot 0 of tile 0. -/
def mG : Msg := { Msg.zero with pa := 0x1000, src := 0x10, aux0 := 0, aux1 := 1 }
def sGm (r : Nat) (m : Msg) : State := msg m ((s0.modDie 0 (fun D => { D with guards := [0x1000] })).putRec 0x1000 r)
def rFree : Nat := 3 + 0x8 * 2 ^ 224
theorem witness_GuardManagerEvents_acquire :
    (let s := sGm rFree mG; s.canon s.msg.pa = 0x1000 ∧ s.mgrBusy 0 0x1000 = false ∧ s.acqCheck 0 0x1000 s.msg = none ∧ stale (s.rec_ 0x1000) s.msg = false ∧ queueOf s 0 0x1000 = [] ∧ gSTATE (s.rec_ 0x1000) = 0) ∧
    (let s := sGm 0 mG; s.mgrBusy 0 0x1000 = false ∧ (s.acqCheck 0 0x1000 s.msg).isSome = true) ∧
    (let s := sGm rFree { mG with aux1 := 0x401 }; s.acqCheck 0 0x1000 s.msg = none ∧ stale (s.rec_ 0x1000) s.msg = true) ∧
    (let s := sGm (rFree + 8 + 65534 * 2 ^ 160) mG; s.acqCheck 0 0x1000 s.msg = none ∧ gSTATE (s.rec_ 0x1000) = 1 ∧ gSHCOUNT (s.rec_ 0x1000) < 65535 ∧ s.msg.attr.getLsbD 0 = false) ∧
    (let s := sGm (rFree + 16) mG; s.mgrBusy 0 0x1000 = false ∧ s.acqCheck 0 0x1000 s.msg = none ∧ stale (s.rec_ 0x1000) s.msg = false ∧ gSTATE (s.rec_ 0x1000) = 2 ∧ s.msg.attr.getLsbD 2 = false ∧ (s.die 0).gqueue.length < 4096 ∧ ({ mG with attr := 4 } : Msg).attr.getLsbD 2 = true) := by decide +kernel
theorem witness_GuardManagerEvents_release :
    (let s := sGm rFree { mG with attr := 1, aux1 := 0 }; s.msg.attr.getLsbD 4 = false ∧ s.msg.attr.getLsbD 0 = true ∧ msgMap s.msg = 0) ∧ mG.attr.getLsbD 0 = false ∧
    (let s := sGm (rFree + 0xFFFFFFFE * 2 ^ 32) { mG with attr := 1, aux3 := 0x8000000000000000 }; msgMap s.msg ≠ 0 ∧ gVERSION (s.rec_ 0x1000) ≠ 0xFFFFFFFF) ∧
    (let s := sGm (rFree + 0xFFFFFFFF * 2 ^ 32) { mG with attr := 1, aux3 := 0x8000000000000000 }; msgMap s.msg ≠ 0 ∧ gVERSION (s.rec_ 0x1000) = 0xFFFFFFFF) ∧
    (let s := (sGm rFree mG).modDie 0 (fun D => { D with gqueue := [(0, mG)] }); s.msg.attr.getLsbD 3 = false ∧ (queueOf s 0 0x1000).find? (fun q => q.2.src == s.msg.src && q.2.slot == s.msg.slot) = some (0, mG)) ∧
    (queueOf (sGm rFree mG) 0 0x1000).find? (fun q => q.2.src == mG.src && q.2.slot == mG.slot) = none ∧
    (({ mG with attr := 4 } : Msg).attr.getLsbD 2 = true ∧ mG.attr.getLsbD 2 = false ∧ (let o : MgrOp := ⟨0x1000, opDelivered, s0.mgrEid 0x1000, 0, mG⟩; let s := (sGm rFree mG).modDie 0 (fun D => { D with ops := [o] }); (s.die 0).ops.find? (fun o => o.grec == 0x1000 && o.kind == opDelivered && o.req.src == s.msg.src && o.req.slot == s.msg.slot) = some o ∧ o.left = s.mgrEid 0x1000) ∧
    (let o : MgrOp := ⟨0x1000, opDelivered, 0x20, 0, mG⟩; let s := (sGm (rFree + 2 ^ 15 + 0x20 * 2 ^ 128) mG).modDie 0 (fun D => { D with ops := [o] }); o.left ≠ s.mgrEid 0x1000 ∧ gOV (s.rec_ 0x1000) = true ∧ gOWNER (s.rec_ 0x1000) = o.left)) := by decide +kernel
theorem witness_GuardManagerEvents_binit : (let s := msg { mG with aux0 := 0x2000 } s0; let arr := s.canon s.msg.aux0.toNat; s.mgrBusy 0 0x1000 = false ∧ s.isGroup 0 0x1000 = false ∧ (∀ g, g ∈ (s.die 0).groups → overlaps arr 1024 g 64 = false ∧ overlaps arr 1024 (uARRAY (s.rec_ g)) (4 * uCAP (s.rec_ g)) = false) ∧
      s.isGuard 0 0x1000 = false ∧ ((s.die 0).guards.filter (fun g => gASID (s.rec_ g) == s.msg.asid)).length < 2 ^ 18) ∧
    (let s := sGm rFree { mG with aux0 := 0x2000 }; s.isGuard 0 0x1000 = true ∧ s.mgrBusy 0 0x1000 = false ∧ s.isGroup 0 0x1000 = false ∧ (s.die 0).groups = [] ∧ gPOISON (s.rec_ 0x1000) = false) := by decide +kernel
theorem witness_GuardManagerEvents_bind : (let s := sGm 1 mG; s.mgrBusy 0 0x1000 = false ∧ gBOUND (s.rec_ 0x1000) = false ∧ s.msg.attr.getLsbD 2 = false) ∧
    (let s := sGm 1 { mG with attr := 4, data := leBytes 16 (0x4000 + 0x1000 * 2 ^ 64) };
      let ps := (piecesOfData 0x1000 20 s.msg.data).map (fun p => ({ p with pa := s.canon p.pa } : FiltPiece));
      s.mgrBusy 0 0x1000 = false ∧ s.msg.attr.getLsbD 2 = true ∧ s.isGuard 0 0x1000 = true ∧ gINIT (s.rec_ 0x1000) = true ∧ gASID (s.rec_ 0x1000) = s.msg.asid ∧ gPOISON (s.rec_ 0x1000) = false ∧ gBOUND (s.rec_ 0x1000) = false ∧ ps ≠ [] ∧
      ∀ p, p ∈ ps → s.filtered p.pa p.len = false ∧ s.claimed p.pa p.len = false) := by decide +kernel
theorem witness_GuardManagerEvents_unbind : (let s := sGm rFree mG; s.mgrBusy 0 0x1000 = false ∧ s.isGuard 0 0x1000 = true ∧ gINIT (s.rec_ 0x1000) = true ∧ gASID (s.rec_ 0x1000) = s.msg.asid ∧ gPOISON (s.rec_ 0x1000) = false ∧ gSTATE (s.rec_ 0x1000) = 0 ∧ queueOf s 0 0x1000 = [] ∧ gBOUND (s.rec_ 0x1000) = true ∧ gOV (s.rec_ 0x1000) = false) ∧
    (let s := sGm 1 mG; s.mgrBusy 0 0x1000 = false ∧ gSTATE (s.rec_ 0x1000) = 0 ∧ gBOUND (s.rec_ 0x1000) = false) ∧ gSTATE ((sGm (rFree + 8) mG).rec_ 0x1000) ≠ 0 := by decide +kernel
theorem witness_GuardManagerEvents_answers :
    (let o : MgrOp := ⟨0x1000, opServe, 0x10, 0, { mG with attr := 0 }⟩; let s := (sGm rFree mG).modDie 0 (fun D => { D with ops := [o] });
      (s.die 0).ops.find? (fun o => o.grec == 0x1000 && (o.kind == opServe || o.kind == opRedo) && o.left == s.msg.src && o.req.slot == s.msg.slot && o.req.tag == s.msg.tag) = some o ∧ o.req.attr.getLsbD 0 = false) ∧
    (let s := sGm (rFree + 2 ^ 15 + 0x10 * 2 ^ 128) mG; (s.die 0).ops = [] ∧ gOV (s.rec_ 0x1000) = true ∧ gOWNER (s.rec_ 0x1000) = s.msg.src) ∧ gOV ((sGm rFree mG).rec_ 0x1000) = false ∧
    (let o : MgrOp := ⟨0x1000, opRetire, 1, 0, mG⟩; let s := (sGm rFree mG).modDie 0 (fun D => { D with ops := [o] }); (s.die 0).ops.find? (fun o => o.grec == 0x1000 && (o.kind == opRetire || o.kind == opWrap)) = some o ∧ o.left ≤ 1) ∧
    (let o : MgrOp := ⟨0x1000, opWrap, 2, 0, mG⟩; let s := (sGm rFree mG).modDie 0 (fun D => { D with ops := [o] }); (s.die 0).ops.find? (fun o => o.grec == 0x1000 && (o.kind == opRetire || o.kind == opWrap)) = some o ∧ 1 < o.left) ∧
    (let s := msg { mG with pa := 0x4000, aux0 := 0x1000, aux1 := 0x1000 } s0; s.filtered 0x4000 0x1000 = false ∧ (s.die (s.pieceDie 0x4000)).filter.length < (if s.pieceDie 0x4000 < 4 then 4096 else 1024)) ∧
    ({ mG with attr := 4 } : Msg).attr.getLsbD 2 = true ∧ mG.attr.getLsbD 2 = false ∧
    (let o (l : Nat) : MgrOp := ⟨0x1000, opDelivered, l, 0, { mG with attr := 0 }⟩; let s (r l : Nat) := (sGm r mG).modDie 0 (fun D => { D with ops := [o l] }); let mgr := (s rFree 0).mgrEid 0x1000
      let found (r l : Nat) : Bool := ((s r l).die 0).ops.find? (fun o => o.grec == 0x1000 && o.kind == opDelivered && o.req.src == (s r l).msg.src && o.req.slot == (s r l).msg.slot) == some (o l)
      let owned := rFree + 2 ^ 15 + 0x20 * 2 ^ 128
      found rFree mgr = true ∧ (found owned 0x20 = true ∧ (0x20 : Nat) ≠ mgr ∧ gOV ((s owned 0x20).rec_ 0x1000) = true ∧ gOWNER ((s owned 0x20).rec_ 0x1000) = 0x20) ∧
      (found rFree 0x20 = true ∧ gOV ((s rFree 0x20).rec_ 0x1000) = false ∧ (o 0x20).req.attr.getLsbD 0 = false)) := by decide +kernel

/-- A range-table entry of slot 0 of tile 0 for the guard at 0x1000. -/
def rng0 : RngEntry := { st := 0, own := false, sbs := 0, nsbm1 := 0, slots := 1, asid := 0, ver := 0, grec := 0x1000, rbase := 0x4000, spoff := 0x400, bound := true, dirty := 0, reqSlot := 0, rd := 5, isTry := false, known := false, listed := 0, received := 0, granted := false, failedOnce := false, relAt := 0, prev := 0, crc := none, wb := false, demoted := false }
def sRng (e : RngEntry) (m : Msg) : State := msg m (s0.modTile 0 (fun T => { T with rng := [e] }))
theorem witness_GuardTileEvents :
    (let s := sRng rng0 { mG with dst := 0 }; (s.tile 0).rngAt s.msg.slot s.msg.pa = some rng0 ∧ rng0.pending = true) ∧ (s0.tile 0).rngAt mG.slot mG.pa = none ∧
    (let s := sRng rng0 { mG with pa := s0.spPa 0 0x400 }; s.msg.attr.getLsbD 20 = false ∧ (s.tile 0).bankHeld 8 (s.msg.pa % 2 ^ 22) s.msg.data.length = false ∧ (s.tile 0).rng.find? (fun e => e.pending && e.inCopy (s.msg.pa % 2 ^ 22) 1) = some rng0) ∧
    (({ mG with attr := 0x100000 } : Msg).attr.getLsbD 20 = true ∧ ({ mG with attr := 0x400000 } : Msg).attr.getLsbD 22 = true ∧ mG.attr.getLsbD 22 = false) ∧
    (let s := msg { mG with tag := 9 } (sP [⟨9, 0, 0x1000, 0, .guardOp 5 false⟩]); s.msg.memd = false ∧ s.msg.tag ≠ 65535 ∧ s.msg.tag ≠ 65534 ∧ (s.slot 0 s.msg.slot).getPend s.msg.tag = some ⟨9, 0, 0x1000, 0, .guardOp 5 false⟩) ∧
    ((s0.tile 0).ownerEntry mG.pa = none ∧ (s0.tile 0).serveEntry mG.pa = none) ∧
    (let s := msg { mG with tag := 9 } (sP [⟨9, 6, 0x1000, 0, .wb 0x1000⟩]); isComputeTile 0 = true ∧ isMcUnit 0 = false ∧ (s.slot 0 s.msg.slot).getPend s.msg.tag = some ⟨9, 6, 0x1000, 0, .wb 0x1000⟩) ∧
    (let e : RngEntry := { rng0 with st := 2, own := true }; (((sRng e mG).tile 0).ownerEntry mG.pa = some e ∧ ((sRng e mG).tile 0).bankHeld 8 e.spoff e.len = false)) ∧
    (let e : RngEntry := { rng0 with st := 4 }; ((sRng e mG).tile 0).ownerEntry mG.pa = some e ∧ (mapUnits 3 e.size).all (fun u => !((sRng e mG).tile 0).bankHeld 8 (e.spoff + u) 256) = true) ∧ s0.decodes (eidDie mG.dst) (s0.canon mG.pa) = true ∧ s0.reserved (s0.canon mG.pa) 256 = false := by decide +kernel

/-! ### Witnesses: groups, watches, multicast -/

/-- A group record at 0x1000: RELOAD, COUNT and CAP, BST, SPAN and PEND. -/
def rGrp (bst span reload count pend cap : Nat) : Nat := 1 + bst * 2 + span * 2 ^ 12 + reload * 2 ^ 16 + count * 2 ^ 32 + pend * 2 ^ 48 + cap * 2 ^ 64 + 0x80 * 2 ^ 128
def sGrp (r : Nat) (m : Msg) : State := msg m ((s0.modDie 0 (fun D => { D with groups := [0x1000] })).putRec 0x1000 r)
def grpIs (s : State) : Bool := !s.isGuard 0 0x1000 && s.isGroup 0 0x1000
theorem witness_GroupAndWatchEvents_join : (let s := sGrp (rGrp 0 0 1 1 0 4) { mG with asid := 511 }; grpIs s = true ∧ uASID (s.rec_ 0x1000) ≠ s.msg.asid) ∧
    (let s := sGrp (rGrp 0 0 4 4 0 4) mG; grpIs s = true ∧ uASID (s.rec_ 0x1000) = s.msg.asid ∧ uRELOAD (s.rec_ 0x1000) = uCAP (s.rec_ 0x1000)) ∧
    (let s := sGrp (rGrp 1 0 3 3 0 4) mG; grpIs s = true ∧ uASID (s.rec_ 0x1000) = s.msg.asid ∧ uRELOAD (s.rec_ 0x1000) ≠ uCAP (s.rec_ 0x1000) ∧ uBST (s.rec_ 0x1000) = 1) ∧
    (let s := sGrp (rGrp 0 2 3 3 0 4) mG; let r := s.rec_ 0x1000; grpIs s = true ∧ uASID r = s.msg.asid ∧ uRELOAD r ≠ uCAP r ∧ uBST r = 0 ∧ uNARR r + uCOUNT r ≠ uCAP r ∧ s.msg.attr.getLsbD 3 = false ∧ uCOUNT r ≠ 1 ∧ ({ mG with attr := 8 } : Msg).attr.getLsbD 3 = true ∧
      uCOUNT ((sGrp (rGrp 0 2 3 1 0 4) mG).rec_ 0x1000) = 1 ∧ uBST ((sGrp (rGrp 1 0 3 3 0 4) mG).rec_ 0x1000) ≠ 0 ∧ s.msg.attr.toNat / 16 % 8 < uSPAN r ∧ uSPAN r ≤ ({ mG with attr := 0x20 } : Msg).attr.toNat / 16 % 8 ∧ s.arg.ok = true) ∧
    (uPEND ((sGrp (rGrp 1 0 3 3 1 4) mG).rec_ 0x1000) = 1 ∧ 1 < uPEND ((sGrp (rGrp 1 0 3 3 2 4) mG).rec_ 0x1000)) ∧
    (let s := msg { mG with aux1 := 0x2000, aux2 := 4 } s0; s.isGuard 0 0x1000 = false ∧ s.isGroup 0 0x1000 = false ∧ (s.die 0).guards = [] ∧ s.msg.aux2.toNat % 2 ^ 16 ≠ 0 ∧ mG.aux2.toNat % 2 ^ 16 = 0) := by decide +kernel
theorem witness_GroupAndWatchEvents_member :
    (let s (what j : Nat) (a : BitVec 32) := msg { mG with tag := 9, attr := a } (sP [⟨9, 0, 0x1000, 0, .group 5 what j⟩]);
      ((s 0 0 0).slot 0 0).getPend 9 = some ⟨9, 0, 0x1000, 0, .group 5 0 0⟩ ∧ (s 0 0 0).msg.attr.toNat % 16 = 0 ∧ ((s 0 0 0).slot 0 0).freeGmem = some 0 ∧ ((s 1 0 1).slot 0 0).getPend 9 = some ⟨9, 0, 0x1000, 0, .group 5 1 0⟩ ∧
      ((s 2 7 0).slot 0 0).getPend 9 = some ⟨9, 0, 0x1000, 0, .group 5 2 7⟩ ∧ ((s 3 7 0).slot 0 0).getPend 9 = some ⟨9, 0, 0x1000, 0, .group 5 3 7⟩) ∧
    (let s := msg { mG with dst := 0 } (s0.modSlot 0 0 (fun h => { h with gmem := [(3, gmemWord 0x1000 true)] })); s.fwdSlot 0 0 s.msg.asid = none ∧ s.settling 0 0 = false ∧ (s.slot 0 0).member s.msg.pa = some 3 ∧ (s.slot 0 0).arrived 3 = true ∧ (s.slot 0 0).pend = []) ∧
    (let p : Pend := ⟨9, 9, 0x1000, 0x1000, .group 5 3 3⟩; let s := sP [p]; (s.slot 0 0).pend.find? (fun p => p.pa == gmemRec (gmemWord 0x1000 true) && (match p.kind with | .group _ 3 _ => true | _ => false)) = some p) ∧
    (s0.slot 0 0).member mG.pa = none := by decide +kernel
theorem witness_GroupAndWatchEvents_watch : (let s := msg (m8 0x1000) (s0.modDie 0 id); okB (atHome .watchInstall 0 8 false false s) (· == 0x1000) = true ∧ s.decodes 0 0x1000 = true ∧ watchSpace 0x1000 = true ∧ outside 0x1000 = false ∧ cwHit (rdLE s.mem 0x1000 8) 0 = true ∧ cwHit (rdLE s.mem 0x1000 8) (2 ^ 63 - 1) = false ∧
      ((s.die (s.watchDie 0x1000)).watches.filter (fun w => w.req.dst == s.msg.dst)).length < 256) ∧
    (let s := ev { n := 9 } (sP [⟨9, 9, 0x1000, 0x1000, .watch 5 1⟩]); (s.slot s.arg.t s.arg.k).getPend s.arg.n = some ⟨9, 9, 0x1000, 0x1000, .watch 5 1⟩) ∧
    (let s := msg { Msg.zero with tag := 9 } (sP [⟨9, 0, 0x1000, 0x1000, .watch 5 1⟩]); isComputeTile (s.msg.dst % 4096) = true ∧ s.msg.tag < 16384 ∧ (s.slot 0 s.msg.slot).getPend s.msg.tag = some ⟨9, 0, 0x1000, 0x1000, .watch 5 1⟩ ∧ s.msg.attr.toNat % 4 = 0 ∧
      ({ Msg.zero with attr := 1 } : Msg).attr.toNat % 4 = 1) := by decide +kernel

/-- The multicast unit of vd 8: group 5 valid at the headgate and at the member, its window at 0x2000, with the map word of the group. -/
def mMc : Msg := { Msg.zero with dst := 0x838, attr := 5 }
def sMc (hg me ap mp : Nat) (m : Msg) : State :=
  msg m (((((s0.setReg 0 (hgBase 5) (1 + 12 * 2 ^ 12 + hg * 2)).setReg 0 (memBase 5) (1 + me * 2)).setReg 0 (memBase 5 + 8) (12 * 2 ^ 56 + 0x2000)).setReg 0 (memBase 5 + 32) ap).setReg 0 (0x200000 + 8 * 5) mp)
theorem witness_MulticastEvents_relay : (let s := sMc 0 1 0 0 { mMc with src := 0x100000 }; isMcUnit s.msg.dst = true ∧ s.atRelay s.msg = false) ∧
    (let s (mp : Nat) := sMc 0 1 0 mp { mMc with dst := s0.relay 0, src := 0x10 }; isMcUnit (s 0).msg.dst = true ∧ (s 0).atRelay (s 0).msg = true ∧ ((s 0).groupMap (eidDie (s 0).msg.dst - 8) 5).testBit 0 = false ∧
      ((s 1).groupMap (eidDie (s 1).msg.dst - 8) 5).testBit 0 = true ∧ (s 1).groupMap (eidDie (s 1).msg.dst - 8) 5 / 2 % 2 ^ 24 ≠ (s 1).msg.dst ∧
      (s (1 + 2 * s0.relay 0)).groupMap (eidDie (s 1).msg.dst - 8) 5 / 2 % 2 ^ 24 = (s 1).msg.dst ∧
      (let e := (s (1 + 2 ^ 25 + (eidDie (s0.relay 0) - 8) * 2 ^ 26)).groupMap (eidDie (s 1).msg.dst - 8) 5; e.testBit 0 = true ∧ e.testBit 25 = true ∧ 8 + e / 2 ^ 26 % 2 = eidDie (s 1).msg.dst)) := by decide +kernel
theorem witness_MulticastEvents_apply : (let s := sMc 0 1 6 0 { mMc with aux3 := 7, len := 7, data := leBytes 8 1 }; s.meValid 0 5 = true ∧ s.meState 0 5 = meACTIVE ∧ s.msg.aux3.toNat = s.meApplied 0 5 + 1 ∧ (s.die 8).mc.applying.any (fun a => a.group == 5) = false ∧ s.mcDecide s.msg (s.meWbase 0 5) 7 = true) ∧
    (let s := sMc 0 1 6 0 { mMc with aux3 := 7, attr := 0x1005, aux1 := 0 }; s.mcDecide s.msg (s.meWbase 0 5) 7 = false ∧ s.msg.attr.toNat % 2 ^ 12 = 5 ∧ s.msg.attr.getLsbD 12 = true ∧ (let pa := s.canon (s.meWbase 0 5 + s.msg.aux0.toNat); s.reserved pa 8 = false ∧ s.refuses 6 pa 8 false false = none) ∧
      (s.die 8).mc.applying.any (fun a => a.group == 5) = false ∧ ({ s.msg with aux0 := 8 } : Msg).attr.getLsbD 12 = true) ∧
    (let s := sMc 0 1 6 0 { mMc with aux3 := 7 }; s.refuses 6 (s.canon (s.meWbase 0 5)) (256 * s.meLines 0 5) false false = none) ∧
    (let s := sMc 0 1 6 0 mMc; s.msg.aux3.toNat ≤ s.meApplied 0 5) ∧ (let s := sMc 0 1 6 0 { mMc with aux3 := 8 }; s.meApplied 0 5 + 1 < s.msg.aux3.toNat) := by decide +kernel
theorem witness_MulticastEvents_ack : (let s := sMc 0 1 6 0 mMc; (s.die 8).mc.joins = [] ∧ ((((s.mcMod 8 (fun M => { M with outstanding := M.outstanding })).unTimer ⟨.memberTimeout, { t := 8, k := 5, n := 0, v := 0 }⟩).settleStores 8).die 8).mc.joins = []) ∧
    (let s (k : PendKind) (a : BitVec 32) := msg { Msg.zero with tag := 9, attr := a } (sP [⟨9, 0, 0, 0, k⟩]); ((s (.mcast 6 false) 0).slot 0 0).getPend 9 = some ⟨9, 0, 0, 0, .mcast 6 false⟩ ∧ (s (.mcast 6 false) 0x50).msg.attr.toNat / 16 % 16 ≠ 0 ∧
      ((s (.mcast 6 true) 1).slot 0 0).getPend 9 = some ⟨9, 0, 0, 0, .mcast 6 true⟩ ∧ (s (.mcast 6 true) 1).msg.attr.getLsbD 0 = true ∧ ((s (.mcseq 6 0) 0).slot 0 0).getPend 9 = some ⟨9, 0, 0, 0, .mcseq 6 0⟩) ∧
    (let s := ev { t := 8, k := 5, n := 3, v := 7 } (s0.mcMod 8 (fun M => { M with outstanding := [⟨5, 7, mMc, [3], 0, 0⟩] })); s.arg.v ≠ 2 ^ 64 ∧ (s.die s.arg.t).mc.outstanding.any (fun x => x.group == s.arg.k && x.stamp == s.arg.v && x.acks.contains s.arg.n) = true) ∧
    (s0.die 8).mc.outstanding.any (fun x => x.group == 5 && x.stamp == 7 && x.acks.contains 3) = false := by decide +kernel
theorem witness_MulticastEvents_join : (let s := sMc 1 1 6 0 mMc; isMcUnit s.msg.dst = true ∧ s.hgValid 0 5 = true ∧ s.hgState 0 5 ≠ stRUN) ∧
    (let s := sMc 0 1 6 0 { mMc with aux1 := 12 }; s.hgValid 0 5 = true ∧ s.hgState 0 5 = stRUN ∧ s.msg.aux0.toNat % 2 ^ 24 = 0 ∧ s.hgNmem 0 5 = 0 ∧ s.hgIn 0 5 0 = false ∧ s.msg.aux1.toNat % 32 = s.hgW 0 5 0 / 2 ^ 12 % 32) ∧
    (let j : McJoin := ⟨5, 0, 0, 0, 1, mMc⟩; let s := (sMc 0 1 6 0 mMc).mcMod 8 (fun M => { M with joins := [j] }); s.msg.attr.toNat / 2 ^ 16 % 16 = 0 ∧ s.msg.attr.toNat / 2 ^ 12 % 16 = 0 ∧ (s.die 8).mc.joins.find? (fun j => j.group == 5 && j.point == s.msg.aux3.toNat && (j.phase == 1 && j.source == s.msg.src)) = some j) ∧
    (let s := sMc 0 1 6 0 mMc; (s.hgPut 0 5 (eidPkg s.msg.src) true).hgIn 0 5 (eidPkg s.msg.src) = true ∧ (s.hgPut 0 5 0 true).hgState 0 5 = stRUN) ∧
    (({ mMc with attr := 0x11005 } : Msg).attr.toNat / 2 ^ 16 % 16 ≠ 0 ∧ ({ mMc with attr := 0x11005 } : Msg).attr.toNat / 2 ^ 12 % 16 ≠ 0) := by decide +kernel
theorem witness_MulticastEvents_descriptor : (let d := (5 + 2 ^ 64 * 3 : Nat); d / 2 ^ 12 % 16 = 0 ∧ d / 2 ^ 17 % 2 ^ 47 = 0 ∧ d / 2 ^ 88 % 2 ^ 40 = 0 ∧ (sMc 0 1 6 0 mMc).meValid 0 5 = true ∧ (sMc 0 1 6 0 mMc).meState 0 5 = meACTIVE ∧ (sMc 0 2 6 0 mMc).meState 0 5 ≠ meACTIVE) ∧
    (sMc 0 0 6 0 mMc).meState 0 5 = meJOINING ∧
    (let x : McApply := ⟨5, 7, mMc, [40], 2, 0⟩; let u := (sMc 0 1 6 0 mMc).mcMod 8 (fun M => { M with applying := [x] }); (u.die 8).mc.applying.find? (fun a => a.acks.contains 40) = some x ∧ x.next < u.meLines 0 x.group ∧
      u.refuses 6 (u.canon (u.meWbase 0 5)) 256 false false = none ∧ u.reserved (u.canon (u.meWbase 0 5)) 256 = false) := by decide +kernel

/-! ### Witnesses: links, host, network, the step -/

theorem crc64_zeros (n : Nat) : crc64 (List.replicate n 0) = 0 := by
  induction n with
  | zero => rfl
  | succ n ih => simpa [crc64, List.replicate_succ, show crc64Bits 8 0 = 0 by decide] using ih
theorem witness_LinkEvents_frame : (let bs : List Byte := List.replicate 272 0; bs.length = 272 ∧ crc64 (bs.take 264) = leNat ((bs.drop 256).take 16) / 2 ^ 64 % 2 ^ 64) ∧ ([] : List Byte).length ≠ 272 :=
  ⟨⟨List.length_replicate, by rw [List.take_replicate, crc64_zeros]; decide +kernel⟩, by decide⟩
def sLink (f : Link → Link) : State := ev { t := 512 } (s0.modLink 512 f)
theorem witness_LinkEvents_timers : ((sLink (fun L => { L with ackDue := true })).link 512).ackDue = true ∧ (s0.link 512).ackDue = false ∧ (s0.link 512).unacked = [] ∧
    (let L := (sLink (fun L => { L with unacked := [(0, 0)], replays := 7 })).link 512; L.unacked ≠ [] ∧ L.replays < 8) ∧ (let L := (sLink (fun L => { L with unacked := [(0, 0)], replays := 8 })).link 512; L.unacked ≠ [] ∧ 8 ≤ L.replays) ∧
    sluicePeer (8 / 32) (8 % 32 / 8) = some (1, 3) := by decide +kernel
theorem witness_LinkEvents_discovery : (let s := ev { t := 0, msg := Msg.zero } s0; s.arg.msg.aux0.toNat % 4 = 0 ∧ s.arg.msg.attr.toNat / 16 % 16 < 3 ∧ (s.die s.arg.t).vdAssigned = none) ∧
    ((s0.modDie 0 (fun D => { D with vdAssigned := some (0, 0) })).die 0).vdAssigned.isSome = true ∧
    (let s := ev { t := 0, msg := { Msg.zero with aux0 := 3 + 1 * 16 } } s0; let x := s.arg.msg.aux0.toNat; x % 4 ≠ 0 ∧ sluicePeer s.arg.t (x / 16 % 4) = some (1, 3) ∧ s.arg.msg.attr.toNat / 16 % 16 = 0) ∧ sluicePeer 0 0 = none := by decide +kernel
theorem witness_HostAndNetworkEvents_host : (let s := ev { k := 0, v := 0x400000, n := 8 } s0; s.arg.k = 0 ∧ s.failed (s.arg.v % 2 ^ 29 / 2 ^ 28) = false) ∧
    (let s := ev { k := 2, v := 0x1000, n := 8, bytes := leBytes 8 1 } s0; let pa := s.arg.v % 2 ^ 39; s.arg.k = 2 ∧ s.failed s.arg.t = false ∧ s.decodes (iodVd s.arg.t) pa = true ∧ s.reserved pa s.arg.n = false ∧ s.refuses 7 pa s.arg.n false false = none ∧ s.eccBad pa s.arg.n = false ∧
      s.reserved pa s.arg.bytes.length = false ∧ s.refuses 7 pa s.arg.bytes.length false true = none) ∧ (let s := s0.modDie 0 (fun D => { D with filter := [⟨0x1000, 0x1000, 0x8000⟩] }); (s.refuses 7 0x1FFF 8 false false).isSome = true ∧ (s.refuses 7 0xFF9 8 false true).isSome = true) ∧
    (∃ v, (v = 8 ∨ v = 9) ∧ ∃ l, l ∈ ((sLu launch0).lu v).launches ∧ l.state ≠ .ended) ∧ (∀ v, v = 8 ∨ v = 9 → (s0.lu v).launches = []) :=
  ⟨by decide +kernel, by decide +kernel, by decide +kernel, ⟨8, .inl rfl, launch0, by decide +kernel⟩, fun v h => by obtain rfl | rfl := h <;> decide +kernel⟩
theorem witness_HostAndNetworkEvents_measure : (7 ≤ 7 ∧ 15 ≤ 15 ∧ (List.replicate 64 (0 : Byte)).length = 64) ∧ (6 < 7 ∧ 15 < 16) := by decide
/-- Request 3 of queue 0, sent: a WRITE or a READ of 64 bytes at linear address 0x5000, ASID 0. -/
def netReq0 (op : Nat) : NetReq := { q := 0, n := 3, wr := leBytes 64 (op + 0x5000 * 2 ^ 64 + 64 * 2 ^ 128), ctx := 0, id := 6, off := 0, at_ := 0, data := [], sent := true }
def sNet (r : NetReq) : State := ev { t := 8, k := 0, n := 3, v := 6, bytes := List.replicate 64 1 } ((pt s0).modDie 8 (fun D => { D with net := [r] }))
theorem witness_HostAndNetworkEvents_network : ((sNet (netReq0 0)).netFind (netVd 0) 0 3 = some (netReq0 0) ∧ leNat ((netReq0 0).wr.take 64) % 4 = 0) ∧ (leNat ((netReq0 1).wr.take 64) % 4 = 1 ∧ (netReq0 1).data = []) ∧
    (let r : NetReq := { netReq0 1 with data := List.replicate 64 1, step := [(0, 0x5000, 0x5000, 0x1000)] }; let s0 := sNet r; let s : State := { s0 with arg := { s0.arg with k := 7 } }; let u := s.netUnit 8 r
      (s.die 8).net.find? (fun r => r.id == s.arg.v) = some r ∧ (s.die 8).stopped = false ∧ s.unitBusy u = false ∧ s.netBehind 8 r = false ∧
      (s.die 8).outs.find? (fun o => o.ev == u.ev && decide (o.path < 16) && o.got.isSome) = none ∧ s.unitFull 8 u.ag = false ∧ r.at_ < r.data.length ∧
      (match (s.netPlace 8 r r.at_ r.data.length 5).1 with | some (.ok _) => true | _ => false) = true ∧ r.data.length ≤ ({ r with at_ := 64 } : NetReq).at_ ∧ r.data ≠ []) ∧
    (let s := ev { t := 0, k := 3, v := 0, n := 1, bytes := List.replicate 64 1 } (((pt s0).setReg 0 (0x408000 + 32 * 3) 1).setReg 0 (0x408000 + 32 * 3 + 16) 64); (s.rxW s.arg.t s.arg.k 0).testBit 0 = true ∧ s.arg.v + s.arg.bytes.length ≤ s.rxW s.arg.t s.arg.k 2 % 2 ^ 32) ∧ (s0.rxW 0 3 0).testBit 0 = false := by decide +kernel
theorem witness_HostAndNetworkEvents_completion : (s0.die 8).ioWait.find? (fun w => w.1 == 4) = none ∧
    (let ok (pa : Nat) (i : Instr) : Bool := let s := ev { t := 8, k := 4 } (s0.modDie 8 (fun D => { D with ioWait := [(4, pa, ⟨i, {}⟩)] })); (s.die s.arg.t).ioWait.find? (fun w => w.1 == s.arg.k) == some (4, pa, ⟨i, {}⟩) && s.arg.ok
     ok (2 ^ 52) .rd = true ∧ (ok (2 * 2 ^ 52) .rsv = true ∧ spaceOf (2 * 2 ^ 52) = 2) ∧ (ok (2 ^ 52) .rsv = true ∧ spaceOf (2 ^ 52) ≠ 2) ∧ ok (2 ^ 52) .cwpost = true ∧ ok (2 ^ 52) .watchInstall = true) := by decide +kernel
theorem witness_HostAndNetworkEvents_boot : (let b : BootInput := ⟨true, 0, [], [], 0⟩; b.signatureGood = true ∧ (assignedDies b).filter (· < 4) = []) ∧ (let b : BootInput := ⟨true, 0, [0, 1, 2, 3, 8, 9], [], 0⟩; b.signatureGood = true ∧ (assignedDies b).filter (· < 4) = 0 :: [1, 2, 3]) := by decide +kernel
theorem witness_CompactRotation : (let T := tile0 th0; T.rot.getLsbD 0 = false ∧ T.eligible 0 7 = false) ∧ (let T := (tile0 th0).setSlot 7 th0; T.eligible 0 7 = true) ∧ ((s0.slot 0 0).run = .ready ∧ (s0.slot 0 0).isVisitor = false) ∧
    ((s0.modSlot 0 0 (fun h => { h with run := .blocked .register })).slot 0 0).run = .blocked .register ∧ State.reset.canIssue 0 = none := by decide +kernel
/-- The machine whose next step runs the word of ADD g3, g4, g5. -/
def sAdd : State := State.reset.withFetchWord 32 0x00284181
theorem witness_StepRunsDecoded : (let s := sAdd; (match s.agenda with
      | .tile t :: rest => (let s0 : State := { s with agenda := rest }; match s0.canIssue t with
          | some k => (let s1 := ({ s0 with cur := (t, k) } : State).modTh (fun h => { h with yielded := false });
              isComputeTile t && !s1.th.hasCause && !s1.th.isVisitor && s1.engStopped t k == none && okB s1.fetch (fun q => q.1 == 0x00284181))
          | none => false)
      | _ => false) = true) ∧
    (let s := sAdd; okB (seg rFetch 7 s.th.pc.toNat 4 s) (fun p => !p.sp && okB (p0Translate p.at_ 0 4 0 s) (fun q => q.2.fetchRefused q.1 == none && !q.2.eccBad q.1 4)) && s.th.pc.toNat % 4 == 0) = true ∧
    (let s := sAdd.modTh (fun h => { h with pc := h.pc + 2 }); okB (seg rFetch 7 s.th.pc.toNat 4 s) (fun _ => s.th.pc.toNat % 4 != 0)) = true ∧
    (let s : State := { State.reset with agenda := [.event 0], pool := [⟨.ackTimer, {}⟩] }; ({ s with agenda := [] } : State).choose 0 = some 0 ∧ s.pool[0]? = some ⟨.ackTimer, {}⟩) ∧
    (let s0 : State := { sAdd with agenda := [] }; s0.prompt (fun x => x == 0) = none ∧ s0.th.redo = [] ∧ okB s0.fetch (fun q => q.2.th.mismatch == 0) = true) ∧
    (let s : State := sAdd.modTile 0 (fun T => { T with tlb := [⟨0, 0, 0, 2 * 2 ^ 52, false, false, true, false, false⟩], nodes := [⟨512, 0, 2 * 2 ^ 52, 7⟩] })
     okB (p0Translate 0 0 4 0 s) (fun q => q.1 == 2 * 2 ^ 52 && q.2.fetchRefused q.1 == none && q.2.afar q.1 && (q.2.tile 0).nodeAt 512 0 q.1 == some 7) && okB s.fetch (fun q => q.1 == 7)) = true := by decide +kernel
theorem witness_MemoryStaysCanonical : State.reset.MemOk ∧ isNext (exec .pcieD3hot State.reset) (fun _ => true) = true ∧ Memory.wf sAdd.mem = true ∧ isNext (step sAdd) (fun _ => true) = true := ⟨rfl, by decide +kernel, by decide +kernel, by decide +kernel⟩
theorem witness_EncodeDecode : (Instr.add 31 ⟨31, 0⟩ ⟨31, 0⟩).wellFormed = true ∧ (encode (Instr.add 31 ⟨31, 0⟩ ⟨31, 0⟩)).isSome = true := by decide +kernel

/-! ### WellFormed: a term each check refuses -/

theorem test_wf_modes : (Instr.add 1 ⟨4, 3⟩ ⟨5, 0⟩).check = some .sourceMode ∧ (Instr.add 1 ⟨0, 1⟩ ⟨5, 0⟩).check = some .sourceMode ∧ (Instr.stw ⟨7, 3⟩ 1 ⟨6, 0⟩ 0).check = some .sourceMode ∧ (Instr.add 1 ⟨4, 1⟩ ⟨5, 2⟩).wellFormed = true := by decide
theorem test_wf_field : (Instr.extu 1 ⟨4, 0⟩ 31 1).check = some .operandRule ∧ (Instr.ins 1 ⟨4, 0⟩ 31 0).wellFormed = true := by decide
theorem test_wf_pairs : (Instr.ldp 3 1 ⟨4, 0⟩ 0).check = some .operandRule ∧ (Instr.stp ⟨0, 0⟩ 1 ⟨4, 0⟩ 0).check = some .operandRule ∧ (Instr.bind 1 1 ⟨4, 0⟩ ⟨5, 0⟩).check = some .operandRule ∧ (Instr.waitc 1 1 ⟨4, 0⟩ ⟨5, 0⟩).check = some .operandRule ∧
    (Instr.mcseq 0 ⟨4, 0⟩ ⟨6, 0⟩).check = some .operandRule ∧ (Instr.lwptr ⟨6, 0⟩ 0).check = some .operandRule ∧ (Instr.fork 4 1 ⟨4, 0⟩ ⟨6, 0⟩).check = some .operandRule ∧ (Instr.waitc 1 1 ⟨4, 0⟩ ⟨0, 0⟩).wellFormed = true := by decide
theorem test_wf_codes : (Instr.fence 6 0).check = some .reservedValue ∧ (Instr.send ⟨1, 0⟩ ⟨2, 0⟩ 3).check = some .unassignedFunction ∧ (Instr.ewr ⟨1, 0⟩ 4 0).check = some .reservedValue ∧ (Instr.erd 1 2 128).check = some .reservedValue ∧ (Instr.erd 1 3 32).check = some .reservedValue ∧
    (Instr.fmtp 12 1 0 0 0).check = some .reservedValue ∧ (Instr.fmtp 11 1 0 0 1).check = some .reservedValue ∧ (Instr.csrbs 4 ⟨0, 0⟩ 0x00D).check = some .unassignedCsr ∧ (Instr.csrbs 4 ⟨0, 0⟩ 0x701).check = some .unassignedCsr := by decide

/-! ### Words of the spec's encoding tables (R185, R227, R249, R270, R298 and the tables that follow them) -/

theorem test_decode_integer : decodeWord 0x02284181 = .ok (.add 3 ⟨4, 0⟩ ⟨5, 2⟩) ∧ decodeWord 0xFFD80382 = .ok (.addi 7 ⟨0, 0⟩ 0x1FFB) ∧ decodeWord 0x40389103 = .ok (.srai 2 ⟨9, 0⟩ 7) ∧ decodeWord 0x00014204 = .ok (.lui 4 0x14) ∧
    decodeWord 0x5FF86287 = .ok (.slti 5 ⟨6, 0⟩ 0x3FF) ∧ decodeWord 0x2C68C508 = .ok (.selnz 10 ⟨12, 0⟩ ⟨13, 0⟩ 11) ∧ decodeWord 0x1830830A = .ok (.extu 6 ⟨8, 0⟩ 12 3) ∧ decodeWord 0xF8004202 = .ok (.addi 4 ⟨4, 0⟩ 0x1F00) := by decide +kernel
theorem test_decode_branch_fp : decodeWord 0xFFF44CA0 = .ok (.bnez ⟨9, 0⟩ 0x3FFD 1) ∧ decodeWord 0x00010FA1 = .ok (.jal 31 16) ∧ decodeWord 0x0001F022 = .ok (.jalr 0 ⟨31, 0⟩ 0) ∧ decodeWord 0x101820A9 = .ok (.fmadd 1 ⟨2, 0⟩ ⟨3, 0⟩ 4) ∧
    decodeWord 0x200062AA = .ok (.ftobf 5 ⟨6, 0⟩) := by decide +kernel
theorem test_decode_memory : decodeWord 0x04418290 = .ok (.ldw 5 2 ⟨6, 0⟩ 4) ∧ decodeWord 0x03611491 = .ok (.ldhu 9 3 ⟨4, 0⟩ 3) ∧ decodeWord 0x01008513 = .ok (.ldp 10 0 ⟨2, 0⟩ 1) ∧ decodeWord 0xFE202394 = .ok (.stw ⟨7, 2⟩ 1 ⟨0, 0⟩ 0xFE) ∧
    decodeWord 0x0441718B = .ok (.lea 3 2 ⟨5, 0⟩ 3 4) ∧ decodeWord 0x0201820C = .ok (.segld 4 0 ⟨6, 0⟩ 2) ∧ decodeWord 0x1018001B = .ok (.fence 2 3) := by decide +kernel
theorem test_decode_sync : decodeWord 0x04386019 = .ok (.aaddC 0 1 ⟨6, 0⟩ ⟨7, 0⟩) ∧ decodeWord 0x2848829A = .ok (.cas 5 2 ⟨8, 0⟩ ⟨9, 0⟩) ∧ decodeWord 0x6628461C = .ok (.acqX 12 1 ⟨4, 0⟩ ⟨5, 2⟩) ∧ decodeWord 0x8400301D = .ok (.barw 0 1 ⟨3, 0⟩) ∧
    decodeWord 0x38604A1F = .ok (.mcstc 20 6 ⟨4, 0⟩ ⟨12, 0⟩) := by decide +kernel
theorem test_decode_engine : decodeWord 0x010E0030 = .ok (.mma ⟨0, 0⟩ ⟨7, 0⟩) ∧ decodeWord 0x03002030 = .ok (.mstore ⟨8, 0⟩) ∧ decodeWord 0x078608B0 = .ok (.vfma ⟨2, 0⟩ ⟨3, 2⟩) ∧ decodeWord 0x1E0000B0 = .ok (.vfill ⟨0, 0⟩) ∧
    decodeWord 0x03101930 = .ok (.lwptr ⟨6, 0⟩ 8) ∧ decodeWord 0x000015B0 = .ok (.qsync ⟨5, 0⟩) ∧ decodeWord 0x000A12B0 = .ok (.xcopy ⟨4, 0⟩ ⟨5, 0⟩) ∧ decodeWord 0x00041C31 = .ok (.ewr ⟨7, 0⟩ 0 2) ∧
    decodeWord 0x06802531 = .ok (.erd 9 2 64) ∧ decodeWord 0x00280DC0 = .ok (.fmtp 11 1 0 5 0) ∧ decodeWord 0x004099C0 = .ok (.fmtp 3 3 1 0 1) := by decide +kernel
theorem test_decode_system : decodeWord 0x00180249 = .ok (.csrbs 4 ⟨0, 0⟩ 3) ∧ decodeWord 0x0000004B = .ok .nop ∧ decodeWord 0x040051CB = .ok (.trap ⟨5, 0⟩ 3) ∧ decodeWord 0x0C00004B = .ok .eret ∧ decodeWord 0x1400004B = .ok .park ∧ decodeWord 0x1838604B = .ok (.wake ⟨6, 0⟩ ⟨7, 0⟩) ∧
    decodeWord 0x1C00004B = .ok .halt ∧ decodeWord 0x0430454C = .ok (.fork 10 1 ⟨4, 0⟩ ⟨6, 0⟩) ∧ decodeWord 0x240045CC = .ok (.joinc 11 1 ⟨4, 0⟩) ∧ decodeWord 0x4848864C = .ok (.spawn 12 2 ⟨8, 0⟩ ⟨9, 0⟩) ∧
    decodeWord 0x2000314D = .ok (.rqpop 2 ⟨3, 0⟩) ∧ decodeWord 0x4001D04D = .ok (.ctxsv 0 0 ⟨29, 0⟩ ⟨0, 0⟩) ∧ decodeWord 0x8000604D = .ok (.splock 0 ⟨6, 0⟩) := by decide +kernel
theorem test_decode_refused : decodeWord 0 = .error .illegalWord ∧ decodeWord 0xFFFFFFFF = .error .illegalWord ∧ decodeWord 0x7F = .error .illegalMajor ∧ decodeWord 0xFC00004B = .error .unassignedFunction ∧ decodeTableWord 32 0x02284181 = some (.add 3 ⟨4, 0⟩ ⟨5, 2⟩) ∧ decodeTableWord 32 0 = none := by decide +kernel
theorem test_encode : encode (.add 3 ⟨4, 0⟩ ⟨5, 2⟩) = some 0x02284181 ∧ encode (.stw ⟨7, 2⟩ 1 ⟨0, 0⟩ 0xFE) = some 0xFE202394 ∧ encode (.vfma ⟨2, 0⟩ ⟨3, 2⟩) = some 0x078608B0 ∧ encode (.fmtp 11 1 0 5 0) = some 0x00280DC0 := by decide +kernel

/-! ### Single instructions (the results are the spec's own tables, or worked by hand from its rules) -/

/-- Instruction i with g1 = x and g2 = y, and ST: what the thread holds afterwards. -/
def after (i : Instr) (x y st : Word) (p : Slot → Bool) : Bool := isNext (exec i (one { th0 with g := [(1, x), (2, y)], st := 0x800 + st })) (fun s => p s.th)
def gives (i : Instr) (x y st v flags : Word) : Bool := after i x y st (fun h => mget 0 h.g 3 == v && (h.st &&& 0x7C0) == flags)
/-- A division leaves its result and flags in the divider. -/
def divides (i : Instr) (x y v flags : Word) : Bool :=
  isNext (exec i (one { th0 with g := [(1, x), (2, y)] })) (fun s => match (s.tile 0).div with
    | some d => d.result == v && d.flags == flags
    | none => false)
def x1 : Src := ⟨1, 0⟩
def y2 : Src := ⟨2, 0⟩
theorem test_integer_wrap : gives (.add 3 x1 y2) 0x7FFFFFFF 1 0 0x80000000 0 = true ∧ gives (.adds 3 x1 y2) 0x7FFFFFFF 1 0 0x7FFFFFFF 0 = true ∧ gives (.sra 3 x1 y2) 0x80000010 0x21 0 0xC0000008 0 = true ∧ gives (.subs 3 x1 y2) 0x80000000 1 0 0x80000000 0 = true := by decide +kernel
theorem test_integer_product : gives (.mulh 3 x1 y2) 0xFFFFFFFF 2 0 0xFFFFFFFF 0 = true ∧ gives (.mulhu 3 x1 y2) 0xFFFFFFFF 2 0 1 0 = true := by decide +kernel
theorem test_integer_bits : gives (.clz 3 x1) 0 0 0 32 0 = true ∧ gives (.ctz 3 x1) 0 0 0 32 0 = true ∧ gives (.popc 3 x1) 0xFFFFFFFF 0 0 32 0 = true ∧ gives (.extu 3 x1 12 3) 0x0000A000 0 0 0xA 0 = true ∧ gives (.addi 3 x1 0x1FFB) 0 0 0 0xFFFFFFFB 0 = true := by decide +kernel
theorem test_division : divides (.div 3 x1 y2) 0x80000000 0xFFFFFFFF 0x7FFFFFFF 0 = true ∧ divides (.rem 3 x1 y2) 0x80000000 0xFFFFFFFF 0 0 = true ∧ divides (.div 3 x1 y2) 7 0 0x7FFFFFFF 0 = true ∧ divides (.divu 3 x1 y2) 7 0 0xFFFFFFFF 0 = true ∧
    divides (.rem 3 x1 y2) 7 0 7 0 = true ∧ divides (.div 3 x1 y2) 0xFFFFFFF9 2 0xFFFFFFFD 0 = true ∧ divides (.rem 3 x1 y2) 0xFFFFFFF9 2 0xFFFFFFFF 0 = true ∧ divides (.fdiv 3 x1 y2) 0x3F800000 0x80000000 0xFF800000 0x200 = true := by decide +kernel
theorem test_float_convert : gives (.ftoi 3 x1) 0x40200000 0 0 2 0x40 = true ∧ gives (.ftoi 3 x1) 0x40200000 0 0x20 3 0x40 = true ∧ gives (.ftoi 3 x1) 0x4F32D05E 0 0 0x7FFFFFFF 0x400 = true ∧ gives (.ftou 3 x1) 0xBECCCCCD 0 0 0 0x40 = true ∧
    gives (.ftou 3 x1) 0xBF800000 0 0 0 0x400 = true := by decide +kernel
theorem test_float_narrow : gives (.ftobf 3 x1) 0x7F7FFFFF 0 0 0x7F80 0x140 = true ∧ gives (.ftobf 3 x1) 0x7F7FFFFF 0 2 0x7F7F 0x140 = true ∧ gives (.ftobf 3 x1) 0x40490FDB 0 0 0x4049 0x40 = true ∧
    after (.ftobf 3 x1) 0x40490FDB 0 0x28 (fun h => mget 0 h.g 3 == 0x404A && h.rngs == 0x00042021) = true ∧ after (.ftobf 3 x1) 0x3F800001 0 0x28 (fun h => mget 0 h.g 3 == 0x3F80 && (h.st &&& 0x7C0) == 0x40) = true := by decide +kernel
theorem test_float_nan : gives (.fmin 3 x1 y2) 0x7FC00000 0x40000000 0 0x40000000 0 = true ∧ gives (.fminp 3 x1 y2) 0x7FC00000 0x40000000 0 0x7FC00000 0 = true ∧ gives (.fmul 3 x1 y2) 0x7F800001 0x3F800000 0 0x7FC00000 0x400 = true ∧ gives (.fclass 3 x1) 0x80000001 0 0 0x11 0 = true ∧
    gives (.fadd 3 x1 y2) 0x3F800000 0xBF800000 0x18 0x80000000 0 = true := by decide +kernel
/-- The worked conversions that follow R208. -/
def rne : RndEnv := ⟨0, false, false, 0⟩
theorem test_accumulator_update : (roundFp 0 rne (numAdd false (.fin false (2 ^ 24) 0 false) (.fin false 21 (-2) false)).1).bits = 0x4B800003 := by decide +kernel
theorem test_fp8 : roundFp 3 rne (.fin false 300 0 false) = ⟨0x79, 0x40, false⟩ ∧ roundFp 3 rne (.fin false 470 0 false) = ⟨0x7F, 0x140, false⟩ ∧ roundFp 3 { rne with sat := true } (.fin false 470 0 false) = ⟨0x7E, 0x140, true⟩ := by decide +kernel
theorem test_tb4_block : let b := tbEncode 11 rne (List.replicate 32 0) (Num.fin false 6 0 false :: Num.fin true 3 (-2) false :: Num.fin false 0xCCCCCD (-27) false :: List.replicate 29 (Num.fin false 0 0 false))
    b.bytes = [0x81, 0x7F, 0xE3] ++ List.replicate 15 0x88 ∧ b.flags = 0x40 := by decide +kernel

/-- The first step of the kernel that follows R270, with 4096 at k = 0 and 1 at k = 32 and at a further k. -/
def sMma (k : Nat) : State :=
  let bf (s : State) (o v : Nat) : State := s.homeWrite (s.spPa 0 o) (leBytes 2 v)
  let mat (s : State) (o : Nat) : State := bf (bf (bf s o 0x4580) (o + 64) 0x3F80) (o + 2 * k) 0x3F80
  let c := { sM.newCmd opMMA 0 256 0x11 [(0, 4), (1, 0x11), (2, 96), (4, 192), (5, 192), (6, 4)] 0 [] with segs := [(0, segS)] }
  ev { t := 0, k := 0 } ((mat (mat sM 0) 256).modTile 0 (fun T => { T with mq := [c] }))
theorem test_mma_block : isNext (exec .engineStep (sMma 64)) (fun s => mget 0 (s.tile 0).acc 0 == 0x4B800000) = true ∧ isNext (exec .engineStep (sMma 33)) (fun s => mget 0 (s.tile 0).acc 0 == 0x4B800001) = true := by decide +kernel

/-- A word run as the first instruction of s0. -/
def runs (w : Nat) (p : State → Bool) : Bool := isNext (step (s0.withFetchWord 32 w)) p
theorem test_step_add : runs 0x00284181 (fun s => mget 0 (s.slot 0 0).g 3 == 7 && (s.slot 0 0).pc == 4 && (s.slot 0 0).instret == 1) = true := by decide +kernel
theorem test_step_illegal : runs 0 (fun s => (s.slot 0 0).pc == 0x2000 && (s.slot 0 0).epc == 0 && (s.slot 0 0).ecause.toNat % 256 == tILL && stINH (s.slot 0 0).st) = true := by decide +kernel
theorem test_step_trap : runs 0x040051CB (fun s => (s.slot 0 0).ecause == 0x30A && (s.slot 0 0).epc == 0 && (s.slot 0 0).pc == 0x2000 && stINH (s.slot 0 0).st) = true := by decide +kernel
theorem test_eret : isNext (exec .eret (one { th0 with st := 0x5000, epc := 0x400, estat := 0x800 })) (fun s => s.th.pc == 0x400 && s.th.st == 0x800) = true := by decide +kernel
theorem test_write_bytes : isNext (exec .wr (msg { m8 0x1000 with len := 1, aux0 := 0x0102 } s0)) (fun s => rdByte s.mem 0x1000 == 2 && rdByte s.mem 0x1001 == 1 && rdByte s.mem 0x1002 == 0) = true := by decide +kernel
theorem test_completion_post : isNext (exec .cwpost (msg { m8 0x1000 with aux0 := 3, attr := 1 } { s0 with mem := wrLE s0.mem 0x1000 8 5 })) (fun s => rdLE s.mem 0x1000 8 == 8 + 2 ^ 63) = true := by decide +kernel
theorem test_load_issue : isNext (exec (.ldw 5 2 ⟨3, 0⟩ 4) s0) (fun s => !wbit s.th.fe 5 && s.th.pend.length == 1 && s.pool.any (fun e => e.i == .rd && e.arg.msg.pa == 80 && e.arg.msg.len == 3)) = true := by decide +kernel
theorem test_load_bound : isNext (exec (.ldw 5 1 ⟨1, 0⟩ 0) s0) (fun s => s.th.ecause.toNat % 256 == tSEG && s.th.eval == 0x80000000) = true := by decide +kernel
theorem test_generator : xorshift 1 = 0x00042021 := by decide +kernel
/-- The published check value of CRC-64 with this polynomial, no reflection and no final XOR. -/
theorem test_crc64 : crc64 [0x31, 0x32, 0x33, 0x34, 0x35, 0x36, 0x37, 0x38, 0x39] = 0x6C40DF5F0B497347 := by decide +kernel

end Sys2Proof.Tests
end

section
/-! O58: every instruction, every event and every step keep memory in its canonical form.

Memory changes only where the model writes bytes, and each such write keeps the form (`Memory.wf_wrByte` and its kin). What remains
is to carry `State.MemOk` through the model: each function `f` that gives a state has one lemma `State.MemOk.f`, which says that `f`
keeps the form, and is proved from the lemmas of the functions that `f` calls. Where `f` gives a state inside something else, one of
the predicates below says which states are meant. -/

namespace Sys2Proof.Machine
open Sys2Proof

/-! ### States inside the model's answers -/

/-- The state beside an answer is canonical. -/
def SndOk {α : Type} (r : α × State) : Prop := r.2.MemOk

/-- A computation that may stop early: it ends with an error that has `E`, or with an answer that has `P`. -/
inductive Ends {ε α : Type} (E : ε → Prop) (P : α → Prop) : Except ε α → Prop
  | error {e : ε} (h : E e) : Ends E P (.error e)
  | ok {a : α} (h : P a) : Ends E P (.ok a)

/-- The state an operation gives, if it gives one, is canonical. -/
def SomeOk (o : Option State) : Prop := ∀ t, o = some t → t.MemOk

/-- The next state of an outcome, if it has one, is canonical. -/
def NextOk (o : Out) : Prop := ∀ t, o = .next t → t.MemOk

/-- The state in the result of a launch's check is canonical. -/
def Checked.MemOk : Checked → Prop
  | .again s => s.MemOk
  | .bad _ s => s.MemOk
  | .good _ s => s.MemOk

section
variable {s t : State} {c : Prop} [Decidable c] {α β ε : Type}

theorem State.MemOk.of_mem (h : s.MemOk) (e : t.mem = s.mem) : t.MemOk := by
  unfold State.MemOk
  rw [e]
  exact h

theorem State.MemOk.ite (hs : s.MemOk) (ht : t.MemOk) : (if c then s else t).MemOk := by
  split
  · exact hs
  · exact ht

theorem State.MemOk.foldl {l : List α} {f : State → α → State} (h : s.MemOk)
    (hf : ∀ s a, s.MemOk → (f s a).MemOk) : (l.foldl f s).MemOk :=
  List.foldlRecOn (motive := State.MemOk) l f h fun u hu a _ => hf u a hu

theorem State.MemOk.foldl_fst {l : List β} {a : State × α} {f : State × α → β → State × α} (h : a.1.MemOk)
    (hf : ∀ a b, a.1.MemOk → (f a b).1.MemOk) : (l.foldl f a).1.MemOk :=
  List.foldlRecOn (motive := fun a => a.1.MemOk) l f h fun a ha b _ => hf a b ha

theorem SndOk.ite {r q : α × State} (hr : SndOk r) (hq : SndOk q) : SndOk (if c then r else q) := by
  split
  · exact hr
  · exact hq

theorem SndOk.of_eq {r : α × State} {a : α} (e : r = (a, t)) (hr : SndOk r) : t.MemOk := by
  subst e
  exact hr

theorem SndOk.foldl {l : List β} {r : α × State} {f : α × State → β → α × State} (h : SndOk r)
    (hf : ∀ r a, SndOk r → SndOk (f r a)) : SndOk (l.foldl f r) :=
  List.foldlRecOn (motive := SndOk) l f h fun r hr a _ => hf r a hr

theorem SomeOk.some (h : s.MemOk) : SomeOk (some s) := by
  rintro _ ⟨⟩
  exact h

theorem SomeOk.none : SomeOk none := by
  rintro _ ⟨⟩

theorem SomeOk.of_eq {o : Option State} (e : o = Option.some t) (ho : SomeOk o) : t.MemOk :=
  ho t e

theorem SomeOk.ite {o p : Option State} (ho : SomeOk o) (hp : SomeOk p) : SomeOk (if c then o else p) := by
  split
  · exact ho
  · exact hp

theorem SomeOk.bind {o : Option State} {f : State → Option State} (ho : SomeOk o)
    (hf : ∀ {u : State}, u.MemOk → SomeOk (f u)) : SomeOk (o.bind f) := by
  cases o with
  | none => exact .none
  | some u => exact hf (ho u rfl)

theorem SomeOk.getD {o : Option State} (ho : SomeOk o) (h : s.MemOk) : (o.getD s).MemOk := by
  cases o with
  | none => exact h
  | some u => exact ho u rfl

theorem NextOk.next (h : s.MemOk) : NextOk (.next s) := by
  rintro _ ⟨⟩
  exact h

theorem NextOk.fault {r : Fault} : NextOk (.fault r) := by
  rintro _ ⟨⟩

theorem NextOk.refused {r : Refusal} : NextOk (.refused r) := by
  rintro _ ⟨⟩

theorem NextOk.ite {o p : Out} (ho : NextOk o) (hp : NextOk p) : NextOk (if c then o else p) := by
  split
  · exact ho
  · exact hp

theorem Checked.MemOk.ite {a b : Checked} (ha : a.MemOk) (hb : b.MemOk) : (if c then a else b).MemOk := by
  split
  · exact ha
  · exact hb

variable {E : ε → Prop} {P : α → Prop} {Q : β → Prop} {x y : Except ε α} {f : α → Except ε β}

theorem Ends.ite (hx : Ends E P x) (hy : Ends E P y) : Ends E P (if c then x else y) := by
  split
  · exact hx
  · exact hy

theorem Ends.bind (hx : Ends E P x) (hf : ∀ a, P a → Ends E Q (f a)) : Ends E Q (x >>= f) := by
  cases hx with
  | error h => exact .error h
  | ok h => exact hf _ h

/-- `Ends.bind` after a check whose answer carries no state. -/
theorem Ends.seq (hx : Ends E (fun _ => True) x) (hf : ∀ a, Ends E Q (f a)) : Ends E Q (x >>= f) :=
  hx.bind fun a _ => hf a

/-- What follows a branch of a `do` block, which Lean writes out in both branches. -/
theorem Ends.iteBind (hx : Ends E P x) (hy : Ends E P y) (hf : ∀ a, P a → Ends E Q (f a)) :
    Ends E Q (if c then x >>= f else y >>= f) :=
  .ite (hx.bind hf) (hy.bind hf)

theorem Ends.map {g : α → β} (hx : Ends E P x) (hg : ∀ a, P a → Q (g a)) : Ends E Q (g <$> x) := by
  cases hx with
  | error h => exact .error h
  | ok h => exact .ok (hg _ h)

theorem Ends.of_ok {a : α} (e : x = .ok a) (hx : Ends E P x) : P a := by
  subst e
  cases hx
  assumption

theorem Ends.of_error {e : ε} (he : x = .error e) (hx : Ends E P x) : E e := by
  subst he
  cases hx
  assumption

theorem Ends.state_of_ok {x : Except ε (α × State)} {a : α} (e : x = .ok (a, t)) (hx : Ends E SndOk x) : t.MemOk :=
  SndOk.of_eq rfl (Ends.of_ok e hx)

theorem Ends.state_of_error {x : Except (ε × State) α} {e : ε} (he : x = .error (e, t)) (hx : Ends SndOk P x) :
    t.MemOk :=
  SndOk.of_eq rfl (Ends.of_error he hx)

theorem Ends.forM {l : List β} {g : β → Except ε PUnit} (hg : ∀ a, Ends E (fun _ => True) (g a)) :
    Ends E (fun _ => True) (l.forM g) := by
  induction l with
  | nil => exact .ok trivial
  | cons a l ih => exact (hg a).seq fun _ => ih

theorem Ends.foldlM {l : List β} {a : α} {g : α → β → Except ε α} (ha : P a) (hg : ∀ a b, P a → Ends E P (g a b)) :
    Ends E P (l.foldlM g a) := by
  induction l generalizing a with
  | nil => exact .ok ha
  | cons b l ih => exact (hg a b ha).bind fun _ h => ih h

theorem Ends.finish {x : M State} (hx : Ends State.MemOk State.MemOk x) : NextOk (finish x) := by
  cases hx with
  | error h => exact .next h
  | ok h => exact .next h

end

section
variable {s t : State}

/-! ### Shared operations (`Ops`) -/

theorem State.MemOk.setTile {t v} (h : s.MemOk) : (s.setTile t v).MemOk :=
  h

theorem State.MemOk.modTile {t f} (h : s.MemOk) : (s.modTile t f).MemOk :=
  h.setTile

theorem State.MemOk.setSlot {t k v} (h : s.MemOk) : (s.setSlot t k v).MemOk :=
  h.setTile

theorem State.MemOk.modSlot {t k f} (h : s.MemOk) : (s.modSlot t k f).MemOk :=
  h.setSlot

theorem State.MemOk.modTh {f} (h : s.MemOk) : (s.modTh f).MemOk :=
  h.modSlot

theorem State.MemOk.setDie {vd v} (h : s.MemOk) : (s.setDie vd v).MemOk :=
  h

theorem State.MemOk.modDie {vd f} (h : s.MemOk) : (s.modDie vd f).MemOk :=
  h.setDie

theorem State.MemOk.emit {i} (h : s.MemOk) : (s.emit i).MemOk :=
  h

theorem State.MemOk.emits {l} (h : s.MemOk) : (s.emits l).MemOk :=
  h

theorem State.MemOk.after {vd n i} (h : s.MemOk) : (s.after vd n i).MemOk :=
  h

theorem State.MemOk.unTimer {i} (h : s.MemOk) : (s.unTimer i).MemOk :=
  h

theorem State.MemOk.hostOut {h'} (h : s.MemOk) : (s.hostOut h').MemOk :=
  h

theorem State.MemOk.freshWord (h : s.MemOk) : SndOk s.freshWord :=
  h

theorem State.MemOk.emitOnce {e} (h : s.MemOk) : (s.emitOnce e).MemOk :=
  .ite h h.emit

theorem State.MemOk.notifySlot {t k} (h : s.MemOk) : (s.notifySlot t k).MemOk := by
  unfold State.notifySlot
  split
  · exact .ite h h.emitOnce
  · exact h

theorem State.MemOk.notify {t k} (h : s.MemOk) : (s.notify t k).MemOk := by
  unfold State.notify
  split
  · split
    · exact h.notifySlot
    · exact h
  · exact h.notifySlot

theorem State.MemOk.notifyAll {t} (h : s.MemOk) : (s.notifyAll t).MemOk :=
  h.foldl fun _ _ h1 => h1.notify

theorem State.MemOk.wakeIf {t k reason} (h : s.MemOk) : (s.wakeIf t k reason).MemOk :=
  .ite h.setSlot h

theorem State.MemOk.departAgain {t k} (h : s.MemOk) : (s.departAgain t k).MemOk :=
  .ite h.emitOnce h

theorem State.MemOk.wakeReader {t k r} (h : s.MemOk) : (s.wakeReader t k r).MemOk :=
  .ite h.wakeIf h

theorem State.MemOk.filled {t k r} (h : s.MemOk) : (s.filled t k r).MemOk := by
  unfold State.filled
  extract_lets s2
  have hs2 : s2.MemOk := h.wakeReader.notify.departAgain
  clear_value s2
  split
  · exact .ite hs2.after hs2
  · exact hs2

theorem State.MemOk.fillReg {t k r v bad} (h : s.MemOk) : (s.fillReg t k r v bad).MemOk :=
  .ite h.notify h.modSlot.filled

theorem State.MemOk.fillPair {t k r lo hi bad} (h : s.MemOk) : (s.fillPair t k r lo hi bad).MemOk :=
  .ite h.notify h.modSlot.filled.filled

theorem State.MemOk.setMhz {vd mhz} (h : s.MemOk) : (s.setMhz vd mhz).MemOk :=
  .ite h (.modDie (.of_mem h rfl))

theorem State.MemOk.clockBack {vd} (h : s.MemOk) : (s.clockBack vd).MemOk :=
  .ite h.setMhz h

theorem State.MemOk.msix {vd vec} (h : s.MemOk) : (s.msix vd vec).MemOk :=
  .ite h.modDie h.hostOut

theorem State.MemOk.reportUc {vd} (h : s.MemOk) : (s.reportUc vd).MemOk :=
  .msix (.msix (.of_mem (.of_mem h rfl) rfl))

theorem State.MemOk.logError {vd bank uc cause addr ctx} (h : s.MemOk) :
    (s.logError vd bank uc cause addr ctx).MemOk :=
  .ite h.setDie.reportUc h.setDie

theorem State.MemOk.clearBank {vd bank} (h : s.MemOk) : (s.clearBank vd bank).MemOk :=
  .ite h.setDie.reportUc h.setDie

theorem State.MemOk.modLink {key f} (h : s.MemOk) : (s.modLink key f).MemOk :=
  h

theorem State.MemOk.armReplay {key} (h : s.MemOk) : (s.armReplay key).MemOk :=
  .ite h.unTimer h.unTimer.after

theorem State.MemOk.transmit {key vc cells} (h : s.MemOk) : (s.transmit key vc cells).MemOk :=
  .ite h.modLink.armReplay h.modLink

theorem State.MemOk.drainSome {fuel key} (h : s.MemOk) : (State.drainSome fuel key s).MemOk := by
  induction fuel generalizing s with
  | zero => exact h
  | succ fuel ih =>
    unfold State.drainSome
    split
    · exact h
    · split
      · exact h
      · exact ih (.transmit (.of_mem h rfl))

theorem State.MemOk.drainLink {key} (h : s.MemOk) : (s.drainLink key).MemOk :=
  .ite h.drainSome h

theorem State.MemOk.toLink {key i m} (h : s.MemOk) : (s.toLink key i m).MemOk :=
  .drainLink (.of_mem h rfl)

theorem State.MemOk.sendFrame {key} (h : s.MemOk) : (s.sendFrame key).MemOk := by
  unfold State.sendFrame
  extract_lets L cells L1 full bs src L2 s1
  have hs1 : s1.MemOk := h.modLink
  clear_value s1
  split
  · exact h
  · split
    · exact h.modLink
    · split
      · exact .of_mem hs1 rfl
      · split
        · exact hs1.emit
        · exact hs1

theorem State.MemOk.pass {vd transit i m} (h : s.MemOk) :
    Ends (fun _ => True) State.MemOk (s.pass vd transit i m) := by
  unfold State.pass
  split
  · exact .ok h.emit
  · exact .ok h.toLink
  · exact .error trivial

theorem State.MemOk.logLost {vd c m} (h : s.MemOk) : (s.logLost vd c m).MemOk :=
  h.logError

theorem State.MemOk.sendFrom {vd transit vc i m} (h : s.MemOk) : (s.sendFrom vd transit vc i m).MemOk := by
  unfold State.sendFrom
  split
  next he => exact Ends.of_ok he h.pass
  · split
    · split
      next he =>
        split at he
        · exact Ends.of_ok he h.pass
        · exact Ends.of_ok he h.pass
      · exact h.logLost
    · exact h.logLost

theorem State.MemOk.send {vc i m} (h : s.MemOk) : (s.send vc i m).MemOk :=
  h.sendFrom

theorem State.MemOk.wakeGuard {t} (h : s.MemOk) : (s.wakeGuard t).MemOk :=
  h.foldl fun _ _ h1 => h1.wakeIf

theorem State.MemOk.donePend {t k tag} (h : s.MemOk) : (s.donePend t k tag).MemOk := by
  unfold State.donePend
  extract_lets s0 s1
  have hs0 : s0.MemOk := h.modSlot
  clear_value s0
  have hs1 : s1.MemOk := .wakeGuard (.ite (hs0.notifyAll.foldl fun _ _ h1 => h1.emitOnce) hs0.notify)
  clear_value s1
  exact hs1.departAgain

theorem State.MemOk.leaveAll {t k} (h : s.MemOk) : (s.leaveAll t k).MemOk :=
  h.foldl fun _ _ h1 => .ite h1.modSlot.send h1

theorem State.MemOk.unholdTile {t} (h : s.MemOk) : (s.unholdTile t).MemOk := by
  unfold State.unholdTile
  extract_lets T src
  have hsrc : src.MemOk := h.setTile
  clear_value src
  exact .of_mem hsrc rfl

theorem State.MemOk.unlockAll {t k} (h : s.MemOk) : (s.unlockAll t k).MemOk :=
  h.modTile.notifyAll.unholdTile

theorem State.MemOk.checkRetire {t k} (h : s.MemOk) : (s.checkRetire t k).MemOk := by
  unfold State.checkRetire
  split
  · exact h
  · exact .ite h h.emit

theorem State.MemOk.divFreed {t} (h : s.MemOk) : (s.divFreed t).MemOk := by
  unfold State.divFreed
  extract_lets T
  split
  · exact h.setTile
  · exact h.setTile.notify

theorem State.MemOk.dropDivide {t k} (h : s.MemOk) : (s.dropDivide t k).MemOk := by
  unfold State.dropDivide
  split
  · exact .ite (.divFreed (.of_mem h rfl)) h
  · exact .ite h.divFreed h

theorem State.MemOk.kill {t k sub val} (h : s.MemOk) : (s.kill t k sub val).MemOk := by
  unfold State.kill
  extract_lets h' h1 s1 s2
  have hs1 : s1.MemOk := h.setSlot.logError
  clear_value s1
  have hs2 : s2.MemOk := hs1.unlockAll.leaveAll.dropDivide
  clear_value s2
  exact hs2.setSlot.modDie.checkRetire

theorem State.MemOk.beginMove {dst pa la} (h : s.MemOk) : (s.beginMove dst pa la).MemOk :=
  h.modTh.emit

theorem State.MemOk.goHome (h : s.MemOk) : s.goHome.MemOk :=
  h.beginMove

theorem State.MemOk.trap {code sub val} (h : s.MemOk) : (s.trap code sub val).MemOk :=
  .ite h.modTh (.ite h.goHome (.ite h.kill h.modTh))

theorem State.MemOk.park {reason} (h : s.MemOk) : (s.park reason).MemOk :=
  .ite h.modTh (.ite h.goHome h.modTh)

theorem State.MemOk.block {b} (h : s.MemOk) : (s.block b).MemOk :=
  h.modTh

/-! ### Operands, translation and homes (`Operands`) -/

theorem State.MemOk.wrackTo {m} (h : s.MemOk) : (s.wrackTo m).MemOk :=
  .ite h h.send

theorem State.MemOk.wordIn {m} (h : s.MemOk) : (s.wordIn m).MemOk :=
  .ite h.modSlot.notify h

theorem State.MemOk.fifoPush {t ch m} (h : s.MemOk) : (s.fifoPush t ch m).MemOk :=
  h.modTile.wakeReader.notify

theorem State.MemOk.fifoPop {t ch} (h : s.MemOk) : (s.fifoPop t ch).MemOk := by
  unfold State.fifoPop
  split
  · exact h
  · extract_lets s1
    have hs1 : s1.MemOk := h.modTile.wrackTo
    clear_value s1
    split
    · exact hs1.unholdTile
    · exact hs1.modTile.fifoPush.unholdTile

theorem State.MemOk.enter {i c fmt pl} (h : s.MemOk) :
    Ends State.MemOk (fun _ => True) (enter i c fmt pl s) :=
  .ite (.error h.block) (.ite (.error h.goHome) (.ite (.error h.trap) (.ite (.error h.trap) (.ite
      (.error h.block) (.ok trivial)))))

theorem State.MemOk.readSrc {i srcs r} (h : s.MemOk) :
    Ends State.MemOk (fun _ => True) (readSrc i srcs r s) := by
  unfold Machine.readSrc
  extract_lets h' n mode
  split
  · split
    · exact .error h.block
    · split
      · exact .error h.goHome
      · split
        · exact .ok trivial
        · exact .ite (.error h.trap) (.ite (.error h.modTh.park) (.error h.block))
  · exact .ite (.ite (.error h.trap) (.ok trivial)) (.ite (.error h.trap) (.ite (.error h.modTh.park)
      (.error h.block)))

theorem State.MemOk.consume {srcs} (h : s.MemOk) : (consume srcs s).MemOk :=
  h.foldl fun _ _ h1 => .ite h1.fifoPop (.ite h1.modTh h1)

theorem State.MemOk.destReady {d} (h : s.MemOk) : Ends State.MemOk (fun _ => True) (destReady d s) :=
  .ite (.ite (.error h.block) (.ite (.error h.goHome) (.ite (.error h.block) (.ok trivial)))) (.ite
      (.error h.block) (.ok trivial))

theorem State.MemOk.destLater {i d} (h : s.MemOk) : Ends State.MemOk (fun _ => True) (destLater i d s) :=
  .ite (.error h.trap) (.ite (.error h.block) (.ok trivial))

theorem State.MemOk.destLaterPair {i d} (h : s.MemOk) :
    Ends State.MemOk (fun _ => True) (destLaterPair i d s) :=
  .ite (.error h.block) (.ite (.error h.trap) (.ok trivial))

theorem State.MemOk.chanSend {j v} (h : s.MemOk) : (s.chanSend j v).MemOk :=
  h.modTh.send

theorem State.MemOk.writeResult {d v} (h : s.MemOk) : (writeResult d v s).MemOk :=
  .ite h.chanSend h.modTh

theorem State.MemOk.commitWith {srcs d v} (h : s.MemOk) : (commitWith srcs d v s).MemOk :=
  h.consume.writeResult.modTh

theorem State.MemOk.commitPlain {srcs} (h : s.MemOk) : (commitPlain srcs s).MemOk :=
  h.consume.modTh

theorem State.MemOk.seg {rights sn off n} (h : s.MemOk) :
    Ends State.MemOk (fun _ => True) (seg rights sn off n s) := by
  unfold Machine.seg
  split
  · exact .ok trivial
  · exact .error h.trap

theorem State.MemOk.aligned {p n off} (h : s.MemOk) : Ends State.MemOk (fun _ => True) (aligned p n off s) :=
  .ite (.ok trivial) (.error h.trap)

theorem State.MemOk.logViolation {t la slot cause path deferred pa} (h : s.MemOk) :
    SndOk (s.logViolation t la slot cause path deferred pa) := by
  unfold State.logViolation
  extract_lets T drop v
  split
  · exact h.setTile
  · exact h.setTile

theorem State.MemOk.rangeTrap {cause path la pa} (h : s.MemOk) : (rangeTrap cause path la pa s).MemOk := by
  unfold Machine.rangeTrap
  split
  · exact h.block
  · split
    · exact h.goHome
    · refine State.MemOk.trap ?_
      split
      · exact h.setTile
      · exact h.setTile

theorem State.MemOk.pendViolation {t k cause n} (h : s.MemOk) : (s.pendViolation t k cause n).MemOk := by
  unfold State.pendViolation
  extract_lets s2 h'
  have hs2 : s2.MemOk := h.modSlot
  clear_value s2
  split
  · exact hs2.notify
  · exact hs2
  · exact hs2.modSlot
  · exact .ite hs2.setSlot hs2
  · exact hs2

theorem State.MemOk.deferRange {t k la cause pa} (h : s.MemOk) : (s.deferRange t k la cause pa).MemOk := by
  unfold State.deferRange
  refine State.MemOk.pendViolation ?_
  split
  · exact h.setTile
  · exact h.setTile

theorem State.MemOk.swapTimer {t k} (h : s.MemOk) : (s.swapTimer t k).MemOk :=
  h.after

theorem State.MemOk.sendFrec {t k la asid level cause path kind entry} (h : s.MemOk) :
    (s.sendFrec t k la asid level cause path kind entry).MemOk :=
  h.modTile.send.after.swapTimer

theorem State.MemOk.putRec {pa v} (h : s.MemOk) : (s.putRec pa v).MemOk :=
  Memory.wf_wrLE _ _ _ _ h

theorem State.MemOk.cacheLeaf {t asid la kind e lvl} (h : s.MemOk) :
    (s.cacheLeaf t asid la kind e lvl).MemOk :=
  h.modTile.modDie

theorem State.MemOk.install {t asid la kind e lvl addr} (h : s.MemOk) :
    (s.install t asid la kind e lvl addr).MemOk :=
  .cacheLeaf (Memory.wf_wrLE _ _ _ _ h)

theorem State.MemOk.dropNodes {t asid la} (h : s.MemOk) : (s.dropNodes t asid la).MemOk :=
  .ite h.modTile h

theorem State.MemOk.translate {t asid la kind} (h : s.MemOk) : SndOk (s.translate t asid la kind) := by
  unfold State.translate
  split
  · exact h
  · split
    · exact h
    · extract_lets s1
      have hs1 : s1.MemOk := h.dropNodes
      clear_value s1
      split
      · exact SndOk.ite hs1.cacheLeaf (SndOk.ite hs1.install hs1)
      · exact h
      · exact hs1
      · exact hs1
      · exact hs1

theorem State.MemOk.faultPark {la lvl cause entry reason kind} (h : s.MemOk) :
    (faultPark la lvl cause entry reason kind s).MemOk :=
  .ite h.goHome h.park.sendFrec

theorem State.MemOk.sweepPark (h : s.MemOk) : s.sweepPark.MemOk :=
  h.park.modTh.swapTimer

theorem State.MemOk.sendOr {t k asid la kind e lvl addr} (h : s.MemOk) :
    (s.sendOr t k asid la kind e lvl addr).MemOk :=
  h.setSlot.send

theorem State.MemOk.askNode {t k asid la pa n} (h : s.MemOk) : (s.askNode t k asid la pa n).MemOk :=
  h.setSlot.send

theorem State.MemOk.leafWait {send : State → State} (h : s.MemOk)
    (hsend : ∀ {u : State}, u.MemOk → (send u).MemOk) :
    (leafWait send s).MemOk :=
  .ite h.block (hsend h).block

theorem State.MemOk.portTranslate {accept la kind} (h : s.MemOk) :
    Ends State.MemOk SndOk (portTranslate accept la kind s) := by
  unfold Machine.portTranslate
  split
  next _ pa lvl s1 he =>
    have hk := SndOk.of_eq he h.translate
    exact .ite (.ok hk) (.error hk.faultPark)
  next he => exact .error (SndOk.of_eq he h.translate).faultPark
  next he => exact .error ((SndOk.of_eq he h.translate).leafWait fun hu => hu.sendOr)
  next he => exact .error ((SndOk.of_eq he h.translate).leafWait fun hu => hu.askNode)
  next he => exact .error (SndOk.of_eq he h.translate).park
  next he => exact .error (SndOk.of_eq he h.translate).sweepPark
  next he => exact .error (SndOk.of_eq he h.translate).trap

theorem State.MemOk.p0Translate {la kind n op} (h : s.MemOk) :
    Ends State.MemOk SndOk (p0Translate la kind n op s) :=
  h.portTranslate

theorem State.MemOk.recSeg {rights sn off n al} (h : s.MemOk) :
    Ends State.MemOk (fun _ => True) (recSeg rights sn off n al s) :=
  h.seg.seq fun _ => h.aligned.seq fun _ => .ok trivial

theorem State.MemOk.recAt {p n} (h : s.MemOk) : Ends State.MemOk SndOk (recAt p n s) := by
  unfold Machine.recAt
  split
  · exact .ok h
  · split
    · exact .error h.park
    · exact .error h.rangeTrap
    · exact .ok h
    · exact h.portTranslate

theorem State.MemOk.recPlace {rights sn off n al} (h : s.MemOk) :
    Ends State.MemOk SndOk (recPlace rights sn off n al s) :=
  h.recSeg.seq fun _ => h.recAt

theorem State.MemOk.bankFree {o n} (h : s.MemOk) : Ends State.MemOk (fun _ => True) (bankFree o n s) :=
  .ite (.error h.block) (.ok trivial)

theorem State.MemOk.p0PlaceAt {rights kind sn off n al op} (h : s.MemOk) :
    Ends State.MemOk SndOk (p0PlaceAt rights kind sn off n al op s) := by
  unfold Machine.p0PlaceAt
  refine h.seg.seq fun p => ?_
  refine h.aligned.seq fun _ => ?_
  extract_lets t k
  split
  · split
    · exact .ite (.error h.goHome) (.ok h)
    · split
      · exact .error h.park
      · exact .error h.rangeTrap
      · exact h.bankFree.seq fun _ => .ok h
  · split
    · exact .ite (.error h.goHome) (h.p0Translate.bind fun _ h1 => .ok h1)
    · split
      · exact .error h.park
      · exact .error h.rangeTrap
      · exact h.bankFree.seq fun _ => .ok h
      · exact h.p0Translate.bind fun _ h1 => .ok h1

theorem State.MemOk.p0Place {rights kind sn off n op} (h : s.MemOk) :
    Ends State.MemOk SndOk (p0Place rights kind sn off n op s) :=
  h.p0PlaceAt

theorem State.MemOk.p0Send {mk pa la n kind w} (h : s.MemOk) : (s.p0Send mk pa la n kind w).MemOk :=
  h.modTh.send

theorem State.MemOk.touchLocal {pa} (h : s.MemOk) : (s.touchLocal pa).MemOk :=
  .ite h.modTh h

/-! ### What a home does (`Home`) -/

theorem State.MemOk.homeWrite {pa bs} (h : s.MemOk) : (s.homeWrite pa bs).MemOk :=
  .ite h (.ite (.modTile (Memory.wf_wrBytes _ _ _ h)) (Memory.wf_wrBytes _ _ _ h))

theorem State.MemOk.fireWatches {pa n} (h : s.MemOk) : (s.fireWatches pa n).MemOk :=
  .ite h.modDie.emits (h.modDie.foldl fun _ _ h1 => h1.send)

theorem State.MemOk.perform {pa bs} (h : s.MemOk) : (s.perform pa bs).MemOk :=
  h.homeWrite.fireWatches

theorem State.MemOk.ethOut {o} (h : s.MemOk) : (s.ethOut o).MemOk :=
  h

theorem State.MemOk.performOut {vd pa bs} (h : s.MemOk) : (s.performOut vd pa bs).MemOk := by
  unfold State.performOut
  extract_lets s1
  have hs1 : s1.MemOk := by
    unfold s1
    split
    · exact h.ethOut
    · exact h.hostOut
    · exact h
  clear_value s1
  exact hs1.perform

theorem State.MemOk.recordEcc {pa ctx} (h : s.MemOk) : (s.recordEcc pa ctx).MemOk :=
  h.logError

theorem State.MemOk.scrub {pa n ctx} (h : s.MemOk) : (s.scrub pa n ctx).MemOk :=
  .foldl (.of_mem h rfl) fun _ _ h1 => h1.logError

theorem State.MemOk.readCheck {pa n ctx} (h : s.MemOk) : (s.readCheck pa n ctx).MemOk :=
  .ite h.scrub.recordEcc h.scrub

theorem State.MemOk.readChecks {places n ctx} (h : s.MemOk) : (s.readChecks places n ctx).MemOk :=
  h.foldl fun _ _ h1 => h1.readCheck

theorem State.MemOk.poisonCells {pa mask} (h : s.MemOk) : (s.poisonCells pa mask).MemOk :=
  h

/-! ### Issue, fetch and the clock tick (`Issue`) -/

theorem State.MemOk.quantumOut {t k} (h : s.MemOk) : (s.quantumOut t k).MemOk :=
  .ite h.emitOnce h

theorem State.MemOk.noteIssue {t k} (h : s.MemOk) : (s.noteIssue t k).MemOk :=
  .ite h.modSlot.modTile.quantumOut h

theorem State.MemOk.lateRevoke {t k} (h : s.MemOk) : (s.lateRevoke t k).MemOk :=
  h.modTile

theorem State.MemOk.discardPath {t k sh pc} (h : s.MemOk) : (s.discardPath t k sh pc).MemOk :=
  h.modSlot.dropDivide.lateRevoke

theorem State.MemOk.leavePath (h : s.MemOk) : s.leavePath.MemOk := by
  unfold State.leavePath
  split
  · exact h.discardPath
  · exact h

theorem State.MemOk.takeCause (h : s.MemOk) : s.takeCause.MemOk := by
  unfold State.takeCause
  extract_lets s' h'
  have hs' : s'.MemOk := h.leavePath
  clear_value s'
  split
  · exact hs'.goHome
  · split
    · exact hs'.trap
    · split
      · exact hs'.modTh.trap
      · split
        · exact hs'.modTh.trap
        · exact hs'.modTh.trap

theorem State.MemOk.fetchEnds {la c} {violation : Nat → State → State} (h : s.MemOk)
    (hv : ∀ {n} {u : State}, u.MemOk → (violation n u).MemOk) : (s.fetchEnds la c violation).MemOk :=
  .ite (hv h) h.faultPark

theorem State.MemOk.wordCheck {pa} (h : s.MemOk) : (s.wordCheck pa).MemOk :=
  .ite h h.readCheck

theorem State.MemOk.fetch (h : s.MemOk) : Ends State.MemOk SndOk s.fetch := by
  unfold State.fetch
  extract_lets k blocked t k2
  refine h.seg.bind fun p _ => .ite (.error h.trap) ?_
  split
  · refine .ite (.error h.goHome) ?_
    -- the `let` before the match is taken in by restating the goal
    show Ends _ _ (match s.fetchRefused _ with | some c => _ | none => _)
    split
    · exact .error h.rangeTrap
    · exact h.bankFree.seq fun _ => .ite (.error h.wordCheck.trap) (.ok h.wordCheck)
  · have hblocked : ∀ {u : State}, u.MemOk → (blocked u).MemOk := fun hu => .ite h.block hu
    clear_value blocked
    split
    next he => exact .error (hblocked (Ends.of_error he h.p0Translate))
    next he =>
      have h1 := Ends.of_ok he h.p0Translate
      extract_lets trapRange s2 s3
      have hrange : ∀ {c} {u : State}, u.MemOk → (trapRange c u).MemOk := fun hu => hu.rangeTrap
      clear_value trapRange
      split
      · exact .error (hrange h1)
      · split
        · exact .error (hblocked (State.MemOk.leafWait h1 fun hu => hu.askNode))
        · have h2 : s2.MemOk := State.MemOk.dropNodes h1
          clear_value s2
          have h3 : s3.MemOk := .ite h2 h2.wordCheck
          clear_value s3
          exact .ite (.error h3.trap) (.ite (.error (hblocked (h2.fetchEnds hrange))) (.ok h3))

theorem State.MemOk.redoLoad {rd size sx la} (h : s.MemOk) :
    Ends State.MemOk State.MemOk (s.redoLoad rd size sx la) := by
  unfold State.redoLoad
  extract_lets t k rest go
  split
  · exact .error h.park
  · exact .error h.modTh.rangeTrap
  · exact h.bankFree.seq fun _ => .ok h.modTh.modTh.p0Send
  · exact h.p0Translate.bind fun _ h1 => .ok h1.modTh.modTh.p0Send

theorem State.MemOk.prepare {t k} (h : s.MemOk) :
    Ends State.MemOk (fun r => r.2.2.MemOk) (s.prepare t k) := by
  unfold State.prepare
  extract_lets s0 s1
  have hs0 : s0.MemOk := .of_mem h rfl
  clear_value s0
  have hs1 : s1.MemOk := hs0.modTh
  clear_value s1
  split
  · exact .error hs1.takeCause
  · split
    · exact .error (.ite hs1.sweepPark hs1.park)
    · split
      · split
        · exact .error hs1
        · split
          next he => exact .error (Ends.of_ok he hs1.redoLoad)
          next he => exact .error (Ends.of_error he hs1.redoLoad)
      · refine hs1.fetch.bind fun ⟨w, s2⟩ h1 => ?_
        dsimp only
        split
        · exact .ok h1
        · exact .error h1.trap

theorem State.MemOk.logChecksum {t k} (h : s.MemOk) : (s.logChecksum t k).MemOk :=
  h.logError

theorem State.MemOk.checker {w o} (h : s.MemOk) (ho : NextOk o) : NextOk (checker w s o) := by
  cases o with
  | next s1 =>
    have h1 : s1.MemOk := ho s1 rfl
    exact .ite (.next h1) (.ite (.next h1.modTh.logChecksum) (.ite (.next h.block) (.next h.modTh.trap)))
  | fault f => exact .fault
  | refused r => exact .refused

theorem State.MemOk.tick {vds} (h : s.MemOk) : (s.tick vds).MemOk :=
  .foldl (.of_mem h rfl) fun _ _ h1 => h1.sendFrame

/-! ### Scalar instructions (`Scalar`) -/

theorem State.MemOk.alu2 {i d a b f} (h : s.MemOk) : Ends State.MemOk State.MemOk (alu2 i d a b f s) :=
  h.enter.seq fun _ => h.readSrc.seq fun _ => h.readSrc.seq fun _ => h.destReady.seq fun _ => .ok h.commitWith

theorem State.MemOk.alu1 {i d a f} (h : s.MemOk) : Ends State.MemOk State.MemOk (alu1 i d a f s) :=
  h.enter.seq fun _ => h.readSrc.seq fun _ => h.destReady.seq fun _ => .ok h.commitWith

theorem State.MemOk.alu0 {i d v} (h : s.MemOk) : Ends State.MemOk State.MemOk (alu0 i d v s) :=
  h.enter.seq fun _ => h.destReady.seq fun _ => .ok h.commitWith

theorem State.MemOk.startDivide {i srcs d v flags rngs} (h : s.MemOk) :
    Ends State.MemOk State.MemOk (startDivide i srcs d v flags rngs s) :=
  .ite (.error h.block) (.ok h.setTile.block.emit)

theorem State.MemOk.divide {i d a b f} (h : s.MemOk) : Ends State.MemOk State.MemOk (divide i d a b f s) :=
  h.enter.seq fun _ => h.readSrc.seq fun _ => h.readSrc.seq fun _ => h.destReady.seq fun _ => h.startDivide

theorem State.MemOk.dividerDone (h : s.MemOk) : (dividerDone s).MemOk := by
  unfold Machine.dividerDone
  extract_lets t T
  split
  · exact h
  · extract_lets src s1
    have hsrc : src.MemOk := h.setTile
    clear_value src
    have hs1 : s1.MemOk := .of_mem hsrc rfl
    clear_value s1
    exact hs1.commitWith.modTh.divFreed.quantumOut

theorem State.MemOk.select {i d a b c whenZero} (h : s.MemOk) :
    Ends State.MemOk State.MemOk (select i d a b c whenZero s) :=
  h.enter.seq fun _ => h.readSrc.seq fun _ => h.readSrc.seq fun _ => h.readSrc.seq fun _ =>
      h.destReady.seq fun _ => .ok h.commitWith

theorem State.MemOk.insertBits {i d a p w} (h : s.MemOk) :
    Ends State.MemOk State.MemOk (insertBits i d a p w s) :=
  h.enter.seq fun _ => .ite (.error h.trap) (h.readSrc.seq fun _ => h.readSrc.seq fun _ =>
      h.destReady.seq fun _ => .ok h.commitWith)

theorem State.MemOk.commitBranch {srcs taken target} (h : s.MemOk) :
    (commitBranch srcs taken target s).MemOk :=
  h.consume.modTh

theorem State.MemOk.branch {i cond a imm p} (h : s.MemOk) :
    Ends State.MemOk State.MemOk (branch i cond a imm p s) :=
  h.enter.seq fun _ => .ite (.ok h.modTh) (h.readSrc.seq fun _ => .ok h.commitBranch)

theorem State.MemOk.branchFull {i want a imm} (h : s.MemOk) :
    Ends State.MemOk State.MemOk (branchFull i want a imm s) :=
  h.enter.seq fun _ => .ite (.error (.ite h.block h.goHome)) (.ok h.commitBranch)

theorem State.MemOk.commitJump {srcs d target} (h : s.MemOk) : (commitJump srcs d target s).MemOk :=
  h.consume.writeResult.modTh

theorem State.MemOk.jump {i d imm} (h : s.MemOk) : Ends State.MemOk State.MemOk (jump i d imm s) :=
  h.enter.seq fun _ => h.destReady.seq fun _ => .ok h.commitJump

theorem State.MemOk.jumpReg {i d a imm} (h : s.MemOk) : Ends State.MemOk State.MemOk (jumpReg i d a imm s) :=
  h.enter.seq fun _ => h.readSrc.seq fun _ => h.destReady.seq fun _ => .ok h.commitJump

/-! ### FP32 instructions (`Fp`) -/

theorem State.MemOk.commitFp {srcs d v flags adv} (h : s.MemOk) : (commitFp srcs d v flags adv s).MemOk :=
  h.commitWith.modTh

theorem State.MemOk.fp2 {i d a b adv g} (h : s.MemOk) : Ends State.MemOk State.MemOk (fp2 i d a b adv g s) :=
  h.enter.seq fun _ => h.readSrc.seq fun _ => h.readSrc.seq fun _ => h.destReady.seq fun _ => .ok h.commitFp

theorem State.MemOk.fp1 {i d a adv g} (h : s.MemOk) : Ends State.MemOk State.MemOk (fp1 i d a adv g s) :=
  h.enter.seq fun _ => h.readSrc.seq fun _ => h.destReady.seq fun _ => .ok h.commitFp

theorem State.MemOk.fpDivide {i d a b} (h : s.MemOk) : Ends State.MemOk State.MemOk (fpDivide i d a b s) :=
  h.enter.seq fun _ => h.readSrc.seq fun _ => h.readSrc.seq fun _ => h.destReady.seq fun _ => h.startDivide

theorem State.MemOk.fpRoot {i d a} (h : s.MemOk) : Ends State.MemOk State.MemOk (fpRoot i d a s) :=
  h.enter.seq fun _ => h.readSrc.seq fun _ => h.destReady.seq fun _ => h.startDivide

theorem State.MemOk.fma {i sub d a b c} (h : s.MemOk) : Ends State.MemOk State.MemOk (fma i sub d a b c s) :=
  h.enter.seq fun _ => h.readSrc.seq fun _ => h.readSrc.seq fun _ => h.readSrc.seq fun _ =>
      h.destReady.seq fun _ => .ok h.commitFp

/-! ### Loads, stores, atomics and FENCE (`Mem`) -/

theorem State.MemOk.lea {i d sg a c imm} (h : s.MemOk) :
    Ends State.MemOk State.MemOk (lea i d sg a c imm s) := by
  unfold Machine.lea
  refine h.enter.seq fun _ => ?_
  refine h.readSrc.seq fun x => ?_
  refine h.destReady.seq fun _ => ?_
  extract_lets off
  split
  · exact .error h.trap
  · exact .ok h.commitWith

theorem State.MemOk.segrd {i d sg p} (h : s.MemOk) : Ends State.MemOk State.MemOk (segrd i d sg p s) :=
  h.enter.seq fun _ => h.destReady.seq fun _ => .ok h.commitWith

theorem State.MemOk.moveThread {dst pa la} (h : s.MemOk) : (moveThread dst pa la s).MemOk := by
  unfold Machine.moveThread
  split
  · exact .ite h.beginMove h.trap
  · exact h.modSlot.beginMove

theorem State.MemOk.loadPlace {sn off n} (h : s.MemOk) : Ends State.MemOk SndOk (loadPlace sn off n s) := by
  unfold Machine.loadPlace
  refine h.p0Place.bind fun ⟨p, s1⟩ h1 => ?_
  dsimp only
  split
  · exact .error h1.moveThread
  · exact .ite (.error h1.block) (.ok h1)

theorem State.MemOk.load {i d sg a imm size sx} (h : s.MemOk) :
    Ends State.MemOk State.MemOk (load i d sg a imm size sx s) :=
  h.enter.seq fun _ => h.readSrc.seq fun _ => .iteBind h.destLaterPair h.destLater fun _ _ =>
      h.loadPlace.bind fun _ h4 => .ok h4.consume.modTh.p0Send.modTh.touchLocal

theorem State.MemOk.segLoad {i d sg a imm} (h : s.MemOk) :
    Ends State.MemOk State.MemOk (segLoad i d sg a imm s) :=
  h.enter.seq fun _ => h.readSrc.seq fun _ => h.loadPlace.bind fun _ h3 => .ok h3.p0Send.block.touchLocal

theorem State.MemOk.readPair {i srcs a} (h : s.MemOk) :
    Ends State.MemOk (fun _ => True) (readPair i srcs a s) :=
  h.readSrc.seq fun _ => .ite (.ok trivial) (h.readSrc.seq fun _ => .ok trivial)

theorem State.MemOk.store {i t sg a imm size} (h : s.MemOk) :
    Ends State.MemOk State.MemOk (store i t sg a imm size s) :=
  h.enter.seq fun _ => .seq (.ite h.readPair (h.readSrc.seq fun _ => .ok trivial)) fun _ =>
      h.readSrc.seq fun _ => h.p0Place.bind fun _ h4 => .ite (.error h4.block)
      (.ok h4.consume.p0Send.modTh.touchLocal)

theorem State.MemOk.atomic {i op d sg a b} (h : s.MemOk) :
    Ends State.MemOk State.MemOk (atomic i op d sg a b s) :=
  h.enter.seq fun _ => h.readSrc.seq fun _ => h.readSrc.seq fun _ => .seq (.ite h.readSrc
      (.ok trivial)) fun _ => h.destLater.seq fun _ => h.p0Place.bind fun _ h6 => .ite (.error h6.block)
      (.ok h6.consume.modTh.p0Send.modTh.touchLocal)

theorem State.MemOk.fenceFirst {mask scope} (h : s.MemOk) :
    Ends State.MemOk (fun _ => True) (fenceFirst mask scope s) :=
  .ite (.error h.block) (.ok trivial)

theorem State.MemOk.fence {i c p} (h : s.MemOk) : Ends State.MemOk State.MemOk (fence i c p s) :=
  h.enter.seq fun _ => .ite (.error h.block) (.ok h.commitPlain)

/-! ### Receiving a message (`Deliver`) -/

theorem State.MemOk.answer {i f} (h : s.MemOk) : (s.answer i f).MemOk :=
  h.send

theorem State.MemOk.refuse {cause} (h : s.MemOk) : (s.refuse cause).MemOk := by
  unfold State.refuse
  extract_lets m t s1
  have hs1 : s1.MemOk := .ite h.logError (.ite h.logViolation h)
  clear_value s1
  exact hs1.answer

theorem State.MemOk.holdDie {vd e} (h : s.MemOk) : (s.holdDie vd e).MemOk :=
  h.modDie

theorem State.MemOk.unholdDie {vd} (h : s.MemOk) : (s.unholdDie vd).MemOk := by
  unfold State.unholdDie
  extract_lets D src
  have hsrc : src.MemOk := h.setDie
  clear_value src
  exact .of_mem hsrc rfl

theorem State.MemOk.holdTile {t e} (h : s.MemOk) : (s.holdTile t e).MemOk :=
  h.modTile

theorem State.MemOk.waitResv {pa n e} (h : s.MemOk) : (s.waitResv pa n e).MemOk :=
  h.modDie

theorem State.MemOk.ioAsk {vd i} {out : Nat → State → State} (h : s.MemOk)
    (ho : ∀ {n} {u : State}, u.MemOk → (out n u).MemOk) : (s.ioAsk vd i out).MemOk :=
  ho h.modDie

theorem State.MemOk.atHome {i path n p0Load write} (h : s.MemOk) :
    Ends State.MemOk (fun _ => True) (atHome i path n p0Load write s) := by
  unfold Machine.atHome
  extract_lets m pa
  split
  · exact .error h.sendFrom
  · split
    · exact .error h.holdTile
    · split
      · exact .error h.refuse
      · split
        · exact .error h.refuse
        · exact .ite (.error h.waitResv) (.ok trivial)

theorem State.MemOk.scramble {pa n} (h : s.MemOk) : (s.scramble pa n).MemOk :=
  Memory.wf_wrBytes _ _ _ h

theorem State.MemOk.outcome {t k tag rd v} (h : s.MemOk) : (s.outcome t k tag rd v).MemOk :=
  h.fillReg.donePend

/-! ### Guard instructions and the tile's side of guards (`Guard`) -/

theorem State.MemOk.settle {t k tag} (h : s.MemOk) : (s.settle t k tag).MemOk :=
  h.modSlot

theorem State.MemOk.ask {mk pa kind f} (h : s.MemOk) : (s.ask mk pa kind f).MemOk :=
  h.modTh.send

theorem State.MemOk.regionHome {t e o} (h : s.MemOk) : SndOk (s.regionHome t e o) := by
  unfold State.regionHome
  extract_lets bound asked
  clear_value bound asked
  split
  next he => exact SndOk.of_eq he h.translate
  next he => exact State.MemOk.ite (SndOk.of_eq he h.translate) (SndOk.of_eq he h.translate).sendOr
  next he => exact State.MemOk.ite (SndOk.of_eq he h.translate) (SndOk.of_eq he h.translate).askNode
  next he => exact SndOk.of_eq he h.translate
  next he => exact SndOk.of_eq he h.translate
  next he =>
    split
    · exact SndOk.of_eq he h.translate
    · exact SndOk.of_eq he h.translate

theorem State.MemOk.p4Write {t e u pa} (h : s.MemOk) : (s.p4Write t e u pa).MemOk :=
  h.readCheck.setSlot.send

theorem State.MemOk.bindAgain {t} (h : s.MemOk) : (s.bindAgain t).MemOk :=
  h.foldl fun _ _ h1 => h1.foldl fun _ _ h2 => h2.modSlot.send

theorem State.MemOk.wbStep {t k grec} (h : s.MemOk) : (s.wbStep t k grec).MemOk := by
  unfold State.wbStep
  split
  · exact h
  · split
    · exact h
    · exact .ite h h.send.modTile.bindAgain

theorem State.MemOk.wbUnits {t k grec n} (h : s.MemOk) : (State.wbUnits t k grec n s).MemOk := by
  induction n generalizing s with
  | zero => exact h
  | succ n ih =>
    unfold State.wbUnits
    split
    · exact h
    · refine .ite h.wbStep (.ite h.holdTile (.ite h.after ?_))
      split
      next he => exact ih (SndOk.of_eq he h.regionHome).p4Write.modTile
      next he => exact ih (SndOk.of_eq he h.regionHome).modTile
      next he => exact .ite (SndOk.of_eq he h.regionHome).after (SndOk.of_eq he h.regionHome)

theorem State.MemOk.writeBack {t e} (h : s.MemOk) : (s.writeBack t e).MemOk :=
  .ite h h.modTile.wbUnits

theorem State.MemOk.awaitPlace {t k tag} (h : s.MemOk) : (s.awaitPlace t k tag).MemOk :=
  h.modSlot

theorem State.MemOk.makePending {t k pa b spoff excl isTry rd} (h : s.MemOk) :
    (s.makePending t k pa b spoff excl isTry rd).MemOk := by
  unfold State.makePending
  extract_lets fresh
  split
  · exact .ite h.modTile h.modTile
  · exact h.modTile

theorem State.MemOk.sendAcq {t k pa tag} (h : s.MemOk) : (s.sendAcq t k pa tag).MemOk := by
  unfold State.sendAcq
  split
  · exact h.send
  · exact h

theorem State.MemOk.acqFail {t k pa tag status} (h : s.MemOk) : (s.acqFail t k pa tag status).MemOk := by
  unfold State.acqFail
  split
  · extract_lets rd undone s1
    have hs1 : s1.MemOk := .ite h.modTile (.ite h.modTile (.ite h.modTile h.scramble.modTile))
    clear_value s1
    exact hs1.outcome.wakeGuard
  · exact h.outcome.wakeGuard
  · exact h

theorem State.MemOk.illValue {bad v} (h : s.MemOk) : Ends State.MemOk (fun _ => True) (illValue bad v s) :=
  .ite (.error h.trap) (.ok trivial)

theorem State.MemOk.commitOutcome {srcs d status} (h : s.MemOk) :
    Ends State.MemOk State.MemOk (commitOutcome srcs d status s) :=
  .ok h.commitWith

theorem State.MemOk.markLater {d} (h : s.MemOk) : (markLater d s).MemOk :=
  h.modTh

theorem State.MemOk.commitNow (h : s.MemOk) : (commitNow s).MemOk :=
  h.modTh

theorem State.MemOk.binit {i d sg a b} (h : s.MemOk) : Ends State.MemOk State.MemOk (binit i d sg a b s) := by
  unfold Machine.binit
  refine h.enter.seq fun _ => ?_
  exact h.readSrc.seq fun _ => h.readSrc.seq fun _ => h.destLater.seq fun _ => h.seg.seq fun _ =>
      h.seg.seq fun _ => h.aligned.seq fun _ => h.aligned.seq fun _ => h.recAt.bind fun _ h8 =>
      .ite h8.commitOutcome (h8.recAt.bind fun _ h9 => .ite h9.commitOutcome
      (.ok h9.consume.markLater.commitNow.ask))

theorem State.MemOk.bindStop {la e ps base} (h : s.MemOk) : (s.bindStop la e ps base).MemOk :=
  h.modTh

theorem State.MemOk.bindWalk {base fuel la e ps} (h : s.MemOk) :
    Ends State.MemOk SndOk (bindWalk base fuel la e ps s) := by
  induction fuel generalizing s la ps with
  | zero => exact .ok h
  | succ fuel ih =>
    unfold Machine.bindWalk
    refine .ite (.ok h) ?_
    split
    next he =>
      have h1 := SndOk.of_eq he h.translate
      exact .ite (.error h1.bindStop.faultPark) (ih h1)
    next he => exact .error (SndOk.of_eq he h.translate).bindStop.faultPark
    next he => exact .error ((SndOk.of_eq he h.translate).bindStop.leafWait fun h => h.sendOr)
    next he => exact .error ((SndOk.of_eq he h.translate).bindStop.leafWait fun h => h.askNode)
    next he => exact .error (SndOk.of_eq he h.translate).bindStop.park
    next he => exact .error (SndOk.of_eq he h.translate).bindStop.sweepPark
    next he => exact .error (SndOk.of_eq he h.translate).trap

theorem State.MemOk.bindRegion {i d sg a b} (h : s.MemOk) :
    Ends State.MemOk State.MemOk (bindRegion i d sg a b s) := by
  unfold Machine.bindRegion
  refine h.enter.seq fun _ => ?_
  extract_lets srcs
  refine h.readSrc.seq fun x => ?_
  refine h.readSrc.seq fun off => ?_
  refine h.readSrc.seq fun ctl => ?_
  refine h.destLater.seq fun _ => ?_
  refine h.illValue.seq fun _ => ?_
  refine h.seg.seq fun r => ?_
  extract_lets sbs len
  refine h.seg.seq fun p => ?_
  refine h.aligned.seq fun _ => ?_
  refine h.aligned.seq fun _ => ?_
  refine h.recAt.bind fun ⟨pa, s1⟩ h1 => ?_
  dsimp only
  exact .ite h1.commitOutcome (h1.bindWalk.bind fun _ h1 => .ite h1.modTh.commitOutcome (.ok
      (h1.modTh.consume.markLater.commitNow.modTh.foldl fun _ _ h2 => h2.send)))

theorem State.MemOk.unbind {i d sg a b} (h : s.MemOk) : Ends State.MemOk State.MemOk (unbind i d sg a b s) :=
  h.enter.seq fun _ => h.readSrc.seq fun _ => h.readSrc.seq fun _ => h.destLater.seq fun _ =>
      h.illValue.seq fun _ => h.recPlace.bind fun _ h6 => .ite h6.commitOutcome
      (.ok h6.consume.markLater.commitNow.ask)

theorem State.MemOk.acquire {i excl isTry d sg a b} (h : s.MemOk) :
    Ends State.MemOk State.MemOk (acquire i excl isTry d sg a b s) :=
  h.enter.seq fun _ => h.readSrc.seq fun _ => h.readSrc.seq fun _ => h.destLater.seq fun _ =>
      h.illValue.seq fun _ => h.seg.seq fun _ => h.aligned.seq fun _ => .ite (.error h.trap)
      (h.recPlace.bind fun _ h8 => .ite h8.commitOutcome (.ite h8.commitOutcome (.ok h8.modTh.block.send)))

theorem State.MemOk.unblockCommit {t k tag srcs} (h : s.MemOk) : (s.unblockCommit t k tag srcs).MemOk := by
  unfold State.unblockCommit
  extract_lets s1 s2
  have hs1 : s1.MemOk := .of_mem h rfl
  clear_value s1
  have hs2 : s2.MemOk := hs1.modTh.consume
  clear_value s2
  exact hs2.commitNow.quantumOut

theorem State.MemOk.bindingArrived {t k tag rd excl isTry spoff srcs pa b} (h : s.MemOk) :
    (bindingArrived t k tag rd excl isTry spoff srcs pa b s).MemOk := by
  unfold Machine.bindingArrived
  extract_lets T done full home s1
  have hdone : ∀ n, (done n).MemOk := fun n => h.unblockCommit.modSlot
  have h1 : s1.MemOk := .ite h.modTile h
  clear_value done home s1
  refine .ite (hdone _) (.ite (hdone _) ?_)
  split
  · exact hdone _
  · refine .ite ?_ h1.makePending.unblockCommit.modSlot.setSlot.sendAcq
    split
    · exact h.awaitPlace.writeBack
    · exact h.awaitPlace

theorem State.MemOk.bindingAgain {t k tag pa b} (h : s.MemOk) : (bindingAgain t k tag pa b s).MemOk := by
  unfold Machine.bindingAgain
  split
  · exact h
  · split
    · exact h.acqFail
    · exact .ite h.sendAcq (.ite h.awaitPlace.writeBack h.modTile.sendAcq)

theorem State.MemOk.release {t k e tag} (h : s.MemOk) : (s.release t k e tag).MemOk := by
  unfold State.release
  extract_lets s1 s2 m
  have hs1 : s1.MemOk := h.modTile
  clear_value s1
  have hs2 : s2.MemOk := .ite hs1.modTile hs1
  clear_value s2
  exact hs2.send

theorem State.MemOk.rel {i d sg a} (h : s.MemOk) : Ends State.MemOk State.MemOk (rel i d sg a s) := by
  unfold Machine.rel
  refine h.enter.seq fun _ => ?_
  refine h.readSrc.seq fun x => ?_
  refine h.destLater.seq fun _ => ?_
  refine h.recPlace.bind fun ⟨pa, s1⟩ h1 => ?_
  dsimp only
  split
  · exact h1.commitOutcome
  · split
    · exact .ite h1.commitOutcome (.ite (.error h1.park) (.ok h1.consume.markLater.commitNow.modTh.release))
    · exact h1.commitOutcome

theorem State.MemOk.sendRedo {t e last} (h : s.MemOk) : (s.sendRedo t e last).MemOk :=
  h.send

theorem State.MemOk.checkDelivery {t e} (h : s.MemOk) : (s.checkDelivery t e).MemOk := by
  unfold State.checkDelivery
  extract_lets units k tag good s1 s2 s3 s4
  refine .ite h (.ite ?_ (.ite h.modTile.sendRedo ?_))
  · have h2 : s2.MemOk := by
      clear_value tag
      unfold s2
      split
      · exact h.modTile.outcome
      · exact h.modTile
    have h3 : s3.MemOk := h2.wakeGuard
    clear_value s3
    refine .ite ?_ h3
    split
    · exact h3.emit
    · exact h3
  · have h4 : s4.MemOk := h.sendRedo
    clear_value s4 tag
    split
    · exact h4.acqFail
    · exact h4.modTile

theorem State.MemOk.grant (h : s.MemOk) : (grant s).MemOk := by
  unfold Machine.grant
  extract_lets m t s1
  have hs1 : s1.MemOk := h.modTile
  clear_value s1
  split
  · exact .ite h hs1.checkDelivery
  · exact h

theorem State.MemOk.gdata (h : s.MemOk) : (gdata s).MemOk := by
  unfold Machine.gdata
  extract_lets m pa t o last upd
  split
  · exact .ite h.refuse (.ite h.waitResv h.performOut.poisonCells.answer)
  · split
    · exact h.holdTile
    · split
      · exact h
      · exact h.homeWrite.modTile.checkDelivery

theorem State.MemOk.deny (h : s.MemOk) : (deny s).MemOk :=
  .ite h.send h.acqFail

theorem State.MemOk.serveUnits {src dstTileEid spoff idxSz list slot ver readU} (h : s.MemOk) :
    (s.serveUnits src dstTileEid spoff idxSz list slot ver readU).MemOk :=
  h.foldl fun _ _ h1 => h1.send

theorem State.MemOk.answerMgr {i} (h : s.MemOk) : (s.answerMgr i).MemOk :=
  h.answer

theorem State.MemOk.fwdOwner {serve demote i} (h : s.MemOk) : (fwdOwner serve demote i s).MemOk := by
  unfold Machine.fwdOwner
  extract_lets m t T
  split
  · exact h.answerMgr
  · split
    · exact h.holdTile
    · extract_lets s0 s1 s2
      have hs0 : s0.MemOk := .ite h.readChecks h
      clear_value s0
      have hs1 : s1.MemOk := .ite hs0.serveUnits h
      clear_value s1
      have hs2 : s2.MemOk := .ite hs1.modTile hs1
      clear_value s2
      exact hs2.answerMgr

theorem State.MemOk.fwdRecall (h : s.MemOk) : (fwdRecall s).MemOk := by
  unfold Machine.fwdRecall
  extract_lets t
  split
  · exact h.answerMgr
  · exact h.writeBack

theorem State.MemOk.fwdInvalidate (h : s.MemOk) : (fwdInvalidate s).MemOk :=
  .answerMgr (.of_mem h rfl)

/-! ### The guard manager (`Manager`) -/

theorem State.MemOk.recPut {pa lo n x} (h : s.MemOk) : (s.recPut pa lo n x).MemOk :=
  h.putRec

theorem State.MemOk.setGState {pa x} (h : s.MemOk) : (s.setGState pa x).MemOk :=
  h.recPut

theorem State.MemOk.setVersion {pa x} (h : s.MemOk) : (s.setVersion pa x).MemOk :=
  h.recPut

theorem State.MemOk.setOwner {pa eid} (h : s.MemOk) : (s.setOwner pa eid).MemOk :=
  h.recPut.recPut

theorem State.MemOk.clearOV {pa} (h : s.MemOk) : (s.clearOV pa).MemOk :=
  h.recPut

theorem State.MemOk.setStamp {pa i v} (h : s.MemOk) : (s.setStamp pa i v).MemOk :=
  Memory.wf_wrLE _ _ _ _ h

theorem State.MemOk.allStamps {pa v} (h : s.MemOk) : (s.allStamps pa v).MemOk :=
  h.foldl fun _ _ h1 => h1.setStamp

theorem State.MemOk.reply {req i f} (h : s.MemOk) : (s.reply req i f).MemOk :=
  h.send

theorem State.MemOk.ackTo {req status ver} (h : s.MemOk) : (s.ackTo req status ver).MemOk :=
  h.reply

theorem State.MemOk.syncQueue {vd pa} (h : s.MemOk) : (s.syncQueue vd pa).MemOk := by
  unfold State.syncQueue
  extract_lets q s1
  have hs1 : s1.MemOk := h.recPut
  clear_value s1
  split
  · exact hs1.recPut.recPut
  · exact hs1

theorem State.MemOk.enqueue {vd pa m} (h : s.MemOk) : (s.enqueue vd pa m).MemOk :=
  h.modDie.syncQueue

theorem State.MemOk.dequeue {vd pa q} (h : s.MemOk) : (s.dequeue vd pa q).MemOk :=
  h.modDie.syncQueue.unholdDie

theorem State.MemOk.scrambleRegion {pa} (h : s.MemOk) : (s.scrambleRegion pa).MemOk := by
  unfold State.scrambleRegion
  extract_lets s1
  have hs1 : s1.MemOk := h.foldl fun _ _ h1 => .ite h1.scramble h1
  clear_value s1
  exact hs1.foldl fun _ _ h1 => h1.foldl fun _ _ h2 => h2.scramble

theorem State.MemOk.checkRegion {pa} (h : s.MemOk) : (s.checkRegion pa).MemOk :=
  .ite h.scrambleRegion h

theorem State.MemOk.gatherGo {vd n} (h : s.MemOk) : (State.gatherGo vd n s).MemOk := by
  induction n generalizing s with
  | zero => exact h
  | succ n ih =>
    unfold State.gatherGo
    split
    · exact h
    · extract_lets sz units put
      have hput : ∀ {x} {u : State}, u.MemOk → (put x u).MemOk := fun h => h.modDie
      clear_value put
      split
      · exact ih h.modDie.serveUnits
      · split
        · exact ih (hput h)
        · exact .ite (ih (hput h.readCheck)) h.send

theorem State.MemOk.gatherGot {vd bs bad} (h : s.MemOk) : (s.gatherGot vd bs bad).MemOk := by
  unfold State.gatherGot
  split
  · exact h
  · exact h.modDie.gatherGo

theorem State.MemOk.fromHome {pa req spoff list lost} (h : s.MemOk) :
    (s.fromHome pa req spoff list lost).MemOk :=
  .ite h.checkRegion.readChecks.serveUnits (.ite h.checkRegion.modDie.gatherGo h.checkRegion.modDie)

theorem State.MemOk.addOp {vd o} (h : s.MemOk) : (s.addOp vd o).MemOk :=
  h.modDie

theorem State.MemOk.dropOp {vd o} (h : s.MemOk) : (s.dropOp vd o).MemOk :=
  h.modDie

theorem State.MemOk.sendRecall {pa owner} (h : s.MemOk) : (s.sendRecall pa owner).MemOk :=
  h.send

theorem State.MemOk.sendServe {pa owner i req spoff list} (h : s.MemOk) :
    (s.sendServe pa owner i req spoff list).MemOk :=
  h.send

theorem State.MemOk.keepDelivery {vd pa src req list} (h : s.MemOk) :
    (s.keepDelivery vd pa src req list).MemOk :=
  h.modDie

theorem State.MemOk.deliverFrom {vd pa req spoff list excl} (h : s.MemOk) :
    (s.deliverFrom vd pa req spoff list excl).MemOk :=
  .ite (.ite (.ite h h.keepDelivery) (.sendServe (.addOp (.ite h h.keepDelivery)))) (.ite
      (.ite h h.keepDelivery) (.fromHome (.ite h h.keepDelivery)))

theorem State.MemOk.grantTo {vd pa m} (h : s.MemOk) : (s.grantTo vd pa m).MemOk := by
  unfold State.grantTo
  extract_lets r excl list s1 s2
  have hs1 : s1.MemOk := .ite h.setGState.recPut h.setGState.recPut
  clear_value s1
  have hs2 : s2.MemOk := hs1.reply
  clear_value s2
  exact hs2.deliverFrom

theorem State.MemOk.serveQueue {vd pa n} (h : s.MemOk) : (s.serveQueue vd pa n).MemOk := by
  induction n generalizing s with
  | zero => exact h
  | succ n ih =>
    unfold State.serveQueue
    split
    · exact h
    · exact .ite (.ite h.dequeue.grantTo h) (.ite h (ih h.dequeue.grantTo))

theorem State.MemOk.denyTo {req status stale} (h : s.MemOk) : (s.denyTo req status stale).MemOk :=
  h.reply

theorem State.MemOk.acqreq (h : s.MemOk) : (acqreq s).MemOk := by
  unfold Machine.acqreq
  extract_lets m pa vd r waiters queue
  have hqueue : queue.MemOk := .ite h.holdDie h.enqueue
  clear_value queue
  split
  · exact h.holdDie
  · split
    · exact h.denyTo
    · exact .ite h.denyTo (.ite h.grantTo (.ite h.grantTo (.ite h.denyTo hqueue)))

theorem State.MemOk.forgetDeliveries {vd pa} (h : s.MemOk) : (s.forgetDeliveries vd pa).MemOk :=
  h.modDie

theorem State.MemOk.freed {vd pa excl} (h : s.MemOk) : (s.freed vd pa excl).MemOk :=
  .ite h.forgetDeliveries.setGState.recPut.serveQueue
      (.ite h.recPut.forgetDeliveries.setGState.serveQueue h.recPut)

theorem State.MemOk.poisonGuard {pa excl} (h : s.MemOk) : (s.poisonGuard pa excl).MemOk := by
  unfold State.poisonGuard
  extract_lets vd s1
  have hs1 : s1.MemOk := h.recPut.setGState.scrambleRegion.forgetDeliveries
  clear_value s1
  exact .ite (hs1.foldl fun _ _ h1 => h1.dequeue.denyTo) h.freed

theorem State.MemOk.sendInvalidate {pa} (h : s.MemOk) : (s.sendInvalidate pa).MemOk :=
  h.foldl fun _ _ h1 => h1.send

theorem State.MemOk.relreq (h : s.MemOk) : (relreq s).MemOk := by
  unfold Machine.relreq
  extract_lets m pa vd r dirty s1 v s1'
  have hs1 : s1.MemOk := h.setGState.setOwner
  clear_value s1
  have hs1' : s1'.MemOk := h.setVersion.foldl fun _ _ h1 => .ite h1.setStamp h1
  clear_value s1'
  exact .ite h.poisonGuard (.ite (.ite h.setOwner.ackTo.freed
      (.ite hs1.addOp.sendRecall hs1'.setOwner.ackTo.freed)) h.ackTo.freed)

theorem State.MemOk.wdraw (h : s.MemOk) : (wdraw s).MemOk := by
  unfold Machine.wdraw
  extract_lets m pa vd
  split
  · exact .ite h.recPut h
  · split
    · exact h.dequeue.ackTo
    · exact h

theorem State.MemOk.gredo (h : s.MemOk) : (gredo s).MemOk := by
  unfold Machine.gredo
  extract_lets m pa vd
  split
  · exact h.freed
  · split
    · exact h
    · exact .ite h.fromHome h.addOp.sendServe

theorem State.MemOk.sendFilt {i grec p} (h : s.MemOk) : (s.sendFilt i grec p).MemOk :=
  h.send

theorem State.MemOk.unbound {vd pa req retire} (h : s.MemOk) : (s.unbound vd pa req retire).MemOk :=
  .ite h.recPut.modDie.setGState.addOp.sendInvalidate h.recPut.modDie.ackTo.unholdDie

theorem State.MemOk.removePieces {vd pa req retire} (h : s.MemOk) : (s.removePieces vd pa req retire).MemOk :=
  .ite h.checkRegion.unbound (h.checkRegion.addOp.foldl fun _ _ h1 => h1.sendFilt)

theorem State.MemOk.gadmUnbind {retire i} (h : s.MemOk) : (gadmUnbind retire i s).MemOk :=
  .ite h.holdDie (.ite h.ackTo (.ite h.ackTo (.ite h.ackTo (.ite h.ackTo (.ite (.ite h.unbound h.ackTo)
      (.ite h.addOp.sendRecall h.removePieces))))))

theorem State.MemOk.ownerDone {vd pa eid} (h : s.MemOk) : (s.ownerDone vd pa eid).MemOk :=
  h.foldl fun _ _ h1 => .ite h1 (.ite h1.dropOp.removePieces (.ite h1.dropOp.addOp.sendInvalidate
      (.ite h1.dropOp.fromHome h1)))

theorem State.MemOk.wbnote (h : s.MemOk) : (wbnote s).MemOk :=
  .ownerDone (.ite h.clearOV h)

theorem State.MemOk.served (h : s.MemOk) : (served s).MemOk := by
  unfold Machine.served
  extract_lets m pa vd
  split
  · exact h
  · exact .ite h.dropOp.clearOV h.dropOp

theorem State.MemOk.notretained (h : s.MemOk) : (notretained s).MemOk := by
  unfold Machine.notretained
  extract_lets m pa vd pending
  split
  · extract_lets s1
    have hs1 : s1.MemOk := .ite h.dropOp h.dropOp.keepDelivery
    clear_value s1
    exact .ite hs1.addOp hs1.fromHome
  · exact .ite h h.ownerDone

theorem State.MemOk.invack (h : s.MemOk) : (invack s).MemOk := by
  unfold Machine.invack
  extract_lets pa vd
  split
  · exact h
  next o ho =>
    extract_lets s1 s2 s3
    have h1 : s1.MemOk := h.dropOp
    clear_value s1
    have h2 : s2.MemOk := by
      unfold s2 State.MemOk
      dsimp only
      exact Memory.wf_wrBytes _ _ _ (Memory.wf_wrBytes _ _ _ h1)
    clear_value s2
    exact .ite h1.addOp (.ite h2.modDie.ackTo.unholdDie h1.setVersion.allStamps.clearOV.ackTo.freed.unholdDie)

theorem State.MemOk.gadmBinit (h : s.MemOk) : (gadmBinit s).MemOk := by
  unfold Machine.gadmBinit
  extract_lets m pa vd arr r D full v s1 s1'
  have hs1 : s1.MemOk := h.recPut.recPut.recPut.recPut.setVersion.recPut
  clear_value s1
  have hs1' : s1'.MemOk := h.putRec
  clear_value s1'
  exact .ite h.holdDie (.ite h.ackTo (.ite (.ite (.ite h.ackTo hs1.allStamps.ackTo) h.ackTo)
      (.ite h.ackTo hs1'.allStamps.modDie.ackTo)))

theorem State.MemOk.gadmBind (h : s.MemOk) : (gadmBind s).MemOk :=
  .ite h.holdDie (.ite h.modDie (.ite h.modDie.ackTo (.ite h.modDie.ackTo (.ite h.modDie.ackTo
      (.ite h.modDie.ackTo (.ite h.modDie.ackTo (h.modDie.modDie.addOp.foldl fun _ _ h1 => h1.sendFilt)))))))

theorem State.MemOk.filtInstall (h : s.MemOk) : (filtInstall s).MemOk :=
  .ite h.answer (.ite h.answer h.modDie.answerMgr)

theorem State.MemOk.filtRemove (h : s.MemOk) : (filtRemove s).MemOk :=
  h.modDie.answerMgr

theorem State.MemOk.bindDone {vd pa req} (h : s.MemOk) : (s.bindDone vd pa req).MemOk :=
  h.recPut.recPut.recPut.recPut.setVersion.allStamps.ackTo.unholdDie

theorem State.MemOk.filtAck {vd status} (h : s.MemOk) : (s.filtAck vd status).MemOk := by
  unfold State.filtAck
  extract_lets grecOf
  split
  · exact h
  · exact .ite h.dropOp.addOp (.ite (.ite (h.dropOp.addOp.foldl fun _ _ h1 => h1.sendFilt) h.dropOp.bindDone)
      (.ite h.dropOp.modDie.ackTo.unholdDie h.dropOp.unbound))

theorem State.MemOk.dropAcquires {t es} (h : s.MemOk) : (s.dropAcquires t es).MemOk :=
  h.foldl fun _ _ h1 => h1.modSlot

theorem State.MemOk.tileAck (h : s.MemOk) : s.tileAck.MemOk := by
  unfold State.tileAck
  extract_lets m t k hit s0 s2 s1
  have hs0 : s0.MemOk := h.dropAcquires.modTile
  clear_value s0
  have hs2 : s2.MemOk := hs0.foldl fun _ _ h1 => h1.writeBack
  clear_value s2
  have hs1 : s1.MemOk := h.modTile
  clear_value s1
  split
  · split
    · exact hs2.emit
    · exact hs2
  · split
    · split
      · exact .ite hs1.writeBack hs1
      · exact h
    · split
      · exact .outcome (.ite h.modTile h)
      · exact h

theorem State.MemOk.ack (h : s.MemOk) : (ack s).MemOk :=
  .ite h.filtAck h.tileAck

/-! ### Groups and barriers (`Group`) -/

theorem State.MemOk.join {i d sg a b} (h : s.MemOk) : Ends State.MemOk State.MemOk (join i d sg a b s) := by
  unfold Machine.join
  refine h.enter.seq fun _ => ?_
  extract_lets srcs
  refine h.readSrc.seq fun x => ?_
  refine h.readSrc.seq fun off => ?_
  exact h.readSrc.seq fun _ => h.destLater.seq fun _ => h.illValue.seq fun _ => h.seg.seq fun _ =>
      h.seg.seq fun _ => h.aligned.seq fun _ => h.aligned.seq fun _ => h.recAt.bind fun _ h8 =>
      h8.recAt.bind fun _ h9 => .ite h9.commitOutcome (.ite h9.commitOutcome (.ite h9.commitOutcome
      (.ok h9.consume.markLater.commitNow.ask)))

theorem State.MemOk.groupPlace {i d sg a} (h : s.MemOk) : Ends State.MemOk SndOk (groupPlace i d sg a s) :=
  h.enter.seq fun _ => h.readSrc.seq fun _ => h.destLater.seq fun _ => h.recPlace

theorem State.MemOk.leave {i d sg a} (h : s.MemOk) : Ends State.MemOk State.MemOk (leave i d sg a s) := by
  unfold Machine.leave
  refine h.groupPlace.bind fun ⟨pa, s1⟩ h1 => ?_
  dsimp only
  split
  · exact h1.commitOutcome
  · split
    · exact h1.commitOutcome
    · exact .ok h1.consume.markLater.commitNow.ask.modTh

theorem State.MemOk.arriveWith {what d a pa j} (h : s.MemOk) :
    Ends State.MemOk State.MemOk (arriveWith what d a pa j s) := by
  unfold Machine.arriveWith
  extract_lets span s1
  have hs1 : s1.MemOk := h.consume.markLater.commitNow.modTh
  clear_value s1
  exact h.fenceFirst.seq fun _ => .ok hs1.ask

theorem State.MemOk.arriveInstr {i d sg a} (h : s.MemOk) :
    Ends State.MemOk State.MemOk (Machine.arrive i d sg a s) := by
  unfold Machine.arrive
  refine h.groupPlace.bind fun ⟨pa, s1⟩ h1 => ?_
  dsimp only
  split
  · exact h1.commitOutcome
  · split
    · exact h1.commitOutcome
    · exact .ite h1.commitOutcome h1.arriveWith

theorem State.MemOk.parkBarrier {j} (h : s.MemOk) : (s.parkBarrier j).MemOk :=
  h.park.modTh

theorem State.MemOk.wakeBarrier {t k j} (h : s.MemOk) : (s.wakeBarrier t k j).MemOk :=
  .ite h.wakeIf h

theorem State.MemOk.barw {i d sg a} (h : s.MemOk) : Ends State.MemOk State.MemOk (barw i d sg a s) := by
  unfold Machine.barw
  refine h.groupPlace.bind fun ⟨pa, s1⟩ h1 => ?_
  dsimp only
  split
  · exact h1.commitOutcome
  · split
    · exact h1.commitOutcome
    · exact .ite h1.commitOutcome (h1.arriveWith.bind fun _ h1 => .ok h1.parkBarrier)

theorem State.MemOk.bwait {i d sg a} (h : s.MemOk) : Ends State.MemOk State.MemOk (bwait i d sg a s) := by
  unfold Machine.bwait
  refine h.groupPlace.bind fun ⟨pa, s1⟩ h1 => ?_
  dsimp only
  split
  · exact h1.commitOutcome
  · split
    · exact h1.commitOutcome
    · exact .ite (.error h1.parkBarrier) h1.commitOutcome

theorem State.MemOk.grpAnswer {req pa status} (h : s.MemOk) : (s.grpAnswer req pa status).MemOk :=
  h.reply

theorem State.MemOk.rearm {vd pa} (h : s.MemOk) : (s.rearm vd pa).MemOk := by
  unfold State.rearm
  extract_lets r s1 s2
  have hs1 : s1.MemOk := h.recPut.recPut.recPut
  clear_value s1
  have hs2 : s2.MemOk := .ite hs1.recPut.modDie hs1
  clear_value s2
  exact hs2.unholdDie

theorem State.MemOk.groupRelease {vd pa} (h : s.MemOk) : (s.groupRelease vd pa).MemOk := by
  unfold State.groupRelease
  extract_lets r s1 s2
  have hs1 : s1.MemOk := h.recPut.recPut.recPut
  clear_value s1
  have hs2 : s2.MemOk := hs1.foldl fun _ _ h1 => h1.send
  clear_value s2
  exact .ite hs2.rearm hs2

theorem State.MemOk.grpreqJoin (h : s.MemOk) : (grpreqJoin s).MemOk :=
  .ite h.grpAnswer (.ite (.ite h.grpAnswer (.ite h.grpAnswer (.grpAnswer (.recPut
      (.ite h.recPut.recPut h.recPut))))) (.ite h.grpAnswer (.ite h.grpAnswer h.putRec.modDie.grpAnswer)))

theorem State.MemOk.grpreqLeave (h : s.MemOk) : (grpreqLeave s).MemOk := by
  unfold Machine.grpreqLeave
  extract_lets m pa vd r s1 s2
  have hs1 : s1.MemOk := h.recPut.grpAnswer
  clear_value s1
  have hs2 : s2.MemOk := hs1.recPut
  clear_value s2
  split
  · exact h.grpAnswer
  · exact .ite hs1 (.ite (.ite hs2.groupRelease hs2) hs1)

theorem State.MemOk.countArrival {vd pa c} (h : s.MemOk) : (s.countArrival vd pa c).MemOk := by
  unfold State.countArrival
  extract_lets r s1 s2
  have hs1 : s1.MemOk := .recPut (Memory.wf_wrLE _ _ _ _ h)
  clear_value s1
  have hs2 : s2.MemOk := hs1.recPut
  clear_value s2
  exact .ite hs2.groupRelease hs2

theorem State.MemOk.grpreqArrive (h : s.MemOk) : (grpreqArrive s).MemOk := by
  unfold Machine.grpreqArrive
  extract_lets m pa vd r
  split
  · exact h.grpAnswer
  · exact .ite h.holdDie (.ite h.grpAnswer h.grpAnswer.countArrival)

theorem State.MemOk.engineArrival {m} (h : s.MemOk) : (s.engineArrival m).MemOk := by
  unfold State.engineArrival
  extract_lets t k
  split
  · exact h
  · exact .ite h.holdTile h.modSlot.send

theorem State.MemOk.grpreqEngineArrival (h : s.MemOk) : (grpreqEngineArrival s).MemOk := by
  unfold Machine.grpreqEngineArrival
  extract_lets m pa vd
  split
  · exact h.engineArrival
  · split
    · exact h.grpAnswer
    · exact .ite h.holdDie h.grpAnswer.countArrival

theorem State.MemOk.grelack (h : s.MemOk) : (grelack s).MemOk :=
  .ite h (.ite h.recPut.rearm h.recPut)

theorem State.MemOk.respan {t k j pa m} (h : s.MemOk) : (s.respan t k j pa m).MemOk := by
  unfold State.respan
  extract_lets span src s1 src'
  have hsrc : src.MemOk := h.modSlot
  clear_value src
  have hs1 : s1.MemOk := .of_mem hsrc rfl
  clear_value s1
  exact .ite hs1.after hs1.send

theorem State.MemOk.grprsp (h : s.MemOk) : (grprsp s).MemOk := by
  unfold Machine.grprsp
  extract_lets m t k status span v
  split
  · split
    · extract_lets s1
      have hs1 : s1.MemOk := by
        unfold s1
        split
        · split
          · exact h.modSlot
          · exact h
        · exact h
      clear_value s1
      exact hs1.outcome
    · exact .ite h.outcome (.ite h.respan (.ite h.modSlot.modSlot.wakeBarrier.outcome.unholdTile
        (.ite h.modSlot.outcome h.modSlot.settle)))
  · exact h

theorem State.MemOk.releaseMember {t k j span} (h : s.MemOk) : (s.releaseMember t k j span).MemOk := by
  unfold State.releaseMember
  extract_lets pa s1 s2
  have hs1 : s1.MemOk := h.modSlot
  clear_value s1
  have hs2 : s2.MemOk := by
    unfold s2
    split
    · exact hs1.outcome
    · exact hs1
  clear_value s2
  exact hs2.wakeBarrier.unholdTile

theorem State.MemOk.grel (h : s.MemOk) : (grel s).MemOk := by
  unfold Machine.grel
  extract_lets m t k fs done
  split
  · exact h.holdTile
  · split
    · exact h.releaseMember.answer
    · split
      · exact .answer (Memory.wf_wrLE _ _ _ _ h)
      · split
        · exact h.sendFrom
        · exact h.answer

theorem State.MemOk.groupUnreachable {t k tag rd what j pa} (h : s.MemOk) :
    (s.groupUnreachable t k tag rd what j pa).MemOk :=
  .ite h.modSlot.outcome (.ite h.outcome h.modSlot.wakeBarrier.outcome.unholdTile)

/-! ### CSRs and MMIO registers (`Regs`) -/

theorem State.MemOk.timerWrite {t k v} (h : s.MemOk) : (s.timerWrite t k v).MemOk := by
  unfold State.timerWrite
  extract_lets s1
  have hs1 : s1.MemOk := h.modSlot
  clear_value s1
  exact .of_mem hs1 rfl

theorem State.MemOk.timerExpire (h : s.MemOk) : (timerExpire s).MemOk := by
  unfold Machine.timerExpire
  extract_lets t k s1
  have hs1 : s1.MemOk := h.modSlot
  clear_value s1
  split
  · exact hs1.modSlot.wakeIf
  · exact hs1

theorem State.MemOk.latchCycle {t k} (h : s.MemOk) : (s.latchCycle t k).MemOk :=
  h.modSlot

theorem State.MemOk.latchInstret {t k} (h : s.MemOk) : (s.latchInstret t k).MemOk :=
  h.modSlot

theorem State.MemOk.banksFreed {t} (h : s.MemOk) : (s.banksFreed t).MemOk :=
  .ite h h.emitOnce

theorem State.MemOk.putSlot {t k n v} (h : s.MemOk) : (s.putSlot t k n v).MemOk := by
  unfold State.putSlot
  extract_lets w up
  split
  case h_13 => exact h.timerWrite
  case h_22 => exact h.modSlot.banksFreed
  case h_23 => exact .ite h.modSlot h
  all_goals exact h.modSlot

theorem State.MemOk.putTile {t n v} (h : s.MemOk) : (s.putTile t n v).MemOk := by
  unfold State.putTile
  extract_lets w up
  split
  · exact h.modTile
  · exact h.modTile
  · exact h.modTile
  · exact h.modTile
  · exact h.modTile
  · exact h.modTile
  · exact .ite h.modTile h

theorem State.MemOk.putDie {vd n v} (h : s.MemOk) : (s.putDie vd n v).MemOk := by
  unfold State.putDie
  extract_lets w nz up s1
  have hs1 : s1.MemOk := h.modDie
  clear_value s1
  split
  · exact h.modDie
  · exact .ite h h.modDie
  · exact h.modDie
  · exact h.modDie
  · exact .ite hs1 hs1.clockBack
  · exact h.modDie
  · exact h.modDie
  · exact .ite h.modDie (.ite h.modDie.emit h)

theorem State.MemOk.csrPut {pl t k vd n en v} (h : s.MemOk) : (s.csrPut pl t k vd n en v).MemOk :=
  .ite h (.ite h.putSlot (.ite h.putTile h.putDie))

theorem State.MemOk.csrWrite {pl t k vd c en v} (h : s.MemOk) : (s.csrWrite pl t k vd c en v).MemOk :=
  h.csrPut

theorem State.MemOk.setReg {iod off v} (h : s.MemOk) : (s.setReg iod off v).MemOk :=
  h

theorem State.MemOk.windowPut {iod base size writer off bs} (h : s.MemOk) :
    SomeOk (s.windowPut iod base size writer off bs) :=
  .ite (SomeOk.some h.emit) (.ite SomeOk.none (.ite (SomeOk.some h.setDie.unholdDie.emit)
      (SomeOk.some h.setDie.unTimer.after)))

theorem State.MemOk.regWrite {iod off en v} (h : s.MemOk) : (s.regWrite iod off en v).MemOk :=
  h.setReg

theorem State.MemOk.mmioWrite {writer pa bs} (h : s.MemOk) : SomeOk (s.mmioWrite writer pa bs) := by
  unfold State.mmioWrite
  extract_lets iod off a sh en v vd s1 s2
  have hs1 : s1.MemOk := h.regWrite
  clear_value s1
  have hs2 : s2.MemOk := .ite hs1.emitOnce hs1
  clear_value s2
  split
  · exact h.windowPut
  · exact .ite (SomeOk.some (.ite h.emit h)) (.ite (SomeOk.some (.ite h.emit h)) (.ite (SomeOk.some
      (.ite h.emit h)) (.ite (SomeOk.some (.ite h.csrPut h)) (SomeOk.some (.ite hs2.emit hs2)))))

theorem State.MemOk.errorBankClear (h : s.MemOk) : (errorBankClear s).MemOk :=
  h.clearBank

theorem State.MemOk.descriptorPiece (h : s.MemOk) : (descriptorPiece s).MemOk := by
  unfold Machine.descriptorPiece
  extract_lets a
  split
  · exact h
  · exact h.windowPut.getD h.holdDie

theorem State.MemOk.descriptorBufferTimeout (h : s.MemOk) : (descriptorBufferTimeout s).MemOk :=
  .ite h.modDie.logError.unholdDie h

theorem State.MemOk.csrEffect {op srcs d c v} (h : s.MemOk) : (csrEffect op srcs d c v s).MemOk := by
  unfold Machine.csrEffect
  extract_lets t k old s1 s2 s2'
  have hs1 : s1.MemOk := h.consume
  clear_value s1
  have hs2 : s2.MemOk := .ite hs1.latchCycle (.ite hs1.latchInstret hs1)
  clear_value s2
  have hs2' : s2'.MemOk := .ite hs1 hs2.writeResult
  clear_value s2'
  exact hs2'.csrWrite.modTh

theorem State.MemOk.csrReg {i op d a c} (h : s.MemOk) : Ends State.MemOk State.MemOk (csrReg i op d a c s) :=
  h.enter.seq fun _ => .ite (.error h.trap) (h.readSrc.seq fun _ => h.destReady.seq fun _ => .ite
      (.error h.trap) (.ok h.csrEffect))

theorem State.MemOk.csrImm {i op d c u} (h : s.MemOk) : Ends State.MemOk State.MemOk (csrImm i op d c u s) :=
  h.enter.seq fun _ => .ite (.error h.trap) (h.destReady.seq fun _ => .ok h.csrEffect)

/-! ### Watches, channels and the tile's side of multicast (`Sync`) -/

theorem State.MemOk.readPairZ {i srcs b} (h : s.MemOk) :
    Ends State.MemOk (fun _ => True) (readPairZ i srcs b s) :=
  h.readSrc.seq fun _ => .ite (.ok trivial) (h.readSrc.seq fun _ => .ok trivial)

theorem State.MemOk.watchPlace {sn off} (h : s.MemOk) : Ends State.MemOk SndOk (watchPlace sn off s) := by
  unfold Machine.watchPlace
  refine h.seg.seq fun p => ?_
  refine h.aligned.seq fun _ => ?_
  extract_lets t
  split
  · split
    · exact .error h.park
    · exact .error h.rangeTrap
    · exact .ok h
  · split
    · exact .error h.park
    · exact .error h.rangeTrap
    · exact .ok h
    · exact h.portTranslate

theorem State.MemOk.waitc {i d sg a b} (h : s.MemOk) : Ends State.MemOk State.MemOk (waitc i d sg a b s) :=
  h.enter.seq fun _ => h.readSrc.seq fun _ => h.readPairZ.seq fun _ => h.destLater.seq fun _ => .ite
      (.error h.block) (h.watchPlace.bind fun _ h5 => .ok h5.consume.markLater.commitNow.ask)

theorem State.MemOk.watchWith {pa v} (h : s.MemOk) : (s.watchWith pa v).MemOk :=
  .ite h.answer (.ite h.answer h.modDie)

theorem State.MemOk.watchInstall (h : s.MemOk) : (watchInstall s).MemOk := by
  unfold Machine.watchInstall
  extract_lets m pa
  split
  · exact h.logError.answer
  · split
    next he => exact Ends.of_error he h.atHome
    · exact .ite (h.ioAsk (fun h1 => h1.ethOut)) h.watchWith

theorem State.MemOk.watchCancel (h : s.MemOk) : (watchCancel s).MemOk :=
  h.modDie.answer

theorem State.MemOk.watchRetry (h : s.MemOk) : (watchRetry s).MemOk := by
  unfold Machine.watchRetry
  extract_lets t k
  split
  · exact h.send
  · exact h

theorem State.MemOk.tileWatchrsp (h : s.MemOk) : s.tileWatchrsp.MemOk := by
  unfold State.tileWatchrsp
  extract_lets m t k st
  split
  · exact .ite h.outcome.notifyAll (.ite h.after (.ite h.fillReg.donePend.logError (.ite h.settle h)))
  · exact h

theorem State.MemOk.postc {i err d sg a b} (h : s.MemOk) :
    Ends State.MemOk State.MemOk (postc i err d sg a b s) :=
  h.enter.seq fun _ => h.readSrc.seq fun _ => h.readSrc.seq fun _ => h.destLater.seq fun _ =>
      h.p0Place.bind fun _ h5 => .ite (.error h5.block) (.ok h5.consume.markLater.p0Send.commitNow)

theorem State.MemOk.sendInstr {i a b kind} (h : s.MemOk) :
    Ends State.MemOk State.MemOk (Machine.send i a b kind s) :=
  h.enter.seq fun _ => h.readSrc.seq fun _ => h.readSrc.seq fun _ => h.illValue.seq fun _ => .ite
      (.error h.block) (.ok h.consume.modTh.commitNow.send)

theorem State.MemOk.chon {i a k} (h : s.MemOk) : Ends State.MemOk State.MemOk (chon i a k s) :=
  h.enter.seq fun _ => h.readSrc.seq fun _ => .ite (.error h.block) (h.illValue.seq fun _ =>
      .ok h.consume.modTh.commitNow)

theorem State.MemOk.choff {i k} (h : s.MemOk) : Ends State.MemOk State.MemOk (choff i k s) :=
  h.enter.seq fun _ => .ok h.modTh.commitNow

theorem State.MemOk.mailbox {vd f kind k m} (h : s.MemOk) : (s.mailbox vd f kind k m).MemOk :=
  .ite (.logError (Memory.wf_wrLE _ _ _ _ h)) (Memory.wf_wrLE _ _ _ _ (Memory.wf_wrLE _ _ _ _ h))

theorem State.MemOk.passOn {i kind f k} (h : s.MemOk) : (s.passOn i kind f k).MemOk :=
  .ite h.sendFrom h.mailbox.wrackTo

theorem State.MemOk.discardMsg {vd} (h : s.MemOk) : (s.discardMsg vd).MemOk :=
  h.logError.wrackTo

theorem State.MemOk.takeWord {t m} (h : s.MemOk) : SomeOk (s.takeWord t m) :=
  .ite (SomeOk.some h.wordIn.fifoPush) (.ite (SomeOk.some h.wordIn.modTile) SomeOk.none)

theorem State.MemOk.msgData (h : s.MemOk) : (msgData s).MemOk := by
  unfold Machine.msgData
  extract_lets m t ch k
  refine .ite h.discardMsg ?_
  split
  · exact .ite h.passOn h.discardMsg
  · exact .ite h.holdTile (.ite h.discardMsg (h.takeWord.getD h.holdTile))

theorem State.MemOk.wakeSlot7 {t} (h : s.MemOk) : (s.wakeSlot7 t).MemOk :=
  .ite h.wakeIf h

theorem State.MemOk.wakeRq {t sels} (h : s.MemOk) : (s.wakeRq t sels).MemOk :=
  h.foldl fun _ _ h1 => .ite h1.wakeIf h1

theorem State.MemOk.tagWake {t tag} (h : s.MemOk) : (s.tagWake t tag).MemOk := by
  unfold State.tagWake
  extract_lets T
  split
  · exact .ite h.setTile.wakeRq h
  · exact .ite h h.setTile

theorem State.MemOk.takeQueued {t m} (h : s.MemOk) : SomeOk (s.takeQueued t m) := by
  unfold State.takeQueued
  split
  · extract_lets s1 s2
    have hs1 : s1.MemOk := h.wordIn.modTile
    clear_value s1
    have hs2 : s2.MemOk := hs1.wakeSlot7.wakeRq
    clear_value s2
    exact SomeOk.some (.ite hs2.tagWake hs2)
  · exact SomeOk.none

theorem State.MemOk.msgQueue (h : s.MemOk) : (msgQueue s).MemOk := by
  unfold Machine.msgQueue
  extract_lets m t k
  refine .ite h.discardMsg ?_
  split
  · exact h.passOn
  · exact .ite h.holdTile (h.takeQueued.getD h.holdTile)

theorem State.MemOk.msgRecast (h : s.MemOk) : (msgRecast s).MemOk := by
  unfold Machine.msgRecast
  extract_lets m t r T k a s' w peers s1
  have hs' : s'.MemOk := h.readCheck
  clear_value s'
  have hs1 : s1.MemOk := hs'.modSlot
  clear_value s1
  split
  · exact h.discardMsg
  · split
    · exact h.holdTile
    · split
      · exact .ite h.passOn h.answer
      · exact .ite h.answer (.ite h.readCheck.answer hs1.modTile.wrackTo)

theorem State.MemOk.sendDone {t k tag kind} (h : s.MemOk) : (s.sendDone t k tag kind).MemOk :=
  h.modSlot.donePend

theorem State.MemOk.movedWord (h : s.MemOk) : s.movedWord.MemOk := by
  unfold State.movedWord
  extract_lets it ack
  split
  · exact h.sendDone
  · exact .of_mem h rfl

theorem State.MemOk.msgref (h : s.MemOk) : (msgref s).MemOk := by
  unfold Machine.msgref
  extract_lets m t
  split
  · exact h.sendDone
  · exact h

theorem State.MemOk.mcst {i cond d sg a b} (h : s.MemOk) :
    Ends State.MemOk State.MemOk (mcst i cond d sg a b s) := by
  unfold Machine.mcst
  refine h.enter.seq fun _ => ?_
  extract_lets srcs t src
  refine h.readSrc.seq fun x => ?_
  refine h.readSrc.seq fun ctl => ?_
  refine h.readSrc.seq fun off => ?_
  refine h.destLaterPair.seq fun _ => ?_
  refine h.illValue.seq fun _ => ?_
  refine h.illValue.seq fun _ => ?_
  extract_lets len ext
  refine h.seg.seq fun p => ?_
  refine h.aligned.seq fun _ => ?_
  split
  · exact .error h.park
  · exact .error h.rangeTrap
  · exact h.bankFree.seq fun _ => .ite (.error h.readCheck.trap)
      (.ok h.readCheck.consume.modTh.modTh.commitNow.send)

theorem State.MemOk.mcseq {i d a b} (h : s.MemOk) : Ends State.MemOk State.MemOk (mcseq i d a b s) :=
  h.enter.seq fun _ => h.readSrc.seq fun _ => h.readPairZ.seq fun _ => h.destLaterPair.seq fun _ =>
      h.illValue.seq fun _ => .ite (.error h.block) (.ok h.consume.modTh.modTh.commitNow.send)

theorem State.MemOk.outcomePair {t k tag rd v} (h : s.MemOk) : (s.outcomePair t k tag rd v).MemOk :=
  h.fillPair.donePend

theorem State.MemOk.mcstamp (h : s.MemOk) : (mcstamp s).MemOk := by
  unfold Machine.mcstamp
  extract_lets m t k st v
  split
  · exact .ite (.ite h.donePend h.outcomePair) (.ite h.donePend h.fillPair.modSlot.notify)
  · exact h

theorem State.MemOk.mcseqrsp (h : s.MemOk) : (mcseqrsp s).MemOk := by
  unfold Machine.mcseqrsp
  extract_lets m t k
  split
  · exact h.outcomePair.notifyAll
  · exact h

/-! ### The multicast units (`Multicast`) -/

theorem State.MemOk.hgSetState {iod g x} (h : s.MemOk) : (s.hgSetState iod g x).MemOk :=
  h.setReg

theorem State.MemOk.hgPut {iod g p b} (h : s.MemOk) : (s.hgPut iod g p b).MemOk :=
  .ite h h.setReg.setReg

theorem State.MemOk.meSet {iod g x} (h : s.MemOk) : (s.meSet iod g x).MemOk :=
  h.setReg

theorem State.MemOk.mcMod {vd f} (h : s.MemOk) : (s.mcMod vd f).MemOk :=
  h.modDie

theorem State.MemOk.stampTo {m status stamp all} (h : s.MemOk) : (s.stampTo m status stamp all).MemOk :=
  h.reply

theorem State.MemOk.mcctl {vd i kind dst g peer stamp} (h : s.MemOk) :
    (s.mcctl vd i kind dst g peer stamp).MemOk :=
  h.send

theorem State.MemOk.settleStores {vd} (h : s.MemOk) : (s.settleStores vd).MemOk :=
  h.mcMod.foldl fun _ _ h1 => h1.stampTo

theorem State.MemOk.refuseJoin {req} (h : s.MemOk) : (s.refuseJoin req).MemOk :=
  h.reply

theorem State.MemOk.dropJoin {vd g} (h : s.MemOk) : (s.dropJoin vd g).MemOk :=
  h.mcMod

theorem State.MemOk.joinTimersOff {vd j} (h : s.MemOk) : (s.joinTimersOff vd j).MemOk :=
  h.unTimer.unTimer

theorem State.MemOk.abandonJoin {vd j} (h : s.MemOk) : (s.abandonJoin vd j).MemOk :=
  h.joinTimersOff.dropJoin.hgSetState.refuseJoin.unholdDie

theorem State.MemOk.evictMember {vd g p} (h : s.MemOk) : (s.evictMember vd g p).MemOk := by
  unfold State.evictMember
  extract_lets iod eid drop s1 s2
  have hs1 : s1.MemOk := h.hgPut.mcMod
  clear_value s1
  have hs2 : s2.MemOk := hs1.settleStores.mcctl
  clear_value s2
  split
  · exact hs2.abandonJoin
  · exact hs2

theorem State.MemOk.joinSnap {vd j} (h : s.MemOk) : (s.joinSnap vd j).MemOk :=
  .ite h h.mcMod.mcctl.after

theorem State.MemOk.joinJoined {vd j} (h : s.MemOk) : (s.joinJoined vd j).MemOk :=
  h.mcMod.mcctl.after

theorem State.MemOk.headgate {vd m} (h : s.MemOk) : (s.headgate vd m).MemOk := by
  unfold State.headgate
  extract_lets iod g w0 n ps s1 s2 s3
  have hs1 : s1.MemOk := h.setReg.stampTo
  clear_value s1
  have hs2 : s2.MemOk := hs1.mcMod
  clear_value s2
  have hs3 : s3.MemOk := by
    unfold s3
    refine hs2.foldl fun s' p h1 => ?_
    extract_lets eid
    split
    next he => exact (Ends.of_ok he h1.pass).after
    · exact h1.evictMember
  clear_value s3
  exact .ite h.stampTo (.ite h.stampTo (.ite h.holdDie (.ite h.stampTo (.ite h.stampTo hs3.settleStores))))

theorem State.MemOk.mcreq (h : s.MemOk) : (mcreq s).MemOk :=
  .ite h.stampTo (.ite (.ite h.stampTo (.ite h.headgate h.sendFrom)) h.headgate)

theorem State.MemOk.answerSeq {vd g} (h : s.MemOk) : (s.answerSeq vd g).MemOk :=
  h.mcMod.foldl fun _ _ h1 => h1.reply

theorem State.MemOk.checkLeft {vd g} (h : s.MemOk) : (s.checkLeft vd g).MemOk :=
  .ite h.meSet.mcMod.answerSeq h

theorem State.MemOk.sendPart {vd tag q} (h : s.MemOk) : (s.sendPart vd tag q).MemOk :=
  h.send

theorem State.MemOk.sendParts {vd g stamp phase pa m bs} (h : s.MemOk) :
    (s.sendParts vd g stamp phase pa m bs).MemOk :=
  h.mcMod.foldl fun _ _ h1 => h1.sendPart

theorem State.MemOk.sendApplied {vd g stamp phase m} (h : s.MemOk) :
    (s.sendApplied vd g stamp phase m).MemOk :=
  h.sendParts

theorem State.MemOk.applied {vd g stamp} (h : s.MemOk) : (s.applied vd g stamp).MemOk :=
  h.setReg.send.checkLeft.answerSeq.unholdDie

theorem State.MemOk.joinApplied {vd g j m} (h : s.MemOk) : (s.joinApplied vd g j m).MemOk :=
  .ite h h.setReg.meSet.reply

theorem State.MemOk.mcRefused {vd pa} (h : s.MemOk) : (s.mcRefused vd pa).MemOk :=
  h.logError

theorem State.MemOk.mcapply (h : s.MemOk) : (mcapply s).MemOk :=
  .ite h (.ite h (.ite h.holdDie (.ite h.waitResv (.ite h.mcRefused.sendApplied (.ite (.sendParts
      (.ite h.readCheck h)) (.sendApplied (.ite h.readCheck h)))))))

theorem State.MemOk.snapAnswer {m status} (h : s.MemOk) : (s.snapAnswer m status).MemOk :=
  h.reply

theorem State.MemOk.sendLine {vd tag i pa m} (h : s.MemOk) : (s.sendLine vd tag i pa m).MemOk :=
  h.readCheck.send

theorem State.MemOk.mcJobDone {vd a} (h : s.MemOk) : (s.mcJobDone vd a).MemOk := by
  unfold State.mcJobDone
  extract_lets s1
  have hs1 : s1.MemOk := h.mcMod
  clear_value s1
  split
  · exact hs1.sendApplied
  · exact hs1.applied
  · exact hs1.snapAnswer.unholdDie
  · exact hs1.snapAnswer.unholdDie
  · exact hs1.joinApplied.unholdDie

theorem State.MemOk.mcTagFree {vd tag a} (h : s.MemOk) : (s.mcTagFree vd tag a).MemOk :=
  .ite h.mcJobDone h.mcMod

theorem State.MemOk.mcAck {vd tag} (h : s.MemOk) : (s.mcAck vd tag).MemOk := by
  unfold State.mcAck
  split
  · exact h
  · exact .ite h.mcTagFree (.ite h.mcMod.mcRefused.mcTagFree (.ite h.waitResv h.mcMod.sendLine))

theorem State.MemOk.mcack (h : s.MemOk) : (mcack s).MemOk := by
  unfold Machine.mcack
  extract_lets m vd g p upd s1 s2
  have hs1 : s1.MemOk := h.mcMod.unTimer
  clear_value s1
  have hs2 : s2.MemOk := hs1.settleStores
  clear_value s2
  split
  · exact hs2.joinSnap
  · exact hs2

theorem State.MemOk.memberTimeout (h : s.MemOk) : (memberTimeout s).MemOk := by
  unfold Machine.memberTimeout
  extract_lets a late
  split
  · exact h
  · split
    · split
      · exact h.abandonJoin
      · exact h
    · exact h.evictMember

theorem State.MemOk.mcjoinJoin (h : s.MemOk) : (mcjoinJoin s).MemOk :=
  .ite h.refuseJoin (.ite h.holdDie (.ite h.refuseJoin
      (.ite h.hgSetState.mcMod.joinJoined h.hgSetState.mcMod.joinSnap)))

theorem State.MemOk.mcjoinLeave (h : s.MemOk) : (mcjoinLeave s).MemOk :=
  .ite h.refuseJoin (.ite h.holdDie (.ite h.refuseJoin h.hgPut.mcctl))

theorem State.MemOk.mcctlSnap (h : s.MemOk) : (mcctlSnap s).MemOk :=
  .ite h.snapAnswer (h.mcMod.foldl fun _ _ h1 => h1.mcAck)

theorem State.MemOk.mcctlJoined (h : s.MemOk) : (mcctlJoined s).MemOk :=
  .ite h h.sendApplied

theorem State.MemOk.mcctlEvict (h : s.MemOk) : (mcctlEvict s).MemOk :=
  h.meSet.answerSeq

theorem State.MemOk.mcctlLeft (h : s.MemOk) : (mcctlLeft s).MemOk :=
  h.mcMod.checkLeft

theorem State.MemOk.mcctlrsp (h : s.MemOk) : (mcctlrsp s).MemOk := by
  unfold Machine.mcctlrsp
  extract_lets m vd iod g bad snap waits
  split
  · exact h.meSet.answerSeq
  · split
    · exact h
    · exact .ite h.abandonJoin
        (.ite h.joinTimersOff.joinJoined h.joinTimersOff.dropJoin.mcMod.hgPut.hgSetState.unholdDie)

theorem State.MemOk.joinDescriptor {isLeave} (h : s.MemOk) : (joinDescriptor isLeave s).MemOk :=
  .ite h.logError (.ite (.ite h.logError h.send) (.ite h.logError h.meSet.send))

theorem State.MemOk.joinUnreachable {vd g} (h : s.MemOk) : (s.joinUnreachable vd g).MemOk :=
  h.meSet.logError.answerSeq

theorem State.MemOk.seqAtMember {vd m} (h : s.MemOk) : (s.seqAtMember vd m).MemOk :=
  .ite h.reply h.mcMod

theorem State.MemOk.mcseqreq (h : s.MemOk) : (mcseqreq s).MemOk :=
  .ite (.ite h.answer (.ite h.seqAtMember h.sendFrom)) h.seqAtMember

/-! ### Memory messages (`Access`) -/

theorem State.MemOk.bankWait {i pa n} (h : s.MemOk) : Ends State.MemOk (fun _ => True) (bankWait i pa n s) :=
  .ite (.ite (.error h.holdTile) (.ok trivial)) (.ok trivial)


theorem State.MemOk.unitGet {u pa n la} (h : s.MemOk) : (s.unitGet u pa n la).MemOk :=
  h.modDie.send

theorem State.MemOk.unitPut {u pa la bs} (h : s.MemOk) : (s.unitPut u pa la bs).MemOk :=
  h.modDie.send

theorem State.MemOk.unitPost {u pa la add err} (h : s.MemOk) : (s.unitPost u pa la add err).MemOk :=
  h.modDie.send

theorem State.MemOk.unitClear {u} (h : s.MemOk) : (s.unitClear u).MemOk :=
  h.modDie

theorem State.MemOk.unitAnswer {vd ag tag got} (h : s.MemOk) : (s.unitAnswer vd ag tag got).MemOk := by
  unfold State.unitAnswer
  split
  · exact h
  · exact .ite h.modDie h.modDie.emitOnce

theorem State.MemOk.readAnswer {bs bad} (h : s.MemOk) : (s.readAnswer bs bad).MemOk :=
  .ite h.answer h.send

theorem State.MemOk.rd (h : s.MemOk) : (rd s).MemOk := by
  unfold Machine.rd
  extract_lets m n vd r
  have hr : Ends State.MemOk State.MemOk r := by
    refine h.atHome.seq fun pa => h.bankWait.seq fun _ => .ok ?_
    split
    · exact h.ioAsk fun hu => hu.ethOut
    · exact h.ioAsk fun hu => hu.hostOut
    · exact h.readAnswer
    · exact (State.MemOk.ite h.recordEcc h).scrub.readAnswer
  clear_value r
  cases hr with
  | error h1 => exact h1
  | ok h1 => exact h1

theorem State.MemOk.wr (h : s.MemOk) : (wr s).MemOk := by
  unfold Machine.wr
  extract_lets m n bs r
  have hr : Ends State.MemOk State.MemOk r := by
    refine h.atHome.seq fun pa => h.bankWait.seq fun _ => .ite ?_ (.ok h.performOut.answer)
    split
    next he => exact .ok (SomeOk.of_eq he h.mmioWrite).answer
    · exact .ok h.holdDie
  clear_value r
  cases hr with
  | error h1 => exact h1
  | ok h1 => exact h1

theorem State.MemOk.wrb (h : s.MemOk) : (wrb s).MemOk := by
  unfold Machine.wrb
  extract_lets m vd snap base data runs mismatch poison
  split
  · exact h.sendFrom
  · split
    · exact h.holdTile
    · split
      · exact h.refuse
      · split
        · exact h.refuse
        · split
          · exact h.waitResv
          · exact .ite h.holdTile (.answer (.poisonCells (h.foldl fun _ _ h1 => h1.performOut)))

theorem State.MemOk.rsv (h : s.MemOk) : (rsv s).MemOk := by
  unfold Machine.rsv
  extract_lets m n vd ask r
  have hr : Ends State.MemOk State.MemOk r := by
    refine h.atHome.seq fun pa => h.bankWait.seq fun _ => ?_
    extract_lets hold bad
    have hhold : ∀ {u : State}, u.MemOk → (hold u).MemOk := fun hu => hu.modDie
    clear_value hold
    refine .ok ?_
    split
    · exact (hhold h).ioAsk fun hu => hu.hostOut
    · exact (hhold h).ioAsk fun hu => hu.ethOut
    · exact (hhold (State.MemOk.ite h.recordEcc h).scrub).answer
  clear_value r
  cases hr with
  | error h1 => exact h1
  | ok h1 => exact h1

theorem State.MemOk.atomicDone {m} (h : s.MemOk) : (s.atomicDone m).MemOk :=
  .ite h.donePend h

theorem State.MemOk.unreserve {pa m} (h : s.MemOk) : (s.unreserve pa m).MemOk := by
  unfold State.unreserve
  extract_lets vd mine s2
  have hs2 : s2.MemOk := h.modDie
  clear_value s2
  split
  · exact h
  · exact .atomicDone (.of_mem hs2 rfl)

theorem State.MemOk.rsvrel (h : s.MemOk) : (rsvrel s).MemOk := by
  unfold Machine.rsvrel
  extract_lets m pa mine
  split
  · exact h
  · exact .unreserve (.ite h.performOut h)

theorem State.MemOk.postOutside {pa v bad} (h : s.MemOk) : (s.postOutside pa v bad).MemOk :=
  .answer (.unreserve (.ite h h.performOut))

theorem State.MemOk.cwpost (h : s.MemOk) : (cwpost s).MemOk := by
  unfold Machine.cwpost
  extract_lets m pa
  split
  · exact h.sendFrom
  · split
    · exact h.refuse
    · split
      · exact h.refuse
      · split
        · exact h.waitResv
        · split
          next he => exact Ends.of_error he h.bankWait
          · exact .ite (h.modDie.ioAsk (fun h1 => .ite h1.ethOut h1.hostOut))
              (.ite h.recordEcc.answer h.scrub.performOut.answer)

theorem State.MemOk.fillLoad {t k rd size sx v bad} (h : s.MemOk) : (s.fillLoad t k rd size sx v bad).MemOk :=
  .ite h.fillPair h.fillReg

theorem State.MemOk.pulled {t k tag ctx ch pa bs st} (h : s.MemOk) :
    (s.pulled t k tag ctx ch pa bs st).MemOk :=
  h.donePend.modTile.emitOnce

theorem State.MemOk.pokeSteps {t} (h : s.MemOk) : (s.pokeSteps t).MemOk := by
  unfold State.pokeSteps
  extract_lets s1
  have hs1 : s1.MemOk := h.foldl fun _ _ h1 => h1.emitOnce
  clear_value s1
  exact hs1.foldl fun _ _ h1 => h1.foldl fun _ _ h2 => .ite h2.emitOnce h2

theorem State.MemOk.walkAgain {t k tag} (h : s.MemOk) : (s.walkAgain t k tag).MemOk :=
  h.modSlot.pokeSteps

theorem State.MemOk.nodeGot {t k tag asid la pa val} (h : s.MemOk) :
    (s.nodeGot t k tag asid la pa val).MemOk :=
  h.modTile.walkAgain

theorem State.MemOk.rdata (h : s.MemOk) : (rdata s).MemOk := by
  unfold Machine.rdata
  extract_lets m t k v bad
  split
  · exact h.unitAnswer
  · split
    · exact h.fillLoad.donePend
    · exact h.fillReg.donePend
    · exact h.pulled
    · exact h.nodeGot
    · exact h

theorem State.MemOk.segArrived {t k tag d sgm r md pa la v bad} (h : s.MemOk) :
    (s.segArrived t k tag d sgm r md pa la v bad).MemOk := by
  unfold State.segArrived
  extract_lets h' sg M task subset inside ok s1
  have hs1 : s1.MemOk := .donePend (.modTh (.of_mem h rfl))
  clear_value s1
  exact .ite hs1.trap (.ite hs1.trap h.unblockCommit.modSlot)

theorem State.MemOk.rdatab (h : s.MemOk) : (rdatab s).MemOk := by
  unfold Machine.rdatab
  extract_lets m t k v bad
  split
  · exact h.gatherGot
  · split
    · exact h.unitAnswer
    · split
      · exact h.segArrived
      · extract_lets got s1
        have hs1 : s1.MemOk := h.donePend.modSlot
        clear_value s1
        exact .ite (.trap (.of_mem hs1 rfl)) hs1
      · exact h.bindingArrived
      · exact h.bindingAgain
      · exact h.pulled
      · exact h

theorem State.MemOk.engAck {t k tag path ctx ch kk bad} (h : s.MemOk) :
    (s.engAck t k tag path ctx ch kk bad).MemOk := by
  unfold State.engAck
  extract_lets seg s1 s2 put
  have hs1 : s1.MemOk := h.donePend
  clear_value s1
  have hs2 : s2.MemOk := .ite hs1.notify hs1
  clear_value s2
  exact .ite hs2.modTile.emitOnce hs2.emitOnce

theorem State.MemOk.mapDone {t ctx} (h : s.MemOk) : (s.mapDone t ctx).MemOk :=
  .ite h (h.foldl fun _ _ h1 => .ite (h1.foldl fun _ _ h2 => h2.modSlot) h1)

theorem State.MemOk.tileWrack (h : s.MemOk) : s.tileWrack.MemOk := by
  unfold State.tileWrack
  extract_lets m t k
  split
  · exact h.donePend
  · exact h.donePend.wbStep
  · exact .ite h.donePend.notify h.donePend.mapDone
  · exact h.engAck
  · exact h.sendDone
  · exact h.sendDone
  · exact h
  · exact h.movedWord

theorem State.MemOk.release_ {pa write v} (h : s.MemOk) : (s.release_ pa write v).MemOk :=
  h.send

theorem State.MemOk.released {t k tag} (h : s.MemOk) : (s.released t k tag).MemOk :=
  .ite h.modSlot h.donePend

theorem State.MemOk.leafGranted (h : s.MemOk) : s.leafGranted.MemOk := by
  unfold State.leafGranted
  extract_lets m vd ag
  split
  · exact h
  · exact h.release_.unitAnswer

theorem State.MemOk.rsvgnt (h : s.MemOk) : (rsvgnt s).MemOk := by
  unfold Machine.rsvgnt
  extract_lets m t k bad old w
  split
  · exact h.leafGranted
  · split
    · exact h.release_.fillReg.released
    · exact h.release_.fillReg.released
    · extract_lets same s1 s2
      have hs1 : s1.MemOk := h.release_
      clear_value s1
      have hs2 : s2.MemOk := .ite hs1.cacheLeaf hs1
      clear_value s2
      exact hs2.walkAgain
    · exact h

/-! ### Visitors (`Visitor`) -/

theorem State.MemOk.creditInstret {o n} (h : s.MemOk) : (s.creditInstret o n).MemOk :=
  .ite h.modSlot h

theorem State.MemOk.vacateVisit {t k} (h : s.MemOk) : (s.vacateVisit t k).MemOk :=
  h.creditInstret.setSlot.dropDivide.emit

theorem State.MemOk.visitorDepart (h : s.MemOk) : (visitorDepart s).MemOk := by
  unfold Machine.visitorDepart
  extract_lets t k h' away o s1 grd o' s1'
  have hs1 : s1.MemOk := h.modSlot
  clear_value s1
  have hs1' : s1'.MemOk := h.modSlot
  clear_value s1'
  split
  · exact h
  · split
    · exact h
    · split
      · exact .ite h.vacateVisit.send (.trap (.of_mem hs1 rfl))
      · exact .ite h.vacateVisit.send hs1'.send

theorem State.MemOk.visit {t k m} (h : s.MemOk) : (s.visit t k m).MemOk :=
  h.setSlot

theorem State.MemOk.refuseCtx {m status} (h : s.MemOk) : (s.refuseCtx m status).MemOk := by
  unfold State.refuseCtx
  split
  · exact h.sendFrom
  · exact h.send

theorem State.MemOk.homeAgain {t k m} (h : s.MemOk) : (s.homeAgain t k m).MemOk := by
  unfold State.homeAgain
  extract_lets bs
  exact State.MemOk.modSlot (SndOk.ite h h.freshWord)

theorem State.MemOk.moveFault {t k la cause lvl reason} (h : s.MemOk) :
    (s.moveFault t k la cause lvl reason).MemOk :=
  h.modSlot.sendFrec

theorem State.MemOk.refusedAt {t k status} (h : s.MemOk) : (s.refusedAt t k status).MemOk :=
  .ite h.modSlot.modSlot.after (.ite h.modSlot.moveFault h.modSlot.moveFault)

theorem State.MemOk.ctx (h : s.MemOk) : (ctx s).MemOk := by
  unfold Machine.ctx
  extract_lets m o pa t k s1 park t' T
  have hs1 : s1.MemOk := h.homeAgain
  clear_value s1
  split
  · exact .ite hs1.kill (.ite hs1.refusedAt (.ite hs1.refusedAt (.ite hs1.refusedAt hs1)))
  · split
    · exact h.refuseCtx
    · split
      · exact h.refuseCtx
      · split
        · exact h.refuseCtx
        · split
          · exact h.visit
          · exact .ite h.modTile.after h.refuseCtx

theorem State.MemOk.seatVisitor {t} (h : s.MemOk) : (s.seatVisitor t).MemOk := by
  unfold State.seatVisitor
  split
  · exact h.modTile.unTimer.visit
  · exact h

theorem State.MemOk.visitorSlotFree (h : s.MemOk) : (visitorSlotFree s).MemOk :=
  h.seatVisitor.emitOnce

theorem State.MemOk.visitorQueueTimeout (h : s.MemOk) : (visitorQueueTimeout s).MemOk :=
  .ite h.modTile.refuseCtx h

theorem State.MemOk.ctxref (h : s.MemOk) : (ctxref s).MemOk :=
  .ite h h.refusedAt

theorem State.MemOk.visitorRetry (h : s.MemOk) : (visitorRetry s).MemOk :=
  .ite h.wakeIf h

theorem State.MemOk.visitorQuantum (h : s.MemOk) : (visitorQuantum s).MemOk :=
  .ite (.goHome (.of_mem h rfl)) h

theorem State.MemOk.recall {t k} (h : s.MemOk) : (s.recall t k).MemOk := by
  unfold State.recall
  split
  · exact h
  · split
    · exact h
    · exact h
    · exact h
    · exact .goHome (.of_mem h rfl)

/-! ### What the engines share (`Engine`) -/

theorem State.MemOk.engTranslate {w a kind shown} (h : s.MemOk) :
    Ends SndOk SndOk (engTranslate w a kind shown s) := by
  unfold Machine.engTranslate
  split
  next he => exact .ok (SndOk.of_eq he h.translate)
  next he => exact .error (SndOk.of_eq he h.translate)
  next he => exact .error (SndOk.of_eq he h.translate)
  next he => exact .error (SndOk.of_eq he h.translate)
  next he => exact .error (SndOk.of_eq he h.translate)
  next he => exact .error (SndOk.of_eq he h.translate)
  next he => exact .error (SndOk.of_eq he h.translate)

theorem State.MemOk.engPa {w kind p} (h : s.MemOk) : Ends SndOk SndOk (engPa w kind p s) := by
  unfold Machine.engPa
  split
  · exact .ok h
  · exact .ok h
  · split
    · exact .ok h
    · exact h.engTranslate.bind fun _ h1 => .ite (.error h1) (.ite (.ok h1) (.ite (.error h1) (.error h1)))

theorem State.MemOk.engRefused {w cause p pa told} (h : s.MemOk) :
    SndOk (engRefused w cause p pa told s) := by
  unfold Machine.engRefused
  extract_lets u
  show State.MemOk _
  exact .ite (.ite h h.logViolation) h.logViolation

theorem State.MemOk.engGate {w write p n} (h : s.MemOk) : Ends SndOk SndOk (engGate w write p n s) := by
  unfold Machine.engGate
  refine h.engPa.bind fun ⟨pa, s1⟩ h1 => ?_
  dsimp only
  split
  · exact .error h1
  · split
    · exact .ite (.ok h1) (.error h1)
    · split
      · exact .error h1.engRefused
      · exact .ite (.error h1) (.ite (.error h1) (.ok h1))

theorem State.MemOk.freeBytes {n} (h : s.MemOk) : SndOk (s.freeBytes n) :=
  h

theorem State.MemOk.engGet {w pa n} (h : s.MemOk) : Ends SndOk SndOk (engGet w pa n s) :=
  .ite (.error h.recordEcc) (.ok h.scrub)

theorem State.MemOk.engReadPiece {w p n} (h : s.MemOk) : Ends SndOk SndOk (engReadPiece w p n s) :=
  h.engGate.bind fun _ h1 => h1.engGet

theorem State.MemOk.engRead {w p n} (h : s.MemOk) : Ends SndOk SndOk (engRead w p n s) :=
  .foldlM h fun _ _ h1 => h1.engReadPiece.bind fun _ h2 => .ok h2

theorem State.MemOk.remotePut {w pa la bs} (h : s.MemOk) : (State.remotePut w s pa la bs).MemOk := by
  unfold State.remotePut
  split
  · exact h.unitPut
  · exact h.setSlot.send

theorem State.MemOk.engPut {w pa la bs} (h : s.MemOk) : (State.engPut w s pa la bs).MemOk :=
  .ite h.remotePut h.performOut

theorem State.MemOk.remoteGet {w pa n la} (h : s.MemOk) : (State.remoteGet w s pa n la).MemOk := by
  unfold State.remoteGet
  split
  · exact h.unitGet
  · exact h.setSlot.send

theorem State.MemOk.engLeaf {w la kind e lvl addr} (h : s.MemOk) :
    (State.engLeaf w s la kind e lvl addr).MemOk :=
  .ite h h.sendOr

theorem State.MemOk.engNode {w la addr} (h : s.MemOk) : (State.engNode w s la addr).MemOk :=
  .ite h h.askNode

theorem State.MemOk.engPause {w ev st} (h : s.MemOk) : (State.engPause w ev s st).MemOk := by
  unfold State.engPause
  split
  · exact h.waitResv
  · exact h.holdTile
  · exact h.remoteGet
  · exact h.engLeaf
  · exact h.engNode
  · exact h.unTimer.after
  · exact h

theorem State.MemOk.engPuts {w acc} (h : s.MemOk) : Ends SndOk State.MemOk (engPuts w acc s) :=
  .ite (.ok (h.foldl fun _ _ h1 => h1.engPut)) (.error h)

theorem State.MemOk.engWriteGo {w qs acc} (h : s.MemOk) : Ends SndOk State.MemOk (engWriteGo w qs acc s) := by
  induction qs generalizing acc s with
  | nil => exact h.engPuts
  | cons q qs ih =>
    unfold Machine.engWriteGo
    have hq : Ends SndOk SndOk (Machine.engGate w true q.1 q.2.length s) := h.engGate
    generalize Machine.engGate w true q.1 q.2.length s = gate at hq ⊢
    cases hq with
    | @ok r h1 => exact ih h1
    | @error r h1 =>
      obtain ⟨stop, s1⟩ := r
      have h1 : s1.MemOk := h1
      cases stop with
      | resv | bank | held | tags | node | leaf => exact .error h1
      | fault | wait | err | fetch => exact h1.engPuts.bind fun _ h2 => .error h2

theorem State.MemOk.engWrite {w ws} (h : s.MemOk) : Ends SndOk State.MemOk (engWrite w ws s) :=
  h.engWriteGo

theorem State.MemOk.postMsg {w pa la add err} (h : s.MemOk) : (postMsg w pa la add err s).MemOk := by
  unfold Machine.postMsg
  split
  · exact h.unitPost
  · exact h.setSlot.send

theorem State.MemOk.engPostPlace {w p} (h : s.MemOk) : Ends SndOk SndOk (engPostPlace w p s) := by
  unfold Machine.engPostPlace
  split
  · exact .ok h
  · exact .ok h
  · split
    · exact .ite (.ok h) (.ok h.logViolation)
    · exact h.engTranslate.bind fun _ h1 => .ite (.ok h1) (.error h1)

theorem State.MemOk.engPost {w en p add err} (h : s.MemOk) :
    Ends SndOk State.MemOk (engPost w en p add err s) := by
  unfold Machine.engPost
  split
  · exact .ok h
  · split
    · exact .error h
    · refine h.engPostPlace.bind fun ⟨q, s1⟩ h1 => ?_
      dsimp only
      split
      · exact .ok h1.postMsg
      · exact .ok h1

theorem State.MemOk.cmdEnter {i fmt} (h : s.MemOk) : Ends State.MemOk (fun _ => True) (cmdEnter i fmt s) :=
  h.enter.seq fun _ => .ite (.error h.block) (.ite (.error h.block) (.ok trivial))

theorem State.MemOk.cmdEnterNow {i} (h : s.MemOk) : Ends State.MemOk (fun _ => True) (cmdEnterNow i s) :=
  h.cmdEnter.seq fun _ => .ite (.error h.block) (.ok trivial)

theorem State.MemOk.illWord {i bad} (h : s.MemOk) : Ends State.MemOk (fun _ => True) (illWord i bad s) :=
  .ite (.error h.trap) (.ok trivial)

theorem State.MemOk.extentSeg {rights x} (h : s.MemOk) :
    Ends State.MemOk (fun _ => True) (extentSeg rights x s) := by
  unfold Machine.extentSeg
  extract_lets v g
  split
  · exact .ite (.error h.trap) (.ite (.ok trivial) (.error h.trap))
  · split
    · exact .error h.trap
    · split
      · exact .error h.trap
      · split
        · exact .ok trivial
        · exact .error h.trap

theorem State.MemOk.extentsSeg {xs} (h : s.MemOk) : Ends State.MemOk (fun _ => True) (extentsSeg xs s) :=
  .forM fun _ => h.extentSeg

theorem State.MemOk.extentRange {path x} (h : s.MemOk) :
    Ends State.MemOk (fun _ => True) (extentRange path x s) := by
  unfold Machine.extentRange
  split
  · exact .ok trivial
  · exact .forM fun _ => .ite (.error (.ite h.block h.park)) (.ite (.error h.rangeTrap) (.ite
      (.error h.rangeTrap) (.ok trivial)))

theorem State.MemOk.extentsRange {path xs} (h : s.MemOk) :
    Ends State.MemOk (fun _ => True) (extentsRange path xs s) :=
  .forM fun _ => h.extentRange

theorem State.MemOk.alignedTo {n v} (h : s.MemOk) : Ends State.MemOk (fun _ => True) (alignedTo n v s) :=
  .ite (.ok trivial) (.error h.trap)

theorem State.MemOk.cwSeg {en sn off} (h : s.MemOk) : Ends State.MemOk (fun _ => True) (cwSeg en sn off s) :=
  .ite h.extentSeg (.ok trivial)

theorem State.MemOk.cwAligned {en off} (h : s.MemOk) :
    Ends State.MemOk (fun _ => True) (cwAligned en off s) :=
  .ite h.alignedTo (.ok trivial)

theorem State.MemOk.cmdFmt {i regv} (h : s.MemOk) : Ends State.MemOk (fun _ => True) (cmdFmt i regv s) :=
  h.illWord.seq fun _ => h.illWord.seq fun _ => .ok trivial

theorem State.MemOk.askPower {t k e} (h : s.MemOk) : (s.askPower t k e).MemOk :=
  .ite h h.setDie.clockBack.emitOnce

theorem State.MemOk.dropPower {t k} (h : s.MemOk) : (s.dropPower t k).MemOk :=
  h.modDie

theorem State.MemOk.giveLeave {vd e} (h : s.MemOk) : (s.giveLeave vd e).MemOk :=
  h.modDie.emitOnce

theorem State.MemOk.kick {t e} (h : s.MemOk) : (s.kick t e).MemOk := by
  unfold State.kick
  split
  · exact h
  · split
    · split
      · exact h.emitOnce
      · exact h
    · exact .ite h (.ite h.askPower h.emitOnce)

theorem State.MemOk.holdLead {x} (h : s.MemOk) : (s.holdLead x).MemOk := by
  unfold State.holdLead
  split
  · split
    · exact .modTile (.ite h.giveLeave h)
    · exact h
  · exact h

theorem State.MemOk.enqueue7 {t e c} (h : s.MemOk) : (s.enqueue7 t e c).MemOk := by
  unfold State.enqueue7
  extract_lets q mine rest
  split
  · clear_value q
    clear_value mine
    clear_value rest
    split
    · extract_lets s1
      have hs1 : s1.MemOk := .holdLead (.ite h.giveLeave h)
      clear_value s1
      exact hs1.modTile
    · exact h.modTile
  · exact h.modTile

theorem State.MemOk.accept {t e c} (h : s.MemOk) : (s.accept t e c).MemOk := by
  unfold State.accept
  extract_lets s1 s2 s3
  have hs1 : s1.MemOk := h.enqueue7
  clear_value s1
  have hs2 : s2.MemOk := hs1.foldl fun _ _ h1 => .ite h1 h1.enqueue7
  clear_value s2
  have hs3 : s3.MemOk := hs2.modSlot
  clear_value s3
  exact hs3.kick

theorem State.MemOk.oddLeave {e} (h : s.MemOk) : (s.oddLeave e).MemOk := by
  unfold State.oddLeave
  split
  · exact .ite h h.modTh.giveLeave
  · exact h

theorem State.MemOk.defer {draws srcs d} (h : s.MemOk) :
    Ends State.MemOk State.MemOk (defer draws srcs d s) :=
  .ite (.error h.block) (.ok h.consume.modTh)

theorem State.MemOk.submit {draws srcs d} {go : State → Option State} (h : s.MemOk)
    (hgo : ∀ {u : State}, u.MemOk → SomeOk (go u)) :
    Ends State.MemOk State.MemOk (submit draws srcs d go s) := by
  refine .ite h.defer ?_
  split
  next he => exact .ok (SomeOk.of_eq he (hgo h.consume.modTh))
  · exact .error h.park

theorem State.MemOk.admitCmd {e srcs c} (h : s.MemOk) : Ends State.MemOk State.MemOk (admitCmd e srcs c s) :=
  .ite h.defer (.ite (.error h.oddLeave.park.askPower) (.ite (.error h.oddLeave.park)
      (.ok h.oddLeave.consume.modTh.modTh.accept)))

theorem State.MemOk.tally {t c y} (h : s.MemOk) : (s.tally t c y).MemOk := by
  unfold State.tally
  split
  · exact h
  · exact h.modSlot

theorem State.MemOk.engFreed {t} (h : s.MemOk) : (s.engFreed t).MemOk := by
  unfold State.engFreed
  extract_lets s1
  have hs1 : s1.MemOk := h.foldl fun _ _ h1 => h1.foldl fun _ _ h2 => h2.wakeIf
  clear_value s1
  exact .wakeGuard (hs1.foldl fun _ _ h1 => h1.notify)

theorem State.MemOk.cmdGone {t slot} (h : s.MemOk) : (s.cmdGone t slot).MemOk :=
  h.checkRetire.engFreed

theorem State.MemOk.modCmd {t e i f} (h : s.MemOk) : (s.modCmd t e i f).MemOk :=
  h.modTile

theorem State.MemOk.stopCmd {t e i c ev st} (h : s.MemOk) : (s.stopCmd t e i c ev st).MemOk := by
  unfold State.stopCmd
  extract_lets lay
  split
  · exact .ite h.modCmd.emitOnce (.sendFrec (.notify (.modCmd (.ite h.giveLeave h))))
  · exact .notify (.modCmd (.ite h.giveLeave h))
  · exact h.modCmd.emitOnce
  · exact h.engPause

theorem State.MemOk.valueLater {t k rd pair v n} (h : s.MemOk) : (s.valueLater t k rd pair v n).MemOk :=
  .ite h h.modSlot.after

theorem State.MemOk.valueArrived {t k tag} (h : s.MemOk) : (s.valueArrived t k tag).MemOk := by
  unfold State.valueArrived
  split
  · exact .ite h.modSlot.departAgain (.ite h.modSlot.fillPair h.modSlot.fillReg)
  · exact h

theorem State.MemOk.ewrite {i a eng r f} (h : s.MemOk) :
    Ends State.MemOk State.MemOk (ewrite i a eng r f s) :=
  h.cmdEnterNow.seq fun _ => h.readSrc.seq fun _ => .ok h.consume.modTh

theorem State.MemOk.eread {i d eng r hi} (h : s.MemOk) :
    Ends State.MemOk State.MemOk (eread i d eng r hi s) :=
  h.cmdEnterNow.seq fun _ => h.destLater.seq fun _ => .ok h.commitNow.valueLater

theorem State.MemOk.fmtp {fa fb fo rnd sc} (h : s.MemOk) :
    Ends State.MemOk State.MemOk (fmtp fa fb fo rnd sc s) :=
  .ite (.error (.ite h.block h.goHome)) (.ok h.modTh)

/-! ### The matrix engine (`Matrix`) -/

theorem State.MemOk.accMap {t bank rows cols f} (h : s.MemOk) : (s.accMap t bank rows cols f).1.MemOk :=
  h.modTile

theorem State.MemOk.readRows {w os g off str cnt f sc k0 k1 ftz T} (h : s.MemOk) :
    Ends SndOk SndOk (readRows w os g off str cnt f sc k0 k1 ftz T s) :=
  .foldlM h fun _ _ h1 => h1.engRead.bind fun _ h2 => .ok h2

theorem State.MemOk.mmaStep {c n wb tiles} (h : s.MemOk) :
    Ends SndOk (fun r => r.1.MemOk) (mmaStep c n wb tiles s) := by
  unfold Machine.mmaStep
  extract_lets k0 k1 fa fb sc ftz
  refine h.readRows.bind fun p h1 => ?_
  refine Ends.bind (P := SndOk) (.foldlM h1 fun a q h2 => (State.MemOk.readRows h2).bind fun _ h3 =>
      .ok h3) fun q h2 => .ok ?_
  refine State.MemOk.foldl_fst h2 fun a b h3 => ?_
  dsimp only
  exact State.MemOk.accMap h3

theorem State.MemOk.mstoreStep {c w} (h : s.MemOk) : Ends SndOk (fun r => r.2.1.MemOk) (mstoreStep c w s) :=
  h.engWrite.bind fun _ h1 => .ok h1

theorem State.MemOk.mreduceStep {c n w} (h : s.MemOk) :
    Ends SndOk (fun r => r.1.MemOk) (mreduceStep c n w s) := by
  unfold Machine.mreduceStep
  refine Ends.bind (P := SndOk) ?_ fun ⟨rows, s1⟩ h1 => ?_
  · exact .foldlM h fun _ _ h1 => h1.engRead.bind fun _ h2 => .ok h2
  · exact .ok h1.accMap

theorem State.MemOk.mzeroStep {mask t} (h : s.MemOk) : (mzeroStep mask t s).MemOk :=
  h.modTile

theorem State.MemOk.matrixStep {c t} (h : s.MemOk) : Ends SndOk (fun r => r.2.1.MemOk) (matrixStep c t s) :=
  .ite (.ok h.mzeroStep) (.ite (h.mmaStep.bind fun _ h1 => .ok h1) (.ite (h.mmaStep.bind fun _ h1 => .ok h1)
      (.ite (h.mreduceStep.bind fun _ h1 => .ok h1) (.ite (h.mmaStep.bind fun _ h1 => .ok h1) (.ite
      (h.mstoreStep.bind fun _ h1 => .ok h1) h.mstoreStep)))))

theorem State.MemOk.bankOk {mask v} (h : s.MemOk) : Ends State.MemOk (fun _ => True) (bankOk mask v s) :=
  .ite (.ok trivial) (.error h.trap)

theorem State.MemOk.mzero {i a} (h : s.MemOk) : Ends State.MemOk State.MemOk (mzero i a s) :=
  h.cmdEnter.seq fun _ => h.readSrc.seq fun _ => h.illWord.seq fun _ => h.bankOk.seq fun _ => h.admitCmd

theorem State.MemOk.mcwSeg {c} (h : s.MemOk) : Ends State.MemOk (fun _ => True) (mcwSeg c s) :=
  h.cwSeg

theorem State.MemOk.mcwAligned {c} (h : s.MemOk) : Ends State.MemOk (fun _ => True) (mcwAligned c s) :=
  h.cwAligned

theorem State.MemOk.abAligned {c} (h : s.MemOk) : Ends State.MemOk (fun _ => True) (abAligned c s) :=
  h.alignedTo.seq fun _ => h.alignedTo.seq fun _ => h.alignedTo.seq fun _ => h.alignedTo

theorem State.MemOk.mmaChecks {c} (h : s.MemOk) : Ends State.MemOk (fun _ => True) (mmaChecks c s) :=
  h.extentsSeg.seq fun _ => h.mcwSeg.seq fun _ => h.bankOk.seq fun _ => h.abAligned.seq fun _ =>
      h.mcwAligned.seq fun _ => h.extentsRange

theorem State.MemOk.mma {i a b} (h : s.MemOk) : Ends State.MemOk State.MemOk (mma i a b s) :=
  h.cmdEnter.seq fun _ => h.readSrc.seq fun _ => h.readSrc.seq fun _ => h.cmdFmt.seq fun _ =>
      h.illWord.seq fun _ => h.mmaChecks.seq fun _ => h.admitCmd

theorem State.MemOk.memberOk {lead off hi g bank m} (h : s.MemOk) :
    Ends State.MemOk (fun _ => True) (memberOk lead off hi g bank s m) :=
  .ite (.error h.trap) (.ite (.error h.trap) (.ite (.ok trivial) (.error h.trap)))

theorem State.MemOk.mmagChecks {c} (h : s.MemOk) : Ends State.MemOk (fun _ => True) (mmagChecks c s) :=
  .seq (.ite (.error h.trap) (.ok trivial)) fun _ => h.extentsSeg.seq fun _ => .seq (.ite (.error h.trap)
      (.ok trivial)) fun _ => h.extentSeg.seq fun _ => h.mcwSeg.seq fun _ => h.bankOk.seq fun _ => .seq
      (.forM fun _ => h.memberOk) fun _ => h.abAligned.seq fun _ => h.alignedTo.seq fun _ =>
      h.mcwAligned.seq fun _ => h.extentsRange

theorem State.MemOk.mmag {i a b} (h : s.MemOk) : Ends State.MemOk State.MemOk (mmag i a b s) :=
  h.cmdEnter.seq fun _ => h.readSrc.seq fun _ => h.readSrc.seq fun _ => h.cmdFmt.seq fun _ =>
      h.illWord.seq fun _ => h.mmagChecks.seq fun _ => h.admitCmd

theorem State.MemOk.mstoreChecks {c} (h : s.MemOk) : Ends State.MemOk (fun _ => True) (mstoreChecks c s) :=
  h.extentsSeg.seq fun _ => h.mcwSeg.seq fun _ => h.bankOk.seq fun _ => h.alignedTo.seq fun _ =>
      h.alignedTo.seq fun _ => h.mcwAligned.seq fun _ => h.extentsRange

theorem State.MemOk.mstore {i a} (h : s.MemOk) : Ends State.MemOk State.MemOk (mstore i a s) :=
  h.cmdEnter.seq fun _ => h.readSrc.seq fun _ => h.cmdFmt.seq fun _ => h.illWord.seq fun _ =>
      h.mstoreChecks.seq fun _ => h.admitCmd

theorem State.MemOk.mreduceChecks {c} (h : s.MemOk) : Ends State.MemOk (fun _ => True) (mreduceChecks c s) :=
  h.extentsSeg.seq fun _ => h.mcwSeg.seq fun _ => h.bankOk.seq fun _ => h.alignedTo.seq fun _ =>
      h.alignedTo.seq fun _ => h.alignedTo.seq fun _ => h.mcwAligned.seq fun _ => h.extentsRange

theorem State.MemOk.mreduce {i a} (h : s.MemOk) : Ends State.MemOk State.MemOk (mreduce i a s) :=
  h.cmdEnter.seq fun _ => h.readSrc.seq fun _ => h.illWord.seq fun _ => h.mreduceChecks.seq fun _ =>
      h.admitCmd

/-! ### The vector engine (`Vector`) -/

theorem State.MemOk.readRun {c w sn base b f T r} (h : s.MemOk) :
    Ends SndOk SndOk (readRun c w sn base b f T r s) :=
  h.engRead.bind fun _ h1 => .ok h1

theorem State.MemOk.readSources {c w r} (h : s.MemOk) : Ends SndOk SndOk (readSources c w r s) := by
  unfold Machine.readSources
  extract_lets fa fb
  exact .iteBind h.readRun (.ok h) fun _ h1 => .iteBind h1.readRun (.ok h1) fun _ h2 => .iteBind h2.readRun
      (.ok h2) fun _ h3 => .ok h3

theorem State.MemOk.readAll {c w} (h : s.MemOk) : Ends SndOk SndOk (readAll c w s) :=
  .foldlM h fun _ _ h1 => h1.readSources.bind fun _ h2 => .ok h2

theorem State.MemOk.oldLast {c w f sc r} (h : s.MemOk) : Ends SndOk SndOk (oldLast c w f sc r s) :=
  .ite (.ok h) h.engRead

theorem State.MemOk.oldFirst {c w f sc r} (h : s.MemOk) : Ends SndOk SndOk (oldFirst c w f sc r s) :=
  .ite h.engRead (.ok h)

theorem State.MemOk.elementStep {c w} (h : s.MemOk) :
    Ends SndOk (fun r => r.2.1.MemOk) (elementStep c w s) := by
  refine h.readAll.bind fun p h1 => ?_
  refine Ends.bind (P := fun r => r.2.2.2.MemOk) (.foldlM h1 fun a q h2 => ?_) fun _ h2 =>
      State.MemOk.engWrite h2 |>.bind fun _ h3 => .ok h3
  exact (State.MemOk.oldFirst h2).bind fun _ h3 => (State.MemOk.oldLast h3).bind fun _ h4 => .ok h4

theorem State.MemOk.reduceStep {c w} (h : s.MemOk) : Ends SndOk (fun r => r.2.1.MemOk) (reduceStep c w s) :=
  h.readAll.bind fun _ h1 => h1.engWrite.bind fun _ h2 => .ok h2

theorem State.MemOk.vectorStep {c t} (h : s.MemOk) : Ends SndOk (fun r => r.2.1.MemOk) (vectorStep c t s) :=
  .ite h.reduceStep h.elementStep

theorem State.MemOk.vAligned {c f base b} (h : s.MemOk) :
    Ends State.MemOk (fun _ => True) (vAligned c f base b s) :=
  h.alignedTo.seq fun _ => .forM fun _ => h.alignedTo

theorem State.MemOk.vecChecks {c} (h : s.MemOk) : Ends State.MemOk (fun _ => True) (vecChecks c s) :=
  h.extentsSeg.seq fun _ => h.cwSeg.seq fun _ => .seq (.ite h.vAligned (.ok trivial)) fun _ => .seq
      (.ite h.vAligned (.ok trivial)) fun _ => .seq (.ite h.vAligned (.ok trivial)) fun _ =>
      h.vAligned.seq fun _ => h.cwAligned.seq fun _ => h.extentsRange

theorem State.MemOk.vecCmd {i o srcs a b} (h : s.MemOk) :
    Ends State.MemOk State.MemOk (vecCmd i o srcs a b s) :=
  h.cmdEnter.seq fun _ => .iteBind h.readSrc (.ok trivial) fun _ _ => h.readSrc.seq fun _ =>
      h.cmdFmt.seq fun _ => h.illWord.seq fun _ => h.vecChecks.seq fun _ => h.admitCmd

/-! ### Engine commands after their issue (`Command`) -/

theorem State.MemOk.gangRecord {c t} (h : s.MemOk) : Ends SndOk SndOk (gangRecord c t s) :=
  h.engTranslate.bind fun _ h1 => .ite (.error h1) (.ite (.error h1) (.ok h1))

theorem State.MemOk.gangEnd {c t} (h : s.MemOk) : Ends SndOk (fun r => r.2.2.MemOk) (gangEnd c t s) :=
  .ite (.ok h) (h.gangRecord.bind fun _ h1 => .ok h1)

theorem State.MemOk.endPosts {c t e} (h : s.MemOk) : Ends SndOk SndOk (endPosts c t e s) :=
  h.gangEnd.bind fun _ h1 => h1.engPost.bind fun _ h2 => .ok (h2.foldl fun _ _ h3 => h3.engineArrival)

theorem State.MemOk.pokeTasks {t} (h : s.MemOk) : (s.pokeTasks t).MemOk :=
  .ite h.emitOnce h

theorem State.MemOk.dropCmd {t e i c} (h : s.MemOk) : (s.dropCmd t e i c).MemOk := by
  unfold State.dropCmd
  extract_lets s1 s2 s3 s4
  have hs1 : s1.MemOk := h.modTile
  clear_value s1
  have hs2 : s2.MemOk := hs1.foldl fun _ _ h1 => .ite h1.modTile h1.modTile.kick.engFreed.pokeTasks
  clear_value s2
  have hs3 : s3.MemOk := .ite hs2.giveLeave hs2
  clear_value s3
  have hs4 : s4.MemOk := hs3.kick.pokeTasks
  clear_value s4
  exact .ite hs4.cmdGone hs4.cmdGone

theorem State.MemOk.taskLost {t c} (h : s.MemOk) : (s.taskLost t c).MemOk :=
  h.logError

theorem State.MemOk.engineCommandEnd (h : s.MemOk) : (engineCommandEnd s).MemOk := by
  unfold Machine.engineCommandEnd
  extract_lets t e q again
  split
  · exact h
  · extract_lets fin
    have hagain : ∀ {u : State}, u.MemOk → (again u).MemOk := fun hu => hu.emitOnce
    have hfin : ∀ {err} {u : State}, u.MemOk → (fin u err).MemOk := by
      intro err u hu
      refine .ite (hagain (.dropCmd (.ite hu ?_))) (.dropCmd (.ite hu ?_))
      · split
        · exact hu.modSlot
        · exact hu
      · split
        · exact hu.modSlot
        · exact hu
    clear_value again fin
    refine .ite h ?_
    split
    next he => exact hfin (Ends.state_of_ok he h.endPosts)
    next he =>
      have h1 := Ends.state_of_error he h.endPosts
      exact .ite (hfin h1.taskLost) (.ite (hagain h1.modCmd) h1.after)
    next he =>
      have h1 := Ends.state_of_error he h.endPosts
      exact .ite (hfin h1.taskLost) h1.stopCmd
    next he => exact (Ends.state_of_error he h.endPosts).stopCmd

theorem State.MemOk.unask {t e c} (h : s.MemOk) : (s.unask t e c).MemOk :=
  .ite (h.modCmd.foldl fun _ _ h1 => .ite h1 h1.modCmd) h.modCmd

theorem State.MemOk.scrambleBank {t bank} (h : s.MemOk) : (s.scrambleBank t bank).MemOk := by
  unfold State.scrambleBank
  extract_lets n src
  have hsrc : src.MemOk := h.modTile
  clear_value src
  exact .of_mem hsrc rfl

theorem State.MemOk.mismatch {t e c} (h : s.MemOk) : (s.mismatch t e c).MemOk := by
  unfold State.mismatch
  extract_lets bank s1 tiles s2 s3
  have hs1 : s1.MemOk := h.logError
  clear_value s1
  have hs2 : s2.MemOk := hs1.foldl fun _ _ h1 => h1.scrambleBank
  clear_value s2
  have hs3 : s3.MemOk := by
    unfold s3
    split
    · exact hs2
    · split
      · exact hs2.modSlot
      · exact hs2
  clear_value s3
  exact .ite h.logError.modCmd.emit hs3.modCmd.emitOnce

theorem State.MemOk.cmdStep {t e ok} (h : s.MemOk) : (cmdStep t e ok s).MemOk := by
  unfold Machine.cmdStep
  split
  · exact h
  next c _ he =>
    extract_lets fin s0
    have h0 : s0.MemOk := h.unask
    clear_value s0
    refine .ite h (.ite h.kick (.ite h.emitOnce (.ite h.modCmd.emitOnce (.ite h (.ite h.askPower
        (.ite h0.mismatch ?_))))))
    have hstep : Ends SndOk (fun r => r.2.1.MemOk)
        (if e = 0 then Machine.matrixStep c t s0 else Machine.vectorStep c t s0) := .ite h0.matrixStep h0.vectorStep
    split
    next hs => exact (Ends.state_of_error hs hstep).stopCmd
    next c1 s1 y hs =>
      have h1 := Ends.of_ok hs hstep
      exact (State.MemOk.tally h1).modCmd.emitOnce

theorem State.MemOk.syncClear {t k mask} (h : s.MemOk) : (s.syncClear t k mask).MemOk :=
  .ite h.modSlot h

theorem State.MemOk.qsync {i a} (h : s.MemOk) : Ends State.MemOk State.MemOk (qsync i a s) :=
  h.cmdEnter.seq fun _ => h.readSrc.seq fun _ => h.illWord.seq fun _ => .ite h.defer (.ite (.error h.block)
      (.ok h.consume.syncClear.commitNow))

theorem State.MemOk.cancelQueue {t k e} (h : s.MemOk) : (s.cancelQueue t k e).MemOk :=
  .ite h.modTile.emitOnce h

theorem State.MemOk.cancelQueues {t k mask} (h : s.MemOk) : (s.cancelQueues t k mask).MemOk :=
  .ite (.cancelQueue (.ite h.cancelQueue h)) (.ite h.cancelQueue h)

theorem State.MemOk.qcancel {i a} (h : s.MemOk) : Ends State.MemOk State.MemOk (qcancel i a s) :=
  h.cmdEnter.seq fun _ => h.readSrc.seq fun _ => h.illWord.seq fun _ => h.submit fun hu =>
      .some hu.cancelQueues

theorem State.MemOk.taskMod {vd cl id f} (h : s.MemOk) : (s.taskMod vd cl id f).MemOk :=
  h.modDie

theorem State.MemOk.taskWatch {vd cl r d} (h : s.MemOk) : (s.taskWatch vd cl r d).MemOk := by
  unfold State.taskWatch
  extract_lets t la drop src
  split
  next _ pa lvl s1 he =>
    have h1 := SndOk.of_eq he h.translate
    exact .ite h1.taskMod h1.taskMod.send
  next he => exact (SndOk.of_eq he h.translate).taskMod
  next he => exact (SndOk.of_eq he h.translate).engLeaf.after
  next he => exact (SndOk.of_eq he h.translate).engNode.after
  next he => exact (SndOk.of_eq he h.translate).taskMod
  next he => exact (SndOk.of_eq he h.translate).after
  next he => exact (SndOk.of_eq he h.translate).taskMod

theorem State.MemOk.taskWatches {vd cl} (h : s.MemOk) : (s.taskWatches vd cl).MemOk :=
  h.foldl fun _ _ h1 => h1.foldl fun _ _ h2 => .ite h2.taskWatch h2

theorem State.MemOk.wakeTasks (h : s.MemOk) : s.wakeTasks.MemOk :=
  h.foldl fun _ _ h1 => h1.modDie.foldl fun _ _ h2 => h2.emitOnce

theorem State.MemOk.taskWatchrsp (h : s.MemOk) : s.taskWatchrsp.MemOk :=
  .ite h.taskMod.after h.taskMod.pokeTasks

theorem State.MemOk.taskEnd {vd cl r cause} (h : s.MemOk) : (s.taskEnd vd cl r cause).MemOk := by
  unfold State.taskEnd
  extract_lets t cw c w fin
  have hfin : ∀ {u : State}, u.MemOk → (fin u).MemOk := by
    intro u hu
    refine State.MemOk.pokeTasks (.notifyAll (.cmdGone ?_))
    split
    · exact hu.modDie.modSlot
    · exact hu.modDie
  clear_value fin
  refine .ite (hfin h.taskLost) ?_
  split
  next he => exact hfin (Ends.of_ok he h.engPost)
  next he => exact hfin (Ends.state_of_error he h.engPost).taskLost
  next he => exact hfin (Ends.state_of_error he h.engPost).taskLost
  next he => exact (Ends.state_of_error he h.engPost).engPause.unTimer.after

theorem State.MemOk.taskRecordStart (h : s.MemOk) : (taskRecordStart s).MemOk := by
  unfold Machine.taskRecordStart
  extract_lets vd cl s1
  have hs1 : s1.MemOk := h.taskWatches
  clear_value s1
  split
  · exact hs1
  · split
    · exact hs1
    · split
      · exact hs1.taskEnd
      · split
        · exact hs1.taskEnd
        · split
          · exact hs1
          · exact hs1.modDie.mzeroStep.modTile.kick.engFreed.pokeTasks

theorem State.MemOk.recordPlace {sn off n} (h : s.MemOk) :
    Ends State.MemOk SndOk (recordPlace sn off n s) := by
  unfold Machine.recordPlace
  extract_lets g
  split
  · exact .error h.trap
  · refine h.seg.seq fun p => ?_
    refine h.alignedTo.seq fun _ => ?_
    split
    · exact .error h.park
    · exact .error h.rangeTrap
    · exact h.bankFree.seq fun _ => .ite (.error h.block.waitResv) (.ite (.error h.readCheck.trap)
        (.ok h.readCheck))

theorem State.MemOk.taskAccept {t k r} (h : s.MemOk) : SomeOk (s.taskAccept t k r) :=
  .ite SomeOk.none (SomeOk.some h.modSlot.modDie.pokeTasks)

theorem State.MemOk.mqput {i a b} (h : s.MemOk) : Ends State.MemOk State.MemOk (mqput i a b s) :=
  h.cmdEnter.seq fun _ => h.readSrc.seq fun _ => h.readSrc.seq fun _ => h.illWord.seq fun _ =>
      h.recordPlace.bind fun _ h5 => h5.submit fun hu => hu.taskAccept

theorem State.MemOk.leaveTo {t k e} (h : s.MemOk) : (s.leaveTo t k e).MemOk := by
  unfold State.leaveTo
  split
  · exact h.modSlot.wakeIf
  · extract_lets q
    split
    · exact h.modCmd.kick
    · exact h.giveLeave

theorem State.MemOk.powerGrant (h : s.MemOk) : (powerGrant s).MemOk := by
  unfold Machine.powerGrant
  extract_lets vd D
  split
  · exact h
  · exact .ite (.ite h.setDie.leaveTo h.setDie.leaveTo.emitOnce) h

theorem State.MemOk.vfClockChange (h : s.MemOk) : (vfClockChange s).MemOk :=
  .ite (.ite h.modDie h.modDie.setMhz) (.emitOnce (.ite h.modDie h.modDie.setMhz))

/-! ### Ladles and copy engines (`Ladle`) -/

theorem State.MemOk.copyIndex {w c row} (h : s.MemOk) : Ends SndOk SndOk (copyIndex w c row s) :=
  .ite (.ok h) (h.engRead.bind fun _ h1 => .ite (.error h1) (.ok h1))

theorem State.MemOk.copySource {w c p ps m} (h : s.MemOk) : Ends SndOk SndOk (copySource w c p ps m s) := by
  unfold Machine.copySource
  split
  · exact h.engGet
  · split
    · exact .error h
    · split
      · exact .ok h
      · split
        · exact .error h.engRefused
        · refine .error ?_
          show State.MemOk _
          exact .ite h h.logError

theorem State.MemOk.copyUnit {w0 c d k n} (h : s.MemOk) : Ends SndOk SndOk (copyUnit w0 c d k n s) :=
  h.engGate.bind fun _ h1 => h1.copySource.bind fun _ h2 => .ite (.error h2) (h2.engGate.bind fun _ h3 =>
      .ok h3.engPut)

theorem State.MemOk.modLadle {t ch f} (h : s.MemOk) : (s.modLadle t ch f).MemOk :=
  h.modTile

theorem State.MemOk.ladleCopyStart (h : s.MemOk) : (ladleCopyStart s).MemOk := by
  unfold Machine.ladleCopyStart
  extract_lets t ch L
  split
  · exact h.modLadle.emit.engFreed
  · exact h

theorem State.MemOk.stopLadle {t ch c st} (h : s.MemOk) : (s.stopLadle t ch c st).MemOk := by
  unfold State.stopLadle
  extract_lets lay
  split
  · exact h.modLadle.notify.sendFrec
  · exact h.modLadle.notify
  · exact h.modLadle.emitOnce
  · exact h.engPause

theorem State.MemOk.copyMove {w f c d k n} (h : s.MemOk) : (copyMove w f c d k n s).s.MemOk := by
  induction f generalizing s c d k n with
  | zero => exact h
  | succ f ih =>
    unfold Machine.copyMove
    split
    · exact h
    · split
      next he => exact Ends.state_of_error he h.copyIndex
      next he =>
        have h1 := Ends.state_of_ok he h.copyIndex
        split
        next he => exact Ends.state_of_error he h1.copyUnit
        next he => exact ih (Ends.state_of_ok he h1.copyUnit)

theorem State.MemOk.ladleResend {t ch c k rest} (h : s.MemOk) : (ladleResend t ch c k rest s).MemOk := by
  unfold Machine.ladleResend
  extract_lets n w r c0 c1 s1
  have h1 : s1.MemOk := (State.MemOk.copyMove h).modLadle
  clear_value s1 c1
  split
  · exact h1.stopLadle
  · exact h1.emitOnce

theorem State.MemOk.ladleSegmentCheck (h : s.MemOk) : (ladleSegmentCheck s).MemOk := by
  unfold Machine.ladleSegmentCheck
  extract_lets t ch L
  split
  · exact h
  · refine .ite h (.ite h.emitOnce ?_)
    split
    · exact h.ladleResend
    · refine .ite h.emitOnce ?_
      extract_lets left
      split
      next f s0 he =>
      have h0 := SndOk.of_eq he h.freshWord
      extract_lets n r k1 c0 c1 s1
      have hr : r.s.MemOk := State.MemOk.copyMove h0
      have h1 : s1.MemOk := hr.modLadle
      clear_value s1 c1
      refine .ite hr.modLadle.emitOnce ?_
      split
      · exact h1.stopLadle
      · exact h1.emitOnce

theorem State.MemOk.ladleCopyEnd (h : s.MemOk) : (ladleCopyEnd s).MemOk := by
  unfold Machine.ladleCopyEnd
  extract_lets t ch
  split
  · exact h
  · extract_lets err c1
    split
    · exact h
    · split
      · exact h.modLadle
      · split
        next he => exact (Ends.of_error he h.engPost).modLadle.after
        next he => exact (Ends.of_error he h.engPost).stopLadle
        next he => exact (Ends.of_ok he h.engPost).modLadle.emit.cmdGone

theorem State.MemOk.copyChecks {c path local_} (h : s.MemOk) :
    Ends State.MemOk (fun _ => True) (copyChecks c path local_ s) :=
  .seq (.ite (.error h.trap) (.ok trivial)) fun _ => .seq (.ite h.extentSeg (.ok trivial)) fun _ => .seq (.ite
      (.error h.trap) (.ok trivial)) fun _ => h.extentsSeg.seq fun _ => .seq (.ite h.extentSeg
      (.ok trivial)) fun _ => h.cwSeg.seq fun _ => .seq (.ite h.alignedTo (.ok trivial)) fun _ =>
      h.cwAligned.seq fun _ => h.extentsRange

theorem State.MemOk.ladleAccept {t ch c} (h : s.MemOk) : SomeOk (s.ladleAccept t ch c) :=
  .ite SomeOk.none (SomeOk.some h.modSlot.modLadle.emitOnce)

theorem State.MemOk.ladleIssue {i dir gather a} (h : s.MemOk) :
    Ends State.MemOk State.MemOk (ladleIssue i dir gather a s) :=
  h.cmdEnter.seq fun _ => h.readSrc.seq fun _ => h.illWord.seq fun _ => h.illWord.seq fun _ =>
      h.copyChecks.seq fun _ => h.submit fun hu => hu.ladleAccept

theorem State.MemOk.commitPair {srcs d v} (h : s.MemOk) : (commitPair srcs d v s).MemOk :=
  h.consume.modTh

theorem State.MemOk.sampleWptr {t k rd ch} (h : s.MemOk) : (s.sampleWptr t k rd ch).MemOk :=
  h.valueLater

theorem State.MemOk.pairLater {rd} (h : s.MemOk) : (s.pairLater rd).MemOk :=
  h.modTh

theorem State.MemOk.lwptr {i a d} (h : s.MemOk) : Ends State.MemOk State.MemOk (lwptr i a d s) :=
  h.cmdEnter.seq fun _ => h.readSrc.seq fun _ => h.destLaterPair.seq fun _ => h.illWord.seq fun _ =>
    .ite (h.defer.map fun _ h1 => h1.pairLater) (.ok h.consume.commitNow.sampleWptr)

theorem State.MemOk.ladleCancel {t k ch} (h : s.MemOk) : (s.ladleCancel t k ch).MemOk := by
  unfold State.ladleCancel
  split
  · exact .ite h.modLadle.emitOnce h
  · exact h

theorem State.MemOk.lcancel {i a} (h : s.MemOk) : Ends State.MemOk State.MemOk (lcancel i a s) :=
  h.cmdEnter.seq fun _ => h.readSrc.seq fun _ => h.illWord.seq fun _ => h.submit fun hu =>
      .some hu.ladleCancel

theorem State.MemOk.copyAccept {vd ch c} (h : s.MemOk) : SomeOk (s.copyAccept vd ch c) :=
  .ite SomeOk.none (SomeOk.some h.modSlot.modDie.emitOnce)

theorem State.MemOk.xcopy {i a b} (h : s.MemOk) : Ends State.MemOk State.MemOk (xcopy i a b s) :=
  h.cmdEnter.seq fun _ => h.readSrc.seq fun _ => h.readSrc.seq fun _ => h.illWord.seq fun _ =>
      h.recordPlace.bind fun _ h5 => h5.illWord.seq fun _ => h5.copyChecks.seq fun _ => h5.submit fun hu =>
      hu.copyAccept

theorem State.MemOk.setCopy {vd ch c} (h : s.MemOk) : (s.setCopy vd ch c).MemOk :=
  h.modDie

theorem State.MemOk.stopCopy {vd ch c st} (h : s.MemOk) : (s.stopCopy vd ch c st).MemOk := by
  unfold State.stopCopy
  extract_lets lay ev
  split
  · exact h.setCopy.notify.sendFrec
  · exact h.setCopy.notify
  · exact h.setCopy.emitOnce
  · exact h.engPause

theorem State.MemOk.copyRefused {vd ch c o} (h : s.MemOk) : (s.copyRefused vd ch c o).MemOk :=
  .ite (.setCopy (.ite h.modDie h.modDie.logViolation)) h.modDie.logError

theorem State.MemOk.endCopy {vd ch c} (h : s.MemOk) : (s.endCopy vd ch c).MemOk := by
  unfold State.endCopy
  extract_lets ev
  split
  · exact h
  · split
    next he => exact (Ends.of_error he h.engPost).setCopy.after
    next he => exact (Ends.of_error he h.engPost).stopCopy
    next _ s1 he =>
      have hk := Ends.of_ok he h.engPost
      extract_lets s2 s3 s4
      have hs2 : s2.MemOk := hk.unitClear.modDie
      clear_value s2
      have hs3 : s3.MemOk := by
        unfold s3
        split
        · exact hs2
        · split
          · exact hs2.modSlot
          · exact hs2
      clear_value s3
      have hs4 : s4.MemOk := .ite hs3.emitOnce hs3
      clear_value s4
      exact hs4.cmdGone.foldl fun _ _ h1 => h1.engFreed

theorem State.MemOk.copyStep {vd ch} (h : s.MemOk) : (copyStep vd ch s).MemOk := by
  unfold Machine.copyStep
  split
  · exact h
  · extract_lets u m r c0 c1 s1
    have hr : r.s.MemOk := State.MemOk.copyMove h
    have h1 : s1.MemOk := State.MemOk.setCopy (.ite hr hr.unitClear)
    clear_value s1 c1
    split
    · exact h.copyRefused.emitOnce
    · refine .ite h (.ite h.endCopy ?_)
      split
      · exact h1.stopCopy
      · exact h1.emitOnce

theorem State.MemOk.resumeSteps {t k hit kill} (h : s.MemOk) : (s.resumeSteps t k hit kill).MemOk := by
  unfold State.resumeSteps
  extract_lets mine eng lad cp
  have heng : ∀ (u : State) e, u.MemOk → (eng u e).MemOk := fun u e hu => .ite
      (.ite hu.modTile.emitOnce hu.modTile.kick) hu
  have hlad : ∀ (u : State) ch, u.MemOk → (lad u ch).MemOk := by
    intro u ch hu
    unfold lad
    split
    · exact .ite hu.modLadle.emitOnce hu
    · exact hu
  have hcp : ∀ (u : State) vd, u.MemOk → (cp u vd).MemOk := fun u vd hu => hu.foldl fun _ _ h1 =>
      .ite h1.modDie.emitOnce h1
  clear_value eng lad cp
  exact ((h.foldl heng).foldl hlad).foldl hcp

/-! ### Launches (`Launch`) -/

theorem State.MemOk.qset {vd q j lo n x} (h : s.MemOk) : (s.qset vd q j lo n x).MemOk :=
  h.setReg

theorem State.MemOk.setLive {vd asid n} (h : s.MemOk) : (s.setLive vd asid n).MemOk :=
  h.setReg

theorem State.MemOk.unitLeaf {u kind e addr} (h : s.MemOk) : (s.unitLeaf u kind e addr).MemOk :=
  h.modDie.send

theorem State.MemOk.askUnitNode {u la a} (h : s.MemOk) : (s.askUnitNode u la a).MemOk :=
  .ite h h.unitGet

theorem State.MemOk.dropUnitNodes {u la} (h : s.MemOk) : (s.dropUnitNodes u la).MemOk :=
  .ite h h.modDie

theorem State.MemOk.luWalk {u la kind} (h : s.MemOk) : SndOk (s.luWalk u la kind) := by
  unfold State.luWalk
  split
  · exact h
  · extract_lets s'
    have hs' : s'.MemOk := h.dropUnitNodes
    clear_value s'
    split
    · exact h.askUnitNode
    · split
      · exact hs'
      · split
        · exact Memory.wf_wrLE _ _ _ _ hs'
        · split
          · exact hs'.modDie
          · show State.MemOk _
            exact .ite hs' hs'.unitLeaf
    · exact hs'
    · exact hs'
    · exact hs'

theorem State.MemOk.agentPostThen {vd agent pa add err ev} (h : s.MemOk) :
    (s.agentPostThen vd agent pa add err ev).MemOk :=
  h.unitPost

theorem State.MemOk.agentPost {vd agent pa add err} (h : s.MemOk) : (s.agentPost vd agent pa add err).MemOk :=
  h.agentPostThen

theorem State.MemOk.agentResult {vd pa v} (h : s.MemOk) : (s.agentResult vd pa v).MemOk :=
  .ite h.send h.logError

theorem State.MemOk.unitBytes {u pa n} (h : s.MemOk) : SndOk (s.unitBytes u pa n) := by
  unfold State.unitBytes
  split
  · exact h
  · exact h
  · show State.MemOk _
    exact .ite h h.unitGet

theorem State.MemOk.modLu {vd f} (h : s.MemOk) : (s.modLu vd f).MemOk :=
  h.modDie

theorem State.MemOk.modLaunch {vd id f} (h : s.MemOk) : (s.modLaunch vd id f).MemOk :=
  h.modLu

theorem State.MemOk.pokeAdmission {vd} (h : s.MemOk) : (s.pokeAdmission vd).MemOk :=
  h.emitOnce

theorem State.MemOk.queuePost {vd q id status} (h : s.MemOk) : (s.queuePost vd q id status).MemOk :=
  .ite (.ite (.msix (.ite h h.qset)) (.ite h h.qset)) (.agentPostThen (.ite h h.qset))

theorem State.MemOk.cwlaPost {vd l add err} (h : s.MemOk) : (s.cwlaPost vd l add err).MemOk :=
  .ite h (.ite h.modLaunch.emitOnce h.agentPost)

theorem State.MemOk.spawnAnswer {l status} (h : s.MemOk) : (s.spawnAnswer l status).MemOk := by
  unfold State.spawnAnswer
  split
  · exact h.send
  · exact h

theorem State.MemOk.unheld {vd l} (h : s.MemOk) : (s.unheld vd l).MemOk :=
  .ite h.emitOnce h

theorem State.MemOk.endLaunch {vd l status} (h : s.MemOk) : (s.endLaunch vd l status).MemOk := by
  unfold State.endLaunch
  extract_lets s' held s1 s2 s3
  have hs' : s'.MemOk := .ite h.spawnAnswer h
  clear_value s'
  have hs1 : s1.MemOk := hs'.foldl fun _ _ h1 => .ite h1 h1.send
  clear_value s1
  have hs2 : s2.MemOk := .ite hs1.setLive hs1
  clear_value s2
  have hs3 : s3.MemOk := hs2.modLaunch
  clear_value s3
  exact hs3.queuePost.unheld.pokeAdmission

theorem State.MemOk.doorbell (h : s.MemOk) : (doorbell s).MemOk :=
  .ite h (.ite h.logError (.ite h h.qset.emitOnce))

theorem State.MemOk.depWatches {vd l ds} (h : s.MemOk) : (s.depWatches vd l ds).MemOk :=
  h.foldl fun _ _ h1 => h1.send

theorem State.MemOk.launchPas {vd l ev} (h : s.MemOk) : SndOk (s.launchPas vd l ev) := by
  refine SndOk.foldl h fun a u ha => ?_
  split
  · exact ha
  · split
    next he => exact .ite (SndOk.of_eq he (State.MemOk.luWalk ha)) (SndOk.of_eq he (State.MemOk.luWalk ha))
    next he => exact SndOk.of_eq he (State.MemOk.luWalk ha)
    next he => exact SndOk.of_eq he (State.MemOk.luWalk ha)
    next he => exact SndOk.of_eq he (State.MemOk.luWalk ha)
    next he => exact SndOk.of_eq he (State.MemOk.luWalk ha)
    next he => exact SndOk.of_eq he (State.MemOk.luWalk ha)

theorem State.MemOk.checkLaunch {vd l ev} (h : s.MemOk) : Checked.MemOk (s.checkLaunch vd l ev) := by
  unfold State.checkLaunch
  refine .ite h ?_
  split
  · exact h
  · split
    next he => exact SndOk.of_eq he (State.MemOk.launchPas h)
    next he => exact State.MemOk.ite (SndOk.of_eq he (State.MemOk.launchPas h)) (SndOk.of_eq he
        (State.MemOk.launchPas h)).after
    next he =>
      have h1 := SndOk.of_eq he (State.MemOk.launchPas h)
      split
      next he => exact SndOk.of_eq he h1.unitBytes
      next he => exact SndOk.of_eq he h1.unitBytes
      next he =>
        have h2 := SndOk.of_eq he h1.unitBytes
        exact .ite h2 (.ite h2 (.ite h2 h2))

theorem Checked.MemOk.settleLaunch {vd l ev} {c : Checked} (hc : Checked.MemOk c) :
    (settleLaunch vd l c ev).MemOk := by
  unfold Machine.settleLaunch
  split
  · exact hc
  · exact (State.MemOk.endLaunch hc).unitClear
  · exact (State.MemOk.modLaunch hc).spawnAnswer.depWatches.pokeAdmission.unitClear

theorem State.MemOk.checkGo {vd id} (h : s.MemOk) : (s.checkGo vd id).MemOk := by
  unfold State.checkGo
  split
  · exact .ite (Checked.MemOk.settleLaunch (State.MemOk.checkLaunch h)) h
  · exact h

theorem State.MemOk.enterLaunch {vd q bs sp} (h : s.MemOk) : (s.enterLaunch vd q bs sp).MemOk :=
  h.modLu

theorem State.MemOk.launchFetch (h : s.MemOk) : (launchFetch s).MemOk := by
  unfold Machine.launchFetch
  extract_lets m vd vd' q head pa u id next refused
  split
  · exact h.enterLaunch.checkGo
  · split
    · exact h.checkGo
    · split
      · exact h
      · split
        · exact .logError (.unitClear (.endLaunch (.enterLaunch
            (.ite h.unitClear.qset h.unitClear.qset.emitOnce))))
        · split
          next he => exact SndOk.of_eq he h.unitBytes
          next _ s2 he =>
            have h1 := SndOk.of_eq he h.unitBytes
            exact .logError (.unitClear (.endLaunch (.enterLaunch
                (.ite h1.unitClear.qset h1.unitClear.qset.emitOnce))))
          next _ bs s2 he =>
            have h1 := SndOk.of_eq he h.unitBytes
            exact .checkGo (.enterLaunch (.ite h1.unitClear.qset h1.unitClear.qset.emitOnce))

theorem State.MemOk.luWatchrsp (h : s.MemOk) : s.luWatchrsp.MemOk := by
  unfold State.luWatchrsp
  extract_lets m vd d st
  split
  · exact h
  · exact .ite h.after (.ite h (.ite h.cwlaPost.endLaunch h.modLaunch.pokeAdmission))

theorem State.MemOk.rewalk {vd l keys} (h : s.MemOk) : (s.rewalk vd l keys).MemOk := by
  unfold State.rewalk
  extract_lets use s1 ev
  have hs1 : s1.MemOk := by
    unfold s1
    refine h.foldl fun s' k h1 => ?_
    split
    · exact h1
    · extract_lets old watched fresh src s0
      have hs0 : s0.MemOk := .ite h1.unTimer.send h1
      clear_value s0
      split
      next _ pa lvl s2 he =>
        have hk := SndOk.of_eq he hs0.luWalk
        extract_lets s3
        have hs3 : s3.MemOk := hk.modLaunch
        clear_value s3
        split
        · split
          · exact hs3.depWatches
          · exact hs3
        · exact hs3
      next he => exact (SndOk.of_eq he hs0.luWalk).modLaunch
  clear_value s1
  split
  · exact hs1
  · extract_lets s2
    have hs2 : s2.MemOk := .ite hs1 (hs1.modLaunch.foldl fun _ _ h1 => h1.agentPost)
    clear_value s2
    exact .ite hs2 (.ite hs2 hs2.after)

theorem State.MemOk.rewatch {vd l d} (h : s.MemOk) : (s.rewatch vd l d).MemOk :=
  .ite h.depWatches h

theorem State.MemOk.launchRetranslate (h : s.MemOk) : (launchRetranslate s).MemOk := by
  unfold Machine.launchRetranslate
  split
  · exact .ite h.rewatch (.ite h.rewalk h)
  · exact h

theorem State.MemOk.startAges {vd} (h : s.MemOk) : (s.startAges vd).MemOk :=
  h.modLu

theorem State.MemOk.trySend {vd l} (h : s.MemOk) : (s.trySend vd l).MemOk := by
  unfold State.trySend
  extract_lets ds ev src
  split
  · exact .ite h h.after
  · exact h.modLaunch.send

theorem State.MemOk.retryAdmitted {vd} (h : s.MemOk) : (s.retryAdmitted vd).MemOk :=
  h.foldl fun _ _ h1 => h1.trySend

theorem State.MemOk.pokeCapacity (h : s.MemOk) : s.pokeCapacity.MemOk :=
  h.foldl fun _ _ h1 => h1.modLu.retryAdmitted.pokeAdmission

theorem State.MemOk.admitHead {vd l area} (h : s.MemOk) : (s.admitHead vd l area).MemOk := by
  unfold State.admitHead
  extract_lets s1
  have hs1 : s1.MemOk := h.setLive.modLaunch
  clear_value s1
  split
  · exact hs1.trySend
  · exact hs1

theorem State.MemOk.admitLevel {vd level} (h : s.MemOk) : SomeOk (s.admitLevel vd level) := by
  unfold State.admitLevel
  extract_lets L ev again cs ptr pick
  split
  · exact .ite (SomeOk.some (.ite h h.after)) (SomeOk.some h.modLu.emit.unTimer.after)
  · clear_value L
    clear_value ev
    clear_value cs
    clear_value ptr
    clear_value pick
    split
    · exact SomeOk.none
    · exact .ite (SomeOk.some h.modLu.modLu.admitHead.unTimer.after) (SomeOk.some h.modLu.modLu.unTimer.after)

theorem State.MemOk.spawnQuota {vd} (h : s.MemOk) : (s.spawnQuota vd).MemOk :=
  h.foldl fun _ _ h1 => h1.endLaunch

theorem State.MemOk.emptyRings {vd} (h : s.MemOk) : (s.emptyRings vd).MemOk :=
  h.modLu

theorem State.MemOk.admitOnce {vd} (h : s.MemOk) : (s.admitOnce vd).MemOk := by
  unfold State.admitOnce
  extract_lets s1
  have h1 : s1.MemOk := h.startAges.spawnQuota.startAges.emptyRings
  clear_value s1
  split
  next he =>
    obtain ⟨level, -, hl⟩ := List.exists_of_findSome?_eq_some he
    exact (SomeOk.of_eq hl h1.admitLevel).modLu
  · exact h1

theorem State.MemOk.admissionChoice (h : s.MemOk) : (admissionChoice s).MemOk := by
  unfold Machine.admissionChoice
  extract_lets vd ev
  split
  · exact h.pokeCapacity
  · exact h.retryAdmitted
  · exact h.msix
  · exact .ite (.ite h h.after) h.admitOnce

theorem State.MemOk.launchHold (h : s.MemOk) : (launchHold s).MemOk := by
  unfold Machine.launchHold
  extract_lets vd
  split
  · exact h
  · exact .ite h (.ite h.modLaunch h.after)

theorem State.MemOk.spawnDone (h : s.MemOk) : s.spawnDone.MemOk := by
  unfold State.spawnDone
  extract_lets m t
  split
  · exact h.outcome
  · exact h

theorem State.MemOk.cancelAnswers {vd l v} (h : s.MemOk) : (s.cancelAnswers vd l v).MemOk :=
  h.modLaunch.foldl fun _ _ h1 => h1.agentResult

theorem State.MemOk.ldoneAccept (h : s.MemOk) : (ldoneAccept s).MemOk := by
  unfold Machine.ldoneAccept
  extract_lets m vd
  split
  · exact h.spawnDone
  · split
    · exact h
    · exact h.modLaunch.cancelAnswers.unheld

theorem State.MemOk.cancelLaunch {vd l} (h : s.MemOk) : (s.cancelLaunch vd l).MemOk :=
  h.cwlaPost.endLaunch

theorem State.MemOk.ldoneRefuse (h : s.MemOk) : (ldoneRefuse s).MemOk := by
  unfold Machine.ldoneRefuse
  extract_lets m vd
  split
  · exact h.spawnDone
  · split
    · exact h
    · exact .ite h.modLaunch.trySend h.cancelAnswers.cancelLaunch

theorem State.MemOk.ldoneRetire (h : s.MemOk) : (ldoneRetire s).MemOk := by
  unfold Machine.ldoneRetire
  extract_lets m vd
  split
  · exact h
  · exact .ite h.setLive.modLaunch.pokeCapacity.pokeAdmission h.setLive.modLaunch.endLaunch.pokeCapacity

theorem State.MemOk.ldoneSwap (h : s.MemOk) : (ldoneSwap s).MemOk :=
  h.pokeCapacity

theorem State.MemOk.launchCancel (h : s.MemOk) : (launchCancel s).MemOk := by
  unfold Machine.launchCancel
  extract_lets vd d s' pa
  have hs' : s'.MemOk := .ite h h.admitOnce
  clear_value s'
  split
  · exact hs'.agentResult
  · split
    · exact hs'.agentResult
    · exact hs'.agentResult
    · exact hs'.modLaunch
    · exact hs'.agentResult.cancelLaunch

theorem State.MemOk.endAllLaunches (h : s.MemOk) : s.endAllLaunches.MemOk :=
  h.foldl fun _ _ h1 => h1.foldl fun _ _ h2 => h2.cancelAnswers.endLaunch

/-! ### Crews (`Crew`) -/

theorem State.MemOk.modCrew {vd id f} (h : s.MemOk) : (s.modCrew vd id f).MemOk :=
  h.modDie

theorem State.MemOk.seat {c hs} (h : s.MemOk) : (s.seat c hs).MemOk :=
  h.modDie.foldl fun _ _ h1 => h1.setSlot

theorem State.MemOk.mapWord {c} (h : s.MemOk) : (s.mapWord c).MemOk := by
  unfold State.mapWord
  split
  · exact h
  · split
    · exact h
    · extract_lets d pa la s1 src
      have hs1 : s1.MemOk := h.foldl fun _ _ h1 => h1.modSlot
      clear_value s1
      exact hs1.setSlot.send

theorem State.MemOk.placeCrew {vd l saveBase i sp} (h : s.MemOk) : (s.placeCrew vd l saveBase i sp).MemOk :=
  .mapWord (.seat (.of_mem h rfl))

theorem State.MemOk.launch (h : s.MemOk) : (launch s).MemOk := by
  unfold Machine.launch
  extract_lets m d vd say
  split
  · exact h.answer
  · split
    · exact h.after
    · split
      · exact h.answer
      · exact .answer (h.foldl fun _ _ h1 => h1.placeCrew)

theorem State.MemOk.takeWords {t slots} (h : s.MemOk) : SndOk (s.takeWords t slots) :=
  h.modTile

theorem State.MemOk.vacate {c} (h : s.MemOk) : (s.vacate c).MemOk := by
  unfold State.vacate
  extract_lets t s1 s2 s3
  have hs1 : s1.MemOk := by
    unfold s1
    refine h.foldl fun s' k h1 => ?_
    extract_lets s1'
    have hs1' : s1'.MemOk := by
      unfold s1'
      split
      · exact h1.giveLeave
      · exact h1
    clear_value s1'
    exact hs1'.unlockAll.dropDivide.setSlot
  clear_value s1
  have hs2 : s2.MemOk := hs1.modDie
  clear_value s2
  have hs3 : s3.MemOk := hs2.foldl fun _ _ h1 => h1.seatVisitor
  clear_value s3
  exact hs3.unholdTile.pokeTasks.emitOnce

theorem State.MemOk.reportCrew {c i v} (h : s.MemOk) : (s.reportCrew c i v).MemOk :=
  h.send

theorem State.MemOk.crewPost {c err} (h : s.MemOk) : (s.crewPost c err).MemOk := by
  unfold State.crewPost
  split
  · exact h
  · exact .ite h h.setSlot.send

theorem State.MemOk.giveBack {c e} (h : s.MemOk) : (s.giveBack c e).MemOk :=
  .ite h (.ite h.modTile.send (.ite (.ite h h.modTile.send) (.ite h.writeBack (.ite h.modTile h))))

theorem State.MemOk.cancelWatches {t k} (h : s.MemOk) : (s.cancelWatches t k).MemOk := by
  unfold State.cancelWatches
  refine h.foldl fun s' p h1 => ?_
  split
  · exact .ite h1.modSlot.send h1
  · exact h1.foldl fun _ _ h1 => .ite h1.modDie.settle h1
  · exact h1

theorem State.MemOk.crewRetire (h : s.MemOk) : (crewRetire s).MemOk := by
  unfold Machine.crewRetire
  extract_lets t
  split
  · exact h
  · split
    · exact h
    · extract_lets s1 s2 s3 busy ev words s4
      have hs1 : s1.MemOk := h.modCrew
      clear_value s1
      have hs2 : s2.MemOk := hs1.foldl fun _ _ h1 => h1.giveBack
      clear_value s2
      have hs3 : s3.MemOk := hs2.foldl fun _ _ h1 => h1.cancelWatches
      clear_value s3
      have hwords : SndOk words := hs3.takeWords
      clear_value words
      have hs4 : s4.MemOk := by
        unfold s4
        refine .foldl ?_ fun s' w h1 => ?_
        · exact hwords
        · exact h1.wrackTo
      clear_value s4
      exact .ite (.ite hs3 hs3.after) hs4.crewPost.vacate.reportCrew

theorem State.MemOk.quietEntry {c e} (h : s.MemOk) : (s.quietEntry c e).MemOk :=
  .ite (.ite h h.modTile.send) (.ite h.writeBack (.ite h.modTile h))

theorem State.MemOk.returnLeaves {c} (h : s.MemOk) : (s.returnLeaves c).MemOk := by
  unfold State.returnLeaves
  extract_lets t mine s1
  have hs1 : s1.MemOk := by
    unfold s1
    refine h.foldl fun s' k h1 => ?_
    split
    · exact h1.giveLeave.modSlot
    · exact h1
  clear_value s1
  exact hs1.foldl fun _ _ h1 => h1.modTile.foldl fun _ _ h2 => h2.giveLeave

theorem State.MemOk.quiesce {c} (h : s.MemOk) : SndOk (s.quiesce c) := by
  unfold State.quiesce
  extract_lets t s1 s2 open_ s3 s4
  have hs1 : s1.MemOk := h.foldl fun _ _ h1 => h1.modSlot.recall
  clear_value s1
  have hs2 : s2.MemOk := hs1.returnLeaves.foldl fun _ _ h1 => h1.quietEntry
  clear_value s2
  have hs3 : s3.MemOk := by
    unfold s3
    refine hs2.foldl fun s' k h1 => ?_
    split
    · exact .ite h1.kill h1
    · exact h1
  clear_value s3
  have hs4 : s4.MemOk := hs3.foldl fun _ _ h1 => h1.cancelWatches
  clear_value s4
  exact SndOk.ite hs1 (SndOk.ite hs2 (SndOk.ite hs2 hs4))

theorem State.MemOk.resend {t k} (h : s.MemOk) : (s.resend t k).MemOk := by
  unfold State.resend
  refine h.foldl fun s' p h1 => ?_
  extract_lets open_ src src'
  split
  · exact h1.modSlot.send
  · exact h1.modSlot.send
  · exact .ite h1.modTile.sendAcq h1
  · exact h1

theorem State.MemOk.thaw {c} (h : s.MemOk) : (s.thaw c).MemOk := by
  unfold State.thaw
  extract_lets s1
  have hs1 : s1.MemOk := h.foldl fun _ _ h1 => h1.modSlot.resend.notify
  clear_value s1
  exact hs1.pokeSteps

theorem State.MemOk.copyBytes {src dst n ctx} (h : s.MemOk) : (s.copyBytes src dst n ctx).MemOk := by
  unfold State.copyBytes
  extract_lets s1 inside
  have h1 : s1.MemOk := h.readCheck
  clear_value s1
  exact Memory.wf_foldl _ (fun _ _ hm => Memory.wf_wrByte _ _ _ hm) _ _ (Memory.wf_filter _ _ h1)

theorem State.MemOk.uproot {c} (h : s.MemOk) : (s.uproot c).MemOk := by
  unfold State.uproot
  extract_lets t s1 keep s2 s3 s4
  have hs1 : s1.MemOk := h.foldl fun _ _ h1 => .ite h1.giveLeave h1
  clear_value s1
  have hs2 : s2.MemOk := hs1.modTile
  clear_value s2
  have hs3 : s3.MemOk := hs2.foldl fun _ _ h1 => h1.modDie
  clear_value s3
  have hs4 : s4.MemOk := hs3.foldl fun _ _ h1 => h1.dropPower.kick
  clear_value s4
  exact .engFreed (hs4.foldl fun _ _ h1 => h1.emitOnce)

theorem State.MemOk.forwardExpire (h : s.MemOk) : (forwardExpire s).MemOk :=
  h.modTile

theorem State.MemOk.fwdAnswer {img} (h : s.MemOk) : (s.fwdAnswer img).MemOk := by
  unfold State.fwdAnswer
  split
  · exact .ite h.after h.answer
  · exact h.answer

theorem State.MemOk.engcmdFwdupd (h : s.MemOk) : (engcmdFwdupd s).MemOk :=
  .ite h.fwdAnswer h.modTile.after.fwdAnswer

theorem State.MemOk.sendReadmit {t savea} (h : s.MemOk) : (s.sendReadmit t savea).MemOk :=
  h.send

theorem State.MemOk.wokeAbsent {t savea n kill} (h : s.MemOk) : (s.wokeAbsent t savea n kill).MemOk := by
  unfold State.wokeAbsent
  extract_lets f w s1 s2
  have hs1 : s1.MemOk := Memory.wf_wrLE _ _ _ _ h
  clear_value s1
  have hs2 : s2.MemOk := .ite (Memory.wf_wrLE _ _ _ _ hs1) hs1
  clear_value s2
  exact .ite hs2.sendReadmit hs2

theorem State.MemOk.saveLines {t asid a bad bs} (h : s.MemOk) : (s.saveLines t asid a bad bs).MemOk :=
  h.foldl fun _ _ h1 => h1.setSlot.send

theorem State.MemOk.savePart {c asid src a n} (h : s.MemOk) : (s.savePart c asid src a n).MemOk :=
  h.readCheck.saveLines

theorem State.MemOk.saveCrew {c} (h : s.MemOk) : (s.saveCrew c).MemOk := by
  unfold State.saveCrew
  extract_lets t a asid put free s1 s2 s3 es s4 s5 s6
  have hput : ∀ {o bs} {u : State}, u.MemOk → (put u o bs).MemOk := fun hu => hu.saveLines
  have hfree : ∀ {o n} {u : State}, u.MemOk → (free u o n).MemOk := fun hu => hput hu.freeBytes
  clear_value put free
  have h2 : s2.MemOk := (hput h : s1.MemOk).foldl fun _ _ h1 => hput (hput (hput h1))
  clear_value s2
  have h3 : s3.MemOk := hfree (hfree h2)
  clear_value s3
  have h5 : s5.MemOk := (hput h3 : s4.MemOk).foldl fun _ _ h4 => hput h4
  clear_value s5
  exact h5.savePart.savePart.modCrew

theorem State.MemOk.mailAgain {a ent} (h : s.MemOk) : (s.mailAgain a ent).MemOk :=
  .ite h (Memory.wf_wrLE _ _ _ _ (Memory.wf_wrLE _ _ _ _ h))

theorem State.MemOk.leaveCrew {c} (h : s.MemOk) : (s.leaveCrew c).MemOk := by
  unfold State.leaveCrew
  extract_lets t a f old words s1 s2 s3 s4 s5 fault
  have hwords : SndOk words := h.takeWords
  clear_value words
  have hs1 : s1.MemOk := hwords.homeWrite.homeWrite
  clear_value s1
  have hs2 : s2.MemOk := hs1.foldl fun _ _ h1 => h1.mailbox.wrackTo
  clear_value s2
  have hs3 : s3.MemOk := hs2.foldl fun _ _ h1 => h1.mailAgain
  clear_value s3
  have hs4 : s4.MemOk := .of_mem hs3 rfl
  clear_value s4
  have hs5 : s5.MemOk := hs4.uproot.modTile.vacate.reportCrew
  clear_value s5
  exact .ite hs5.sendReadmit hs5

theorem State.MemOk.crewSwap (h : s.MemOk) : (crewSwap s).MemOk := by
  unfold Machine.crewSwap
  extract_lets t swapt
  split
  · exact h
  · extract_lets hs ev again ready
    split
    · exact h
    · split
      · split
        next _ s1 he =>
          have h1 := SndOk.of_eq he h.quiesce
          exact .ite h1 h1.after
        next _ s1 he =>
          have h1 := SndOk.of_eq he h.quiesce
          exact .ite h1.modCrew.emit (.ite (.ite h1 h1.after) (.ite h1.leaveCrew (.ite (.ite h1 h1.after)
              (.ite h1.saveCrew h1.saveCrew.after))))
      · exact .ite h (.ite (.ite h.modCrew h.modCrew.after) (.ite h h.after))

theorem State.MemOk.engcmdReadmit (h : s.MemOk) : (engcmdReadmit s).MemOk := by
  unfold Machine.engcmdReadmit
  extract_lets m vd s1
  have hs1 : s1.MemOk := by
    unfold s1
    split
    · exact .ite h h.modLu
    · exact h
  clear_value s1
  exact hs1.pokeAdmission.answer

theorem State.MemOk.widen {t k} (h : s.MemOk) : (s.widen t k).MemOk :=
  h.foldl fun _ _ h1 => .ite h1.recPut h1

theorem State.MemOk.armSwap {c} (h : s.MemOk) : (s.armSwap c).MemOk :=
  .ite h.swapTimer h

theorem State.MemOk.moveIn {im new absent} (h : s.MemOk) : (s.moveIn im new absent).MemOk := by
  unfold State.moveIn
  extract_lets old t ctx s1 s2 s3 retask s4 s5 s6 arrive s7 s8 s9
  have hs1 : s1.MemOk := h.foldl fun _ _ h1 => h1.setSlot
  clear_value s1
  have hs2 : s2.MemOk := hs1.modTile
  clear_value s2
  have hs3 : s3.MemOk := hs2.foldl fun _ _ h1 => h1.modDie.foldl fun _ _ h2 => .ite h2.emitOnce h2
  clear_value s3
  have hs4 : s4.MemOk := hs3.foldl fun _ _ h1 => h1.modDie
  clear_value s4
  have hs5 : s5.MemOk := .of_mem hs4 rfl
  clear_value s5
  have hs6 : s6.MemOk := hs5.foldl fun _ _ h1 => h1.widen
  clear_value s6
  have hs7 : s7.MemOk := hs6.emits.foldl fun _ _ h1 => h1.kick.emitOnce
  clear_value s7
  have hs8 : s8.MemOk := hs7.unholdTile.foldl fun _ _ h1 => h1.resend.checkRetire
  clear_value s8
  have hs9 : s9.MemOk := hs8.engFreed.foldl fun _ _ h1 => h1.askPower
  clear_value s9
  exact hs9.armSwap

theorem State.MemOk.restorePlace {im} (h : s.MemOk) : (s.restorePlace im).MemOk := by
  unfold State.restorePlace
  extract_lets c asid src
  split
  · exact h
  · split
    · exact h.modLu.pokeAdmission
    · exact h.seat.homeWrite.send

theorem State.MemOk.openMailbox {a asid new n} (h : s.MemOk) : (State.openMailbox a asid new n s).MemOk := by
  induction n generalizing s with
  | zero => exact h
  | succ n ih =>
    unfold State.openMailbox
    split
    · exact h.modCrew
    · split
      · exact h.modCrew.holdTile
      next he =>
        split at he
        · exact ih (Memory.wf_wrLE _ _ _ _ (SomeOk.of_eq he h.takeQueued))
        · exact ih (Memory.wf_wrLE _ _ _ _ (SomeOk.of_eq he h.takeWord))

theorem State.MemOk.restoreFailed {im new} (h : s.MemOk) : (s.restoreFailed im new).MemOk := by
  unfold State.restoreFailed
  extract_lets t a s1 s2 s3 s4 s5
  have hs1 : s1.MemOk := h.homeWrite.logError
  clear_value s1
  have hs2 : s2.MemOk := hs1.foldl fun _ _ h1 => .ite h1.poisonGuard h1.send
  clear_value s2
  have hs3 : s3.MemOk := hs2.foldl fun _ _ h1 => h1.setSlot.leaveAll
  clear_value s3
  have hs4 : s4.MemOk := .of_mem hs3 rfl
  clear_value s4
  have hs5 : s5.MemOk := hs4.foldl fun _ _ h1 => h1.modDie.foldl fun _ _ h2 => .ite h2.emitOnce h2
  clear_value s5
  exact hs5.crewPost.vacate.reportCrew

theorem State.MemOk.restoreRun {im new} (h : s.MemOk) : (s.restoreRun im new).MemOk := by
  unfold State.restoreRun
  extract_lets a t old n recs kw kills cmd cp hs im1 s1 who s2 s3 latch s4 s5 s6
  have hs1 : s1.MemOk := .of_mem h rfl
  clear_value s1
  have hs2 : s2.MemOk := hs1.readCheck.copyBytes.copyBytes
  clear_value s2
  have hs3 : s3.MemOk := hs2.foldl fun _ _ h1 => h1.modTile
  clear_value s3
  have hs4 : s4.MemOk := hs3.modCrew.moveIn
  clear_value s4
  have hs5 : s5.MemOk := hs4.foldl fun _ _ h1 => h1.foldl fun _ _ h2 => h2.releaseMember
  clear_value s5
  have hs6 : s6.MemOk := hs5.openMailbox.mapWord
  clear_value s6
  exact .ite h.after (.ite h.restoreFailed (.ite h.after hs6.homeWrite.homeWrite.reportCrew))

theorem State.MemOk.crewRestore (h : s.MemOk) : (crewRestore s).MemOk := by
  unfold Machine.crewRestore
  split
  · split
    · exact .ite h (.ite h.after (.ite h.openMailbox h.openMailbox.unholdTile))
    · exact h
  · split
    · exact h
    · split
      · exact h.restorePlace
      · split
        · exact .ite h.restoreRun h
        · exact h

theorem State.MemOk.engdone (h : s.MemOk) : (engdone s).MemOk := by
  unfold Machine.engdone
  extract_lets m
  split
  · exact h.emitOnce
  · exact h

theorem State.MemOk.migResult {vd d v} (h : s.MemOk) : (s.migResult vd d v).MemOk :=
  h.agentResult

theorem State.MemOk.stream {c sp} (h : s.MemOk) : (s.stream c sp).MemOk := by
  unfold State.stream
  extract_lets t im spot new u banks who s1 s2 f words s3 s4 s5 s6 s7 s8
  have h1 : s1.MemOk := h.copyBytes.copyBytes
  clear_value s1
  have h2 : s2.MemOk := h1.foldl fun _ _ h1 => h1.modTile
  clear_value s2
  have h3 : s3.MemOk := h2.takeWords.uproot
  clear_value s3
  have h5 : s5.MemOk := h3.modTile.vacate.after.seat.moveIn
  clear_value s5
  have h6 : s6.MemOk := h5.foldl fun _ _ h1 => h1.send
  clear_value s6
  have h7 : s7.MemOk := h6.foldl fun _ _ h1 => h1.takeWord.getD h1.emit
  clear_value s7
  have h8 : s8.MemOk := h7.mapWord.homeWrite
  clear_value s8
  exact .ite h8.emit h8

theorem State.MemOk.liveMigration (h : s.MemOk) : (liveMigration s).MemOk := by
  unfold Machine.liveMigration
  split
  · extract_lets vd d id
    split
    · exact h.migResult
    · exact .ite h.migResult (.ite h.migResult (.ite h.migResult h.modCrew.emit))
  · split
    · exact h
    · split
      · exact h
      · extract_lets ev stay
        split
        · exact h.after
        · split
          next he => exact (SndOk.of_eq he h.quiesce).after
          next _ s1 he =>
            have h1 := SndOk.of_eq he h.quiesce
            split
            · exact h1.modCrew.thaw.migResult.checkRetire.armSwap
            · split
              · exact h1.modCrew.thaw.migResult.checkRetire.armSwap
              · exact .ite h1.after h1.stream.migResult

/-! ### Walks, invalidations and sweeps (`Walks`) -/

theorem State.MemOk.pageWalk (h : s.MemOk) : (pageWalk s).MemOk := by
  unfold Machine.pageWalk
  extract_lets t k la kind h' park
  split
  next he => exact SndOk.of_eq he h.translate
  next he => exact (SndOk.of_eq he h.translate).modSlot.sendFrec
  next he => exact (SndOk.of_eq he h.translate).sendOr
  next he => exact (SndOk.of_eq he h.translate).askNode
  next he => exact (SndOk.of_eq he h.translate).modSlot
  next he => exact (SndOk.of_eq he h.translate).modSlot.modSlot.swapTimer
  next he => exact (SndOk.of_eq he h.translate).modSlot

theorem State.MemOk.dropTlb {vd d} (h : s.MemOk) : (s.dropTlb vd d).MemOk :=
  .modDie (.of_mem h rfl)

theorem State.MemOk.dropUnitWalks {vd} (h : s.MemOk) : (s.dropUnitWalks vd).MemOk :=
  h.modDie

theorem State.MemOk.drained {vd m} (h : s.MemOk) : (s.drained vd m).MemOk := by
  unfold State.drained
  split
  · exact h
  · exact .ite h.after h.modDie.send

theorem State.MemOk.rewalkCovered {vd d} (h : s.MemOk) : (s.rewalkCovered vd d).MemOk :=
  h.foldl fun _ _ h1 => .ite h1 h1.rewalk

theorem State.MemOk.checkRegions {vd} (h : s.MemOk) : (s.checkRegions vd).MemOk :=
  h.foldl fun _ _ h1 => h1.checkRegion

theorem State.MemOk.invAt (h : s.MemOk) : s.invAt.MemOk := by
  unfold State.invAt
  extract_lets m vd d s1
  have hs1 : s1.MemOk := .ite h.checkRegions.dropTlb h.dropUnitWalks.rewalkCovered
  clear_value s1
  exact .ite h.drained hs1.modDie.drained

theorem State.MemOk.startInv {f vd} (h : s.MemOk) : (startInv f vd s).MemOk := by
  induction f generalizing s with
  | zero => exact h
  | succ f ih =>
    unfold Machine.startInv
    split
    · exact h
    · exact .ite (ih h.modDie.agentPost) (h.modDie.foldl fun _ _ h => h.send)

theorem State.MemOk.addInv {vd d sweep} (h : s.MemOk) : (s.addInv vd d sweep).MemOk :=
  .ite h.modDie.startInv h.modDie

theorem State.MemOk.invalidate (h : s.MemOk) : (invalidate s).MemOk :=
  .ite h.invAt (.ite h.logError h.addInv)

theorem State.MemOk.invFinish {vd} (h : s.MemOk) : (s.invFinish vd).MemOk := by
  unfold State.invFinish
  split
  · exact h
  · extract_lets s1 s2
    have hs1 : s1.MemOk := h.modDie
    clear_value s1
    have hs2 : s2.MemOk := by
      unfold s2
      split
      · exact hs1.emit
      · exact hs1.agentPost
    clear_value s2
    exact hs2.startInv

theorem State.MemOk.invdone (h : s.MemOk) : (invdone s).MemOk := by
  unfold Machine.invdone
  extract_lets vd
  split
  · exact h
  · exact .ite h.modDie (.ite h.modDie.emit h.modDie.invFinish)

theorem State.MemOk.wakeWalks (h : s.MemOk) : s.wakeWalks.MemOk := by
  unfold State.wakeWalks
  extract_lets s0 s1 s2
  have hs0 : s0.MemOk := h.wakeTasks.foldl fun _ _ h1 => h1.resumeSteps.foldl fun _ _ h2 => h2.emitOnce
  clear_value s0
  have hs1 : s1.MemOk := hs0.foldl fun _ _ h1 => h1.wakeIf.resumeSteps
  clear_value s1
  have hs2 : s2.MemOk := hs1.foldl fun _ _ h1 => h1.foldl fun _ _ h2 => h2.emitOnce
  clear_value s2
  exact hs2.foldl fun _ _ h1 => h1.foldl fun _ _ h2 => h2.rewalk

theorem State.MemOk.invWake (h : s.MemOk) : (invWake s).MemOk := by
  unfold Machine.invWake
  extract_lets vd s2
  have hs2 : s2.MemOk := h.wakeWalks
  clear_value s2
  split
  · exact .ite hs2.invFinish hs2
  · exact hs2

theorem State.MemOk.frec (h : s.MemOk) : (frec s).MemOk :=
  .ite h.setReg.answer h.performOut.setReg.modDie.modTile.msix

theorem State.MemOk.frecResend (h : s.MemOk) : (frecResend s).MemOk :=
  .ite h.send.after h

theorem State.MemOk.modSweep {vd n f} (h : s.MemOk) : (s.modSweep vd n f).MemOk :=
  h.modDie

theorem State.MemOk.sweepWake (h : s.MemOk) : s.sweepWake.MemOk :=
  .foldl (h.foldl fun _ _ h1 => h1.resumeSteps) fun _ _ h1 => .resumeSteps (.ite h1.wakeIf h1)

theorem State.MemOk.sweepOn {vd n w f} (h : s.MemOk) : (s.sweepOn vd n w f).MemOk :=
  h.unitClear.modSweep.emitOnce

theorem State.MemOk.sweepPoison {vd n w} (h : s.MemOk) : (s.sweepPoison vd n w).MemOk :=
  h.sweepOn.sweepWake

theorem State.MemOk.sweepEnd {vd n w err} (h : s.MemOk) : (s.sweepEnd vd n w err).MemOk :=
  .ite h (.ite h.unitClear.modDie.agentPost h.unitClear.modDie.logError)

theorem State.MemOk.sweepEntry {vd n w} (h : s.MemOk) : (s.sweepEntry vd n w).MemOk := by
  unfold State.sweepEntry
  extract_lets u d asid skip word
  split
  next he => exact SndOk.of_eq he h.unitBytes
  next _ s2 he =>
    have h1 := SndOk.of_eq he h.unitBytes
    exact .ite h1.sweepPoison h1.sweepOn
  next _ bs s2 he =>
    have h1 := SndOk.of_eq he h.unitBytes
    extract_lets e lvl bits la
    split
    · exact h1.dropUnitNodes.askUnitNode
    · exact h1.sweepPoison
    · extract_lets on
      split
      · exact h1.sweepOn
      · split
        · exact .addInv (.modSweep (.unitClear (Memory.wf_wrLE _ _ _ _ h1)))
        · split
          · exact .ite h1.unitClear.modSweep.addInv h1.sweepOn
          · exact .ite h1 h1.dropUnitNodes.unitLeaf
    · exact h1.sweepOn

theorem State.MemOk.sweepMove {vd n w} (h : s.MemOk) : (s.sweepMove vd n w).MemOk := by
  unfold State.sweepMove
  extract_lets u size src dst m
  split
  · exact h.sweepOn
  · split
    · exact .ite h h.sweepOn
    · split
      · exact .ite h.sweepPoison (.ite h.sweepOn h.sweepOn.unitPut)
      · exact .ite h h.unitGet

theorem State.MemOk.sweepBit {vd n w b} (h : s.MemOk) : (s.sweepBit vd n w b).MemOk := by
  unfold State.sweepBit
  extract_lets u a j size s1
  have hs1 : s1.MemOk := h.sweepOn
  clear_value s1
  split
  · exact h
  · split
    · exact .ite h h.unitClear.unitGet
    · exact .ite h.sweepPoison (.sweepWake (.ite hs1 hs1.unitPut))

theorem State.MemOk.sweepStep {vd n} (h : s.MemOk) : (s.sweepStep vd n).MemOk := by
  unfold State.sweepStep
  split
  · exact h
  · split
    · exact .ite h.sweepEnd h.sweepEntry
    · exact h
    · exact h.sweepMove
    · exact h.sweepBit
    · exact h.sweepEnd
    · exact h.sweepBit

theorem State.MemOk.checkpointSweep (h : s.MemOk) : (checkpointSweep s).MemOk :=
  .ite (.sweepStep (.ite h.modSweep h)) (.ite h.after (.ite (.ite h.agentPost h.logError) h.modDie.sweepStep))

/-! ### Links and heat (`Links`) -/

theorem State.MemOk.linkReply {key lt} (h : s.MemOk) : (s.linkReply key lt).MemOk :=
  .ite h.modLink.modLink.unTimer h.modLink

theorem State.MemOk.refuseHere {vd i m} (h : s.MemOk) : (s.refuseHere vd i m).MemOk :=
  .ite h.refuseCtx h.logError.sendFrom

theorem State.MemOk.arrive {key i m vc} (h : s.MemOk) : (s.arrive key i m vc).MemOk :=
  .ite (.ite h.logError h.emit) (.ite h.refuseHere h.sendFrom)

theorem State.MemOk.takeCells {key n} (h : s.MemOk) : (s.takeCells key n).MemOk := by
  induction n generalizing s with
  | zero => exact h
  | succ n ih =>
    unfold State.takeCells
    split
    · exact h
    · refine .ite h (ih ?_)
      split
      · exact h.modLink.arrive
      · exact h.modLink.logError

theorem State.MemOk.seqCell {key seq c} (h : s.MemOk) : (s.seqCell key seq c).MemOk := by
  unfold State.seqCell
  extract_lets L d s1 s2 s3
  have hs1 : s1.MemOk := h.modLink
  clear_value s1
  have hs2 : s2.MemOk := .ite hs1 hs1.after
  clear_value s2
  have hs3 : s3.MemOk := hs2.takeCells
  clear_value s3
  exact .ite (.ite hs3.linkReply hs3) (.ite (.ite h h.linkReply.modLink) h.linkReply)

theorem State.MemOk.frameCell {key q} (h : s.MemOk) : (s.frameCell key q).MemOk := by
  unfold State.frameCell
  split
  · exact h.seqCell
  · split
    · exact h
    · extract_lets a
      split
      · exact h.emit
      · exact h.emit
      · exact h.emit
      · exact h

theorem State.MemOk.sluiceFrame (h : s.MemOk) : (sluiceFrame s).MemOk :=
  .ite h.modLink (.drainLink (h.modLink.foldl fun _ _ h1 => h1.frameCell))

theorem State.MemOk.linkAnswer (h : s.MemOk) : s.linkAnswer.MemOk :=
  .ite h.modLink.armReplay h.modLink

theorem State.MemOk.linkAck (h : s.MemOk) : (linkAck s).MemOk :=
  h.linkAnswer.drainLink

theorem State.MemOk.replay {key} (h : s.MemOk) : (s.replay key).MemOk :=
  .ite h (.ite h.modLink.unTimer h.modLink.armReplay)

theorem State.MemOk.linkNak (h : s.MemOk) : (linkNak s).MemOk :=
  h.linkAnswer.replay.drainLink

theorem State.MemOk.linkInit (h : s.MemOk) : (linkInit s).MemOk :=
  h.modLink.drainLink

theorem State.MemOk.ackTimer (h : s.MemOk) : (ackTimer s).MemOk :=
  .ite h.linkReply h

theorem State.MemOk.retrainingComplete (h : s.MemOk) : (retrainingComplete s).MemOk :=
  h.modLink.armReplay.drainLink

theorem State.MemOk.failStamps {vd t k} (h : s.MemOk) : (s.failStamps vd t k).MemOk := by
  unfold State.failStamps
  refine h.foldl fun s' p h1 => ?_
  split
  · exact .ite h1.send h1
  · exact h1

theorem State.MemOk.mcLost {vd} (h : s.MemOk) : (s.mcLost vd).MemOk := by
  unfold State.mcLost
  extract_lets s1 joining s2 gone dead
  have hs1 : s1.MemOk := h.foldl fun _ _ h1 => .ite h1.failStamps h1
  clear_value s1
  have hs2 : s2.MemOk := hs1.foldl fun _ _ h1 => h1.joinUnreachable
  clear_value s2
  exact .foldl (hs2.foldl fun _ _ h1 => h1.evictMember) fun _ _ h1 => h1.hgSetState

theorem State.MemOk.registerWrite (h : s.MemOk) : (registerWrite s).MemOk := by
  unfold Machine.registerWrite
  extract_lets a routes
  have hroutes : ∀ {u : State}, u.MemOk → (routes u).MemOk := fun hu => hu.mcLost.mcLost
  clear_value routes
  split
  · exact h.csrWrite
  · exact h.mmioWrite.getD h
  · exact hroutes h.modDie
  · exact hroutes h

theorem State.MemOk.linkDown (h : s.MemOk) : (linkDown s).MemOk := by
  unfold Machine.linkDown
  extract_lets key s1 vd e s2 s3 vd'
  have hs1 : s1.MemOk := h.modLink.unTimer
  clear_value s1
  have hs2 : s2.MemOk := hs1.logError
  clear_value s2
  have hs3 : s3.MemOk := by
    unfold s3
    split
    · exact hs2.modLink.logError
    · exact hs2
  clear_value s3
  exact .ite hs3.endAllLaunches hs1.logError.endAllLaunches.mcLost

theorem State.MemOk.thermalThrottle (h : s.MemOk) : (thermalThrottle s).MemOk := by
  unfold Machine.thermalThrottle
  extract_lets vd c s1 f s2
  have hs1 : s1.MemOk := h.modDie
  clear_value s1
  have hs2 : s2.MemOk := .ite hs1 (.ite (.ite hs1.setMhz hs1.setMhz) (.ite hs1.setMhz hs1))
  clear_value s2
  exact .ite hs2.modDie.endAllLaunches hs2

/-! ### Discovery (`Discovery`) -/

theorem State.MemOk.discHop (h : s.MemOk) : Ends State.MemOk (fun _ => True) (discHop s) := by
  unfold Machine.discHop
  extract_lets a x h' src
  split
  · exact .ok trivial
  · split
    · exact .error h.logError
    · exact .error h.emit

theorem State.MemOk.discAnswer {status} (h : s.MemOk) : (s.discAnswer status).MemOk :=
  h.emit

theorem State.MemOk.discAt {f : State → State × Nat} (h : s.MemOk)
    (hf : ∀ {u : State}, u.MemOk → (f u).1.MemOk) : (discAt f s).MemOk := by
  unfold Machine.discAt
  split
  next he => exact Ends.of_error he h.discHop
  · exact .ite h.discAnswer (hf h).discAnswer

theorem State.MemOk.discAssign (h : s.MemOk) : (discAssign s).1.MemOk := by
  unfold Machine.discAssign
  dsimp only
  split
  · exact h
  · exact State.MemOk.foldl h.modDie fun _ _ h1 => h1.modTile

theorem State.MemOk.discEnable (h : s.MemOk) : (discEnable s).1.MemOk :=
  h.modDie.foldl fun _ _ h1 => h1.takeCells

theorem State.MemOk.discrsp (h : s.MemOk) : (discrsp s).MemOk := by
  unfold Machine.discrsp
  extract_lets a x src
  split
  · exact h.modDie
  · split
    · exact h.logError
    · exact h.emit

/-! ### System instructions (`System`) -/

theorem State.MemOk.nop (h : s.MemOk) : Ends State.MemOk State.MemOk (nop s) :=
  h.enter.seq fun _ => .ok h.commitNow

theorem State.MemOk.yield_ (h : s.MemOk) : Ends State.MemOk State.MemOk (yield_ s) :=
  h.enter.seq fun _ => .ok h.commitNow.modTh

theorem State.MemOk.trapInstr {a u} (h : s.MemOk) : Ends State.MemOk State.MemOk (trapInstr a u s) :=
  h.enter.seq fun _ => h.readSrc.seq fun _ => .ok h.trap

theorem State.MemOk.breakInstr {u} (h : s.MemOk) : Ends State.MemOk State.MemOk (breakInstr u s) :=
  h.enter.seq fun _ => .ok h.trap

theorem State.MemOk.eretInstr (h : s.MemOk) : Ends State.MemOk State.MemOk (eretInstr s) :=
  h.enter.seq fun _ => .ok h.modTh

theorem State.MemOk.parkInstr (h : s.MemOk) : Ends State.MemOk State.MemOk (parkInstr s) :=
  h.enter.seq fun _ => .ite (.ok h.commitNow.modTh) (.ok h.commitNow.park)

theorem State.MemOk.post {mk m} (h : s.MemOk) : (s.post mk m).MemOk := by
  unfold State.post
  split
  next he => exact Ends.of_ok he h.pass
  · exact h.logLost

theorem State.MemOk.wakeInstr {a b} (h : s.MemOk) : Ends State.MemOk State.MemOk (wakeInstr a b s) :=
  h.enter.seq fun _ => h.readSrc.seq fun _ => h.readSrc.seq fun _ => h.illValue.seq fun _ =>
      h.illValue.seq fun _ => .ite (.ok h.consume.commitNow.post) (.ok h.consume.commitNow.post)

theorem State.MemOk.drainedTh (h : s.MemOk) : Ends State.MemOk (fun _ => True) (drainedTh s) :=
  .ite (.error h.block) (.ok trivial)

theorem State.MemOk.haltNow (h : s.MemOk) : s.haltNow.MemOk :=
  .ite h.leaveAll.unlockAll.modTh.park h.leaveAll.unlockAll.modTh.commitNow.modTh.checkRetire

theorem State.MemOk.haltInstr (h : s.MemOk) : Ends State.MemOk State.MemOk (haltInstr s) :=
  h.enter.seq fun _ => h.drainedTh.seq fun _ => .ok h.haltNow

theorem State.MemOk.recruit {c h' t i n p joff} (h : s.MemOk) : SomeOk (s.recruit c h' t i n p joff) := by
  unfold State.recruit
  split
  · exact SomeOk.none
  · split
    · extract_lets k new xy regs th s1 s2
      have hs1 : s1.MemOk := .of_mem h rfl
      clear_value s1
      have hs2 : s2.MemOk := hs1.setLive.modLaunch
      clear_value s2
      exact .ite SomeOk.none (SomeOk.some hs2.seat)
    · exact SomeOk.none

theorem State.MemOk.joinCell {sg off} (h : s.MemOk) : Ends State.MemOk SndOk (joinCell sg off s) := by
  unfold Machine.joinCell
  refine h.p0Place.bind fun ⟨p, s1⟩ h1 => ?_
  dsimp only
  split
  · exact .error h1.faultPark
  · split
    · exact .error h1.rangeTrap
    · exact h1.fenceFirst.seq fun _ => .ite (.error h1.waitResv.block) (.ite (.error h1.readCheck.trap)
        (.ok h1.readCheck))

theorem State.MemOk.recruitAll {c h' tiles n p joff} (h : s.MemOk) :
    (s.recruitAll c h' tiles n p joff).1.MemOk := by
  refine State.MemOk.foldl_fst h fun a q ha => ?_
  cases c with
  | none => exact ha
  | some c =>
    dsimp only [Option.bind_some]
    split
    next he => exact SomeOk.of_eq he ha.recruit
    · exact ha

theorem State.MemOk.fork {d sg a b} (h : s.MemOk) : Ends State.MemOk State.MemOk (fork d sg a b s) := by
  unfold Machine.fork
  extract_lets i srcs
  refine h.enter.seq fun _ => ?_
  refine h.readSrc.seq fun x => ?_
  refine h.readSrc.seq fun nw => ?_
  refine h.readSrc.seq fun gw => ?_
  refine h.destReady.seq fun _ => ?_
  refine h.destReady.seq fun _ => ?_
  refine h.destReady.seq fun _ => ?_
  refine h.destReady.seq fun _ => ?_
  extract_lets n
  refine h.illValue.seq fun _ => ?_
  refine h.illValue.seq fun _ => ?_
  refine h.illWord.seq fun _ => ?_
  refine h.joinCell.bind fun ⟨cell, s1⟩ h1 => ?_
  dsimp only
  exact .ok h1.perform.recruitAll.consume.modTh.writeResult.commitNow

theorem State.MemOk.joinc {d sg a} (h : s.MemOk) : Ends State.MemOk State.MemOk (joinc d sg a s) := by
  unfold Machine.joinc
  extract_lets i f j
  refine h.enter.seq fun _ => ?_
  refine h.readSrc.seq fun x => ?_
  refine h.destReady.seq fun _ => ?_
  split
  · exact .error h.park
  · extract_lets mine
    split
    · exact h.destReady.seq fun _ => h.destReady.seq fun _ => h.joinCell.bind fun _ h3 =>
        .ok h3.perform.consume.modTh
    · refine h.joinCell.bind fun ⟨cell, s1⟩ h1 => ?_
      refine h1.drainedTh.seq fun _ => ?_
      extract_lets v s2
      have hs2 : s2.MemOk := .ite h1.perform.modTh h1.perform
      clear_value s2
      exact .ite (.ok hs2.commitWith) (.ite (.ok hs2.haltNow.modTh) (.ok hs2.consume.haltNow))

theorem State.MemOk.spawn {d sg a b} (h : s.MemOk) : Ends State.MemOk State.MemOk (spawn d sg a b s) := by
  unfold Machine.spawn
  extract_lets i src
  refine h.enter.seq fun _ => ?_
  refine h.readSrc.seq fun x => ?_
  refine h.readSrc.seq fun q => ?_
  refine h.destLater.seq fun _ => ?_
  refine h.illValue.seq fun _ => ?_
  refine h.p0PlaceAt.bind fun ⟨p, s1⟩ h1 => ?_
  dsimp only
  split
  · exact .error h1.p0Send.block
  · exact .ite (h1.p0PlaceAt.bind fun _ h1 => .error h1.p0Send.block) (h1.fenceFirst.seq fun _ =>
      .ok h1.consume.markLater.commitNow.modTh.modTh.send)

theorem State.MemOk.rqpush {d a} (h : s.MemOk) : Ends State.MemOk State.MemOk (rqpush d a s) :=
  h.enter.seq fun _ => h.readSrc.seq fun _ => h.destReady.seq fun _ => h.illValue.seq fun _ => .ite
      (.ok h.commitWith) (.ite (.ok h.commitWith) (.ok (.commitWith (.ite h.setTile h.setTile.wakeRq))))

theorem State.MemOk.rqpop {d a} (h : s.MemOk) : Ends State.MemOk State.MemOk (rqpop d a s) := by
  unfold Machine.rqpop
  extract_lets i t T
  refine h.enter.seq fun _ => ?_
  refine h.readSrc.seq fun x => ?_
  refine h.destReady.seq fun _ => ?_
  refine h.destReady.seq fun _ => ?_
  extract_lets sel entry word
  refine h.illValue.seq fun _ => ?_
  clear_value i
  clear_value t
  clear_value T
  clear_value sel
  clear_value entry
  clear_value word
  split
  · exact .ok h.setTile.commitPair
  · exact .ok h.setTile.wrackTo.unholdTile.commitPair
  · exact .ite (.ok (.commitPair (.ite h.modTh h))) (.error h.park.modTh)

theorem State.MemOk.copiesFree {o n write} (h : s.MemOk) :
    Ends State.MemOk (fun _ => True) (copiesFree o n write s) := by
  refine .forM fun e => ?_
  split
  · exact .error h.park
  · exact .error h.rangeTrap
  · exact .ok trivial

theorem State.MemOk.ownSettled (h : s.MemOk) : Ends State.MemOk (fun _ => True) (ownSettled s) :=
  .ite (.error h.block) (.ok trivial)

theorem State.MemOk.spRange {write sn off n} (h : s.MemOk) :
    Ends State.MemOk (fun _ => True) (spRange write sn off n s) :=
  h.seg.seq fun _ => h.aligned.seq fun _ => h.copiesFree.seq fun _ => h.bankFree.seq fun _ =>
      h.ownSettled.seq fun _ => .ok trivial

theorem State.MemOk.producersDone {other} (h : s.MemOk) :
    Ends State.MemOk (fun _ => True) (producersDone other s) :=
  .ite (.error h.block) (.ite (.error h.block.after) (.ok trivial))

theorem State.MemOk.ctxMove {ld i d sg a b} (h : s.MemOk) :
    Ends State.MemOk State.MemOk (ctxMove ld i d sg a b s) := by
  unfold Machine.ctxMove
  refine h.enter.seq fun _ => ?_
  refine h.readSrc.seq fun x => ?_
  refine h.readSrc.seq fun c => ?_
  refine h.destReady.seq fun _ => ?_
  extract_lets other t n h'
  refine h.illValue.seq fun _ => ?_
  refine h.spRange.seq fun o => ?_
  extract_lets pa s1 bs s'
  have hs1 : s1.MemOk := h.readCheck
  clear_value s1
  split
  · exact .ok h.commitWith
  · refine h.producersDone.seq fun _ => ?_
    split
    · exact .ite (.error hs1.trap) (.ite (.ok hs1.commitWith.modSlot) (.ok hs1.consume.modTh))
    · split
      · exact .error h.trap
      · exact .ok h.perform.commitWith

theorem State.MemOk.zero {pa n} (h : s.MemOk) : (s.zero pa n).MemOk :=
  Memory.wf_filter _ _ h

theorem State.MemOk.scrubInstr {sg a b} (h : s.MemOk) :
    Ends State.MemOk State.MemOk (Machine.scrub sg a b s) :=
  h.enter.seq fun _ => h.readSrc.seq fun _ => h.readSrc.seq fun _ => h.illValue.seq fun _ => .ite
      (.ok h.commitPlain) (h.spRange.seq fun _ => .ok h.zero.modTile.fireWatches.commitPlain)

theorem State.MemOk.splock {d a} (h : s.MemOk) : Ends State.MemOk State.MemOk (splock d a s) :=
  h.enter.seq fun _ => h.readSrc.seq fun _ => h.destReady.seq fun _ => .ite (.ok h.commitWith) (.ite
      (.ok h.commitWith) (.ite (.ok h.setTile.commitWith) (.ok h.setTile.after.commitWith)))

theorem State.MemOk.spunlock {a} (h : s.MemOk) : Ends State.MemOk State.MemOk (spunlock a s) :=
  h.enter.seq fun _ => h.readSrc.seq fun _ => .ok h.commitPlain.modTile.notifyAll.unholdTile

theorem State.MemOk.lockTimeout (h : s.MemOk) : (lockTimeout s).MemOk := by
  unfold Machine.lockTimeout
  extract_lets t k
  split
  · exact h.unlockAll.modSlot
  · exact h

theorem State.MemOk.lagrant {d a} (h : s.MemOk) : Ends State.MemOk State.MemOk (lagrant d a s) :=
  h.enter.seq fun _ => h.readSrc.seq fun _ => h.destReady.seq fun _ => h.illValue.seq fun _ => .ite (.ite
      (.ok h.modTile.commitWith) (.ite (.ok h.commitWith) (.ok h.modTile.commitWith))) (.ite
      (.ok h.modTile.commitWith) (.ok h.modTile.commitWith))

theorem State.MemOk.pendingCauseTaken (h : s.MemOk) : (pendingCauseTaken s).MemOk :=
  .ite (.takeCause (.of_mem h rfl)) h

theorem State.MemOk.fenceDone {t k mask scope} (h : s.MemOk) : (s.fenceDone t k mask scope).MemOk :=
  .ite h.setSlot (.ite h h.setSlot.quantumOut)

theorem State.MemOk.blockCleared (h : s.MemOk) : (blockCleared s).MemOk := by
  unfold Machine.blockCleared
  extract_lets t k
  split
  · exact h.fenceDone
  · exact .ite h.modSlot (.ite h h.modSlot)
  · exact .ite h h.modSlot
  · exact h

theorem State.MemOk.wakeSlotMsg (h : s.MemOk) : (wakeSlotMsg s).MemOk := by
  unfold Machine.wakeSlotMsg
  extract_lets m t k slot
  refine .ite h.logError ?_
  split
  · refine .ite h.emit ?_
    split
    · refine .ite ?_ h
      show Memory.wf (wrByte s.mem _ 1) = true
      exact Memory.wf_wrByte _ _ _ h
    · exact h
  · exact .ite h.holdTile (.ite h (.ite h.setSlot h.modSlot))

theorem State.MemOk.wakeTagMsg (h : s.MemOk) : (wakeTagMsg s).MemOk :=
  .ite h.tagWake h.logError

theorem State.MemOk.wakeFaultMsg (h : s.MemOk) : (wakeFaultMsg s).MemOk := by
  unfold Machine.wakeFaultMsg
  extract_lets m t k id kill h' s1
  have hs1 : s1.MemOk := h.resumeSteps
  clear_value s1
  split
  · exact h.logError
  · split
    · exact .ite h.modCrew (.ite h.holdTile (.ite hs1.modSlot hs1))
    · split
      · exact .ite h.emit h.wokeAbsent
      · exact .ite h.logError h

theorem State.MemOk.wakeDescriptor (h : s.MemOk) : (wakeDescriptor s).MemOk :=
  .ite h.logError h.post

/-! ### Refused requests (`Errors`) -/

theorem State.MemOk.lostAt {t k pa c} (h : s.MemOk) : (s.lostAt t k pa c).MemOk :=
  h.logError

theorem State.MemOk.tellViolation {t k la cause path pa} (h : s.MemOk) :
    (s.tellViolation t k la cause path pa).MemOk :=
  .ite h h.logViolation

theorem State.MemOk.deferFor {t k la cause pa} (h : s.MemOk) : (s.deferFor t k la cause pa).MemOk := by
  unfold State.deferFor
  extract_lets h' say s1
  have hs1 : s1.MemOk := .ite h.pendViolation h.deferRange
  clear_value s1
  exact .ite hs1.modSlot (.ite h.pendViolation h.deferRange)

theorem State.MemOk.neverFilled {t k rd pair} (h : s.MemOk) : (s.neverFilled t k rd pair).MemOk :=
  h.modSlot

theorem State.MemOk.loadRefused {t k p c rd size sx} (h : s.MemOk) :
    (s.loadRefused t k p c rd size sx).MemOk := by
  unfold State.loadRefused
  extract_lets o s1 s2 s3
  have hs1 : s1.MemOk := h.tellViolation
  clear_value s1
  have hs2 : s2.MemOk := .ite hs1.modSlot hs1
  clear_value s2
  have hs3 : s3.MemOk := hs2.donePend
  clear_value s3
  exact .ite hs3.modSlot (.ite hs3 (.goHome (.of_mem hs3 rfl)))

theorem State.MemOk.engWriteRefused {t k p ctx ch seg c} (h : s.MemOk) :
    (s.engWriteRefused t k p ctx ch seg c).MemOk :=
  .ite h.engAck.lostAt (.ite h.engAck.tellViolation.modTile h.engAck.tellViolation.modCmd)

theorem State.MemOk.postRefused {t k p ctx c} (h : s.MemOk) : (s.postRefused t k p ctx c).MemOk := by
  unfold State.postRefused
  extract_lets s1 s2
  have hs1 : s1.MemOk := h.donePend
  clear_value s1
  have hs2 : s2.MemOk := .ite hs1.lostAt hs1.tellViolation
  clear_value s2
  exact .ite hs2.notify hs2.mapDone

theorem State.MemOk.refusedAccess {t k p c} (h : s.MemOk) : (s.refusedAccess t k p c).MemOk := by
  unfold State.refusedAccess
  extract_lets violation done lost deferred here unblocked record
  have hdone : ∀ {u : State}, u.MemOk → (done u).MemOk := fun hu => hu.donePend
  have hlost : ∀ {u : State}, u.MemOk → (lost u).MemOk := fun hu => hdone hu.lostAt
  have hdeferred : ∀ {u : State}, u.MemOk → (deferred u).MemOk := fun hu => (hdone hu).deferFor
  have hunblocked : (unblocked s).MemOk := .of_mem h rfl
  have hrecord : record.MemOk := .ite hunblocked.trap.lostAt
      (.ite hunblocked.tellViolation.goHome hunblocked.deferFor)
  clear_value done lost deferred unblocked record
  split
  · exact .ite h.neverFilled.loadRefused (.ite (hdeferred h.neverFilled) (hlost h.fillLoad))
  · exact .ite (hdeferred h) (hlost h)
  · exact .ite (hdeferred h.neverFilled) (hlost h.fillReg)
  · exact .ite (hdeferred h.neverFilled) (hlost h.fillReg)
  · exact .ite (hdeferred h.neverFilled) (hlost h.fillReg)
  · exact hrecord
  · exact hrecord
  · exact h
  · exact h.nodeGot
  · exact .ite h.bindingArrived h.unblockCommit.modSlot
  · exact h.acqFail
  · exact h.outcome
  · exact h.groupUnreachable
  · exact .ite h h.outcomePair
  · exact h.outcomePair.notifyAll
  · exact h.sendDone.lostAt
  · exact h.sendDone.lostAt
  · exact hlost h.fillReg
  · exact hdone h
  · exact (hlost h).wbStep
  · exact h.postRefused
  · exact h.engWriteRefused
  · exact h.pulled
  · exact h.nodeGot

theorem State.MemOk.unitPostRefused {vd o c} (h : s.MemOk) : (s.unitPostRefused vd o c).MemOk :=
  .ite h.logError (.ite h.tellViolation h.logError)

theorem State.MemOk.errAtAgent {m} (h : s.MemOk) : (s.errAtAgent m).MemOk := by
  unfold State.errAtAgent
  extract_lets vd ag c src
  split
  · exact .ite h.joinUnreachable h.mcAck
  · split
    · split
      · exact .ite h.unitAnswer.unitPostRefused h.unitAnswer
      · exact h
    · split
      · split
        · exact .luWatchrsp (.of_mem h rfl)
        · exact h.logError
      · exact h

theorem State.MemOk.err (h : s.MemOk) : (err s).MemOk := by
  unfold Machine.err
  extract_lets m t k c
  split
  · exact h.gatherGot
  · split
    · exact h.errAtAgent
    · split
      · exact h.refusedAt
      · split
        · exact h.refusedAccess
        · exact .ite h.lostAt h.movedWord

theorem State.MemOk.watchrsp (h : s.MemOk) : (watchrsp s).MemOk :=
  .ite h.luWatchrsp (.ite h.taskWatchrsp h.tileWatchrsp)

/-! ### The host link (`Host`) -/

theorem State.MemOk.extendMr {j data} (h : s.MemOk) : (s.extendMr j data).MemOk :=
  h.modDie

theorem State.MemOk.bootDrt {dies} (h : s.MemOk) : (s.bootDrt dies).MemOk :=
  h.foldl fun _ _ h1 => h1.modDie

theorem State.MemOk.bootLinks {dies} (h : s.MemOk) : (s.bootLinks dies).MemOk :=
  h.foldl fun _ _ h1 => h1.modLink

theorem State.MemOk.measureFree {j} (h : s.MemOk) : (s.measureFree j).MemOk :=
  .extendMr (.of_mem h rfl)

theorem State.MemOk.boot (h : s.MemOk) : (Machine.boot s).MemOk := by
  unfold Machine.boot
  extract_lets b s1 dies comp s2 tab s3 s4 s5 s6
  have h1 : s1.MemOk := .of_mem h rfl
  have h2 : s2.MemOk := h1.extendMr
  have h3 : s3.MemOk := .ite h2.measureFree h2
  have h4 : s4.MemOk := h3.foldl fun _ _ h3 => h3.measureFree
  have h6 : s6.MemOk := State.MemOk.foldl h4.extendMr.bootDrt fun _ _ h5 => h5.modDie
  clear_value s6 s5 s4 s3 s2 s1 comp
  refine .ite h1.setReg.setReg ?_
  split
  · exact h2.setReg
  · have h7 : ∀ {pa bs}, ((s6.bootLinks dies).homeWrite pa bs).MemOk := h6.bootLinks.homeWrite
    exact State.MemOk.foldl (.ite h7 h7.setReg) fun _ _ h8 => h8.setReg.setReg

theorem State.MemOk.packageReset (h : s.MemOk) : (packageReset s).MemOk := by
  unfold Machine.packageReset
  extract_lets e writes
  have he : e.MemOk := State.MemOk.endAllLaunches (.of_mem h rfl)
  clear_value e
  exact State.MemOk.emit (.of_mem he rfl)

theorem State.MemOk.hostBarRead (h : s.MemOk) : (hostBarRead s).MemOk := by
  unfold Machine.hostBarRead
  extract_lets a done o pa
  split
  · exact .ite h.hostOut h.hostOut
  · exact .ite h.hostOut (.ite h.logError.hostOut (.ite h.logError.hostOut
      (.ite h.waitResv h.readCheck.hostOut)))
  · exact .ite h.hostOut h.hostOut
  · exact h.hostOut

theorem State.MemOk.hostMmio {port o bs n} (h : s.MemOk) : SomeOk (s.hostMmio port o bs n) := by
  induction n generalizing s o bs with
  | zero => exact .some h
  | succ n ih =>
    unfold State.hostMmio
    refine .ite (.some h) ?_
    split
    · exact h.windowPut.bind fun h => ih h
    · extract_lets m
      split
      · exact .none
      next he => exact ih (SomeOk.of_eq he h.mmioWrite)

theorem State.MemOk.hostBarWrite (h : s.MemOk) : (hostBarWrite s).MemOk := by
  unfold Machine.hostBarWrite
  extract_lets a mmio
  have hmmio : ∀ o, (mmio o).MemOk := fun o => .ite h (h.hostMmio.getD h.holdDie)
  clear_value mmio
  split
  · exact hmmio _
  · exact .ite h (.ite h.logError (.ite h.logError (.ite h.waitResv h.perform)))
  · exact hmmio _
  · exact h

theorem State.MemOk.pcieD3hot (h : s.MemOk) : (pcieD3hot s).MemOk :=
  h.modDie.hostOut

theorem State.MemOk.getmeas (h : s.MemOk) : (getmeas s).MemOk :=
  h.hostOut

theorem State.MemOk.extend (h : s.MemOk) : (extend s).MemOk :=
  .ite h.hostOut h.extendMr.hostOut

/-! ### The network engine (`Net`) -/

theorem State.MemOk.nqFail {q} (h : s.MemOk) : (s.nqFail q).MemOk :=
  h.setReg

theorem State.MemOk.nqDone {q} (h : s.MemOk) : (s.nqDone q).MemOk :=
  h.setReg

theorem State.MemOk.modNet {vd id f} (h : s.MemOk) : (s.modNet vd id f).MemOk :=
  h.modDie

theorem State.MemOk.netGoOn {vd} (h : s.MemOk) : (s.netGoOn vd).MemOk :=
  h.foldl fun _ _ h1 => h1.emitOnce

theorem State.MemOk.netFreed (h : s.MemOk) : s.netFreed.MemOk :=
  h.foldl fun _ _ h1 => h1.engFreed

theorem State.MemOk.netDrop {vd r} (h : s.MemOk) : (s.netDrop vd r).MemOk :=
  h.modDie.netFreed.netGoOn

theorem State.MemOk.netFail {vd r} (h : s.MemOk) : (s.netFail vd r).MemOk :=
  .ite h.netDrop.ethOut h.netDrop.nqFail

theorem State.MemOk.netDone {vd r} (h : s.MemOk) : (s.netDone vd r).MemOk :=
  .ite h.netDrop.agentPost.ethOut h.netDrop.nqDone

theorem State.MemOk.netPlace {vd r off total kind} (h : s.MemOk) :
    SndOk (s.netPlace vd r off total kind) := by
  unfold State.netPlace
  extract_lets u start
  split
  · exact h
  · split
    next _ pa lvl s1 he =>
      have h1 := SndOk.of_eq he h.luWalk
      exact SndOk.ite h1.modNet.emitOnce h1
    next he => exact SndOk.of_eq he h.luWalk
    next he => exact SndOk.of_eq he h.luWalk
    next he => exact SndOk.of_eq he h.luWalk
    next _ fst s1 _ _ _ _ he =>
      have h1 := SndOk.of_eq he h.luWalk
      show State.MemOk _
      exact .ite h1 h1.after

theorem State.MemOk.netSend {r} (h : s.MemOk) : (s.netSend r).MemOk :=
  .ite h.ethOut (h.foldl fun _ _ h1 => h1.ethOut)

theorem State.MemOk.netNext {vd r} (h : s.MemOk) : (s.netNext vd r).MemOk := by
  unfold State.netNext
  extract_lets u w line pa la la'
  split
  · exact h.after
  · split
    · exact .ite h.netFail h.unitGet
    · split
      · exact h.modNet.netSend.notify.netGoOn
      · split
        · split
          next he => exact SndOk.of_eq he h.netPlace
          next he => exact (SndOk.of_eq he h.netPlace).netFail
          next he => exact (SndOk.of_eq he h.netPlace).unitGet
        · split
          · exact .ite h.netDone h
          · split
            next he => exact SndOk.of_eq he h.netPlace
            next he => exact (SndOk.of_eq he h.netPlace).netFail
            next he => exact (SndOk.of_eq he h.netPlace).unitPut.modNet

theorem State.MemOk.netStep {vd id} (h : s.MemOk) : (netStep vd id s).MemOk := by
  unfold Machine.netStep
  split
  · exact h
  · extract_lets u
    split
    · exact h
    · split
      · exact h.unitClear.modNet.emitOnce
      · exact h.netFail
      · exact h.netNext

theorem State.MemOk.netPost {q bs ctx} (h : s.MemOk) : (s.netPost q bs ctx).MemOk :=
  h.modDie.emitOnce

theorem State.MemOk.postAccept {t k q bs} (h : s.MemOk) : SomeOk (s.postAccept t k q bs) :=
  .ite SomeOk.none (SomeOk.some (.ite h.modSlot.modSlot.nqFail h.modSlot.netPost))

theorem State.MemOk.npost {i a b} (h : s.MemOk) : Ends State.MemOk State.MemOk (npost i a b s) :=
  h.cmdEnter.seq fun _ => h.readSrc.seq fun _ => h.readSrc.seq fun _ => h.illWord.seq fun _ =>
      h.recordPlace.bind fun _ h5 => h5.submit fun hu => hu.postAccept

theorem State.MemOk.sampleCounter {t k rd q err} (h : s.MemOk) : (s.sampleCounter t k rd q err).MemOk :=
  h.valueLater

theorem State.MemOk.npoll {i a d} (h : s.MemOk) : Ends State.MemOk State.MemOk (npoll i a d s) :=
  h.cmdEnter.seq fun _ => h.readSrc.seq fun _ => h.destLaterPair.seq fun _ => h.illWord.seq fun _ =>
    .ite (h.defer.map fun _ h1 => h1.pairLater) (.ok h.consume.commitNow.sampleCounter)

theorem State.MemOk.netWriteAck (h : s.MemOk) : (netWriteAck s).MemOk := by
  unfold Machine.netWriteAck
  extract_lets q
  split
  · exact .ite h.netDone h
  · exact h

theorem State.MemOk.netReadData (h : s.MemOk) : (netReadData s).MemOk := by
  unfold Machine.netReadData
  extract_lets q vd
  split
  · exact h
  · exact .ite h h.modNet.emitOnce

theorem State.MemOk.retransmissionExhaustion (h : s.MemOk) : (retransmissionExhaustion s).MemOk := by
  unfold Machine.retransmissionExhaustion
  extract_lets q
  split
  · exact .ite h.netFail h
  · exact h

theorem State.MemOk.netIncomingWrite (h : s.MemOk) : (netIncomingWrite s).MemOk :=
  .ite h.ethOut h.modDie.emitOnce

theorem State.MemOk.engineStep (h : s.MemOk) : (engineStep s).MemOk :=
  .ite h.cmdStep (.ite h.copyStep (.ite h.netStep (.ite h.valueArrived (.ite h.wbUnits h))))

theorem State.MemOk.wrack (h : s.MemOk) : (wrack s).MemOk :=
  .ite h.mcAck (.ite h.unitAnswer h.tileWrack)

theorem State.MemOk.ioAnswer (h : s.MemOk) : (ioAnswer s).MemOk := by
  unfold Machine.ioAnswer
  extract_lets a src bs v
  have hsrc : src.MemOk := h.modDie
  clear_value src
  split
  · exact h
  · extract_lets asked m bad
    have hasked : asked.MemOk := .of_mem hsrc rfl
    clear_value asked
    split
    · exact hasked.readAnswer
    · exact .ite hasked.readAnswer.unreserve hasked.answer
    · exact hasked.postOutside
    · exact hasked.watchWith
    · exact hasked

/-! ### Lookahead (`Lookahead`) -/

theorem State.MemOk.releaseOne {t k} (h : s.MemOk) : (s.releaseOne t k).MemOk := by
  unfold State.releaseOne
  extract_lets slot ev later
  split
  · exact h
  · extract_lets s0 next enter_
    have h0 : s0.MemOk := h.modSlot
    clear_value s0
    have hnext : ∀ {u : State}, u.MemOk → (next u).MemOk := fun hu => .ite hu.notify hu.after
    clear_value next
    have henter : ∀ {r}, SomeOk r → (enter_ r).MemOk := by
      intro r hr
      cases r with
      | none => exact h.after
      | some u => exact hnext (hr u rfl)
    clear_value enter_
    split
    · exact .ite h.askPower.after (.ite h.after (hnext h0.modSlot.accept))
    · exact henter h0.ladleAccept
    · exact henter h0.copyAccept
    · exact henter h0.taskAccept
    · exact henter h0.postAccept
    · exact hnext h0.sampleWptr
    · exact hnext h0.sampleCounter
    · exact hnext h0.ladleCancel
    · exact hnext h0.cancelQueues
    · exact .ite h.after (hnext h0.syncClear)

theorem State.MemOk.branchResolve (h : s.MemOk) : (branchResolve s).MemOk := by
  unfold Machine.branchResolve
  extract_lets t k h' s0 again s1 s2
  have hs0 : s0.MemOk := .of_mem h rfl
  clear_value s0
  have hs1 : s1.MemOk := .lateRevoke (.modSlot (.ite hs0.modSlot.logChecksum hs0))
  clear_value s1
  have hs2 : s2.MemOk := hs1.notify.quantumOut
  clear_value s2
  split
  · exact h.releaseOne
  · exact .ite h (.ite hs0.discardPath.trap (.ite hs0.discardPath.modSlot.trap (.ite (.ite hs2 hs2.after)
      (.quantumOut (.modSlot (.discardPath (.ite hs0.modSlot.logChecksum hs0)))))))

/-! ### Every instruction and event (`Dispatch`) -/

theorem State.MemOk.exec {i} (h : s.MemOk) : NextOk (exec i s) := by
  cases i with
  | add | sub | and | or | xor | andn | sll | srl | sra | rol | ror | mul | mulh | mulhu | min | max | minu
  | maxu | adds | subs | seq | sne | slt | sltu => exact h.alu2.finish
  | div | divu | rem | remu => exact h.divide.finish
  | dividerDone => exact .next h.dividerDone
  | addi | slli | srli | srai | rori | seqi | snei | slti | sltui | sgti | sgtui | clz | ctz | popc | brev
  | bswap | sextb | sexth | zexth | extu | exts => exact h.alu1.finish
  | lui | addpc => exact h.alu0.finish
  | selnz | seleqz => exact h.select.finish
  | ins => exact h.insertBits.finish
  | beqz | bnez | bltz | bgez | bgtz | blez => exact h.branch.finish
  | bfull | bempty => exact h.branchFull.finish
  | jal => exact h.jump.finish
  | jalr => exact h.jumpReg.finish
  | fadd | fsub | fmul | fmin | fmax | fcpys | fxsgn | fminp | fmaxp | fcmpeq | fcmplt | fcmple =>
      exact h.fp2.finish
  | fdiv => exact h.fpDivide.finish
  | fsqrt => exact h.fpRoot.finish
  | fneg | fabs | fclass | ftoi | ftou | itof | utof | ftobf | ftoh | bftof | htof => exact h.fp1.finish
  | fmadd | fmsub => exact h.fma.finish
  | lea => exact h.lea.finish
  | segld => exact h.segLoad.finish
  | segrd => exact h.segrd.finish
  | ldw | ldh | ldhu | ldb | ldbu | ldp => exact h.load.finish
  | stw | sth | stb | stp => exact h.store.finish
  | aadd | aand | aor | axor | amin | amax | aminu | amaxu | aaddC | aandC | aorC | axorC | aminC | amaxC
  | aminuC | amaxuC | swap | cas => exact h.atomic.finish
  | fence => exact h.fence.finish
  | binit => exact h.binit.finish
  | bind => exact h.bindRegion.finish
  | unbind => exact h.unbind.finish
  | acqX | acqS | gtryX | gtryS => exact h.acquire.finish
  | rel => exact h.rel.finish
  | join => exact h.join.finish
  | leave => exact h.leave.finish
  | arrive => exact h.arriveInstr.finish
  | bwait => exact h.bwait.finish
  | barw => exact h.barw.finish
  | waitc => exact h.waitc.finish
  | postc | postce => exact h.postc.finish
  | send => exact h.sendInstr.finish
  | chon => exact h.chon.finish
  | choff => exact h.choff.finish
  | mcst | mcstc => exact h.mcst.finish
  | mcseq => exact h.mcseq.finish
  | mzero => exact h.mzero.finish
  | mma => exact h.mma.finish
  | mmag => exact h.mmag.finish
  | mstore => exact h.mstore.finish
  | mreduce => exact h.mreduce.finish
  | mqput => exact h.mqput.finish
  | vcvt | vadd | vsub | vmul | vdiv | vmin | vmax | vfma | vfms | vadds | vmuls | vfmas | vabs | vneg
  | vrelu | vclamp | vexp2 | vlog2 | vrcp | vrsq | vsqrt | vtanh | vcmplt | vcmpeq | vsel | vrsum | vrmax
  | vrmin | vrsumsq | vdot | vfill | viota => exact h.vecCmd.finish
  | lfill | lgather | ldrain => exact h.ladleIssue.finish
  | lwptr => exact h.lwptr.finish
  | lcancel => exact h.lcancel.finish
  | qsync => exact h.qsync.finish
  | qcancel => exact h.qcancel.finish
  | xcopy => exact h.xcopy.finish
  | npost => exact h.npost.finish
  | npoll => exact h.npoll.finish
  | ewr | ewrs | ewrh => exact h.ewrite.finish
  | erd | erdh => exact h.eread.finish
  | fmtp => exact h.fmtp.finish
  | csrxch | csrbs | csrbc => exact h.csrReg.finish
  | csrxchi | csrbsi | csrbci => exact h.csrImm.finish
  | nop => exact h.nop.finish
  | trap => exact h.trapInstr.finish
  | brk => exact h.breakInstr.finish
  | eret => exact h.eretInstr.finish
  | yield => exact h.yield_.finish
  | park => exact h.parkInstr.finish
  | wake => exact h.wakeInstr.finish
  | halt => exact h.haltInstr.finish
  | fork => exact h.fork.finish
  | joinc => exact h.joinc.finish
  | spawn => exact h.spawn.finish
  | rqpush => exact h.rqpush.finish
  | rqpop => exact h.rqpop.finish
  | ctxsv | ctxld => exact h.ctxMove.finish
  | splock => exact h.splock.finish
  | spunlock => exact h.spunlock.finish
  | lagrant => exact h.lagrant.finish
  | scrub => exact h.scrubInstr.finish
  | pendingCauseTaken => exact .next h.pendingCauseTaken
  | blockCleared => exact .next h.blockCleared
  | branchResolve => exact .next h.branchResolve
  | cycleRead => exact .next h.latchCycle
  | instretRead => exact .next h.latchInstret
  | timerWrite => exact .next h.timerWrite
  | timerExpire => exact .next h.timerExpire
  | lockTimeout => exact .next h.lockTimeout
  | registerWrite => exact .next h.registerWrite
  | pageWalk => exact .next h.pageWalk
  | invRange | invAsid | invAll => exact .next h.invalidate
  | invWake => exact .next h.invWake
  | visitorDepart => exact .next h.visitorDepart
  | visitorSlotFree => exact .next h.visitorSlotFree
  | visitorQueueTimeout => exact .next h.visitorQueueTimeout
  | visitorRetry => exact .next h.visitorRetry
  | visitorQuantum => exact .next h.visitorQuantum
  | ladleCopyStart => exact .next h.ladleCopyStart
  | ladleSegmentCheck => exact .next h.ladleSegmentCheck
  | ladleCopyEnd => exact .next h.ladleCopyEnd
  | engineStep => exact .next h.engineStep
  | engineCommandEnd => exact .next h.engineCommandEnd
  | taskRecordStart => exact .next h.taskRecordStart
  | powerGrant => exact .next h.powerGrant
  | vfClockChange => exact .next h.vfClockChange
  | thermalThrottle => exact .next h.thermalThrottle
  | sluiceFrame => exact .next h.sluiceFrame
  | linkAck => exact .next h.linkAck
  | linkNak => exact .next h.linkNak
  | linkInit => exact .next h.linkInit
  | ackTimer => exact .next h.ackTimer
  | replayTimeout => exact .next h.replay
  | linkDown => exact .next h.linkDown
  | rd => exact .next h.rd
  | rdata => exact .next h.rdata
  | rdatab => exact .next h.rdatab
  | wr => exact .next h.wr
  | wrb => exact .next h.wrb
  | wrack => exact .next h.wrack
  | rsv => exact .next h.rsv
  | rsvgnt => exact .next h.rsvgnt
  | rsvrel => exact .next h.rsvrel
  | err => exact .next h.err
  | ctx => exact .next h.ctx
  | ctxref => exact .next h.ctxref
  | msgData => exact .next h.msgData
  | msgRecast => exact .next h.msgRecast
  | msgQueue => exact .next h.msgQueue
  | msgref => exact .next h.msgref
  | cwpost => exact .next h.cwpost
  | engcmdFwdupd => exact .next h.engcmdFwdupd
  | engcmdReadmit => exact .next h.engcmdReadmit
  | engdone => exact .next h.engdone
  | wakeSlotMsg => exact .next h.wakeSlotMsg
  | wakeTagMsg => exact .next h.wakeTagMsg
  | wakeFaultMsg => exact .next h.wakeFaultMsg
  | launch => exact .next h.launch
  | ldoneAccept => exact .next h.ldoneAccept
  | ldoneRefuse => exact .next h.ldoneRefuse
  | ldoneRetire => exact .next h.ldoneRetire
  | ldoneSwap => exact .next h.ldoneSwap
  | frec => exact .next h.frec
  | frecResend => exact .next h.frecResend
  | invdone => exact .next h.invdone
  | acqreq => exact .next h.acqreq
  | relreq => exact .next h.relreq
  | wdraw => exact .next h.wdraw
  | wbnote => exact .next h.wbnote
  | gredo => exact .next h.gredo
  | gadmBinit => exact .next h.gadmBinit
  | gadmBind => exact .next h.gadmBind
  | gadmUnbind | gadmUnbindRetire => exact .next h.gadmUnbind
  | fwdServe | fwdDemote | fwdServeDemote => exact .next h.fwdOwner
  | fwdRecall => exact .next h.fwdRecall
  | fwdInvalidate => exact .next h.fwdInvalidate
  | filtInstall => exact .next h.filtInstall
  | filtRemove => exact .next h.filtRemove
  | grant => exact .next h.grant
  | deny => exact .next h.deny
  | ack => exact .next h.ack
  | served => exact .next h.served
  | notretained => exact .next h.notretained
  | invack => exact .next h.invack
  | gdata => exact .next h.gdata
  | grpreqJoin => exact .next h.grpreqJoin
  | grpreqLeave => exact .next h.grpreqLeave
  | grpreqArrive => exact .next h.grpreqArrive
  | grpreqEngineArrival => exact .next h.grpreqEngineArrival
  | grprsp => exact .next h.grprsp
  | grel => exact .next h.grel
  | grelack => exact .next h.grelack
  | watchInstall => exact .next h.watchInstall
  | watchCancel => exact .next h.watchCancel
  | watchrsp => exact .next h.watchrsp
  | watchRetry => exact .next h.watchRetry
  | mcreq => exact .next h.mcreq
  | mcapply => exact .next h.mcapply
  | mcstamp => exact .next h.mcstamp
  | mcack => exact .next h.mcack
  | mcctlSnap => exact .next h.mcctlSnap
  | mcctlJoined => exact .next h.mcctlJoined
  | mcctlEvict => exact .next h.mcctlEvict
  | mcctlLeft => exact .next h.mcctlLeft
  | mcctlrsp => exact .next h.mcctlrsp
  | mcjoinJoin => exact .next h.mcjoinJoin
  | mcjoinLeave => exact .next h.mcjoinLeave
  | memberTimeout => exact .next h.memberTimeout
  | mcseqreq => exact .next h.mcseqreq
  | mcseqrsp => exact .next h.mcseqrsp
  | mcJoinDescriptor | mcLeaveDescriptor => exact .next h.joinDescriptor
  | discQuery => exact .next (h.discAt fun hu => hu)
  | discAssign => exact .next (h.discAt fun hu => hu.discAssign)
  | discEnable => exact .next (h.discAt fun hu => hu.discEnable)
  | discrsp => exact .next h.discrsp
  | doorbell => exact .next h.doorbell
  | launchFetch => exact .next h.launchFetch
  | admissionChoice => exact .next h.admissionChoice
  | launchHold => exact .next h.launchHold
  | launchRetranslate => exact .next h.launchRetranslate
  | launchCancel => exact .next h.launchCancel
  | crewSwap => exact .next h.crewSwap
  | crewRestore => exact .next h.crewRestore
  | crewRetire => exact .next h.crewRetire
  | forwardExpire => exact .next h.forwardExpire
  | wakeDescriptor => exact .next h.wakeDescriptor
  | liveMigration => exact .next h.liveMigration
  | checkpointSweep => exact .next h.checkpointSweep
  | descriptorPiece => exact .next h.descriptorPiece
  | descriptorBufferTimeout => exact .next h.descriptorBufferTimeout
  | errorBankClear => exact .next h.errorBankClear
  | packageReset => exact .next h.packageReset
  | boot => exact .next h.boot
  | hostBarRead => exact .next h.hostBarRead
  | hostBarWrite => exact .next h.hostBarWrite
  | hostAtomicOp | getchain => exact .next h.hostOut
  | pcieD3hot => exact .next h.pcieD3hot
  | getmeas => exact .next h.getmeas
  | extendMr => exact .next h.extend
  | netWriteAck => exact .next h.netWriteAck
  | netReadData => exact .next h.netReadData
  | netIncomingWrite => exact .next h.netIncomingWrite
  | retrainingComplete => exact .next h.retrainingComplete
  | pcieCompletion | cxlMemResponse => exact .next h.ioAnswer
  | cxlDeviceEvent => exact .next h.logError
  | aerLinkError => exact .next h.logError.hostOut
  | retransmissionExhaustion => exact .next h.retransmissionExhaustion

theorem NextOk.afterIssue {t k o} (ho : NextOk o) : NextOk (afterIssue t k o) := by
  cases o with
  | next u => exact .next (ho u rfl).noteIssue
  | fault f => exact .fault
  | refused r => exact .refused

/-! ### One step (`Step`) -/

theorem State.MemOk.stepSlot {t k} (h : s.MemOk) : NextOk (stepSlot t k s) := by
  unfold Machine.stepSlot
  split
  next he => exact NextOk.afterIssue (.next (Ends.of_error he h.prepare))
  next he =>
    have h1 := Ends.of_ok he h.prepare
    exact NextOk.afterIssue (State.MemOk.checker h1 (State.MemOk.exec h1))

theorem State.MemOk.stepTile {t} (h : s.MemOk) : NextOk (stepTile t s) := by
  unfold Machine.stepTile
  split
  · exact h.stepSlot
  · exact NextOk.next h

theorem State.MemOk.stepEvent {n} (h : s.MemOk) : NextOk (stepEvent n s) := by
  unfold Machine.stepEvent
  split
  · exact NextOk.next h
  · exact .exec (.of_mem h rfl)

theorem State.MemOk.stepChoice {n} (h : s.MemOk) : NextOk (stepChoice n s) := by
  unfold Machine.stepChoice
  split
  · exact h.stepEvent
  · exact NextOk.next h

theorem State.MemOk.stepTurn {t} (h : s.MemOk) : NextOk (stepTurn t s) := by
  unfold Machine.stepTurn
  split
  · exact h.stepEvent
  · exact h.stepTile

theorem State.MemOk.stepTick {vds} (h : s.MemOk) : NextOk (stepTick vds s) := by
  unfold Machine.stepTick
  extract_lets mine
  split
  · exact h.stepEvent
  · split
    · exact h.stepTile
    · exact NextOk.next h.tick

theorem State.MemOk.step (h : s.MemOk) : NextOk (step s) := by
  unfold Machine.step
  split
  · exact State.MemOk.stepChoice (.of_mem h rfl)
  · exact .ite (State.MemOk.stepTurn (.of_mem h rfl)) .fault
  · exact State.MemOk.stepTick (.of_mem h rfl)
  · split
    · exact h.stepEvent
    · split
      · exact h.stepTile
      · exact .next h.tick

end

/-- Settles O58: `State.MemOk` goes through every arm of `exec`, and through `step`, by the lemmas above. -/
theorem memoryStaysCanonical : Obligations.MemoryStaysCanonical := by
  unfold Obligations.MemoryStaysCanonical
  exact ⟨fun _ _ t h e => h.exec t e, fun _ t h e => h.step t e⟩

end Sys2Proof.Machine
end

section
/-! O11: the segment conditions in their order (R10), then orders 4 to 7 of R228 for an access of a thread that is no visitor.

`segCheck_cases` lists what a segment check can answer. An access then passes its alignment, and goes by the range table's answer: in
its own scratchpad by the copy-range column, else by the region column, where only `pass` leads to a translation. -/

namespace Sys2Proof.Machine
open Sys2Proof

/-! ### Segment and alignment -/

theorem segCheck_conditions (rights : Seg → Bool) (g : Seg) (spbase spsize off n : Nat) :
    (rights g = false → segCheck rights g spbase spsize off n = .error 1) ∧
    (rights g = true → g.limit.toNat < off + n - 1 → segCheck rights g spbase spsize off n = .error 2) ∧
    (rights g = true → off + n - 1 ≤ g.limit.toNat → g.s = false → 0xFFFFFFFFFFFF < g.base.toNat + off + n - 1 →
      segCheck rights g spbase spsize off n = .error 3) ∧
    (rights g = true → off + n - 1 ≤ g.limit.toNat → g.s = true →
      g.base.toNat % 2 ^ 22 + off < spbase ∨ spbase + spsize < g.base.toNat % 2 ^ 22 + off + n →
      segCheck rights g spbase spsize off n = .error 5) ∧
    (rights g = true → off + n - 1 ≤ g.limit.toNat → g.s = false → g.base.toNat + off + n - 1 ≤ 0xFFFFFFFFFFFF →
      segCheck rights g spbase spsize off n = .ok ⟨g.base.toNat + off, false⟩) ∧
    (rights g = true → off + n - 1 ≤ g.limit.toNat → g.s = true → spbase ≤ g.base.toNat % 2 ^ 22 + off →
      g.base.toNat % 2 ^ 22 + off + n ≤ spbase + spsize →
      segCheck rights g spbase spsize off n = .ok ⟨g.base.toNat % 2 ^ 22 + off, true⟩) := by
  rcases segCheck_cases rights g spbase spsize off n with
    ⟨hr, e⟩ | ⟨hr, hl, e⟩ | ⟨hr, hl, hs, hb, e⟩ | ⟨hr, hl, hs, hlo, hhi, e⟩ | ⟨hr, hl, hs, hb, e⟩ | ⟨hr, hl, hs, hb, e⟩
  · simp [hr, e]
  · simp [hr, e]; omega
  · simp [hr, hs, e]; omega
  · simp [hr, hs, e]; omega
  · simp [hr, hs, e]; omega
  · simp [hr, hs, e]; omega


/-! ### Orders 4 and 5 of R228 -/

section
variable {rights : Seg → Bool} {kind sn off n op : Nat} {s : State}

theorem seg_of_ok {p : Place} (h : segCheck rights (s.th.seg sn) s.th.spbase s.th.spsize off n = .ok p) :
    seg rights sn off n s = .ok p := by
  simp only [seg, h]

theorem seg_of_error {e : Nat} (h : segCheck rights (s.th.seg sn) s.th.spbase s.th.spsize off n = .error e) :
    seg rights sn off n s = .error (s.trap tSEG e (BitVec.ofNat 32 off)) := by
  simp only [seg, h]

theorem aligned_of_dvd {p : Place} (ha : p.at_ % n = 0) : aligned p n off s = .ok () := by
  simp only [aligned, if_pos ha]

theorem aligned_of_not_dvd {p : Place} (ha : p.at_ % n ≠ 0) :
    aligned p n off s = .error (s.trap tALIGN 0 (BitVec.ofNat 32 off)) := by
  simp only [aligned, if_neg ha]

theorem p0Place_of_segError {e : Nat} (h : segCheck rights (s.th.seg sn) s.th.spbase s.th.spsize off n = .error e) :
    p0Place rights kind sn off n op s = .error (s.trap tSEG e (BitVec.ofNat 32 off)) := by
  simp only [p0Place, p0PlaceAt, seg_of_error h, bind, Except.bind]

theorem p0Place_of_misaligned {p : Place} (h : segCheck rights (s.th.seg sn) s.th.spbase s.th.spsize off n = .ok p)
    (ha : p.at_ % n ≠ 0) : p0Place rights kind sn off n op s = .error (s.trap tALIGN 0 (BitVec.ofNat 32 off)) := by
  simp only [p0Place, p0PlaceAt, seg_of_ok h, bind, Except.bind, aligned_of_not_dvd ha]

/-! ### Order 6 of R228: the range table -/

theorem bankFree_of_held {o : Nat} (h : (s.tile s.cur.1).bankHeld s.cur.2 o n = true) :
    bankFree o n s = .error (s.block .lock) := by
  simp only [bankFree, h, if_true]

theorem bankFree_of_free {o : Nat} (h : (s.tile s.cur.1).bankHeld s.cur.2 o n = false) : bankFree o n s = .ok () := by
  simp [bankFree, h]

/-- An access of n bytes at off by a thread at home passes its segment check and its alignment, and reaches `p`. -/
structure AccessAt (rights : Seg → Bool) (sn off n : Nat) (s : State) (p : Place) : Prop where
  home : s.th.isVisitor = false
  passes : segCheck rights (s.th.seg sn) s.th.spbase s.th.spsize off n = .ok p
  aligned : p.at_ % n = 0

variable {a : Nat}

/-- Where the segment is S = 1, the copy-range column decides. -/
theorem AccessAt.scratchpad (h : AccessAt rights sn off n s ⟨a, true⟩) :
    (∀ e, (s.tile s.cur.1).rngCopy s.cur.2 a n (kindWriteP0 kind) = .violation e →
      p0Place rights kind sn off n op s = .error (rangeTrap e 0 0 (s.spPa s.cur.1 a) s)) ∧
    ((s.tile s.cur.1).rngCopy s.cur.2 a n (kindWriteP0 kind) = .wait →
      p0Place rights kind sn off n op s = .error (s.park pGUARDWAIT)) ∧
    ((s.tile s.cur.1).rngCopy s.cur.2 a n (kindWriteP0 kind) = .pass → (s.tile s.cur.1).bankHeld s.cur.2 a n = true →
      p0Place rights kind sn off n op s = .error (s.block .lock)) ∧
    ((s.tile s.cur.1).rngCopy s.cur.2 a n (kindWriteP0 kind) = .pass → (s.tile s.cur.1).bankHeld s.cur.2 a n = false →
      p0Place rights kind sn off n op s = .ok (⟨s.spPa s.cur.1 a, 0⟩, s)) := by
  obtain ⟨hv, hc, ha⟩ := h
  simp only [p0Place, p0PlaceAt, seg_of_ok hc, aligned_of_dvd ha, bind, Except.bind, if_true, hv, Bool.false_eq_true, if_false]
  refine ⟨fun e hr => ?_, fun hr => ?_, fun hr hb => ?_, fun hr hb => ?_⟩
  · simp only [hr]
  · simp only [hr]
  · simp only [hr, bankFree_of_held hb]
  · simp only [hr, bankFree_of_free hb]

/-- Elsewhere the region column decides; what passes it is translated. -/
theorem AccessAt.memory (h : AccessAt rights sn off n s ⟨a, false⟩) :
    (∀ e, (s.tile s.cur.1).rngRegion s.cur.2 a n (kindWriteP0 kind) = .violation e →
      p0Place rights kind sn off n op s = .error (rangeTrap e 0 a 0 s)) ∧
    ((s.tile s.cur.1).rngRegion s.cur.2 a n (kindWriteP0 kind) = .wait →
      p0Place rights kind sn off n op s = .error (s.park pGUARDWAIT)) ∧
    (∀ o, (s.tile s.cur.1).rngRegion s.cur.2 a n (kindWriteP0 kind) = .redirect o →
      (s.tile s.cur.1).bankHeld s.cur.2 o n = false →
      p0Place rights kind sn off n op s = .ok (⟨s.spPa s.cur.1 o, a⟩, s)) ∧
    ((s.tile s.cur.1).rngRegion s.cur.2 a n (kindWriteP0 kind) = .pass →
      p0Place rights kind sn off n op s = (p0Translate a kind n op s).map (fun q => (⟨q.1, a⟩, q.2))) := by
  obtain ⟨hv, hc, ha⟩ := h
  simp only [p0Place, p0PlaceAt, seg_of_ok hc, aligned_of_dvd ha, bind, Except.bind, Bool.false_eq_true, if_false, hv]
  refine ⟨fun e hr => ?_, fun hr => ?_, fun o hr hb => ?_, fun hr => ?_⟩
  · simp only [hr]
  · simp only [hr]
  · simp only [hr, bankFree_of_free hb]
  · simp only [hr]
    rfl

/-! ### Order 7 of R228: translation -/

theorem translate_of_tlbLookup {t asid la : Nat} {x : TlbEntry} (h : s.tlbLookup t asid la kind = some x) :
    s.translate t asid la kind = (.ok (s.canon (x.frame + la % 2 ^ leafBits x.level)) x.level, s) := by
  simp only [State.translate, h]

theorem translate_of_walkFault {t asid la e l d r : Nat} (h : s.tlbLookup t asid la kind = none)
    (hs : (kindWrites kind && s.swept asid la) = false)
    (hw : s.walk (vdOf t) asid la kind (fun b => (s.tile t).nodeAt asid la b) = .fault e l d r) :
    s.translate t asid la kind = (.fault e l d r, s.dropNodes t asid la) := by
  simp only [State.translate, h, hs, hw, Bool.false_eq_true, if_false]

theorem p0Translate_of_tlbLookup {la : Nat} {x : TlbEntry} (h : s.tlbLookup s.cur.1 s.th.asid la kind = some x) :
    p0Translate la kind n op s =
      let pa := s.canon (x.frame + la % 2 ^ leafBits x.level)
      if s.decodes (vdOf s.cur.1) pa ∧ p0Reaches pa kind n op then .ok (pa, s) else .error (faultPark la x.level 7 0 pPAGE kind s) := by
  simp only [p0Translate, portTranslate, translate_of_tlbLookup h, Bool.and_eq_true]

theorem p0Translate_of_walkFault {la e l d r : Nat} (h : s.tlbLookup s.cur.1 s.th.asid la kind = none)
    (hs : (kindWrites kind && s.swept s.th.asid la) = false)
    (hw : s.walk (vdOf s.cur.1) s.th.asid la kind (fun b => (s.tile s.cur.1).nodeAt s.th.asid la b) = .fault e l d r) :
    p0Translate la kind n op s = .error (faultPark la l e d r kind (s.dropNodes s.cur.1 s.th.asid la)) := by
  simp only [p0Translate, portTranslate, translate_of_walkFault h hs hw]

end

/-- Settles O11: the conditions are `segCheck_conditions`, and each order of R228 is one of the lemmas above. -/
theorem segmentAndAccessChecks : Obligations.SegmentAndAccessChecks := by
  unfold Obligations.SegmentAndAccessChecks
  refine ⟨fun rights g spbase spsize off n _ => segCheck_conditions rights g spbase spsize off n,
    fun rights kind sn off n op s hv => ⟨fun e hc => p0Place_of_segError hc, fun q hc ha => p0Place_of_misaligned hc ha, ?_, ?_⟩⟩
  · rintro ⟨a, _⟩ hc ha rfl
    exact AccessAt.scratchpad ⟨hv, hc, ha⟩
  · rintro ⟨a, _⟩ hc ha rfl
    obtain ⟨hviolation, hwait, hredirect, hpass⟩ := AccessAt.memory (kind := kind) (op := op) ⟨hv, hc, ha⟩
    refine ⟨hviolation, hwait, hredirect, fun hr => ⟨fun x hx => ?_, fun e l d r hx hs hw => ?_⟩⟩
    · rw [hpass hr, p0Translate_of_tlbLookup hx]
      simp only
      split <;> rfl
    · rw [hpass hr, p0Translate_of_walkFault hx hs hw]
      rfl

end Sys2Proof.Machine
end

section
/-! O56: a step runs what it fetches, and performs the event drawn with its own operands.

The step of a tile's turn goes through `State.prepare`; for a slot with nothing pending (`State.Unhindered`) that is the fetch and the
decoder, and a thread without a mismatch takes the instruction's outcome as it is. The word fetched is then read off `State.fetch`. -/

namespace Sys2Proof.Machine
open Sys2Proof

/-! ### Issue -/

/-- Slot k of tile t has its turn, and its YIELD is over. -/
def State.issuing (s : State) (t k : Nat) : State := ({ s with cur := (t, k) } : State).modTh (fun h => { h with yielded := false })

/-- Nothing comes before the fetch of slot k of tile t: no cause is pending, its thread is at home, none of its engine commands has
stopped, and no load is to be issued again. -/
structure State.Unhindered (s : State) (t k : Nat) : Prop where
  noCause : (s.issuing t k).th.hasCause = false
  home : (s.issuing t k).th.isVisitor = false
  noStop : (s.issuing t k).engStopped t k = none
  noRedo : (s.issuing t k).th.redo = []

section
variable {s u : State} {t k w : Nat}

theorem State.Unhindered.prepare_decoded {i : Instr} (h : s.Unhindered t k) (hf : (s.issuing t k).fetch = .ok (w, u))
    (hd : decodeWord w = .ok i) : s.prepare t k = .ok (w, i, u) := by
  obtain ⟨hc, hv, hs, hr⟩ := h
  unfold State.issuing at hc hv hs hr hf
  simp only [State.prepare, hc, hv, hs, hr, hf, bind, Except.bind, hd, Bool.false_eq_true, if_false]

theorem State.Unhindered.prepare_illegal {e : Reject} (h : s.Unhindered t k) (hf : (s.issuing t k).fetch = .ok (w, u))
    (hd : decodeWord w = .error e) : s.prepare t k = .error (u.trap tILL 0 (BitVec.ofNat 32 w)) := by
  obtain ⟨hc, hv, hs, hr⟩ := h
  unfold State.issuing at hc hv hs hr hf
  simp only [State.prepare, hc, hv, hs, hr, hf, bind, Except.bind, hd, Bool.false_eq_true, if_false]

/-- A thread that meets no mismatch takes every outcome as it is (R209). -/
theorem checker_of_agreement (o : Out) (h : u.th.mismatch = 0) : checker w u o = o := by
  cases o <;> simp [checker, h]

theorem stepSlot_of_decoded {i : Instr} (h : s.prepare t k = .ok (w, i, u)) (hm : u.th.mismatch = 0) :
    stepSlot t k s = afterIssue t k (exec i u) := by
  simp only [stepSlot, h, checker_of_agreement _ hm]

theorem stepSlot_of_stopped (h : s.prepare t k = .error u) : stepSlot t k s = .next (u.noteIssue t k) := by
  simp only [stepSlot, h, afterIssue]

end

theorem step_of_tile_turn {s : State} {t k : Nat} {rest : List Turn} (ha : s.agenda = .tile t :: rest) (ht : isComputeTile t = true)
    (hp : ({ s with agenda := rest } : State).prompt (fun x => x == t) = none)
    (hk : ({ s with agenda := rest } : State).canIssue t = some k) : step s = stepSlot t k { s with agenda := rest } := by
  simp only [step, ha, ht, if_true, stepTurn, hp, stepTile, hk]

theorem step_of_event_turn {s : State} {n m : Nat} {rest : List Turn} {e : Ev} (ha : s.agenda = .event n :: rest)
    (hc : ({ s with agenda := rest } : State).choose n = some m) (he : s.pool[m]? = some e) :
    step s = exec e.i { s with agenda := rest, pool := s.pool.eraseIdx m, arg := e.arg } := by
  simp only [step, ha, stepChoice, hc, stepEvent, he]

/-! ### Fetch -/

section
variable {s u : State} {p : Place} {pa w : Nat}

theorem dropNodes_ecc (t asid la : Nat) : (u.dropNodes t asid la).ecc = u.ecc := by
  unfold State.dropNodes
  simp only
  split <;> rfl

theorem dropNodes_pkg (t asid la : Nat) : (u.dropNodes t asid la).pkg = u.pkg := by
  unfold State.dropNodes
  simp only
  split <;> rfl

theorem dropNodes_eccBad (t asid la n : Nat) : (u.dropNodes t asid la).eccBad pa n = u.eccBad pa n := by
  simp only [State.eccBad, dropNodes_ecc]

theorem dropNodes_afar (t asid la : Nat) : (u.dropNodes t asid la).afar pa = u.afar pa := by
  simp only [State.afar, dropNodes_pkg]

theorem wordCheck_of_good (h : u.eccBad pa 4 = false) : u.wordCheck pa = u.readCheck pa 4 (u.ctxName u.cur.1 u.cur.2) := by
  simp [State.wordCheck, h]

theorem leNat_lt (l : List Byte) : leNat l < 256 ^ l.length := by
  induction l with
  | nil => simp [leNat]
  | cons b bs ih =>
    have hb := b.isLt
    simp only [leNat, List.length_cons, pow_succ]
    omega

theorem rdLE_lt (m : Memory) (a n : Nat) : rdLE m a n < 256 ^ n := by
  simpa [rdLE] using leNat_lt (rdBytes m a n)

theorem fetch_of_misaligned (hs : seg rFetch 7 s.th.pc.toNat 4 s = .ok p) (hpc : s.th.pc.toNat % 4 ≠ 0) :
    s.fetch = .error (s.trap tALIGN 0 s.th.pc) := by
  simp [State.fetch, hs, bind, Except.bind, hpc]

/-- A fetch through memory takes the word its home keeps or has sent, where it is neither poisoned nor refused. -/
theorem fetch_of_nodeWord (hs : seg rFetch 7 s.th.pc.toNat 4 s = .ok p) (hpc : s.th.pc.toNat % 4 = 0) (hp : p.sp = false)
    (ht : p0Translate p.at_ 0 4 0 s = .ok (pa, u)) (hr : u.fetchRefused pa = none)
    (hw : u.nodeWord (fun a => (u.tile s.cur.1).nodeAt (512 + s.cur.2) p.at_ a) pa 4 = some w) (hlt : w < 2 ^ 32) :
    s.fetch = .ok (w, let v := u.dropNodes s.cur.1 (512 + s.cur.2) p.at_; if v.afar pa then v else v.wordCheck pa) := by
  unfold State.fetch
  extract_lets h blocked t k v
  rw [show seg rFetch 7 h.pc.toNat 4 s = .ok p from hs]
  -- taken apart by hand: `simp` here has the kernel count `w - 2 ^ 64` down
  show ite _ _ _ = _
  rw [if_neg (by simp [h, hpc]), if_neg (by simp [hp])]
  split
  next he => cases he.symm.trans ht
  next he =>
    cases he.symm.trans ht
    extract_lets trapRange
    clear_value trapRange
    split
    next he => cases he.symm.trans hr
    next =>
      split
      next he => cases he.symm.trans hw
      next he =>
        cases he.symm.trans hw
        rw [if_neg (by omega), if_neg (by omega)]

end

/-- Settles O56: `prepare` is the fetch and the decoder, and `fetch` gives the word at the translated address. -/
theorem stepRunsDecoded : Obligations.StepRunsDecoded := by
  unfold Obligations.StepRunsDecoded
  intro s t k rest
  refine ⟨?_, ?_, fun p => fetch_of_misaligned, fun n m e => step_of_event_turn⟩
  · intro s0 s1 ha ht hp hk hc hv hs hr w u hf
    have hfree : s0.Unhindered t k := ⟨hc, hv, hs, hr⟩
    rw [step_of_tile_turn ha ht hp hk]
    refine ⟨fun i hd hm => ?_, fun e hd => stepSlot_of_stopped (hfree.prepare_illegal hf hd)⟩
    rw [stepSlot_of_decoded (hfree.prepare_decoded hf hd) hm]
    refine ⟨fun v he => ?_, fun f he => ?_, fun f he => ?_⟩ <;> rw [he] <;> rfl
  · intro p pa u hs hpc hp ht hr v
    refine ⟨fun hnear hgood => ?_, fun w hafar hsent hlt => ?_⟩
    · have hword : u.nodeWord (fun a => (u.tile s.cur.1).nodeAt (512 + s.cur.2) p.at_ a) pa 4 = some (rdLE u.mem pa 4) := by
        simp [State.nodeWord, hnear, hgood]
      rw [fetch_of_nodeWord hs hpc hp ht hr hword (rdLE_lt _ _ _)]
      simp only [dropNodes_afar, hnear, Bool.false_eq_true, if_false, v]
      rw [wordCheck_of_good (by rw [dropNodes_eccBad, hgood])]
    · have hword : u.nodeWord (fun a => (u.tile s.cur.1).nodeAt (512 + s.cur.2) p.at_ a) pa 4 = some w := by
        simp [State.nodeWord, hafar, hsent]
      rw [fetch_of_nodeWord hs hpc hp ht hr hword hlt]
      simp only [dropNodes_afar, hafar, if_true, v]

end Sys2Proof.Machine
end

section
/-! O42: its last clause is refuted. A step of a sweep that has copied a page moves every sweep of its channel on, each past what it has
placed itself; the clause writes `w.placed`, of the first sweep, for all of them. The two differ where a channel has two sweeps. A descriptor
for a busy channel waits, so `twoSweeps` is no state of a run from reset: the clause would hold with `x.placed`, as in
`checkpointSweep_of_copied`. -/

namespace Sys2Proof.Machine
open Sys2Proof

/-- Where a page is copied and the answer with its byte of the bitmap is there, bit i is set and written back, and the sweeps of the channel
go on to the next entry, each past the page it has placed (R344). -/
theorem checkpointSweep_of_copied {s : State} {w : Sweep} {bs : List Byte} (hok : s.arg.ok = false) (hk : s.arg.k ≠ 0)
    (hw : (s.die (iodVd s.arg.t)).sweeps.find? (fun w => w.eng == s.arg.n) = some w) (hstage : w.stage = 4)
    (hbusy : s.unitBusy (sweepUnit (iodVd s.arg.t) s.arg.n w) = false)
    (hgot : s.unitGot (sweepUnit (iodVd s.arg.t) s.arg.n w) (s.canon (swBmap w.desc.toNat + w.i / 8)) = some (bs, 0)) :
    exec .checkpointSweep s =
      .next (((s.sweepOn (iodVd s.arg.t) s.arg.n w (fun x => { x with
          i := x.i + 1, stage := 0, pages := [], placed := x.placed + 2 ^ (w.pages.headD (0, 0, 12)).2.2 })).unitPut
        (sweepUnit (iodVd s.arg.t) s.arg.n w) (s.canon (swBmap w.desc.toNat + w.i / 8)) 0
        (leBytes 1 (leNat (bs.take 1) - (leNat (bs.take 1) / 2 ^ (w.i % 8) % 2) * 2 ^ (w.i % 8) + 2 ^ (w.i % 8)))).sweepWake) := by
  simp only [exec, execCheckpointSweep, checkpointSweep, hok, hk, State.sweepStep, hw, hstage, State.sweepBit, hbusy, hgot,
    Bool.not_false, if_true, if_false]
  simp [b2n]

/-- A sweep of channel 3 whose page of 4 KiB is copied, with `n` bytes placed before it. -/
def copiedSweep (n : Nat) : Sweep := { eng := 3, desc := 0, stage := 4, pages := [(0, 0, 12)], placed := n }

/-- vd8 holds two such sweeps, which have placed 0 and 4,096 bytes, and the answer to their read of the bitmap; channel 3 goes on. -/
def twoSweeps : State :=
  { State.reset.modDie 8 (fun D => { D with
      sweeps := [copiedSweep 0, copiedSweep 0x1000]
      outs := [⟨35, 1, 5, 0, 1, 0, noCtx, false, sweepGo 8 3, some ([0], 0)⟩] }) with
    arg := { t := 0, n := 3, k := 9, ok := false } }

/-- The bytes that the sweeps of vd8 have placed in the next state. -/
def placedNext : Out → List Nat
  | .next s => (s.die 8).sweeps.map (·.placed)
  | _ => []

theorem placedNext_twoSweeps : placedNext (exec .checkpointSweep twoSweeps) = [0x1000, 0x2000] := by
  rw [checkpointSweep_of_copied (w := copiedSweep 0) (bs := [0]) rfl (by decide) (by decide +kernel) rfl (by decide +kernel) (by decide +kernel)]
  decide +kernel

/-- Refutes O42: of `twoSweeps` the model's step makes 4,096 and 8,192 bytes placed, the last clause 4,096 and 4,096. -/
theorem not_walkAndInvalidationEvents : ¬ Obligations.WalkAndInvalidationEvents := by
  unfold Obligations.WalkAndInvalidationEvents
  intro h
  obtain ⟨-, -, -, -, -, -, -, -, hsweep⟩ := h twoSweeps
  obtain ⟨-, hbit⟩ := hsweep (copiedSweep 0) [0] 0 rfl (by decide) (by decide +kernel)
  have hplaced := congrArg placedNext (hbit rfl (by decide +kernel) (by decide +kernel) rfl)
  rw [placedNext_twoSweeps] at hplaced
  exact absurd hplaced (by decide +kernel)

end Sys2Proof.Machine
end

section
/-! O32: an engine command of a thread that order 1 of R252 lets go on passes its checks, and takes effect on the state after its commit. -/

namespace Sys2Proof.Machine
open Sys2Proof

section
variable {s t : State} {i : Instr} {a : Src} {x : Word}

/-! ### What an engine command's checks answer -/

theorem CmdReady.shadow_none (h : CmdReady s) : s.th.shadow = none := by
  obtain ⟨-, hs, -⟩ := h
  exact hs

theorem cmdEnter_of_ready (hr : CmdReady s) (hp : stPP s.th.st = false) : cmdEnter i false s = .ok () := by
  obtain ⟨hv, hs, hc, ht, hq⟩ := hr
  have henter : enter i .engine false 0 s = .ok () := by simp [enter, hv, hs, hp, ht]
  have hfree : ((s.tile s.cur.1).mq ++ (s.tile s.cur.1).vq).any (fun c => c.slot == s.cur.2 && c.op != 7 && c.held s) = false := by
    rw [List.any_eq_false]
    exact fun c hc => by simpa using hq c hc
  simp [cmdEnter, henter, hc, hfree, bind, Except.bind]

theorem illWord_of_good : illWord i false s = .ok () := rfl

theorem destLaterPair_of_laterReady {d : Reg} (hd : LaterReady d s) (hh : LaterReady (pairHi d) s) : destLaterPair i d s = .ok () := by
  obtain ⟨hc, hp⟩ := (laterReady_iff d s).mp hd
  obtain ⟨hc', hp'⟩ := (laterReady_iff _ s).mp hh
  have hd : d ≠ 0 → wbit s.th.prod d.toNat = false := hp.resolve_left
  have hh : pairHi d ≠ 0 → wbit s.th.prod (pairHi d).toNat = false := hp'.resolve_left
  simp only [destLaterPair, hc, hc', Bool.not_false, Bool.true_and, Bool.or_self, Bool.false_eq_true, if_false]
  rw [if_neg]
  simpa using ⟨hd, hh⟩

/-- A command off a predicted path that is accepted by its engine takes effect on the state after its commit. -/
theorem submit_of_accepted {srcs : List Src} {d : Deferred} {go : State → Option State} (hs : s.th.shadow = none)
    (hgo : go ((consume srcs s).modTh (fun h => h.commit)) = some t) : submit false srcs d go s = .ok t := by
  unfold submit
  rw [if_neg (by simp [hs])]
  split
  next u hu =>
    cases hu.symm.trans hgo
    rfl
  next hu => cases hu.symm.trans hgo

theorem cur_modTh_consume (srcs : List Src) (f : Slot → Slot) : ((consume srcs s).modTh f).cur = s.cur := (consume_cur srcs s).1

/-! ### The ladle commands -/

theorem wfld_channel (x : Word) : wfld x 0 1 = x.toNat % 2 := by
  simp [wfld, nfld]

theorem wfld_above {n w : Nat} (h : x.toNat < 2 ^ n) : wfld x n w = 0 := by
  simp [wfld, nfld, Nat.div_eq_of_lt h]

theorem ladleIssue_of_accepted {dir gather : Bool} (hr : CmdReady s) (hp : stPP s.th.st = false) (hx : Delivers [a] a.r s x) (hlt : x.toNat < 4) {c : Copy}
    (hc : s.newCopy (captureSet (64 * (x.toNat / 2)) s.th) ((s.tile s.cur.1).ladle (x.toNat % 2)).next = c)
    (hdir : c.drain = dir) (hgather : c.gather = gather) (hill : c.ill = false) (hok : copyChecks c 1 true s = .ok ())
    (hgo : ((consume [a] s).modTh (fun h => h.commit)).ladleAccept s.cur.1 (x.toNat % 2) c = some t) :
    ladleIssue i dir gather a s = .ok t := by
  have hset : wfld x 1 1 = x.toNat / 2 := by
    simp only [wfld, nfld]
    omega
  simp only [ladleIssue, cmdEnter_of_ready hr hp, hx i, bind, Except.bind, wfld_channel, hset, wfld_above (n := 2) hlt, illWord_of_good, hc, hdir, hgather, hill,
    hok, bne_self_eq_false, Bool.or_self]
  exact submit_of_accepted hr.shadow_none hgo


theorem ladleAccept_of_room {u : State} {t ch : Nat} {c : Copy} (h : ((u.tile t).ladle ch).full = false) :
    u.ladleAccept t ch c = some (((u.modSlot t c.slot (fun h => { h with qx := mset 0 h.qx 2 0 })).modLadle t ch
      (fun L => { L with waiting := L.waiting ++ [{ c with seq := L.next }], next := (L.next + 1) % 2 ^ 16 })).emitOnce (evTK .ladleCopyStart t ch)) := by
  simp [State.ladleAccept, h]

theorem lwptr_of_ready {d : Reg} (hr : CmdReady s) (hp : stPP s.th.st = false) (hx : Delivers [a] a.r s x) (hlt : x.toNat < 2)
    (hd : LaterReady d s) (hh : LaterReady (pairHi d) s) :
    lwptr i a d s = .ok (((consume [a] s).modTh (fun h => h.commit)).sampleWptr s.cur.1 s.cur.2 d.toNat (x.toNat % 2)) := by
  simp [lwptr, cmdEnter_of_ready hr hp, hx i, destLaterPair_of_laterReady hd hh, bind, Except.bind, wfld_channel, wfld_above (n := 1) hlt, illWord_of_good, hr.shadow_none, commitNow]

theorem lcancel_of_ready (hr : CmdReady s) (hp : stPP s.th.st = false) (hx : Delivers [a] a.r s x) (hlt : x.toNat < 2) :
    lcancel i a s = .ok (((consume [a] s).modTh (fun h => h.commit)).ladleCancel s.cur.1 s.cur.2 (x.toNat % 2)) := by
  simp only [lcancel, cmdEnter_of_ready hr hp, hx i, bind, Except.bind, wfld_channel, wfld_above (n := 1) hlt, illWord_of_good, bne_self_eq_false]
  exact submit_of_accepted hr.shadow_none (by rw [cur_modTh_consume])

theorem ladleCancel_of_own {u : State} {t k ch : Nat} {q : Copy} (hq : ((u.tile t).ladle ch).active = some q)
    (hcrew : q.crew = (u.slot t k).crewid) (herr : q.err = 0) (hk : q.k < q.total) :
    u.ladleCancel t k ch = (u.modLadle t ch (fun L => { L with active := some { q with err := 5, stopped := 0 } })).emitOnce (evTK .ladleCopyEnd t ch) := by
  simp [State.ladleCancel, hq, hcrew, herr, hk, eCANCEL]

end

/-- Settles O32: a command that passes its checks is accepted where its channel has room, LWPTR samples at its commit, and LCANCEL finds a copy of
its own crew. -/
theorem ladleInstructions : Obligations.LadleInstructions := by
  unfold Obligations.LadleInstructions
  intro s a d x hr hp hx t k ch c u joined
  refine ⟨fun hlt hill hok hroom => ?_, fun hlt hd hh => congrArg finish (lwptr_of_ready hr hp hx hlt hd hh), fun q hlt hq hcrew herr hk => ?_⟩
  · have hgo : u.ladleAccept t ch c = some joined := ladleAccept_of_room hroom
    refine ⟨fun hdir hgather => ?_, fun hdir hgather => ?_, fun hdir hgather => ?_⟩ <;>
      exact congrArg finish (ladleIssue_of_accepted hr hp hx hlt rfl hdir hgather hill hok hgo)
  · rw [← ladleCancel_of_own hq hcrew herr hk]
    exact congrArg finish (lcancel_of_ready hr hp hx hlt)

end Sys2Proof.Machine
end

section
/-! A write performed at a home, with the watches it fires and the messages these send, ends no reservation (R99). -/

namespace Sys2Proof.Machine
open Sys2Proof

/-- The reservations of each die are those that l names. -/
def State.HasResvs (l : Nat → List Resv) (s : State) : Prop := ∀ d, (s.die d).resvs = l d

section
variable {s u : State} {l : Nat → List Resv}

theorem State.hasResvs_self (s : State) : s.HasResvs (fun d => (s.die d).resvs) :=
  fun _ => rfl

theorem State.HasResvs.of_dies (h : s.HasResvs l) (e : u.dies = s.dies) : u.HasResvs l := by
  intro d
  rw [← h d, State.die, State.die, e]

theorem State.HasResvs.modDie {vd : Nat} {f : Die → Die} (h : s.HasResvs l) (hf : ∀ D, (f D).resvs = D.resvs) : (s.modDie vd f).HasResvs l := by
  intro d
  by_cases hd : d = vd
  · subst hd
    rw [State.die_modDie, hf, h d]
  · rw [State.die_modDie_other s f hd, h d]

/-! ### Messages -/

theorem State.HasResvs.msix {vd vec} (h : s.HasResvs l) : (s.msix vd vec).HasResvs l := by
  unfold State.msix
  split
  · refine h.modDie fun D => ?_
    split <;> rfl
  · exact h.of_dies rfl

theorem State.HasResvs.reportUc {vd} (h : s.HasResvs l) : (s.reportUc vd).HasResvs l := by
  unfold State.reportUc
  extract_lets up
  exact .msix (.msix (h.of_dies rfl))

theorem State.HasResvs.logError {vd bank uc cause addr ctx} (h : s.HasResvs l) : (s.logError vd bank uc cause addr ctx).HasResvs l := by
  unfold State.logError
  extract_lets D T T1 s1
  have hs1 : s1.HasResvs l := h.modDie (f := fun D => D.putBank bank T1) fun _ => rfl
  split
  · exact hs1.reportUc
  · exact hs1

theorem dies_transmit (s : State) (key vc : Nat) (cells : List Cell) : (s.transmit key vc cells).dies = s.dies := by
  unfold State.transmit
  extract_lets L seqs s1
  split
  · unfold State.armReplay
    extract_lets s2
    split <;> rfl
  · rfl

theorem dies_drainSome (f key : Nat) (s : State) : (s.drainSome f key).dies = s.dies := by
  induction f generalizing s with
  | zero => rfl
  | succ f ih =>
    unfold State.drainSome
    split
    · rfl
    · split
      · rfl
      · rw [ih, dies_transmit]

theorem dies_toLink (s : State) (key : Nat) (i : Instr) (m : Msg) : (s.toLink key i m).dies = s.dies := by
  unfold State.toLink State.drainLink
  split
  · rw [dies_drainSome]
  · rfl

theorem dies_pass {vd : Nat} {transit : Bool} {i : Instr} {m : Msg} (h : s.pass vd transit i m = .ok u) : u.dies = s.dies := by
  unfold State.pass at h
  split at h <;> cases h
  · rfl
  · exact dies_toLink ..

theorem State.HasResvs.sendFrom {vd transit vc i m} (h : s.HasResvs l) : (s.sendFrom vd transit vc i m).HasResvs l := by
  unfold State.sendFrom
  split
  next hp => exact h.of_dies (dies_pass hp)
  next =>
    split
    · split
      next hp =>
        split at hp
        · exact h.of_dies (dies_pass hp)
        · exact h.of_dies (dies_pass hp)
      next => exact h.logError
    · exact h.logError

theorem State.HasResvs.send {vc i m} (h : s.HasResvs l) : (s.send vc i m).HasResvs l :=
  h.sendFrom

/-! ### A write at a home -/

theorem dies_homeWrite (s : State) (pa : Nat) (bs : List Byte) : (s.homeWrite pa bs).dies = s.dies := by
  unfold State.homeWrite
  split
  · rfl
  · extract_lets n s1
    split <;> rfl

theorem State.HasResvs.fireWatches {pa n} (h : s.HasResvs l) : (s.fireWatches pa n).HasResvs l := by
  unfold State.fireWatches
  extract_lets vd hit again hit' ws s1
  split
  · have hu : (s.modDie vd (fun D => { D with watches := D.watches.filter (fun w => !hit w) })).HasResvs l := h.modDie fun _ => rfl
    exact hu.of_dies (State.emits_dies ..)
  · have hs1 : s1.HasResvs l := h.modDie fun _ => rfl
    exact List.foldlRecOn (motive := State.HasResvs l) ws _ hs1 fun _ hu _ _ => hu.send

theorem State.HasResvs.performOut {vd pa bs} (h : s.HasResvs l) : (s.performOut vd pa bs).HasResvs l := by
  unfold State.performOut
  extract_lets s1
  have hs1 : s1.HasResvs l := by
    unfold s1
    split <;> exact h.of_dies rfl
  exact State.HasResvs.fireWatches (hs1.of_dies (dies_homeWrite ..))

/-! ### The die of an address -/

theorem hdmMatch_of_mmio (h : u.mmio = s.mmio) (iod d a : Nat) : u.hdmMatch iod d a = s.hdmMatch iod d a := by
  have hget : u.mmioGet = s.mmioGet := by
    funext key
    simp only [State.mmioGet, h]
  unfold State.hdmMatch
  rw [hget]

theorem hdmDecode_of_mmio (h : u.mmio = s.mmio) (a : Nat) : u.hdmDecode a = s.hdmDecode a := by
  simp only [State.hdmDecode, hdmMatch_of_mmio h]

theorem watchDie_of_mmio (h : u.mmio = s.mmio) (pa : Nat) : u.watchDie pa = s.watchDie pa := by
  simp only [State.watchDie, hdmDecode_of_mmio h]

theorem watchDie_of_space {pa : Nat} (h : spaceOf pa ≠ 1) : u.watchDie pa = s.watchDie pa := by
  unfold State.watchDie
  split
  · rfl
  · rfl
  next hs => exact absurd hs h
  · rfl

/-- The die that keeps a word's reservations is the same after a write: a decoder of CXL addresses could only change it by an error that a
message of a watch records, and no watch of CXL memory sends one. -/
theorem watchDie_performOut (s : State) (vd pa : Nat) (bs : List Byte) : (s.performOut vd pa bs).watchDie pa = s.watchDie pa := by
  by_cases hs : spaceOf pa = 1
  · refine watchDie_of_mmio ?_ pa
    have ho : outside pa = true := by simp [outside, hs]
    simp [State.performOut, State.perform, State.homeWrite, State.fireWatches, hs, ho, State.ethOut]
  · exact watchDie_of_space hs

end

end Sys2Proof.Machine
end

section
/-! O34: what each request does once `atHome` has let it through and no locked bank holds it. -/

namespace Sys2Proof.Machine
open Sys2Proof

/-- The package holds the byte: memory of a package or a tile's scratchpad (spaces 0, 3 and 4). -/
def InStorage (pa : Nat) : Prop := spaceOf pa = 0 ∨ spaceOf pa = 3 ∨ spaceOf pa = 4

section
variable {s : State} {pa n : Nat} {i : Instr}

theorem bankWait_of_space (h : spaceOf pa ≠ 3) : bankWait i pa n s = .ok () := by
  simp [bankWait, h]

theorem InStorage.not_outside (h : InStorage pa) : outside pa = false := by
  rcases h with h | h | h <;> simp [outside, h]

theorem InStorage.performOut (h : InStorage pa) (vd : Nat) (bs : List Byte) : s.performOut vd pa bs = s.perform pa bs := by
  rcases h with h | h | h <;> simp only [State.performOut, h]

theorem performOut_of_host (h : spaceOf pa = 2) (vd : Nat) (bs : List Byte) : s.performOut vd pa bs = (s.hostOut (.pcieWrite vd pa bs)).perform pa bs := by
  simp only [State.performOut, h]

theorem ofNat_b2n (b : Bool) : BitVec.ofNat 32 (b2n b) = if b then 1 else 0 := by
  cases b <;> rfl

/-! ### RD -/

theorem rd_of_storage (hs : InStorage pa)
    (hh : atHome .rd (if s.fromManager s.msg then 4 else 0) (s.msg.len + 1) (s.byP0 s.msg) false s = .ok pa) (hb : bankWait .rd pa (s.msg.len + 1) s = .ok ()) :
    rd s = ((if s.badCells pa (s.msg.len + 1) = 0 then s else s.recordEcc pa (msgCtx s.msg)).scrub pa (s.msg.len + 1) (msgCtx s.msg)).readAnswer
      (rdBytes s.mem pa (s.msg.len + 1)) (s.badCells pa (s.msg.len + 1)) := by
  rcases hs with hs | hs | hs <;> simp only [rd, hh, hb, hs, bind, Except.bind, bne_iff_ne, ne_eq, ite_not]

theorem rd_of_mmio (hs : spaceOf pa = 5)
    (hh : atHome .rd (if s.fromManager s.msg then 4 else 0) (s.msg.len + 1) (s.byP0 s.msg) false s = .ok pa) :
    rd s = s.readAnswer (leBytes (s.msg.len + 1) (s.mmioRead pa (s.msg.len + 1))) 0 := by
  have hb : bankWait .rd pa (s.msg.len + 1) s = .ok () := bankWait_of_space (by omega)
  simp only [rd, hh, hb, hs, bind, Except.bind]

theorem rd_of_cxl (hs : spaceOf pa = 1)
    (hh : atHome .rd (if s.fromManager s.msg then 4 else 0) (s.msg.len + 1) (s.byP0 s.msg) false s = .ok pa) :
    rd s = s.ioAsk (eidDie s.msg.dst) .rd (fun tag u => u.ethOut (.cxlRead (eidDie s.msg.dst) tag pa (s.msg.len + 1))) := by
  have hb : bankWait .rd pa (s.msg.len + 1) s = .ok () := bankWait_of_space (by omega)
  simp only [rd, hh, hb, hs, bind, Except.bind]

theorem rd_of_host (hs : spaceOf pa = 2)
    (hh : atHome .rd (if s.fromManager s.msg then 4 else 0) (s.msg.len + 1) (s.byP0 s.msg) false s = .ok pa) :
    rd s = s.ioAsk (eidDie s.msg.dst) .rd (fun tag u => u.hostOut (.pcieRead (eidDie s.msg.dst) tag pa (s.msg.len + 1))) := by
  have hb : bankWait .rd pa (s.msg.len + 1) s = .ok () := bankWait_of_space (by omega)
  simp only [rd, hh, hb, hs, bind, Except.bind]

/-! ### WR -/

theorem wr_of_home (hs : spaceOf pa ≠ 5) (hh : atHome .wr 0 (s.msg.len + 1) false true s = .ok pa) (hb : bankWait .wr pa (s.msg.len + 1) s = .ok ()) :
    wr s = (s.performOut (eidDie s.msg.dst) pa (leBytes (s.msg.len + 1) s.msg.aux0.toNat)).answer .wrack id := by
  simp only [wr, hh, hb, hs, bind, Except.bind, if_false]

theorem wr_of_storage (hs : InStorage pa) (hh : atHome .wr 0 (s.msg.len + 1) false true s = .ok pa) (hb : bankWait .wr pa (s.msg.len + 1) s = .ok ()) :
    wr s = (s.perform pa (leBytes (s.msg.len + 1) s.msg.aux0.toNat)).answer .wrack id := by
  rw [wr_of_home (by rcases hs with hs | hs | hs <;> omega) hh hb, hs.performOut]

theorem wr_of_host (hs : spaceOf pa = 2) (hh : atHome .wr 0 (s.msg.len + 1) false true s = .ok pa) :
    wr s = ((s.hostOut (.pcieWrite (eidDie s.msg.dst) pa (leBytes (s.msg.len + 1) s.msg.aux0.toNat))).perform pa
      (leBytes (s.msg.len + 1) s.msg.aux0.toNat)).answer .wrack id := by
  rw [wr_of_home (by omega) hh (bankWait_of_space (by omega)), performOut_of_host hs]

/-! ### RSV and RSVREL -/

/-- The word is held for the message's sender. -/
def State.holdFor (s : State) (pa : Nat) (m : Msg) : State := s.modDie (s.watchDie pa) (fun D => { D with resvs := D.resvs ++ [⟨pa, m, []⟩] })

theorem rsv_of_storage (hs : InStorage pa) (hh : atHome .rsv 0 (s.msg.len + 1) false true s = .ok pa) (hb : bankWait .rsv pa (s.msg.len + 1) s = .ok ()) :
    rsv s = (((if s.eccBad pa (s.msg.len + 1) then s.recordEcc pa (msgCtx s.msg) else s).scrub pa (s.msg.len + 1) (msgCtx s.msg)).holdFor pa s.msg).answer .rsvgnt
      (fun r => { r with aux0 := BitVec.ofNat 64 (rdLE s.mem pa (s.msg.len + 1)), attr := if s.eccBad pa (s.msg.len + 1) then 1 else 0 }) := by
  rcases hs with hs | hs | hs <;> simp only [rsv, hh, hb, hs, bind, Except.bind, ofNat_b2n, State.holdFor]

theorem rsv_of_cxl (hs : spaceOf pa = 1) (hh : atHome .rsv 0 (s.msg.len + 1) false true s = .ok pa) :
    rsv s = (s.holdFor pa s.msg).ioAsk (eidDie s.msg.dst) .rsv (fun tag u => u.ethOut (.cxlRead (eidDie s.msg.dst) tag pa (s.msg.len + 1))) := by
  have hb : bankWait .rsv pa (s.msg.len + 1) s = .ok () := bankWait_of_space (by omega)
  simp only [rsv, hh, hb, hs, bind, Except.bind, State.holdFor]

theorem rsv_of_host {p : Pend} {rd op : Nat} {v e : Word} (hs : spaceOf pa = 2) (hh : atHome .rsv 0 (s.msg.len + 1) false true s = .ok pa)
    (hp : s.pendOf s.msg = some p) (hk : p.kind = .atomic rd op v e) :
    rsv s = (s.holdFor pa s.msg).ioAsk (eidDie s.msg.dst) .rsv (fun tag u => u.hostOut (.pcieAtomic (eidDie s.msg.dst) tag pa op v e)) := by
  have hb : bankWait .rsv pa (s.msg.len + 1) s = .ok () := bankWait_of_space (by omega)
  obtain ⟨tag, path, a, la, kind⟩ := p
  subst hk
  simp only [rsv, hh, hb, hs, hp, bind, Except.bind, State.holdFor]

/-- The reservation of a message's sender. -/
def isResvOf (pa : Nat) (m : Msg) (r : Resv) : Bool := r.pa == pa && r.holder.src == m.src && r.holder.slot == m.slot

theorem unreserve_of_held {u : State} {r : Resv} {m : Msg} {vd : Nat} (hvd : u.watchDie pa = vd) (hr : (u.die vd).resvs = [r]) (hm : isResvOf pa m r = true) :
    u.unreserve pa m = ({ u.modDie vd (fun D => { D with resvs := dropFirst (isResvOf pa m) D.resvs }) with pool := r.waiters ++ u.pool } : State).atomicDone r.holder := by
  unfold isResvOf at hm
  subst hvd
  simp only [State.unreserve, hr, List.find?_cons, hm]
  rfl

theorem rsvrel_of_held {r : Resv} (hpa : pa = s.canon s.msg.pa) (hr : (s.die (s.watchDie pa)).resvs = [r]) (hm : isResvOf pa s.msg r = true) :
    rsvrel s = (if wbit s.msg.attr 0 then s.performOut (eidDie s.msg.dst) pa (leBytes (r.holder.len + 1) s.msg.aux0.toNat) else s).unreserve pa s.msg := by
  subst hpa
  unfold isResvOf at hm
  simp only [rsvrel, hr, List.find?_cons, hm]

/-! ### CWPOST -/

theorem cwpost_of_home (hpa : pa = s.canon s.msg.pa) (hf : s.fwdWrite pa = none) (hd : s.decodes (eidDie s.msg.dst) pa = true) (hr : s.refuses 1 pa 8 false true = none)
    (hv : s.reserved pa 8 = false) (hb : bankWait .cwpost pa 8 s = .ok ()) (hs : InStorage pa) :
    cwpost s = if s.eccBad pa 8 then (s.recordEcc pa (msgCtx s.msg)).answer .wrack id
      else ((s.scrub pa 8 (msgCtx s.msg)).performOut (eidDie s.msg.dst) pa
        (leBytes 8 (postValue (rdLE s.mem pa 8) s.msg.aux0.toNat (s.msg.attr.getLsbD 0)))).answer .wrack id := by
  have hhost : (spaceOf pa == 2) = false := by rcases hs with hs | hs | hs <;> simp [hs]
  subst hpa
  simp only [cwpost, hf, hd, hr, hv, hb, hhost, hs.not_outside, wbit, Bool.not_true, Bool.false_and, Bool.or_self, Bool.false_eq_true, if_false]

/-! ### WRB -/

/-- Nothing refuses a run of a WRB's bytes, reserves a word of it or locks its bank (R69, R99, R298). -/
structure State.RunFree (s : State) (pa : Nat) (q : Nat × List Byte) : Prop where
  allowed : s.refuses 6 (pa + q.1) q.2.length false true = none
  unreserved : s.reserved (pa + q.1) q.2.length = false
  unlocked : spaceOf pa = 3 → pa.testBit 22 = false → (s.tile (eidTile (nfld pa 24 24))).bankHeld 8 (nfld pa 0 22 + q.1) q.2.length = false

theorem wrb_of_free {data : List Byte} {runs : List (Nat × List Byte)} (hpa : pa = s.canon s.msg.pa) (hmc : isMcUnit s.msg.dst = false) (hf : s.fwdWrite pa = none)
    (hset : s.settlingPart pa = false) (hd : s.decodes (eidDie s.msg.dst) pa = true) (hdata : damaged s.arg.bytes s.msg.data = data)
    (hruns : enabledRuns (wrbEnables s.msg) 257 0 data = runs) (hfree : ∀ q, q ∈ runs → s.RunFree pa q) :
    wrb s = ((runs.foldl (fun u q => u.performOut (eidDie s.msg.dst) (pa + q.1) q.2) s).poisonCells pa (s.msg.attr.toNat / 2 ^ 24 % 16)).answer .wrack
      (fun r => if s.arg.bytes ≠ [] ∧ crc32c data ≠ crc32c s.msg.data then { r with attr := 1 } else r) := by
  have hallowed : runs.findSome? (fun q => s.refuses 6 (pa + q.1) q.2.length false true) = none :=
    List.findSome?_eq_none_iff.mpr fun q hq => (hfree q hq).allowed
  have hunreserved : runs.find? (fun q => s.reserved (pa + q.1) q.2.length) = none :=
    List.find?_eq_none.mpr fun q hq => by simp [(hfree q hq).unreserved]
  have hunlocked : runs.any (fun q => decide (spaceOf pa = 3) && !pa.testBit 22 &&
      (s.tile (eidTile (nfld pa 24 24))).bankHeld 8 (nfld pa 0 22 + q.1) q.2.length) = false := by
    rw [List.any_eq_false]
    intro q hq
    simpa using (hfree q hq).unlocked
  have htag : (!s.arg.bytes.isEmpty && crc32c data != crc32c s.msg.data) = decide (s.arg.bytes ≠ [] ∧ crc32c data ≠ crc32c s.msg.data) := by
    rw [Bool.eq_iff_iff]
    simp
  have hpoison : wfld s.msg.attr 24 4 = s.msg.attr.toNat / 2 ^ 24 % 16 := rfl
  subst hpa
  simp only [wrb, hmc, hf, hset, hd, hdata, hruns, hallowed, hunreserved, hunlocked, htag, hpoison, Bool.not_true, Bool.false_eq_true, if_false, decide_eq_true_eq]

end

/-- Settles O34: each request by its lemma above. A release writes its word first; the reservation it ends is still there by
`State.HasResvs.performOut`. -/
theorem requestsPerformed : Obligations.RequestsPerformed := by
  unfold Obligations.RequestsPerformed
  intro s pa m n vd path local_
  refine ⟨fun hs hh hb => congrArg Host.Outcome.next (rd_of_storage hs hh hb), fun hs hh => congrArg Host.Outcome.next (rd_of_mmio hs hh),
    fun hs hh => congrArg Host.Outcome.next (rd_of_cxl hs hh), fun hs hh => congrArg Host.Outcome.next (rd_of_host hs hh),
    fun hs hh hb => congrArg Host.Outcome.next (wr_of_storage hs hh hb), fun hs hh => congrArg Host.Outcome.next (wr_of_host hs hh),
    fun hs hh hb => congrArg Host.Outcome.next (rsv_of_storage hs hh hb), fun hs hh => congrArg Host.Outcome.next (rsv_of_cxl hs hh),
    fun p rd op v e hs hh hp hk => congrArg Host.Outcome.next (rsv_of_host hs hh hp hk), ?_,
    fun hpa hf hd hr hv hb hs => congrArg Host.Outcome.next (cwpost_of_home hpa hf hd hr hv hb hs), ?_⟩
  · intro r hpa hr hrpa hsrc hslot freed
    have hm : isResvOf pa m r = true := by simp [isResvOf, hrpa, hsrc, hslot]
    have hrel := rsvrel_of_held hpa hr hm
    refine ⟨fun hw => congrArg Host.Outcome.next ?_, fun hw => congrArg Host.Outcome.next ?_⟩
    · have hw : wbit s.msg.attr 0 = false := hw
      rw [hrel, hw, if_neg (by simp)]
      exact unreserve_of_held rfl hr hm
    · have hw : wbit s.msg.attr 0 = true := hw
      have hkept : ((s.performOut vd pa (leBytes (r.holder.len + 1) m.aux0.toNat)).die (s.watchDie pa)).resvs = [r] :=
        (s.hasResvs_self.performOut _).trans hr
      rw [hrel, hw, if_pos rfl]
      exact unreserve_of_held (watchDie_performOut ..) hkept hm
  · intro hpa hmc hf hset hd data runs hfree
    refine congrArg Host.Outcome.next (wrb_of_free hpa hmc hf hset hd rfl rfl fun q hq => ?_)
    obtain ⟨hallowed, hunreserved, hunlocked⟩ := hfree q hq
    exact ⟨hallowed, hunreserved, hunlocked⟩

end Sys2Proof.Machine
end

section
/-! O35: its first clause is refuted. The package's memory list holds no byte of host memory or of a CXL device (spaces 1 and 2; log
entry 15), so a write there leaves as an output and reads back as before: `rdByte_perform` says at which places a write is read back. -/

namespace Sys2Proof.Machine
open Sys2Proof

section
variable {s : State} {pa : Nat} {bs : List Byte}

theorem mem_fireWatches (s : State) (pa n : Nat) : (s.fireWatches pa n).mem = s.mem := by
  unfold State.fireWatches
  extract_lets vd hit again hit' ws s1
  split
  · rw [State.emits_mem, State.modDie_mem]
  · obtain ⟨-, -, hmem, -⟩ := sameTiles_foldl _ (fun u (w : Watch) => sameTiles_send u .rsp .watchrsp
      { msgReply w.req with aux0 := BitVec.ofNat 64 (rdLE u.mem w.pa 8) }) ws s1
    rw [hmem, State.modDie_mem]

theorem mem_homeWrite (s : State) (pa : Nat) (bs : List Byte) : (s.homeWrite pa bs).mem = if outside pa then s.mem else wrBytes s.mem pa bs := by
  unfold State.homeWrite
  split
  · rfl
  · extract_lets n s1
    split <;> rfl

/-- A write performed at a home changes the bytes written and no other where the package holds them, and no byte it holds elsewhere. -/
theorem rdByte_perform (h : s.MemOk) (a : Nat) :
    rdByte (s.perform pa bs).mem a = if outside pa = false ∧ pa ≤ a ∧ a < pa + bs.length then bs.getD (a - pa) 0 else rdByte s.mem a := by
  rw [State.perform, mem_fireWatches, mem_homeWrite]
  cases outside pa
  · simpa using rdByte_wrBytes s.mem pa a bs h
  · simp

end

/-- Refutes O35: a byte 1 written to address 2^52, the first of CXL memory, reads 0 in the package's memory list as before. -/
theorem not_performedValues : ¬ Obligations.PerformedValues := by
  unfold Obligations.PerformedValues
  rintro ⟨hwrite, -⟩
  have hreset : State.reset.MemOk := Memory.wf_nil
  have hread := hwrite State.reset (2 ^ 52) (2 ^ 52) [1] hreset
  rw [rdByte_perform hreset] at hread
  exact absurd hread (by decide +kernel)

end Sys2Proof.Machine
end

section
/-! O40: each event of R51-R55 takes the branch that its clause's conditions choose. -/

namespace Sys2Proof.Machine
open Sys2Proof

/-- What a thread that leaves may not have outstanding: a P0 access, a producer of a register, a poisoned register (R51, R326). -/
structure Slot.Drained (h : Slot) : Prop where
  noAccess : ∀ p, p ∈ h.pend → p.path ≠ 0
  noProducer : h.prod = 0
  noPoison : h.poisoned = none

section
variable {s : State} {t k : Nat}

/-! ### Departure -/

theorem Slot.Drained.mayLeave {h : Slot} (hd : h.Drained) : (h.pend.any (fun p => p.path == 0) || h.prod != 0) = false := by
  simpa [hd.noProducer] using hd.noAccess

theorem visitorDepart_of_visitor {h : Slot} {dst pa la : Nat} (hs : s.slot s.arg.t s.arg.k = h) (hm : h.move = some (dst, pa, la)) (hd : h.Drained)
    (hv : h.isVisitor = true) :
    visitorDepart s = (s.vacateVisit s.arg.t s.arg.k).send .req .ctx
      (ctxMsg (s.tileEid s.arg.t) s.arg.k dst pa (spaceOf pa == 4) h.asid (h.packet h.origin h.grd none)) := by
  simp only [visitorDepart, hs, hm, hd.mayLeave, hd.noPoison, hv, Bool.false_eq_true, if_false, if_true]

theorem visitorDepart_of_origin {h : Slot} {dst pa la : Nat} (hs : s.slot s.arg.t s.arg.k = h) (hm : h.move = some (dst, pa, la)) (hd : h.Drained)
    (hv : h.isVisitor = false) :
    visitorDepart s = (s.modSlot s.arg.t s.arg.k (fun h => { (h.parkAs pVISITOR (s.clock (vdOf s.arg.t))) with occ := .reserved, move := none })).send .req .ctx
      (ctxMsg (s.tileEid s.arg.t) s.arg.k dst pa (spaceOf pa == 4) h.asid
        (h.packet (s.ctxName s.arg.t s.arg.k) ((s.tile s.arg.t).rng.any (fun e => e.mine s.arg.k && (e.pending || e.held))) none)) := by
  simp only [visitorDepart, hs, hm, hd.mayLeave, hd.noPoison, hv, Bool.false_eq_true, if_false]

/-! ### A context packet arrives -/

theorem ctx_of_origin (ho : ctxPkg (pkOrigin s.msg.data) = s.pkg) (hdst : s.msg.dst = ctxEid (pkOrigin s.msg.data))
    (hpark : stPARK (pkWord s.msg.data 4) = 0) :
    ctx s = s.homeAgain (ctxTile (pkOrigin s.msg.data)) (ctxSlot (pkOrigin s.msg.data)) s.msg := by
  simp [ctx, ho, ← hdst, hpark, pKILLED, pVISITOR, pTABLE, pPAGE]

/-- The context is for this tile to take in: it is not at its origin, and nothing of R16, R21 or R333 refuses it. -/
structure State.Welcome (s : State) : Prop where
  notHome : ¬(ctxPkg (pkOrigin s.msg.data) = s.pkg ∧ s.msg.dst = ctxEid (pkOrigin s.msg.data))
  compute : isComputeTile (s.ctxTarget s.msg) = true
  decoded : s.decodes (vdOf (s.ctxTarget s.msg)) (s.canon s.msg.pa) = true
  live : s.asidLive (vdOf (s.ctxTarget s.msg)) s.msg.asid = true
  present : s.partitionGone (s.ctxTarget s.msg) (s.canon s.msg.pa) = false
  settled : s.settlingPart (s.canon s.msg.pa) = false

/-- The slot a context may take at once: none while others wait. -/
def Tile.seat (T : Tile) : Option Nat := if T.visq.isEmpty then T.freeSlot else none

theorem Tile.seat_of_empty {T : Tile} (h : T.visq = []) : T.seat = T.freeSlot := by
  simp [Tile.seat, h]

theorem Tile.seat_none {T : Tile} (h : T.visq ≠ [] ∨ T.freeSlot = none) : T.seat = none := by
  rcases h with h | h <;> simp [Tile.seat, h]

theorem ctx_of_seat (hw : s.Welcome) (hk : (s.tile (s.ctxTarget s.msg)).seat = some k) : ctx s = s.visit (s.ctxTarget s.msg) k s.msg := by
  obtain ⟨hn, hc, hd, hl, hp, hs⟩ := hw
  unfold Tile.seat at hk
  simp only [ctx, Bool.and_eq_true, decide_eq_true_eq, hn, hc, hd, hl, hp, hs, hk, Bool.not_true, Bool.or_self, Bool.false_eq_true, if_false]

theorem ctx_of_noSeat (hw : s.Welcome) (hk : (s.tile (s.ctxTarget s.msg)).seat = none) :
    ctx s = if (s.tile (s.ctxTarget s.msg)).visq.length < 4 then
        (s.modTile (s.ctxTarget s.msg) (fun T => { T with visq := T.visq ++ [(s.clock (vdOf (s.ctxTarget s.msg)), s.msg)] })).after
          (vdOf (s.ctxTarget s.msg)) 16384 ⟨.visitorQueueTimeout, { msg := s.msg, t := s.ctxTarget s.msg }⟩
      else s.refuseCtx s.msg 0 := by
  obtain ⟨hn, hc, hd, hl, hp, hs⟩ := hw
  unfold Tile.seat at hk
  simp only [ctx, Bool.and_eq_true, decide_eq_true_eq, hn, hc, hd, hl, hp, hs, hk, Bool.not_true, Bool.or_self, Bool.false_eq_true, if_false]

/-! ### The visitor queue, refusals and returns -/

theorem seatVisitor_of_free {q : Nat × Msg} {rest : List (Nat × Msg)} (hq : (s.tile t).visq = q :: rest) (hk : (s.tile t).freeSlot = some k) :
    s.seatVisitor t = ((s.modTile t (fun T => { T with visq := rest })).unTimer ⟨.visitorQueueTimeout, { msg := q.2, t := t }⟩).visit t k q.2 := by
  simp [State.seatVisitor, hq, hk]

theorem visitorQueueTimeout_of_waiting (h : (s.tile s.arg.t).visq.any (fun q => q.2 == s.msg) = true) :
    visitorQueueTimeout s = (s.modTile s.arg.t (fun T => { T with visq := dropFirst (fun q => q.2 == s.msg) T.visq })).refuseCtx s.msg 1 := by
  simp only [visitorQueueTimeout, h, if_true]

theorem ctxref_of_reserved (h : (s.slot (s.msg.dst % 4096) s.msg.slot).occ = .reserved) :
    ctxref s = s.refusedAt (s.msg.dst % 4096) s.msg.slot (s.msg.attr.toNat % 4) := by
  have hstatus : wfld s.msg.attr 0 2 = s.msg.attr.toNat % 4 := by simp [wfld, nfld]
  simp [ctxref, State.dstTile, eidTile, h, hstatus]

theorem wakeIf_of_parked {reason : Nat} (hr : (s.slot t k).run = .parked) (hp : stPARK (s.slot t k).st = reason) :
    s.wakeIf t k reason = s.setSlot t k (s.slot t k).wake := by
  simp [State.wakeIf, hr, hp]

theorem visitorRetry_of_parked (ho : (s.slot s.arg.t s.arg.k).occ = .thread) (hr : (s.slot s.arg.t s.arg.k).run = .parked)
    (hp : stPARK (s.slot s.arg.t s.arg.k).st = pVISITOR) :
    visitorRetry s = s.setSlot s.arg.t s.arg.k (s.slot s.arg.t s.arg.k).wake := by
  simp only [visitorRetry, ho, if_true, wakeIf_of_parked hr hp]

theorem visitorQuantum_of_spent (hv : (s.slot s.arg.t s.arg.k).isVisitor = true) (hr : (s.slot s.arg.t s.arg.k).run = .ready)
    (hq : 4096 ≤ (s.slot s.arg.t s.arg.k).quantum) : visitorQuantum s = ({ s with cur := (s.arg.t, s.arg.k) } : State).goHome := by
  simp [visitorQuantum, hv, hr, hq]

end

/-- Settles O40: a drained thread leaves, a packet goes home or finds a seat, and the queue, a refusal and a retry each act on their slot. -/
theorem visitorEvents : Obligations.VisitorEvents := by
  unfold Obligations.VisitorEvents
  intro s m o
  refine ⟨?_, fun ho hdst hpark => congrArg Host.Outcome.next (ctx_of_origin ho hdst hpark), ?_,
    fun q rest k hq hk => congrArg (fun u : State => Host.Outcome.next (u.emitOnce capacityEvent)) (seatVisitor_of_free hq hk),
    fun h => congrArg Host.Outcome.next (visitorQueueTimeout_of_waiting h), fun h => congrArg Host.Outcome.next (ctxref_of_reserved h),
    fun ho hr hp => congrArg Host.Outcome.next (visitorRetry_of_parked ho hr hp),
    fun hv hr hq => congrArg Host.Outcome.next (visitorQuantum_of_spent hv hr hq)⟩
  · intro dst pa la t k h hm ha hp hn
    have hd : h.Drained := ⟨ha, hp, hn⟩
    exact ⟨fun hv => congrArg Host.Outcome.next (visitorDepart_of_visitor rfl hm hd hv),
      fun hv => congrArg Host.Outcome.next (visitorDepart_of_origin rfl hm hd hv)⟩
  · intro t pa hn hc hdec hl hg hs
    have hw : s.Welcome := ⟨hn, hc, hdec, hl, hg, hs⟩
    refine ⟨fun k hq hk => congrArg Host.Outcome.next (ctx_of_seat hw ((Tile.seat_of_empty hq).trans hk)), fun hfull => ?_⟩
    have hctx := ctx_of_noSeat hw (Tile.seat_none hfull)
    exact ⟨fun hlt => congrArg Host.Outcome.next (hctx.trans (if_pos hlt)),
      fun hle => congrArg Host.Outcome.next (hctx.trans (if_neg (Nat.not_lt.mpr hle)))⟩

end Sys2Proof.Machine
end

section
/-! What moving the bytes of a copy leaves alone: the ladle channels of every tile. A copy's run translates, checks, reads and writes, and of
a tile these change the slots, the TLB, the node reads, the violation log and the range table only.

As for the canonical form of memory, each function that gives a state has one lemma `State.HasLadles.f`. -/

namespace Sys2Proof.Machine
open Sys2Proof

/-- The ladle channels of each tile are those that l names. -/
def State.HasLadles (l : Nat → SMap Ladle) (s : State) : Prop := ∀ t, (s.tile t).ladles = l t

/-- The state beside an answer has these ladle channels. -/
def Beside (l : Nat → SMap Ladle) {α : Type} (r : α × State) : Prop := r.2.HasLadles l

section
variable {s u : State} {l : Nat → SMap Ladle}

theorem State.hasLadles_self (s : State) : s.HasLadles (fun t => (s.tile t).ladles) :=
  fun _ => rfl

theorem State.HasLadles.of_tiles (h : s.HasLadles l) (e : u.tiles = s.tiles) : u.HasLadles l := by
  intro t
  rw [← h t, State.tile, State.tile, e]

theorem State.HasLadles.of_sameTiles (h : s.HasLadles l) (hu : SameTiles s u) : u.HasLadles l := by
  obtain ⟨-, htiles, -⟩ := hu
  exact h.of_tiles htiles

theorem State.HasLadles.setTile {t : Nat} {v : Tile} (h : s.HasLadles l) (hv : v.ladles = (s.tile t).ladles) : (s.setTile t v).HasLadles l := by
  intro n
  by_cases hn : n = t
  · subst hn
    rw [State.tile_setTile, hv, h n]
  · rw [State.tile_setTile_other s v hn, h n]

theorem State.HasLadles.modTile {t : Nat} {f : Tile → Tile} (h : s.HasLadles l) (hf : ∀ T, (f T).ladles = T.ladles) : (s.modTile t f).HasLadles l :=
  h.setTile (hf _)

theorem State.HasLadles.setSlot {t k : Nat} {v : Slot} (h : s.HasLadles l) : (s.setSlot t k v).HasLadles l :=
  h.setTile rfl

theorem State.HasLadles.send {vc i m} (h : s.HasLadles l) : (s.send vc i m).HasLadles l :=
  h.of_sameTiles (sameTiles_send s vc i m)

theorem State.HasLadles.logError {vd bank uc cause addr ctx} (h : s.HasLadles l) : (s.logError vd bank uc cause addr ctx).HasLadles l :=
  h.of_sameTiles (sameTiles_logError s vd bank uc cause addr ctx)

theorem State.HasLadles.logViolation {t la slot cause path deferred pa} (h : s.HasLadles l) :
    Beside l (s.logViolation t la slot cause path deferred pa) := by
  unfold State.logViolation
  extract_lets T drop v
  split
  · exact h.setTile rfl
  · exact h.setTile rfl

/-! ### Translation -/

theorem State.HasLadles.cacheLeaf {t asid la kind e lvl} (h : s.HasLadles l) : (s.cacheLeaf t asid la kind e lvl).HasLadles l := by
  unfold State.cacheLeaf
  extract_lets b te other s2
  have hs2 : s2.HasLadles l := h.modTile fun _ => rfl
  exact hs2.of_tiles (State.modDie_tiles ..)

theorem State.HasLadles.install {t asid la kind e lvl addr} (h : s.HasLadles l) : (s.install t asid la kind e lvl addr).HasLadles l :=
  .cacheLeaf (h.of_tiles rfl)

theorem State.HasLadles.dropNodes {t asid la} (h : s.HasLadles l) : (s.dropNodes t asid la).HasLadles l := by
  unfold State.dropNodes
  extract_lets mine
  split
  · exact h.modTile fun _ => rfl
  · exact h

theorem State.HasLadles.translate {t asid la kind} (h : s.HasLadles l) : Beside l (s.translate t asid la kind) := by
  unfold State.translate
  split
  · exact h
  · split
    · exact h
    · extract_lets s1
      have hs1 : s1.HasLadles l := h.dropNodes
      clear_value s1
      split
      · split
        · exact hs1.cacheLeaf
        · split
          · exact hs1.install
          · exact hs1
      · exact h
      · exact hs1
      · exact hs1
      · exact hs1

/-! ### What a home does -/

theorem State.HasLadles.scrub {pa n ctx} (h : s.HasLadles l) : (s.scrub pa n ctx).HasLadles l :=
  (h.of_tiles rfl : ({ s with ecc1 := s.ecc1.filter _ } : State).HasLadles l).of_sameTiles (sameTiles_foldl _ (fun _ _ => sameTiles_logError ..) _ _)

theorem State.HasLadles.homeWrite {pa bs} (h : s.HasLadles l) : (s.homeWrite pa bs).HasLadles l := by
  unfold State.homeWrite
  split
  · exact h
  · extract_lets n s1
    have hs1 : s1.HasLadles l := h.of_tiles rfl
    split
    · exact hs1.modTile fun _ => rfl
    · exact hs1

theorem State.HasLadles.fireWatches {pa n} (h : s.HasLadles l) : (s.fireWatches pa n).HasLadles l := by
  unfold State.fireWatches
  extract_lets vd hit again hit' ws s1
  split
  · exact h.of_tiles ((State.emits_tiles ..).trans (State.modDie_tiles ..))
  · exact (h.of_tiles (State.modDie_tiles ..)).of_sameTiles (sameTiles_foldl _ (fun _ _ => sameTiles_send ..) ws s1)

theorem State.HasLadles.performOut {vd pa bs} (h : s.HasLadles l) : (s.performOut vd pa bs).HasLadles l := by
  unfold State.performOut
  extract_lets s1
  have hs1 : s1.HasLadles l := by
    unfold s1
    split <;> exact h.of_tiles rfl
  exact hs1.homeWrite.fireWatches

/-! ### An engine's accesses -/

theorem State.HasLadles.engTranslate {w a kind shown} (h : s.HasLadles l) : Ends (Beside l) (Beside l) (engTranslate w a kind shown s) := by
  have ht : Beside l (s.translate w.t w.asid a kind) := h.translate
  unfold Machine.engTranslate
  split
  next he =>
    rw [he] at ht
    exact .ok ht
  all_goals next he =>
    rw [he] at ht
    exact .error ht

theorem State.HasLadles.engPa {w kind p} (h : s.HasLadles l) : Ends (Beside l) (Beside l) (engPa w kind p s) := by
  unfold Machine.engPa
  split
  · exact .ok h
  · exact .ok h
  · split
    · exact .ok h
    · exact h.engTranslate.bind fun _ h1 => .ite (.error h1) (.ite (.ok h1) (.ite (.error h1) (.error h1)))

theorem State.HasLadles.engRefused {w cause p pa told} (h : s.HasLadles l) : Beside l (engRefused w cause p pa told s) := by
  unfold Machine.engRefused
  extract_lets u
  show State.HasLadles l _
  split
  · split
    · exact h
    · exact h.logViolation
  · exact h.logViolation

theorem State.HasLadles.engGate {w write p n} (h : s.HasLadles l) : Ends (Beside l) (Beside l) (engGate w write p n s) := by
  unfold Machine.engGate
  refine h.engPa.bind fun ⟨pa, s1⟩ h1 => ?_
  dsimp only
  split
  · exact .error h1
  · split
    · exact .ite (.ok h1) (.error h1)
    · split
      · exact .error (State.HasLadles.engRefused h1)
      · exact .ite (.error h1) (.ite (.error h1) (.ok h1))

theorem State.HasLadles.engGet {w pa n} (h : s.HasLadles l) : Ends (Beside l) (Beside l) (engGet w pa n s) :=
  .ite (.error h.logError) (.ok h.scrub)

theorem State.HasLadles.engReadPiece {w p n} (h : s.HasLadles l) : Ends (Beside l) (Beside l) (engReadPiece w p n s) :=
  h.engGate.bind fun _ h1 => State.HasLadles.engGet h1

theorem State.HasLadles.engRead {w p n} (h : s.HasLadles l) : Ends (Beside l) (Beside l) (engRead w p n s) :=
  .foldlM h fun _ _ h1 => (State.HasLadles.engReadPiece h1).bind fun _ h2 => .ok h2

theorem State.HasLadles.unitPut {v pa la bs} (h : s.HasLadles l) : (s.unitPut v pa la bs).HasLadles l :=
  (h.of_tiles (State.modDie_tiles ..) : (s.unitOut v pa bs.length la true).2.HasLadles l).send

theorem State.HasLadles.remotePut {w pa la bs} (h : s.HasLadles l) : (State.remotePut w s pa la bs).HasLadles l := by
  unfold State.remotePut
  split
  · exact h.unitPut
  · exact h.setSlot.send

theorem State.HasLadles.engPut {w pa la bs} (h : s.HasLadles l) : (State.engPut w s pa la bs).HasLadles l := by
  unfold State.engPut
  split
  · exact h.remotePut
  · exact h.performOut

/-! ### The run of a copy -/

theorem State.HasLadles.copyIndex {w c row} (h : s.HasLadles l) : Ends (Beside l) (Beside l) (copyIndex w c row s) :=
  .ite (.ok h) (h.engRead.bind fun _ h1 => .ite (.error h1) (.ok h1))

theorem State.HasLadles.copySource {w c p ps m} (h : s.HasLadles l) : Ends (Beside l) (Beside l) (copySource w c p ps m s) := by
  unfold Machine.copySource
  split
  · exact h.engGet
  · split
    · exact .error h
    · split
      · exact .ok h
      · split
        · exact .error h.engRefused
        · refine .error ?_
          show State.HasLadles l _
          split
          · exact h
          · exact h.logError

theorem State.HasLadles.copyUnit {w0 c d k n} (h : s.HasLadles l) : Ends (Beside l) (Beside l) (copyUnit w0 c d k n s) :=
  h.engGate.bind fun _ h1 => (State.HasLadles.copySource h1).bind fun _ h2 =>
    .ite (.error h2) ((State.HasLadles.engGate h2).bind fun _ h3 => .ok (State.HasLadles.engPut h3))

theorem State.HasLadles.copyMove {w f c d k n} (h : s.HasLadles l) : (copyMove w f c d k n s).s.HasLadles l := by
  induction f generalizing s c d k n with
  | zero => exact h
  | succ f ih =>
    unfold Machine.copyMove
    split
    · exact h
    · split
      next he => exact Ends.of_error (E := Beside l) he h.copyIndex
      next he =>
        have h1 := Ends.of_ok (P := Beside l) he h.copyIndex
        split
        next he => exact Ends.of_error (E := Beside l) he (State.HasLadles.copyUnit h1)
        next he => exact ih (Ends.of_ok (P := Beside l) he (State.HasLadles.copyUnit h1))

end

end Sys2Proof.Machine
end

section
/-! O43: the events of a ladle channel and of a package copy engine, each by the branch that the copy's own fields choose. -/

namespace Sys2Proof.Machine
open Sys2Proof

section
variable {s : State} {t ch : Nat} {c : Copy}

/-! ### A copy starts -/

theorem ladleCopyStart_of_waiting {rest : List Copy} (ha : ((s.tile s.arg.t).ladle s.arg.k).active = none)
    (hw : ((s.tile s.arg.t).ladle s.arg.k).waiting = c :: rest) :
    ladleCopyStart s = ((s.modLadle s.arg.t s.arg.k (fun L => { L with
        active := some c, waiting := rest, bytes := BitVec.ofNat 32 c.bytes, seq := c.seq, done := false, err := false, retried := false })).emit
      (segEvent s.arg.t s.arg.k)).engFreed s.arg.t := by
  simp only [ladleCopyStart, ha, hw]

/-! ### A part of a segment moves -/

/-- The copy after a run: what has moved, and the BYTES released by whole segments (R49). -/
def CopyRun.after (r : CopyRun) (c : Copy) : Copy :=
  { r.c with k := c.k + r.moved, bytes := max c.bytes ((c.k + r.moved) / 256 * 256), got := if r.moved = 0 then r.c.got else none }

/-- The channel after a run of its active copy; a segment that it leaves may be read again in its turn. -/
def CopyRun.state (r : CopyRun) (t ch : Nat) (c : Copy) : State :=
  r.s.modLadle t ch (fun L => { L with
    active := some (r.after c), bytes := BitVec.ofNat 32 (r.after c).bytes, retried := L.retried && (c.k + r.moved) / 256 == c.k / 256 })

/-- The run that a segment check makes: part of what is left of the segment, how much is a free value. -/
def segmentRun (t ch : Nat) (c : Copy) (s : State) : CopyRun :=
  let n := 1 + s.freshWord.1.toNat % min (256 - c.k % 256) (c.total - c.k)
  copyMove (c.who t ch) (n + 1) c (if c.drain then [] else s.arg.bytes) c.k n s.freshWord.2

/-- The active copy may move bytes: nothing of it or of its die has stopped, and bytes are left (R46, R108). -/
structure State.SegmentDue (s : State) (c : Copy) : Prop where
  active : ((s.tile s.arg.t).ladle s.arg.k).active = some c
  running : (s.die (vdOf s.arg.t)).stopped = false
  stopped : c.stopped = 0
  frozen : (s.slot s.arg.t c.slot).frozen = false
  err : c.err = 0
  again : c.again = []
  left : c.k < c.total

theorem ladleSegmentCheck_of_due {r : CopyRun} (h : s.SegmentDue c) (hrun : segmentRun s.arg.t s.arg.k c s = r) :
    ladleSegmentCheck s =
      let t := s.arg.t; let ch := s.arg.k; let L := (s.tile t).ladle ch
      if r.stop = some (.err eTAG) && !L.retried then
        (r.s.modLadle t ch (fun L => { L with active := some { r.after c with k := (c.k + r.moved) / 256 * 256, got := none }, retried := true })).emitOnce (segEvent t ch)
      else match r.stop with
        | some st => (r.state t ch c).stopLadle t ch (r.after c) st
        | none => (r.state t ch c).emitOnce (if (r.after c).total ≤ c.k + r.moved then evTK .ladleCopyEnd t ch else segEvent t ch) := by
  obtain ⟨ha, hr, hs, hf, he, hg, hk⟩ := h
  unfold ladleSegmentCheck
  extract_lets t ch L
  split
  next hn => cases hn.symm.trans ha
  next hc =>
    cases hc.symm.trans ha
    rw [if_neg (by simp [t, hr, hs, hf]), if_neg (by simp [he])]
    split
    next hag => cases hag.symm.trans hg
    next =>
      rw [if_neg (Nat.not_le.mpr hk)]
      rcases hfresh : s.freshWord with ⟨f, s0⟩
      dsimp -zeta only
      extract_lets left n run
      have hsame : run = r := by rw [← hrun, segmentRun, hfresh]
      clear_value run
      subst hsame
      rfl

theorem ladleSegmentCheck_of_moved {r : CopyRun} (h : s.SegmentDue c) (hrun : segmentRun s.arg.t s.arg.k c s = r) (hstop : r.stop = none) :
    ladleSegmentCheck s = (r.state s.arg.t s.arg.k c).emitOnce
      (if (r.after c).total ≤ c.k + r.moved then evTK .ladleCopyEnd s.arg.t s.arg.k else segEvent s.arg.t s.arg.k) := by
  rw [ladleSegmentCheck_of_due h hrun]
  simp [hstop]

theorem ladleSegmentCheck_of_error {r : CopyRun} {e : Nat} (h : s.SegmentDue c) (hrun : segmentRun s.arg.t s.arg.k c s = r)
    (hstop : r.stop = some (.err e)) (he : e ≠ eTAG ∨ ((s.tile s.arg.t).ladle s.arg.k).retried = true) :
    ladleSegmentCheck s = ((r.state s.arg.t s.arg.k c).modLadle s.arg.t s.arg.k (fun L => { L with active := some { r.after c with err := e } })).emitOnce
      (evTK .ladleCopyEnd s.arg.t s.arg.k) := by
  rw [ladleSegmentCheck_of_due h hrun]
  extract_lets t ch L
  rw [if_neg (by rcases he with he | he <;> simp [hstop, he, L, t, ch]), hstop]
  rfl

theorem ladleSegmentCheck_of_tag {r : CopyRun} (h : s.SegmentDue c) (hrun : segmentRun s.arg.t s.arg.k c s = r)
    (hstop : r.stop = some (.err eTAG)) (hfirst : ((s.tile s.arg.t).ladle s.arg.k).retried = false) :
    ladleSegmentCheck s = (r.s.modLadle s.arg.t s.arg.k (fun L => { L with
      active := some { r.after c with k := (c.k + r.moved) / 256 * 256, got := none }, retried := true })).emitOnce (segEvent s.arg.t s.arg.k) := by
  rw [ladleSegmentCheck_of_due h hrun]
  simp only [hstop, hfirst, decide_true, Bool.not_false, Bool.and_self, if_true]

/-! ### The channel after a run -/

theorem modLadle_congr {f g : Ladle → Ladle} (h : f ((s.tile t).ladle ch) = g ((s.tile t).ladle ch)) : s.modLadle t ch f = s.modLadle t ch g := by
  simp only [State.modLadle, State.modTile, h]

theorem ladle_segmentRun (t ch n k : Nat) : ((segmentRun t ch c s).s.tile n).ladle k = (s.tile n).ladle k := by
  have hrun : (segmentRun t ch c s).s.HasLadles (fun n => (s.tile n).ladles) := State.HasLadles.copyMove s.hasLadles_self
  rw [Tile.ladle, Tile.ladle, hrun n]

/-- A run leaves the channel's mark of a segment read again as it found it. -/
theorem state_segmentRun :
    (segmentRun t ch c s).state t ch c = (segmentRun t ch c s).s.modLadle t ch (fun M => { M with
      active := some ((segmentRun t ch c s).after c), bytes := BitVec.ofNat 32 ((segmentRun t ch c s).after c).bytes,
      retried := ((s.tile t).ladle ch).retried && (c.k + (segmentRun t ch c s).moved) / 256 == c.k / 256 }) :=
  modLadle_congr (by rw [ladle_segmentRun])

/-! ### A copy ends -/

theorem ladleCopyEnd_of_posted {u : State} (ha : ((s.tile s.arg.t).ladle s.arg.k).active = some c) (hs : c.stopped = 0) (hg : c.again = [])
    (hend : c.ending s.arg.ok = 0) (hk : c.total ≤ c.k) (hbusy : s.remoteBusy s.arg.t c.slot 1 s.arg.k = false)
    (hpost : engPost (c.who s.arg.t s.arg.k) c.cwen (opPlace false (c.seg (c.ctl 16 3)) ((c.reg 3 % 2 ^ 32 : Nat) : Int)) (c.reg 4) false s = .ok u) :
    ladleCopyEnd s = ((u.modLadle s.arg.t s.arg.k (fun L => { L with active := none, done := true, err := false, bytes := BitVec.ofNat 32 c.total })).emit
      (evTK .ladleCopyStart s.arg.t s.arg.k)).cmdGone s.arg.t c.slot := by
  simp only [ladleCopyEnd, ha, hend, hs, hg, hbusy, hpost, Nat.not_lt.mpr hk, bne_self_eq_false, List.isEmpty_nil, Bool.not_true, Bool.or_self, Bool.and_false,
    Bool.false_eq_true, decide_false, decide_true, Bool.true_or, if_false, if_true]

/-! ### A step of a package copy engine -/

/-- The head copy of a channel may move bytes: no write of it was refused, nothing of it, its die or its thread has stopped, and bytes are
left (R272). -/
structure State.CopyDue (s : State) (vd ch : Nat) (c : Copy) : Prop where
  head : (s.die vd).copyHead ch = some c
  good : s.unitBad (c.unit vd ch) = none
  running : (s.die vd).stopped = false
  unfrozen : ∀ o, s.copyOwner c = some o → (s.slot o.1 o.2).frozen = false
  stopped : c.stopped = 0
  err : c.err = 0
  left : c.k < c.total

theorem copyStep_of_moved {vd n : Nat} {r : CopyRun} (h : s.CopyDue vd ch c) (hn : min (65536 - c.k % 65536) (c.total - c.k) = n)
    (hrun : copyMove (c.xwho vd ch) (n + 1) c [] c.k n s = r) (hstop : r.stop = none) :
    copyStep vd ch s = ((if r.moved = 0 then r.s else r.s.unitClear (c.unit vd ch)).setCopy vd ch { r.c with k := c.k + r.moved }).emitOnce (copyEvent vd ch) := by
  obtain ⟨hh, hg, hr, hf, hs, he, hk⟩ := h
  have hthread : (s.copyOwner c).any (fun o => (s.slot o.1 o.2).frozen) = false := by
    simpa [Option.any_eq_false] using hf
  simp only [copyStep, hh, hg, hr, hthread, hs, he, hn, hrun, hstop, Nat.not_le.mpr hk, bne_self_eq_false, Bool.false_and, Bool.or_self, decide_false,
    Bool.false_eq_true, if_false]

theorem engineStep_of_copy (hk : s.arg.k = 5) : engineStep s = copyStep s.arg.t s.arg.v s := by
  simp [engineStep, hk]

end

/-- Settles O43: a run of bytes keeps the ladle channels, so that the channel's mark of a segment read again is the one from before it. -/
theorem copyEvents : Obligations.CopyEvents := by
  unfold Obligations.CopyEvents
  intro s t ch L
  refine ⟨fun c rest ha hw => congrArg Host.Outcome.next (ladleCopyStart_of_waiting ha hw), fun c ha hs he hg => ⟨?_, ?_⟩, ?_⟩
  · intro hr hf hk n run k1 c1 u
    have hdue : s.SegmentDue c := ⟨ha, hr, hs, hf, he, hg, hk⟩
    have hu : run.state t ch c = u := state_segmentRun
    refine ⟨fun hstop => ?_, fun e hstop hne => ?_, fun hstop hagain => ?_, fun hstop hfirst => ?_⟩
    · rw [← hu]
      exact congrArg Host.Outcome.next (ladleSegmentCheck_of_moved hdue rfl hstop)
    · rw [← hu]
      exact congrArg Host.Outcome.next (ladleSegmentCheck_of_error hdue rfl hstop (.inl hne))
    · rw [← hu]
      exact congrArg Host.Outcome.next (ladleSegmentCheck_of_error hdue rfl hstop (.inr hagain))
    · exact congrArg Host.Outcome.next (ladleSegmentCheck_of_tag hdue rfl hstop hfirst)
  · exact fun u hend hk hbusy hpost => congrArg Host.Outcome.next (ladleCopyEnd_of_posted ha hs hg hend hk hbusy hpost)
  · intro c v n hk hh hg hr hf hs he hleft run hstop
    have hdue : s.CopyDue t v c := ⟨hh, hg, hr, hf, hs, he, hleft⟩
    exact congrArg Host.Outcome.next ((engineStep_of_copy hk).trans (copyStep_of_moved hdue rfl rfl hstop))

end Sys2Proof.Machine
end

section
/-! O17: a guard instruction of an ordinary thread passes its checks and sends its request, after its commit or, for an acquire, before it. -/

namespace Sys2Proof.Machine
open Sys2Proof

/-! ### What the checks of a guard instruction answer -/

theorem checks_of_recSeg {rights : Seg → Bool} {sn off n al : Nat} {s : State} {p : Place} (h : recSeg rights sn off n al s = .ok p) :
    seg rights sn off n s = .ok p ∧ aligned p al off s = .ok () := by
  unfold recSeg at h
  cases hp : seg rights sn off n s with
  | error t => simp [hp, bind, Except.bind] at h
  | ok q =>
    cases ha : aligned q al off s with
    | error t => simp [hp, ha, bind, Except.bind] at h
    | ok u =>
      simp only [hp, ha, bind, Except.bind, Except.ok.injEq] at h
      exact h ▸ ⟨rfl, ha⟩

theorem enter_system_of_ordinary {i : Instr} {s : State} (h : Ordinary s) : enter i .system false 0 s = .ok () :=
  enter_ordinary i .system false 0 s h (Nat.zero_le _)

theorem recPlace_ok_iff {rights : Seg → Bool} {sn off n al : Nat} {s : State} {q : Nat × State} :
    recPlace rights sn off n al s = .ok q ↔ ∃ p, recSeg rights sn off n al s = .ok p ∧ recAt p n s = .ok q := by
  unfold recPlace
  cases recSeg rights sn off n al s <;> simp [bind, Except.bind]

theorem illValue_of_good (v : Word) (s : State) : illValue false v s = .ok () := rfl

theorem wfld_low (x : Word) (n : Nat) : wfld x 0 n = x.toNat % 2 ^ n := by
  simp [wfld, nfld]

theorem bindable_of_spaces {ps : List (Nat × Nat)} (h : ∀ q, q ∈ ps → spaceOf q.1 = 0 ∨ spaceOf q.1 = 1 ∨ spaceOf q.1 = 4) :
    ps.any (fun q => !(spaceOf q.1 == 0 || spaceOf q.1 == 1 || spaceOf q.1 == 4)) = false := by
  rw [List.any_eq_false]
  intro q hq
  simpa [or_iff_not_imp_left] using h q hq

section
variable {s s1 s2 : State} {d : Reg} {sg : BitVec 3} {a b : Src} {x y ctl : Word} {pa arr : Nat} {rp ap : Place}

/-- The state in which an instruction whose rd is filled later has committed. -/
def State.committedLater (s : State) (srcs : List Src) (d : Reg) : State := commitNow (markLater d (consume srcs s))

/-- The state in which an acquire has asked for the binding of its record, blocked (R393). -/
def State.bindingAsked (s1 : State) (t k pa : Nat) (kind : PendKind) : State :=
  let (tag, h) := s1.th.addPend noPath pa 0 kind
  let u := (s1.modTh (fun _ => h)).block .answer
  u.send .req .rd { u.mgrMsg t k pa tag with len := 15 }

variable (ho : Ordinary s) (hd : LaterReady d s) (hspace : recSpace pa = true)
include ho hd hspace

theorem rel_of_held {i : Instr} {e : RngEntry} (hx : Delivers [a] a.r s x)
    (hp : recPlace rGuardR sg.toNat x.toNat 64 64 s = .ok (pa, s1)) (he : (s1.tile s.cur.1).rngAt s.cur.2 pa = some e)
    (hheld : e.held = true) (hbusy : s1.copyBusy s.cur.1 e = false) :
    let u := s1.committedLater [a] d
    let q := u.th.addPend noPath pa 0 (.guardOp d.toNat true)
    rel i d sg a s = .ok ((u.modTh (fun _ => q.2)).release s.cur.1 s.cur.2 e q.1) := by
  simp only [rel, enter_system_of_ordinary ho, hx i, hd i, hp, hspace, he, hheld, hbusy, bind, Except.bind, Bool.not_true,
    Bool.false_eq_true, if_false]
  rfl

theorem bindRegion_of_pieces {i : Instr} {p : Place} {ps : List (Nat × Nat)} (hx : Delivers ([a] ++ srcPair b) a.r s x)
    (hy : Delivers ([a] ++ srcPair b) b.r s y) (hc : Delivers ([a] ++ srcPair b) (b.r + 1) s ctl) (hlt : ctl.toNat < 2 ^ 13)
    (hr : recSeg rGuardR sg.toNat x.toNat 64 64 s = .ok rp) {size len : Nat} (hsize : size = 256 * 4 ^ (ctl.toNat % 4))
    (hlen : len = (ctl.toNat / 4 % 256 + 1) * size) (hp : seg rGuardW (ctl.toNat / 1024) y.toNat len s = .ok p) (hal : p.at_ % size = 0)
    (hpa : recAt rp 64 s = .ok (pa, s1))
    (hwalk : bindWalk p.at_ 1042 (s1.th.bindFrom p.at_ (p.at_ + len)).1 (p.at_ + len) (s1.th.bindFrom p.at_ (p.at_ + len)).2 s1 = .ok (ps, s2))
    (hps : ∀ q, q ∈ ps → spaceOf q.1 = 0 ∨ spaceOf q.1 = 1 ∨ spaceOf q.1 = 4) :
    let u := (s2.modTh (fun h => { h with bindAt := none })).committedLater ([a] ++ srcPair b) d
    let q := u.th.addPend noPath pa 0 (.guardOp d.toNat false)
    let v := u.modTh (fun _ => q.2)
    let m := { v.mgrMsg s.cur.1 s.cur.2 pa q.1 with aux0 := BitVec.ofNat 64 p.at_, aux1 := BitVec.ofNat 64 (ctl.toNat % 4 + ctl.toNat / 4 % 256 * 4) }
    bindRegion i d sg a b s = .ok ((bindMsgs m 60 0 ps).foldl (fun s m => s.send .req .gadmBind m) v) := by
  obtain ⟨hseg, halign⟩ := checks_of_recSeg hr
  have hsbs : wfld ctl 0 2 = ctl.toNat % 4 := wfld_low ctl 2
  have hn : wfld ctl 2 8 = ctl.toNat / 4 % 256 := rfl
  have hsg : wfld ctl 10 3 = ctl.toNat / 1024 := by
    simp only [wfld, nfld]
    omega
  have hsz : sbSize (ctl.toNat % 4) = size := hsize.symm
  simp only [bindRegion, enter_system_of_ordinary ho, hx i, hy i, hc i, hd i, wfld_above hlt, illValue_of_good, hsbs, hn, hsg, hsz,
    ← hlen, hseg, halign, hp, aligned_of_dvd hal, hpa, hspace, hwalk, bindable_of_spaces hps, bind, Except.bind, Bool.not_true,
    Bool.false_eq_true, if_false, bne_self_eq_false]
  rfl

section
variable (hx : Delivers [a, b] a.r s x) (hy : Delivers [a, b] b.r s y)
include hx hy

theorem binit_of_places {i : Instr} (hr : recSeg rGuardW sg.toNat x.toNat 64 64 s = .ok rp) (ha : recSeg rGuardW sg.toNat y.toNat 1024 1024 s = .ok ap)
    (hpa : recAt rp 64 s = .ok (pa, s1)) (harr : recAt ap 1024 s1 = .ok (arr, s2)) (hspace' : recSpace arr = true) (hdie : pa / 2 ^ 37 = arr / 2 ^ 37) :
    binit i d sg a b s = .ok ((s2.committedLater [a, b] d).ask .gadmBinit pa (.guardOp d.toNat false) (fun m => { m with aux0 := BitVec.ofNat 64 arr })) := by
  obtain ⟨hrseg, hralign⟩ := checks_of_recSeg hr
  obtain ⟨haseg, haalign⟩ := checks_of_recSeg ha
  simp only [binit, enter_system_of_ordinary ho, hx i, hy i, hd i, hrseg, haseg, hralign, haalign, hpa, harr, hspace, hspace', hdie,
    bind, Except.bind, Bool.not_true, Bool.false_eq_true, Bool.or_self, if_false, bne_self_eq_false]
  rfl

theorem unbind_of_place {i : Instr} (hp : recPlace rGuardR sg.toNat x.toNat 64 64 s = .ok (pa, s1)) (hlt : y.toNat < 2 ^ 1) :
    unbind i d sg a b s = .ok ((s1.committedLater [a, b] d).ask (if wbit y 0 then .gadmUnbindRetire else .gadmUnbind) pa (.guardOp d.toNat false)
      (fun m => { m with attr := if wbit y 0 then 3 else 2 })) := by
  simp only [unbind, enter_system_of_ordinary ho, hx i, hy i, hd i, wfld_above hlt, illValue_of_good, hp, hspace,
    bind, Except.bind, Bool.not_true, Bool.false_eq_true, if_false, bne_self_eq_false]
  rfl

theorem acquire_of_place {i : Instr} {excl isTry : Bool}
    (hp : recPlace (if excl then rGuardW else rGuardR) sg.toNat x.toNat 64 64 s = .ok (pa, s1)) (hlt : y.toNat < 2 ^ 22) (hal : y.toNat % 256 = 0)
    (hfree : (s1.tile s.cur.1).engaged s.cur.2 pa = false) :
    acquire i excl isTry d sg a b s = .ok (s1.bindingAsked s.cur.1 s.cur.2 pa (.binding d.toNat excl isTry y.toNat [a, b])) := by
  obtain ⟨p, hr, -⟩ := recPlace_ok_iff.mp hp
  obtain ⟨hseg, halign⟩ := checks_of_recSeg hr
  have hlow : wfld y 0 8 = 0 := (wfld_low y 8).trans hal
  simp only [acquire, enter_system_of_ordinary ho, hx i, hy i, hd i, wfld_above hlt, illValue_of_good, hseg, halign, hlow, hp, hspace,
    hfree, bind, Except.bind, Bool.not_true, Bool.false_eq_true, if_false, bne_self_eq_false]
  rfl

end
end

/-- Settles O17: each instruction's checks pass, and what it sends is said by its lemma above. -/
theorem guardRequestsIssue : Obligations.GuardRequestsIssue := by
  unfold Obligations.GuardRequestsIssue
  intro s s1 s2 d sg a b x y ctl pa arr rp ap ho hd hspace marked asked
  refine ⟨fun hx hy => ⟨?_, fun hp => ⟨?_, ?_, ?_⟩, ?_⟩, ?_, ?_⟩
  · exact fun hr ha hpa harr hspace' hdie => congrArg finish (binit_of_places ho hd hspace hx hy hr ha hpa harr hspace' hdie)
  · rintro rfl
    exact congrArg finish (unbind_of_place ho hd hspace hx hy hp (by decide))
  · rintro rfl
    exact congrArg finish (unbind_of_place ho hd hspace hx hy hp (by decide))
  · exact fun hlt hal hfree => ⟨congrArg finish (acquire_of_place (excl := false) ho hd hspace hx hy hp hlt hal hfree),
      congrArg finish (acquire_of_place (excl := false) ho hd hspace hx hy hp hlt hal hfree)⟩
  · exact fun hp hlt hal hfree => ⟨congrArg finish (acquire_of_place (excl := true) ho hd hspace hx hy hp hlt hal hfree),
      congrArg finish (acquire_of_place (excl := true) ho hd hspace hx hy hp hlt hal hfree)⟩
  · exact fun p ps hx hy hc hlt hr hp hal hpa hwalk hps =>
      congrArg finish (bindRegion_of_pieces ho hd hspace hx hy hc hlt hr rfl rfl hp hal hpa hwalk hps)
  · exact fun e hx hp he hheld hbusy => congrArg finish (rel_of_held ho hd hspace hx hp he hheld hbusy)

end Sys2Proof.Machine
end

section
/-! O47: what each request at a record's manager does, one lemma for each branch that a clause names. -/

namespace Sys2Proof.Machine
open Sys2Proof

/-- Is a kept piece one of the BIND whose message has come (R124)? -/
def State.ofBinder (s : State) (q : Nat × Nat × Nat × FiltPiece) : Bool :=
  q.1 == s.msg.src && q.2.1 == s.msg.slot && q.2.2.1 == s.msg.tag && q.2.2.2.rec_ == s.mrec

/-- The pieces that a GADM BIND carries. -/
def State.binderPieces (s : State) : List FiltPiece := (piecesOfData s.mrec 20 s.msg.data).map (fun p => { p with pa := s.canon p.pa })

/-- The pieces of a BIND with those its earlier messages brought. -/
def State.boundRegion (s : State) : List FiltPiece := ((s.die s.mdie).bindq.filter s.ofBinder).map (·.2.2.2) ++ s.binderPieces

section
variable {s : State}

theorem any_overlaps_eq_false {arr : Nat} {l : List Nat}
    (h : ∀ g, g ∈ l → overlaps arr 1024 g 64 = false ∧ overlaps arr 1024 (uARRAY (s.rec_ g)) (4 * uCAP (s.rec_ g)) = false) :
    l.any (fun g => overlaps arr 1024 g 64 || overlaps arr 1024 (uARRAY (s.rec_ g)) (4 * uCAP (s.rec_ g))) = false := by
  rw [List.any_eq_false]
  intro g hg
  simpa using h g hg

theorem dfld_low (x : DWord) (n : Nat) : dfld x 0 n = x.toNat % 2 ^ n := by
  simp [dfld, nfld]

/-! ### A record that takes requests (R64, R73) -/

section
variable (hidle : s.mgrBusy s.mdie s.mrec = false)
include hidle

theorem acqreq_of_refused {st : Nat} (hc : s.acqCheck s.mdie s.mrec s.msg = some st) : acqreq s = s.denyTo s.msg st false := by
  simp [acqreq, hidle, hc]

section
variable (hc : s.acqCheck s.mdie s.mrec s.msg = none)
include hc

theorem acqreq_of_stale (hs : stale (s.rec_ s.mrec) s.msg = true) : acqreq s = s.denyTo s.msg 0 true := by
  simp [acqreq, hidle, hc, hs]

variable (hs : stale (s.rec_ s.mrec) s.msg = false)
include hs

theorem acqreq_of_grantable (hq : queueOf s s.mdie s.mrec = [])
    (hst : gSTATE (s.rec_ s.mrec) = 0 ∨ gSTATE (s.rec_ s.mrec) = 1 ∧ gSHCOUNT (s.rec_ s.mrec) < 65535 ∧ acqExcl s.msg = false) :
    acqreq s = s.grantTo s.mdie s.mrec s.msg := by
  obtain h0 | ⟨h1, hn, hshared⟩ := hst
  · simp [acqreq, hidle, hc, hs, hq, h0]
  · simp [acqreq, hidle, hc, hs, hq, h1, hn, hshared]

theorem acqreq_of_heldX (hst : gSTATE (s.rec_ s.mrec) = 2) :
    acqreq s = if acqTry s.msg then s.denyTo s.msg gBUSY false
      else if 4096 ≤ (s.die s.mdie).gqueue.length then s.holdDie s.mdie (evM .acqreq s.msg) else s.enqueue s.mdie s.mrec s.msg := by
  simp [acqreq, hidle, hc, hs, hst]

end

/-! ### BINIT (R60, R62) -/

section
variable (hgroup : s.isGroup s.mdie s.mrec = false)
    (hapart : (s.die s.mdie).groups.any (fun g => overlaps (s.canon s.msg.aux0.toNat) 1024 g 64 ||
      overlaps (s.canon s.msg.aux0.toNat) 1024 (uARRAY (s.rec_ g)) (4 * uCAP (s.rec_ g))) = false)
include hgroup hapart

theorem gadmBinit_of_new (hnew : s.isGuard s.mdie s.mrec = false)
    (hroom : ((s.die s.mdie).guards.filter (fun g => gASID (s.rec_ g) == s.msg.asid)).length < 2 ^ 18) :
    gadmBinit s = (((s.putRec s.mrec (1 + s.msg.asid % 512 * 2 ^ 16 + s.canon s.msg.aux0.toNat / 1024 % 2 ^ 46 * 2 ^ 224)).allStamps s.mrec 0).modDie s.mdie
      (fun D => { D with guards := s.mrec :: D.guards })).ackTo s.msg gOK 0 := by
  simp only [gadmBinit, hidle, hgroup, hapart, hnew, Nat.not_le.mpr hroom, Bool.or_self, Bool.false_eq_true, decide_false, if_false]

theorem gadmBinit_of_guard (hguard : s.isGuard s.mdie s.mrec = true) (hpoison : gPOISON (s.rec_ s.mrec) = false) :
    gadmBinit s = s.ackTo s.msg gBUSY 0 := by
  simp only [gadmBinit, hidle, hgroup, hapart, hguard, hpoison, Bool.or_self, Bool.false_and, Bool.false_eq_true, if_false, if_true]

end

/-! ### BIND (R63, R124) -/

theorem gadmBind_of_more (hmore : wbit s.msg.attr 2 = false) :
    gadmBind s = s.modDie s.mdie (fun D => { D with bindq := D.bindq ++ s.binderPieces.map (fun p => (s.msg.src, s.msg.slot, s.msg.tag, p)) }) := by
  simp only [gadmBind, hidle, hmore, Bool.not_false, Bool.false_eq_true, if_false, if_true]
  rfl

section
variable (hguard : s.isGuard s.mdie s.mrec = true) (hinit : gINIT (s.rec_ s.mrec) = true) (hasid : gASID (s.rec_ s.mrec) = s.msg.asid)
    (hpoison : gPOISON (s.rec_ s.mrec) = false)
include hguard hinit hasid hpoison

theorem gadmBind_of_last (hlast : wbit s.msg.attr 2 = true) (hunbound : gBOUND (s.rec_ s.mrec) = false)
    (hapart : ∀ p, p ∈ s.boundRegion → s.filtered p.pa p.len = false ∧ s.claimed p.pa p.len = false) :
    gadmBind s = s.boundRegion.foldl (fun (s' : State) p => s'.sendFilt .filtInstall s.mrec p)
      (((s.modDie s.mdie (fun D => { D with bindq := D.bindq.filter (fun q => !s.ofBinder q) })).modDie s.mdie
        (fun D => { D with pieces := D.pieces.filter (fun p => p.rec_ != s.mrec) ++ s.boundRegion })).addOp s.mdie
          ⟨s.mrec, opBind, s.boundRegion.length, 0, s.msg⟩) := by
  have hany : s.boundRegion.any (fun p => s.filtered p.pa p.len || s.claimed p.pa p.len) = false := by
    rw [List.any_eq_false]
    intro p hp
    simpa using hapart p hp
  simp only [gadmBind, hidle, hlast, hguard, hinit, hasid, hpoison, hunbound, bne_self_eq_false, Bool.not_true, Bool.or_self, Bool.false_eq_true, if_false]
  exact if_neg (ne_true_of_eq_false hany)

/-! ### UNBIND (R64) -/

theorem gadmUnbind_of_busy {retire : Bool} {i : Instr} (hbusy : gSTATE (s.rec_ s.mrec) ≠ 0 ∨ queueOf s s.mdie s.mrec ≠ []) :
    gadmUnbind retire i s = s.ackTo s.msg gBUSY 0 := by
  have hcond : (gSTATE (s.rec_ s.mrec) != 0 || (queueOf s s.mdie s.mrec).length != 0) = true := by
    simpa using hbusy
  simp only [gadmUnbind, hidle, hguard, hinit, hasid, hpoison, hcond, bne_self_eq_false, Bool.not_true, Bool.or_self, Bool.false_and,
    Bool.false_eq_true, if_false, if_true]

section
variable (hfree : gSTATE (s.rec_ s.mrec) = 0) (hq : queueOf s s.mdie s.mrec = [])
include hfree hq

theorem gadmUnbind_of_bound {retire : Bool} {i : Instr} (hbound : gBOUND (s.rec_ s.mrec) = true) (hov : gOV (s.rec_ s.mrec) = false) :
    gadmUnbind retire i s = s.removePieces s.mdie s.mrec s.msg retire := by
  simp [gadmUnbind, hidle, hguard, hinit, hasid, hpoison, hfree, hq, hbound, hov]

theorem gadmUnbind_of_unbound {retire : Bool} {i : Instr} (hunbound : gBOUND (s.rec_ s.mrec) = false) :
    gadmUnbind retire i s = if retire then s.unbound s.mdie s.mrec s.msg true else s.ackTo s.msg gNOTBOUND 0 := by
  simp [gadmUnbind, hidle, hguard, hinit, hasid, hpoison, hfree, hq, hunbound]

end
end
end

/-! ### Recalls (R78) -/

theorem sendRecall_addOp (s : State) (vd : Nat) (o : MgrOp) (pa owner : Nat) :
    (s.addOp vd o).sendRecall pa owner = (s.addOp vd o).send .fwd .fwdRecall { s.fromMgr pa owner with attr := 0x20 } := rfl

/-! ### Releases (R77, R83) -/

section
variable (hlive : wbit s.msg.attr 4 = false)
include hlive

theorem relreq_of_shared (hshared : wbit s.msg.attr 0 = false) :
    relreq s = (s.ackTo s.msg gOK (gVERSION (s.rec_ s.mrec))).freed s.mdie s.mrec false := by
  simp [relreq, hlive, hshared]

variable (hexcl : wbit s.msg.attr 0 = true)
include hexcl

theorem relreq_of_unchanged (hmap : msgMap s.msg = 0) :
    relreq s = ((s.setOwner s.mrec s.msg.src).ackTo s.msg gOK (gVERSION (s.rec_ s.mrec))).freed s.mdie s.mrec true := by
  simp [relreq, hlive, hexcl, hmap]

variable (hmap : msgMap s.msg ≠ 0)
include hmap

theorem relreq_of_changed (hv : gVERSION (s.rec_ s.mrec) ≠ 0xFFFFFFFF) {v : Nat} (hnext : gVERSION (s.rec_ s.mrec) + 1 = v) :
    relreq s = ((((List.range 256).foldl (fun (u : State) i => if (msgMap s.msg).getLsbD i then u.setStamp s.mrec i v else u) (s.setVersion s.mrec v)).setOwner
      s.mrec s.msg.src).ackTo s.msg gOK v).freed s.mdie s.mrec true := by
  subst hnext
  simp only [relreq, hlive, hexcl, hmap, hv, Bool.false_eq_true, if_false, if_true]

theorem relreq_of_wrap (hv : gVERSION (s.rec_ s.mrec) = 0xFFFFFFFF) :
    let u := (s.setGState s.mrec 3).setOwner s.mrec s.msg.src
    relreq s = (u.addOp s.mdie ⟨s.mrec, opWrapRecall, s.msg.src, 0, s.msg⟩).send .fwd .fwdRecall { u.fromMgr s.mrec s.msg.src with attr := 0x20 } := by
  simp only [relreq, hlive, hexcl, hmap, hv, Bool.false_eq_true, if_false, if_true]
  exact sendRecall_addOp ..

end

/-! ### Withdrawals and repeated deliveries (R81, R85) -/

section
variable (hwithdraw : wbit s.msg.attr 3 = false)
include hwithdraw

theorem wdraw_of_waiting {q : Nat × Msg} (hq : (queueOf s s.mdie s.mrec).find? (fun q => q.2.src == s.msg.src && q.2.slot == s.msg.slot) = some q) :
    wdraw s = (s.dequeue s.mdie s.mrec q).ackTo s.msg gOK 0 := by
  simp only [wdraw, hwithdraw, hq, Bool.false_eq_true, if_false]

theorem wdraw_of_granted (hq : (queueOf s s.mdie s.mrec).find? (fun q => q.2.src == s.msg.src && q.2.slot == s.msg.slot) = none) : wdraw s = s := by
  simp only [wdraw, hwithdraw, hq, Bool.false_eq_true, if_false]

end

theorem gredo_of_last (h : wbit s.msg.attr 2 = true) : gredo s = s.freed s.mdie s.mrec (wbit s.msg.attr 0) := by
  simp [gredo, h]

section
variable {o : MgrOp} (hfirst : wbit s.msg.attr 2 = false)
    (hop : (s.die s.mdie).ops.find? (fun o => o.grec == s.mrec && o.kind == opDelivered && o.req.src == s.msg.src && o.req.slot == s.msg.slot) = some o)
include hfirst hop

/-- Home memory delivers again what it delivered, or what a former owner has written back to it. -/
theorem gredo_of_home (hsrc : o.left = s.mgrEid s.mrec ∨ (gOV (s.rec_ s.mrec) = false ∨ gOWNER (s.rec_ s.mrec) ≠ o.left) ∧ acqExcl o.req = false) :
    gredo s = s.fromHome s.mrec { o.req with attr := 0 } (acqSpoff { o.req with attr := 0 }) o.list false := by
  obtain hm | ⟨hgone, hshared⟩ := hsrc
  · simp [gredo, hfirst, hop, hm]
  · have howner : (gOV (s.rec_ s.mrec) && gOWNER (s.rec_ s.mrec) == o.left) = false := by
      simpa [imp_iff_not_or] using hgone
    simp [gredo, hfirst, hop, howner, hshared]

theorem gredo_of_owner (haway : o.left ≠ s.mgrEid s.mrec) (hov : gOV (s.rec_ s.mrec) = true) (howner : gOWNER (s.rec_ s.mrec) = o.left) :
    gredo s = (s.addOp s.mdie { o with kind := opServe, req := { o.req with attr := 0 } }).sendServe s.mrec o.left .fwdServe { o.req with attr := 0 }
      (acqSpoff { o.req with attr := 0 }) o.list := by
  simp [gredo, hfirst, hop, haway, hov, howner]

end

/-! ### Answers of owners and of invalidated packages (R64, R74, R78, R83) -/

theorem wbnote_eq (s : State) :
    wbnote s = (if gOV (s.rec_ s.mrec) = true ∧ gOWNER (s.rec_ s.mrec) = s.msg.src then s.clearOV s.mrec else s).ownerDone s.mdie s.mrec s.msg.src := by
  simp [wbnote]

/-- An operation of an owner that SERVED answers. -/
def State.servedOp (s : State) (o : MgrOp) : Bool :=
  o.grec == s.mrec && (o.kind == opServe || o.kind == opRedo) && o.left == s.msg.src && o.req.slot == s.msg.slot && o.req.tag == s.msg.tag

theorem served_of_shared {o : MgrOp} (hop : (s.die s.mdie).ops.find? s.servedOp = some o) (hshared : acqExcl o.req = false) : served s = s.dropOp s.mdie o := by
  unfold State.servedOp at hop
  simp [served, hop, hshared]

theorem served_of_none (hop : (s.die s.mdie).ops.find? s.servedOp = none) : served s = s := by
  unfold State.servedOp at hop
  simp only [served, hop]

theorem notretained_of_noOps (hops : (s.die s.mdie).ops = []) :
    notretained s = if gOV (s.rec_ s.mrec) = true ∧ gOWNER (s.rec_ s.mrec) = s.msg.src then s else s.ownerDone s.mdie s.mrec s.msg.src := by
  simp only [notretained, hops, List.find?_nil, Bool.and_eq_true, beq_iff_eq]

section
variable {o : MgrOp} (hop : (s.die s.mdie).ops.find? (fun o => o.grec == s.mrec && (o.kind == opRetire || o.kind == opWrap)) = some o)
include hop

theorem invack_of_more (hmore : 1 < o.left) : invack s = (s.dropOp s.mdie o).addOp s.mdie { o with left := o.left - 1 } := by
  simp only [invack, hop, hmore, if_true]

theorem invack_of_lastRetire (hlast : o.left ≤ 1) (hk : o.kind = opRetire) :
    invack s = ((({ s.dropOp s.mdie o with
        mem := wrBytes (wrBytes (s.dropOp s.mdie o).mem (gSADDR (s.rec_ s.mrec)) (List.replicate 1024 0)) s.mrec (List.replicate 64 0) } : State).modDie s.mdie
      (fun D => { D with guards := D.guards.filter (· != s.mrec) })).ackTo o.req gOK 0).unholdDie s.mdie := by
  simp only [invack, hop, Nat.not_lt.mpr hlast, hk, if_false, if_true]

end

/-! ### The filter (R63) -/

theorem filtInstall_of_room (hfree : s.filtered (s.canon s.msg.pa) (dfld s.msg.aux0 0 32) = false)
    (hroom : (s.die (s.pieceDie (s.canon s.msg.pa))).filter.length < filterRoom (s.pieceDie (s.canon s.msg.pa))) :
    filtInstall s = (s.modDie (s.pieceDie (s.canon s.msg.pa))
      (fun D => { D with filter := D.filter ++ [⟨s.canon s.msg.pa, dfld s.msg.aux0 0 32, s.msg.aux1.toNat⟩] })).answerMgr .ack := by
  simp only [filtInstall, hfree, Nat.not_le.mpr hroom, Bool.false_eq_true, if_false]

end

/-- Settles O47: each clause is the branch of its request's function that a lemma above names. -/
theorem guardManagerEvents : Obligations.GuardManagerEvents := by
  unfold Obligations.GuardManagerEvents
  intro s m pa vd r D
  refine ⟨fun hidle => ⟨?_, ?_, ?_, ?_⟩, fun hlive => ⟨?_, ?_, ?_, ?_⟩, ?_, ?_, ?_, ?_, ?_, ?_, ?_, ?_, ?_, ?_, ?_, ?_, ?_⟩
  · exact fun st hc => congrArg Host.Outcome.next (acqreq_of_refused hidle hc)
  · exact fun hc hs => congrArg Host.Outcome.next (acqreq_of_stale hidle hc hs)
  · exact fun hc hs hq hst => congrArg Host.Outcome.next (acqreq_of_grantable hidle hc hs hq hst)
  · intro hc hs hst
    have hheld := acqreq_of_heldX hidle hc hs hst
    exact ⟨fun htry => congrArg Host.Outcome.next (hheld.trans (if_pos htry)), fun hwait hroom =>
      congrArg Host.Outcome.next (hheld.trans ((if_neg (ne_true_of_eq_false hwait)).trans (if_neg (Nat.not_le.mpr hroom))))⟩
  · exact fun hshared => congrArg Host.Outcome.next (relreq_of_shared hlive hshared)
  · exact fun hexcl hmap => congrArg Host.Outcome.next (relreq_of_unchanged hlive hexcl hmap)
  · exact fun hexcl hmap hv => congrArg Host.Outcome.next (relreq_of_changed hlive hexcl hmap hv rfl)
  · exact fun hexcl hmap hv => congrArg Host.Outcome.next (relreq_of_wrap hlive hexcl hmap hv)
  · exact fun q hwithdraw hq => congrArg Host.Outcome.next (wdraw_of_waiting hwithdraw hq)
  · exact fun hwithdraw hq => congrArg Host.Outcome.next (wdraw_of_granted hwithdraw hq)
  · exact fun h => congrArg Host.Outcome.next (gredo_of_last h)
  · intro o hfirst hop req
    exact ⟨fun hm => congrArg Host.Outcome.next (gredo_of_home hfirst hop (.inl hm)),
      fun haway hov howner => congrArg Host.Outcome.next (gredo_of_owner hfirst hop haway hov howner),
      fun hgone hshared => congrArg Host.Outcome.next (gredo_of_home hfirst hop (.inr ⟨hgone, hshared⟩))⟩
  · intro arr hidle hgroup hg
    have hapart := any_overlaps_eq_false hg
    exact ⟨fun hnew hroom => congrArg Host.Outcome.next (gadmBinit_of_new hidle hgroup hapart hnew hroom),
      fun hguard hpoison => congrArg Host.Outcome.next (gadmBinit_of_guard hidle hgroup hapart hguard hpoison)⟩
  · intro mine asks ps hidle
    exact ⟨fun hmore => congrArg Host.Outcome.next (gadmBind_of_more hidle hmore), fun hlast hguard hinit hasid hpoison hunbound hp =>
      congrArg Host.Outcome.next (gadmBind_of_last hidle hguard hinit hasid hpoison hlast hunbound hp)⟩
  · intro hidle hguard hinit hasid hpoison
    exact ⟨fun hbusy => ⟨congrArg Host.Outcome.next (gadmUnbind_of_busy hidle hguard hinit hasid hpoison hbusy),
        congrArg Host.Outcome.next (gadmUnbind_of_busy hidle hguard hinit hasid hpoison hbusy)⟩,
      fun hfree hq hbound hov => ⟨congrArg Host.Outcome.next (gadmUnbind_of_bound hidle hguard hinit hasid hpoison hfree hq hbound hov),
        congrArg Host.Outcome.next (gadmUnbind_of_bound hidle hguard hinit hasid hpoison hfree hq hbound hov)⟩,
      fun hfree hq hunbound => ⟨congrArg Host.Outcome.next (gadmUnbind_of_unbound hidle hguard hinit hasid hpoison hfree hq hunbound),
        congrArg Host.Outcome.next (gadmUnbind_of_unbound hidle hguard hinit hasid hpoison hfree hq hunbound)⟩⟩
  · exact congrArg Host.Outcome.next (wbnote_eq s)
  · exact ⟨fun o hop hshared => congrArg Host.Outcome.next (served_of_shared hop hshared), fun hop => congrArg Host.Outcome.next (served_of_none hop)⟩
  · exact fun hops hov howner => congrArg Host.Outcome.next ((notretained_of_noOps hops).trans (if_pos ⟨hov, howner⟩))
  · exact fun hops hov => congrArg Host.Outcome.next ((notretained_of_noOps hops).trans (if_neg fun ⟨howned, _⟩ => ne_true_of_eq_false hov howned))
  · exact fun o hop => ⟨fun hmore => congrArg Host.Outcome.next (invack_of_more hop hmore),
      fun hlast hk => congrArg Host.Outcome.next (invack_of_lastRetire hop hlast hk)⟩
  · intro d p hfree hroom
    have hlen : dfld m.aux0 0 32 = m.aux0.toNat % 2 ^ 32 := dfld_low m.aux0 32
    have hp : (⟨pa, dfld m.aux0 0 32, m.aux1.toNat⟩ : FiltPiece) = p := by rw [hlen]
    refine ⟨congrArg Host.Outcome.next ((filtInstall_of_room (hlen ▸ hfree) hroom).trans ?_), rfl⟩
    rw [← hp]
    rfl

end Sys2Proof.Machine
end

section
/-! O48: what each message of a guard's manager, of a copy's owner or of another tile does where it arrives, one lemma for each branch that a clause names. -/

namespace Sys2Proof.Machine
open Sys2Proof

section
variable {s : State} {e : RngEntry}

/-! ### Grants and delivered units (R67, R74, R85) -/

/-- A PENDING entry takes the granted VERSION and the list of sub-blocks. -/
def RngEntry.takeGrant (m : Msg) (e : RngEntry) : RngEntry := { e with ver := m.aux4.toNat % 2 ^ 32, listed := msgMap m, granted := true }

/-- A PENDING entry counts a delivered unit, and keeps the CRC that comes with the last one. -/
def RngEntry.takeUnit (m : Msg) (e : RngEntry) : RngEntry :=
  { e with received := e.received + 1, crc := if wbit m.attr 21 then some (m.aux0.toNat % 2 ^ 32) else e.crc }

theorem grant_of_pending (he : (s.tile s.dstTile).rngAt s.msg.slot s.msg.pa = some e) (hp : e.pending = true) :
    grant s = (s.modTile s.dstTile (fun T => T.rngMod s.msg.slot s.msg.pa (RngEntry.takeGrant s.msg))).checkDelivery s.dstTile (e.takeGrant s.msg) := by
  simp only [grant, he, hp, dfld_low, Bool.not_true, Bool.false_eq_true, if_false]
  rfl

theorem grant_of_absent (he : (s.tile s.dstTile).rngAt s.msg.slot s.msg.pa = none) : grant s = s := by
  simp only [grant, he]

theorem gdata_of_writeback (hwb : wbit s.msg.attr 20 = true) (hdec : s.decodes (eidDie s.msg.dst) (s.canon s.msg.pa) = true)
    (hres : s.reserved (s.canon s.msg.pa) s.msg.data.length = false) :
    gdata s = ((s.performOut (eidDie s.msg.dst) (s.canon s.msg.pa) s.msg.data).poisonCells (s.canon s.msg.pa) (wfld s.msg.attr 24 4)).answer .wrack id := by
  simp only [gdata, hwb, hdec, hres, Bool.not_true, Bool.false_eq_true, if_false, if_true]

theorem gdata_of_delivery (hunit : wbit s.msg.attr 20 = false) (hbank : (s.tile s.dstTile).bankHeld 8 (s.msg.pa % 2 ^ 22) s.msg.data.length = false)
    (he : (s.tile s.dstTile).rng.find? (fun e => e.pending && e.inCopy (s.msg.pa % 2 ^ 22) 1) = some e) :
    gdata s = ((s.homeWrite s.msg.pa s.msg.data).modTile s.dstTile
      (fun T => { T with rng := updWhere (fun x => x == e) (RngEntry.takeUnit s.msg) T.rng })).checkDelivery s.dstTile (e.takeUnit s.msg) := by
  have hoff : nfld s.msg.pa 0 22 = s.msg.pa % 2 ^ 22 := by simp [nfld]
  simp only [gdata, hunit, hoff, hbank, he, dfld_low, Bool.false_eq_true, if_false]
  rfl

/-! ### Denials and acknowledgements (R61, R78, R393) -/

theorem deny_of_stale (h : wbit s.msg.attr 22 = true) : deny s = s.send .req .rd { s.mgrMsg s.dstTile s.msg.slot s.msg.pa s.msg.tag with len := 15 } := by
  simp only [deny, h, if_true]

theorem deny_of_status (h : wbit s.msg.attr 22 = false) : deny s = s.acqFail s.dstTile s.msg.slot s.msg.pa s.msg.tag (wfld s.msg.attr 8 4) := by
  simp only [deny, h, Bool.false_eq_true, if_false]

theorem ack_of_guardOp {n path pa la rd : Nat} (hm : s.msg.memd = false) (hrel : s.msg.tag ≠ 65535) (hwd : s.msg.tag ≠ 65534)
    (hp : (s.slot s.dstTile s.msg.slot).getPend s.msg.tag = some ⟨n, path, pa, la, .guardOp rd false⟩) :
    ack s = s.outcome s.dstTile s.msg.slot s.msg.tag rd (BitVec.ofNat 32 (wfld s.msg.attr 8 4)) := by
  simp only [ack, State.tileAck, hm, hrel, hwd, hp, Bool.false_eq_true, if_false]

theorem wrack_of_writeback {n path pa la grec : Nat} (ht : isComputeTile s.dstTile = true) (hu : isMcUnit s.msg.dst = false)
    (hp : (s.slot s.dstTile s.msg.slot).getPend s.msg.tag = some ⟨n, path, pa, la, .wb grec⟩) :
    wrack s = (s.donePend s.dstTile s.msg.slot n).wbStep s.dstTile s.msg.slot grec := by
  simp only [wrack, State.tileWrack, ht, hu, hp, Bool.not_true, Bool.false_eq_true, if_false]

/-! ### Forwards at the owner (R67, R74, R78) -/

theorem fwdOwner_of_noOwner {serve : Bool} {i : Instr} (h : (s.tile s.dstTile).ownerEntry s.msg.pa = none) :
    fwdOwner serve true i s = s.answerMgr .notretained := by
  simp only [fwdOwner, h, if_true]

theorem fwdOwner_of_noServer {serve : Bool} {i : Instr} (h : (s.tile s.dstTile).serveEntry s.msg.pa = none) :
    fwdOwner serve false i s = s.answerMgr .notretained := by
  simp only [fwdOwner, h, Bool.false_eq_true, if_false]

theorem fwdRecall_of_noOwner (h : (s.tile s.dstTile).ownerEntry s.msg.pa = none) : fwdRecall s = s.answerMgr .notretained := by
  simp only [fwdRecall, h]

/-- The listed units of a copy go to the requester that the message names. -/
def State.serveFrom (s : State) (e : RngEntry) : State :=
  let r := s.readChecks ((mapUnits (msgMap s.msg) e.size).map (fun u => s.spPa s.dstTile (e.spoff + u))) 256 (s.ctxName s.dstTile e.slot)
  r.serveUnits s.msg.dst (dfld s.msg.aux4 0 24) (dfld s.msg.aux4 24 22) e.size (msgMap s.msg) s.msg.slot e.ver
    (fun u => (rdBytes r.mem (r.spPa s.dstTile (e.spoff + u)) 256, r.eccBad (r.spPa s.dstTile (e.spoff + u)) 256))

/-- An entry owns its copy no longer; `sent` that it was served from at the same time. -/
def State.demote (s : State) (t : Nat) (e : RngEntry) (sent : Bool) : State :=
  s.modTile t (fun T => { T with rng := updWhere (fun x => x == e) (fun x => { x with own := false, demoted := sent, st := if x.st = 4 then 5 else x.st }) T.rng })

theorem serveEntry_of_owner {T : Tile} {grec : Nat} (h : T.ownerEntry grec = some e) : T.serveEntry grec = some e := by
  simp only [Tile.serveEntry, h]

theorem units_unheld {T : Tile} (h : ∀ u, u ∈ mapUnits (msgMap s.msg) e.size → T.bankHeld 8 (e.spoff + u) 256 = false) :
    (mapUnits (msgMap s.msg) e.size).any (fun u => T.bankHeld 8 (e.spoff + u) 256) = false := by
  rw [List.any_eq_false]
  exact fun u hu => ne_true_of_eq_false (h u hu)

section
variable (he : (s.tile s.dstTile).ownerEntry s.msg.pa = some e)
include he

theorem fwdRecall_of_owner : fwdRecall s = s.writeBack s.dstTile e := by
  simp only [fwdRecall, he]

theorem fwdDemote_of_owner {i : Instr} : fwdOwner false true i s = (s.demote s.dstTile e false).answerMgr .served := by
  simp only [fwdOwner, he, Bool.false_and, Bool.false_eq_true, if_false, if_true]
  rfl

variable (hbank : ∀ u, u ∈ mapUnits (msgMap s.msg) e.size → (s.tile s.dstTile).bankHeld 8 (e.spoff + u) 256 = false)
include hbank

theorem fwdServe_of_owner {i : Instr} : fwdOwner true false i s = (s.serveFrom e).answerMgr .served := by
  simp only [fwdOwner, serveEntry_of_owner he, units_unheld hbank, Bool.true_and, Bool.false_eq_true, if_false, if_true]
  rfl

theorem fwdServeDemote_of_owner {i : Instr} : fwdOwner true true i s = ((s.serveFrom e).demote s.dstTile e true).answerMgr .served := by
  simp only [fwdOwner, he, units_unheld hbank, Bool.true_and, Bool.false_eq_true, if_false, if_true]
  rfl

end

end

/-- Settles O48: each clause is the branch of its message's function that a lemma above names. -/
theorem guardTileEvents : Obligations.GuardTileEvents := by
  unfold Obligations.GuardTileEvents
  intro s m t T
  refine ⟨?_, ?_, ?_, ?_, ?_, ?_, ?_, ⟨?_, ?_⟩, ?_, ?_, ?_⟩
  · exact fun e he hp => congrArg Host.Outcome.next (grant_of_pending he hp)
  · exact fun he => congrArg Host.Outcome.next (grant_of_absent he)
  · exact fun hwb hdec hres => congrArg Host.Outcome.next (gdata_of_writeback hwb hdec hres)
  · exact fun e hunit hbank he => congrArg Host.Outcome.next (gdata_of_delivery hunit hbank he)
  · exact fun h => congrArg Host.Outcome.next (deny_of_stale h)
  · exact fun h => congrArg Host.Outcome.next (deny_of_status h)
  · exact fun n path pa la rd hm hrel hwd hp => congrArg Host.Outcome.next (ack_of_guardOp hm hrel hwd hp)
  · rintro he i (rfl | rfl | rfl)
    · exact congrArg Host.Outcome.next (fwdOwner_of_noOwner he)
    · exact congrArg Host.Outcome.next (fwdOwner_of_noOwner he)
    · exact congrArg Host.Outcome.next (fwdRecall_of_noOwner he)
  · exact fun he => congrArg Host.Outcome.next (fwdOwner_of_noServer he)
  · exact fun n path pa la grec ht hu hp => congrArg Host.Outcome.next (wrack_of_writeback ht hu hp)
  · intro e he hbank r serve demote done
    have hserve : s.serveFrom e = serve := by
      simp only [State.serveFrom, dfld_low]
      rfl
    rw [← hserve]
    exact ⟨congrArg Host.Outcome.next (fwdServe_of_owner he hbank), congrArg Host.Outcome.next (fwdDemote_of_owner he),
      congrArg Host.Outcome.next (fwdServeDemote_of_owner he hbank), congrArg Host.Outcome.next (fwdRecall_of_owner he)⟩
  · exact rfl

end Sys2Proof.Machine
end

section
/-! O15: an atomic whose checks pass asks the home of its word and commits. -/

namespace Sys2Proof.Machine
open Sys2Proof

section
variable {s s1 : State} {d : Reg} {sg : BitVec 3} {a b : Src} {x v e : Word} {p : P0} {i : Instr} {op : Nat}

/-- The state in which an atomic of the place `p` has committed: its home is asked for the word, and what is to be done with it is kept (R99). -/
def State.atomicAsked (s1 : State) (d : Reg) (v : Word) (p : P0) (srcs : List Src) (op : Nat) (e : Word) : State :=
  ((((consume srcs s1).modTh (fun h => h.markEmpty d.toNat)).p0Send .rsv p.pa p.la 4 (.atomic d.toNat op v e) 0).modTh (fun h => h.commit)).touchLocal p.pa

variable (ho : Ordinary s) (hd : LaterReady d s) (hheld : s1.th.lineHeld (s1.tileEid s1.cur.1) p.pa = false)
include ho hd hheld

theorem atomic_of_place (hop : op ≠ 12) (hx : Delivers [a, b] a.r s x) (hv : Delivers [a, b] b.r s v)
    (hp : p0Place rAtomic 3 sg.toNat x.toNat 4 op s = .ok (p, s1)) :
    atomic i op d sg a b s = .ok (s1.atomicAsked d v p [a, b] op 0) := by
  have henter : enter i .memory false 0 s = .ok () := enter_ordinary i .memory false 0 s ho (Nat.zero_le _)
  simp only [atomic, henter, hop, hx i, hv i, hd i, hp, hheld, bind, Except.bind, if_false, Bool.false_eq_true]
  rfl

theorem cas_of_place (hx : Delivers [a, b, plain d] a.r s x) (hv : Delivers [a, b, plain d] b.r s v) (he : Delivers [a, b, plain d] d s e)
    (hp : p0Place rAtomic 3 sg.toNat x.toNat 4 12 s = .ok (p, s1)) :
    atomic i 12 d sg a b s = .ok (s1.atomicAsked d v p [a, b, plain d] 12 e) := by
  have henter : enter i .memory false 0 s = .ok () := enter_ordinary i .memory false 0 s ho (Nat.zero_le _)
  simp only [atomic, henter, hx i, hv i, he i, hd i, hp, hheld, bind, Except.bind, if_true, if_false, Bool.false_eq_true]
  rfl

end

/-- Settles O15: every atomic but CAS, SWAP and the `.C` forms among them, is `atomic_of_place` with its own operation; CAS also reads
its rd. -/
theorem atomicsIssue : Obligations.AtomicsIssue := by
  unfold Obligations.AtomicsIssue
  intro s s1 d sg a b x v e p ho hd hheld found asked
  refine ⟨fun hx hv => ?_, fun hx hv he hp => congrArg finish (cas_of_place ho hd hheld hx hv he hp)⟩
  have asks (i : Instr) {op : Nat} (hop : op ≠ 12) (hp : found op) : finish (atomic i op d sg a b s) = .next (asked [a, b] op 0) :=
    congrArg finish (atomic_of_place ho hd hheld hop hx hv hp)
  split_ands <;> exact asks _ (by decide)

end Sys2Proof.Machine
end

section
/-! O16: FENCE, and what it waits for. -/

namespace Sys2Proof.Machine
open Sys2Proof

section
variable {s : State} {c : BitVec 3} {p : BitVec 8}

/-- A visitor runs FENCE too, and FENCE takes no tag (R54, R126). -/
theorem enter_fence (hshadow : s.th.shadow = none) (hpp : stPP s.th.st = false) : enter (.fence c p) .memory false 0 s = .ok () := by
  simp [enter, untagged, hshadow, hpp]

variable (hshadow : s.th.shadow = none) (hpp : stPP s.th.st = false)
include hshadow hpp

theorem fence_of_quiet (hbuf : s.th.cbuf = []) (hquiet : s.fenceWaits p.toNat c.toNat = false) :
    fence (.fence c p) c p s = .ok (s.modTh (fun h => h.commit)) := by
  simp only [fence, enter_fence hshadow hpp, hbuf, hquiet, bind, Except.bind, List.isEmpty_nil, Bool.not_true, Bool.or_self, Bool.false_eq_true, if_false]
  rfl

theorem fence_of_outstanding (h : s.th.cbuf ≠ [] ∨ s.fenceWaits p.toNat c.toNat = true) :
    fence (.fence c p) c p s = .error (s.block (.fencing p.toNat c.toNat)) := by
  have hwaits : (!s.th.cbuf.isEmpty || s.fenceWaits p.toNat c.toNat) = true := by simpa using h
  simp only [fence, enter_fence hshadow hpp, hwaits, bind, Except.bind, if_true]

end

/-- An outstanding access that a FENCE of the mask and scope waits for (R95). -/
def State.holdsFence (s : State) (t k mask scope judge : Nat) (q : Pend) : Prop :=
  mask.testBit q.path = true ∧ (match q.kind with
    | .mcast _ stamped => stamped = false ∨ 4 ≤ scope
    | .cw ctx => ctx = s.ctxName t k ∧ s.inScope judge scope q.pa = true
    | _ => s.inScope judge scope q.pa = true)

theorem slotWaits_iff (s : State) (t k mask scope judge : Nat) :
    s.slotWaits t k mask scope judge = true ↔
      (∃ q, q ∈ (s.slot t k).pend ∧ s.holdsFence t k mask scope judge q) ∨ s.pathBusy t k mask scope judge = true := by
  unfold State.slotWaits State.holdsFence
  simp only [Bool.or_eq_true, List.any_eq_true, Bool.and_eq_true]
  refine or_congr (exists_congr fun q => and_congr_right fun _ => and_congr_right fun _ => ?_) Iff.rfl
  cases q.kind <;> simp

theorem fenceWaits_iff (s : State) (mask scope : Nat) :
    s.fenceWaits mask scope = true ↔ s.slotWaits s.cur.1 s.cur.2 mask scope s.cur.1 = true ∨
      s.th.isVisitor = true ∧ ctxPkg s.th.origin = s.pkg ∧ s.slotWaits (ctxTile s.th.origin) (ctxSlot s.th.origin) mask scope s.cur.1 = true := by
  simp [State.fenceWaits, and_assoc]

/-- Settles O16: the two outcomes of FENCE, and what `slotWaits` counts at a slot. -/
theorem fenceWaitsForScope : Obligations.FenceWaitsForScope := by
  unfold Obligations.FenceWaitsForScope
  refine ⟨fun s c p hshadow hpp => ⟨fun hbuf hquiet => ⟨congrArg finish (fence_of_quiet hshadow hpp hbuf hquiet), ?_, ?_⟩,
    fun h => congrArg finish (fence_of_outstanding hshadow hpp h)⟩, fun s mask scope => ?_⟩
  · simp [Slot.commit]
  · simp [Slot.commit]
  · intro counts
    have hcounts (t k : Nat) : s.slotWaits t k mask scope s.cur.1 = true ↔ counts t k := slotWaits_iff ..
    rw [fenceWaits_iff, hcounts, hcounts]

end Sys2Proof.Machine
end

section
/-! O18: a group instruction that finds its record, and for all but JOIN its GMEM entry, sends its request or waits. -/

namespace Sys2Proof.Machine
open Sys2Proof

/-! ### What a translation leaves alone -/

/-- The same package, and the same slot whose turn it is: context names are read alike in both. -/
def SameNames (s t : State) : Prop := t.pkg = s.pkg ∧ t.cur = s.cur

theorem SameNames.ctxName {s t : State} (h : SameNames s t) : t.ctxName t.cur.1 t.cur.2 = s.ctxName s.cur.1 s.cur.2 := by
  obtain ⟨hpkg, hcur⟩ := h
  simp only [State.ctxName, hpkg, hcur]

theorem sameNames_dropNodes (s : State) (t asid la : Nat) : SameNames s (s.dropNodes t asid la) := by
  unfold State.dropNodes
  extract_lets mine
  split <;> exact ⟨rfl, rfl⟩

theorem sameNames_translate (s : State) (t asid la kind : Nat) : SameNames s (s.translate t asid la kind).2 := by
  unfold State.translate
  split
  · exact ⟨rfl, rfl⟩
  · split
    · exact ⟨rfl, rfl⟩
    · extract_lets s1
      have hs1 : SameNames s s1 := sameNames_dropNodes ..
      clear_value s1
      split
      · split
        · exact hs1
        · split <;> exact hs1
      · exact ⟨rfl, rfl⟩
      · exact hs1
      · exact hs1
      · exact hs1

theorem sameNames_of_portTranslate {accept : State → Nat → Bool} {la kind pa : Nat} {s s1 : State}
    (h : portTranslate accept la kind s = .ok (pa, s1)) : SameNames s s1 := by
  have htr := sameNames_translate s s.cur.1 s.th.asid la kind
  unfold portTranslate at h
  generalize s.translate s.cur.1 s.th.asid la kind = q at h htr
  obtain ⟨r, u⟩ := q
  cases r with
  | ok pa' lvl =>
    simp only at h
    split at h <;> cases h
    exact htr
  | _ => cases h

theorem sameNames_of_recAt {p : Place} {n pa : Nat} {s s1 : State} (h : recAt p n s = .ok (pa, s1)) : SameNames s s1 := by
  unfold recAt at h
  split at h
  · cases h
    exact ⟨rfl, rfl⟩
  · split at h
    · cases h
    · cases h
    · cases h
      exact ⟨rfl, rfl⟩
    · exact sameNames_of_portTranslate h

/-! ### The instructions -/

section
variable {s s1 s2 : State} {d : Reg} {sg : BitVec 3} {a b : Src} {x y cap : Word} {pa arr j : Nat} {rp ap : Place} {i : Instr}
variable (ho : Ordinary s) (hd : LaterReady d s) (hspace : groupSpace pa = true)
include ho hd

theorem groupPlace_of_place (hx : Delivers [a] a.r s x) (hp : recPlace rGroup sg.toNat x.toNat 64 64 s = .ok (pa, s1)) :
    groupPlace i d sg a s = .ok (pa, s1) := by
  simp only [groupPlace, enter_system_of_ordinary ho, hx i, hd i, hp, bind, Except.bind]

include hspace

theorem join_of_places (hx : Delivers ([a] ++ srcPair b) a.r s x) (hy : Delivers ([a] ++ srcPair b) b.r s y)
    (hc : Delivers ([a] ++ srcPair b) (b.r + 1) s cap) (hlt : cap.toNat < 2 ^ 16)
    (hr : recSeg rGroup sg.toNat x.toNat 64 64 s = .ok rp) (ha : recSeg rGroup sg.toNat y.toNat (4 * max cap.toNat 1) 64 s = .ok ap)
    (hpa : recAt rp 64 s = .ok (pa, s1)) (harr : recAt ap (4 * max cap.toNat 1) s1 = .ok (arr, s2)) (hspace' : groupSpace arr = true)
    (hdie : pa / 2 ^ 37 = arr / 2 ^ 37) (hroom : s2.th.gmemUsed < 8) (hnew : s2.th.member pa = none) (hasked : pa ∉ s2.th.joining) :
    join i d sg a b s = .ok ((s2.committedLater ([a] ++ srcPair b) d).ask .grpreqJoin pa (.group d.toNat gqJoin 0)
      (fun m => { m with aux0 := BitVec.ofNat 64 (s.ctxName s.cur.1 s.cur.2), aux1 := BitVec.ofNat 64 arr, aux2 := BitVec.ofNat 64 cap.toNat })) := by
  obtain ⟨hrseg, hralign⟩ := checks_of_recSeg hr
  obtain ⟨haseg, haalign⟩ := checks_of_recSeg ha
  have hcap : wfld cap 0 16 = cap.toNat := (wfld_low cap 16).trans (Nat.mod_eq_of_lt hlt)
  simp only [join, enter_system_of_ordinary ho, hx i, hy i, hc i, hd i, wfld_above hlt, illValue_of_good, hcap, hrseg, haseg, hralign, haalign,
    hpa, harr, hspace, hspace', hdie, Nat.not_le.mpr hroom, hnew, List.contains_eq_mem, hasked, bind, Except.bind, Option.isSome_none,
    Bool.not_true, Bool.false_eq_true, Bool.or_self, decide_false, if_false, bne_self_eq_false]
  rfl

variable (hx : Delivers [a] a.r s x) (hp : recPlace rGroup sg.toNat x.toNat 64 64 s = .ok (pa, s1)) (hj : s1.th.member pa = some j)
include hx hp hj

theorem leave_of_member :
    leave i d sg a s = .ok (((s1.committedLater [a] d).ask .grpreqLeave pa (.group d.toNat (if s1.th.arrived j then gqLeaveArr else gqLeave) j)
      (fun m => { m with attr := BitVec.ofNat 32 (1 + b2n (s1.th.arrived j) * 8), aux0 := BitVec.ofNat 64 (s.ctxName s.cur.1 s.cur.2) })).modTh
        (fun h => { h with gmem := mset 0 h.gmem j 0 })) := by
  simp only [leave, groupPlace_of_place ho hd hx hp, hspace, hj, bind, Except.bind, Bool.not_true, Bool.false_eq_true, if_false]
  rfl

theorem bwait_of_arrived (harr : s1.th.arrived j = true) : bwait i d sg a s = .error (s1.parkBarrier j) := by
  simp only [bwait, groupPlace_of_place ho hd hx hp, hspace, hj, harr, bind, Except.bind, Bool.not_true, Bool.false_eq_true, if_false, if_true]

theorem bwait_of_released (harr : s1.th.arrived j = false) : bwait i d sg a s = .ok (commitWith [a] d 0 s1) := by
  simp only [bwait, groupPlace_of_place ho hd hx hp, hspace, hj, harr, bind, Except.bind, Bool.not_true, Bool.false_eq_true, if_false]
  rfl

end

/-- The state in which the arrival for GMEM entry j has been sent, ARR set (R104, R241). -/
def State.arrivalSent (s : State) (d : Reg) (a : Src) (pa j what : Nat) : State :=
  ((s.committedLater [a] d).modTh (fun h => h.setArr j true)).ask .grpreqArrive pa (.group d.toNat what j)
    (fun m => { m with attr := BitVec.ofNat 32 (2 + s.th.span j * 16), aux0 := BitVec.ofNat 64 (s.ctxName s.cur.1 s.cur.2) })

theorem arriveWith_of_fenced {s : State} {what : Nat} {d : Reg} {a : Src} {pa j : Nat} (hbuf : s.th.cbuf = []) (hquiet : s.fenceWaits 0x0F (s.th.span j) = false) :
    arriveWith what d a pa j s = .ok (s.arrivalSent d a pa j what) := by
  simp only [arriveWith, fenceFirst, hbuf, hquiet, bind, Except.bind, List.isEmpty_nil, Bool.not_true, Bool.or_self, Bool.false_eq_true, if_false]
  rfl

section
variable {s s1 : State} {d : Reg} {sg : BitVec 3} {a : Src} {x : Word} {pa j : Nat} {i : Instr}
variable (ho : Ordinary s) (hd : LaterReady d s) (hspace : groupSpace pa = true) (hx : Delivers [a] a.r s x)
  (hp : recPlace rGroup sg.toNat x.toNat 64 64 s = .ok (pa, s1)) (hj : s1.th.member pa = some j) (harr : s1.th.arrived j = false)
  (hbuf : s1.th.cbuf = []) (hquiet : s1.fenceWaits 0x0F (s1.th.span j) = false)
include ho hd hspace hx hp hj harr hbuf hquiet

theorem arrive_of_fenced : arrive i d sg a s = .ok (s1.arrivalSent d a pa j gqArrive) := by
  simp only [arrive, groupPlace_of_place ho hd hx hp, hspace, hj, harr, arriveWith_of_fenced hbuf hquiet, bind, Except.bind, Bool.not_true,
    Bool.false_eq_true, if_false]

theorem barw_of_fenced : barw i d sg a s = .ok ((s1.arrivalSent d a pa j gqBarw).parkBarrier j) := by
  simp only [barw, groupPlace_of_place ho hd hx hp, hspace, hj, harr, arriveWith_of_fenced hbuf hquiet, bind, Except.bind, Bool.not_true,
    Bool.false_eq_true, if_false]

end

/-- Settles O18: each instruction by its lemma above. An arrival names the context of the state after the record's translation, which is
the issuing thread's by `sameNames_of_recAt`. -/
theorem groupRequestsIssue : Obligations.GroupRequestsIssue := by
  unfold Obligations.GroupRequestsIssue
  intro s s1 s2 d sg a b x y cap pa arr j rp ap ho hd hspace marked me
  refine ⟨?_, fun hx hp hj => ⟨congrArg finish (leave_of_member ho hd hspace hx hp hj), fun harr hbuf hquiet => ?_,
    fun harr => congrArg finish (bwait_of_arrived ho hd hspace hx hp hj harr), fun harr => congrArg finish (bwait_of_released ho hd hspace hx hp hj harr)⟩⟩
  · exact fun hx hy hc hlt hr ha hpa harr hspace' hdie hroom hnew hasked =>
      congrArg finish (join_of_places ho hd hspace hx hy hc hlt hr ha hpa harr hspace' hdie hroom hnew hasked)
  · intro sent
    obtain ⟨p, -, hat⟩ := recPlace_ok_iff.mp hp
    have hsent (what : Nat) : s1.arrivalSent d a pa j what = sent what := by
      simp only [State.arrivalSent, (sameNames_of_recAt hat).ctxName]
      rfl
    exact ⟨hsent 2 ▸ congrArg finish (arrive_of_fenced ho hd hspace hx hp hj harr hbuf hquiet),
      hsent 3 ▸ congrArg finish (barw_of_fenced ho hd hspace hx hp hj harr hbuf hquiet)⟩

end Sys2Proof.Machine
end

section
/-! O36: an answer at the tile, for each kind of access it can find under its tag. -/

namespace Sys2Proof.Machine
open Sys2Proof

section
variable {s : State} {tag path pa la rd : Nat}

/-- The access a message answers, found under its tag at the slot it names. -/
abbrev State.Answers (s : State) (p : Pend) : Prop := (s.slot s.dstTile s.msg.slot).getPend s.msg.tag = some p

section
variable (ht : isComputeTile s.dstTile = true)
include ht

theorem rdata_of_load {size : Nat} {sx : Bool} (hp : s.Answers ⟨tag, path, pa, la, .load rd size sx⟩) :
    rdata s = (s.fillLoad s.dstTile s.msg.slot rd size sx s.msg.aux0.toNat (wbit s.msg.attr 0)).donePend s.dstTile s.msg.slot tag := by
  simp only [rdata, ht, hp, Bool.not_true, Bool.false_eq_true, if_false]

theorem rdatab_of_segld {d sg r md : Nat} (hmgr : s.msg.memd = false) (hp : s.Answers ⟨tag, path, pa, la, .segld d sg r md⟩) :
    rdatab s = s.segArrived s.dstTile s.msg.slot tag d sg r md pa la (leNat s.msg.data) (s.msg.attr != 0) := by
  simp only [rdatab, ht, hmgr, hp, Bool.not_true, Bool.false_eq_true, if_false]

theorem wrack_of_store {n : Nat} (hunit : isMcUnit s.msg.dst = false) (hp : s.Answers ⟨tag, path, pa, la, .store n⟩) :
    wrack s = s.donePend s.dstTile s.msg.slot tag := by
  simp only [wrack, State.tileWrack, ht, hunit, hp, Bool.not_true, Bool.false_eq_true, if_false]

theorem rsvgnt_of_atomic {op : Nat} {w e : Word} {old : Word} (hold : BitVec.ofNat 32 s.msg.aux0.toNat = old)
    (hp : s.Answers ⟨tag, path, pa, la, .atomic rd op w e⟩) :
    rsvgnt s = ((s.release_ pa (!wbit s.msg.attr 0 && (op != 12 || old == e)) (atomicOp op old w e).toNat).fillReg s.dstTile s.msg.slot rd old
      (wbit s.msg.attr 0)).released s.dstTile s.msg.slot tag := by
  subst hold
  simp only [rsvgnt, ht, hp, Bool.not_true, Bool.false_eq_true, if_false]

theorem rsvgnt_of_post {add : Word} {e : Bool} (hp : s.Answers ⟨tag, path, pa, la, .post rd add e⟩) :
    rsvgnt s = ((s.release_ pa (!wbit s.msg.attr 0) (postValue s.msg.aux0.toNat add.toNat e)).fillReg s.dstTile s.msg.slot rd
      (BitVec.ofNat 32 s.msg.aux0.toNat) (wbit s.msg.attr 0)).released s.dstTile s.msg.slot tag := by
  simp only [rsvgnt, ht, hp, Bool.not_true, Bool.false_eq_true, if_false]

theorem err_of_access {p : Pend} (hmgr : s.msg.memd = false) (htag : s.msg.tag ≠ ctxTag) (hk : s.msg.slot < 8) (hp : s.Answers p) :
    err s = s.refusedAccess s.dstTile s.msg.slot p (wfld s.msg.attr 0 4) := by
  simp only [err, ht, hmgr, htag, Nat.mod_eq_of_lt hk, hp, Bool.not_true, Bool.false_eq_true, if_false, decide_false, Bool.false_and]

end

theorem atomicDone_of_released {u : State} {m : Msg} {t k : Nat} (hp : (u.slot t k).getPend tag = some ⟨tag, path, pa, la, .released⟩)
    (hpkg : eidPkg m.src = u.pkg) (hc : isComputeTile (eidTile m.src) = true) (ht : eidTile m.src = t) (hk : m.slot % 8 = k) (htag : m.tag = tag) :
    u.atomicDone m = u.donePend t k tag := by
  subst ht hk htag
  simp [State.atomicDone, hpkg, hc, hp]

theorem refusedAccess_of_lostLoad {t k size c : Nat} {sx : Bool} (hc : c = 7 ∨ c = 15) :
    s.refusedAccess t k ⟨tag, path, pa, la, .load rd size sx⟩ c = ((s.fillLoad t k rd size sx 0 true).lostAt t k pa c).donePend t k tag := by
  have hlost : (decide (1 ≤ c) && decide (c ≤ 5)) = false := by
    rcases hc with rfl | rfl <;> rfl
  simp only [State.refusedAccess, hlost, Bool.false_and, Bool.false_eq_true, if_false]

theorem refusedAccess_of_loadViolation {t k size c : Nat} {sx : Bool} (hlo : 1 ≤ c) (hhi : c ≤ 5) (hv : (s.slot t k).isVisitor = false) :
    s.refusedAccess t k ⟨tag, path, pa, la, .load rd size sx⟩ c =
      ((s.neverFilled t k rd (size == 8)).donePend t k tag).deferFor t k (if spaceOf pa = 3 then 0 else la) c pa := by
  simp only [State.refusedAccess, hlo, hhi, hv, decide_true, Bool.and_self, Bool.and_false, Bool.false_eq_true, if_false, if_true]
  rfl

end

/-- Settles O36: each answer by its lemma above; ERR goes by its cause, a lost access (log entries 22 and 100) or a violation. -/
theorem answersFillRegisters : Obligations.AnswersFillRegisters := by
  unfold Obligations.AnswersFillRegisters
  intro s tag path pa la rd m t k bad found v
  refine ⟨fun size sx hp ht => congrArg Host.Outcome.next (rdata_of_load ht hp), fun d sg r md hp ht hmgr => congrArg Host.Outcome.next (rdatab_of_segld ht hmgr hp),
    fun n hp ht hunit => congrArg Host.Outcome.next (wrack_of_store ht hunit hp), fun op w e hp ht => congrArg Host.Outcome.next (rsvgnt_of_atomic ht rfl hp),
    fun add err hp ht => congrArg Host.Outcome.next (rsvgnt_of_post ht hp), fun u hp hpkg hc ht hk htag => atomicDone_of_released hp hpkg hc ht hk htag,
    fun size sx hp ht hmgr htag => ⟨fun hc hk => ?_, fun hlo hhi hk hv => ?_⟩⟩
  all_goals
    have hcause : wfld s.msg.attr 0 4 = m.attr.toNat % 16 := wfld_low s.msg.attr 4
    refine congrArg Host.Outcome.next ((err_of_access ht hmgr htag hk hp).trans ?_)
    rw [hcause]
  · exact refusedAccess_of_lostLoad hc
  · exact refusedAccess_of_loadViolation hlo hhi hv

end Sys2Proof.Machine
end

section
/-! O37: the causes of a thread in the order they are taken, and what ends a block. -/

namespace Sys2Proof.Machine
open Sys2Proof

section
variable {s : State}

/-! ### Pending causes (R324) -/

/-- The slot of the event that is taken. -/
abbrev State.argSlot (s : State) : Slot := s.slot s.arg.t s.arg.k

/-- The event's slot issues next. -/
abbrev State.atArg (s : State) : State := { s with cur := (s.arg.t, s.arg.k) }

/-- The slot's thread is at an instruction boundary of its own: ready, its implicit fence not passed, on no predicted path, no visitor. -/
structure Slot.AtBoundary (h : Slot) : Prop where
  ready : h.isReady = true
  unfenced : h.fenced = false
  unpredicted : h.shadow = none
  native : h.isVisitor = false

section
variable (hb : s.argSlot.AtBoundary)
include hb

theorem takeCause_eq : s.atArg.takeCause =
    match s.argSlot.pendMchk with
    | some sub => s.atArg.trap tMCHK sub 0
    | none => match s.argSlot.pendRange with
      | r :: rest => (s.atArg.modTh (fun h => { h with pendRange := rest })).trap tRANGE r.1 (BitVec.ofNat 32 r.2)
      | [] => match s.argSlot.pendLock with
        | some m => (s.atArg.modTh (fun h => { h with pendLock := none })).trap tTIMER 1 m
        | none => (s.atArg.modTh (fun h => { h with pendTimer := false })).trap tTIMER 0 0 := by
  have hpath : s.atArg.leavePath = s.atArg := by
    have hth : s.atArg.th.shadow = none := hb.unpredicted
    simp only [State.leavePath, hth]
  have hv : s.atArg.th.isVisitor = false := hb.native
  simp only [State.takeCause, hpath, hv, Bool.false_eq_true, if_false]
  rfl

theorem pendingCauseTaken_of_cause (hc : s.argSlot.hasCause = true) : pendingCauseTaken s = s.atArg.takeCause := by
  have hgo : (s.argSlot.isReady && s.argSlot.hasCause) = true := by rw [hb.ready, hc, Bool.and_self]
  exact if_pos hgo

theorem pendingCauseTaken_of_mchk {n : Nat} (hm : s.argSlot.pendMchk = some n) : pendingCauseTaken s = s.atArg.trap tMCHK n 0 := by
  have hc : s.argSlot.hasCause = true := by simp [Slot.hasCause, hb.unfenced, hm]
  rw [pendingCauseTaken_of_cause hb hc, takeCause_eq hb, hm]

theorem pendingCauseTaken_of_range {r : Nat × Nat} {rest : List (Nat × Nat)} (hm : s.argSlot.pendMchk = none) (hr : s.argSlot.pendRange = r :: rest) :
    pendingCauseTaken s = (s.atArg.modTh (fun h => { h with pendRange := rest })).trap tRANGE r.1 (BitVec.ofNat 32 r.2) := by
  have hc : s.argSlot.hasCause = true := by simp [Slot.hasCause, hb.unfenced, hr]
  rw [pendingCauseTaken_of_cause hb hc, takeCause_eq hb, hm, hr]

theorem pendingCauseTaken_of_lock {m : Word} (hm : s.argSlot.pendMchk = none) (hr : s.argSlot.pendRange = []) (hl : s.argSlot.pendLock = some m) :
    pendingCauseTaken s = (s.atArg.modTh (fun h => { h with pendLock := none })).trap tTIMER 1 m := by
  have hc : s.argSlot.hasCause = true := by simp [Slot.hasCause, hb.unfenced, hb.unpredicted, hl]
  rw [pendingCauseTaken_of_cause hb hc, takeCause_eq hb, hm, hr, hl]

theorem pendingCauseTaken_of_timer (hm : s.argSlot.pendMchk = none) (hr : s.argSlot.pendRange = []) (hl : s.argSlot.pendLock = none)
    (ht : s.argSlot.pendTimer = true) (hi : stINH s.argSlot.st = false) :
    pendingCauseTaken s = (s.atArg.modTh (fun h => { h with pendTimer := false })).trap tTIMER 0 0 := by
  have hc : s.argSlot.hasCause = true := by simp [Slot.hasCause, hb.unfenced, hb.unpredicted, ht, hi]
  rw [pendingCauseTaken_of_cause hb hc, takeCause_eq hb, hm, hr, hl]

end

/-! ### Cleared blocks (R96, R104, R144) -/

section
variable {mask scope : Nat} (hfrozen : s.argSlot.frozen = false)

section
variable (hrun : s.argSlot.run = .blocked (.fencing mask scope))
include hrun hfrozen

theorem blockCleared_of_fenceOver (hbuf : s.argSlot.cbuf = []) (hquiet : s.atArg.fenceWaits mask scope = false) :
    blockCleared s = (s.setSlot s.arg.t s.arg.k { s.argSlot.commit with run := .ready, lastIssue := some (s.clock (vdOf s.arg.t)) }).quantumOut s.arg.t s.arg.k := by
  simp only [blockCleared, State.fenceDone, hrun, hfrozen, hbuf, hquiet, List.isEmpty_nil, Bool.not_true, Bool.or_self, Bool.false_eq_true, if_false]

theorem blockCleared_of_fenceWaiting (hwaits : s.atArg.fenceWaits mask scope = true) : blockCleared s = s := by
  simp only [blockCleared, State.fenceDone, hrun, hfrozen, hwaits, Bool.or_true, Bool.false_eq_true, if_false, if_true]

end

section
variable (hrun : s.argSlot.run = .blocked (.implicit mask scope))
include hrun hfrozen

theorem blockCleared_of_implicitOver (hbuf : s.argSlot.cbuf = []) (hquiet : s.atArg.fenceWaits mask scope = false) :
    blockCleared s = s.modSlot s.arg.t s.arg.k (fun h => { h with run := .ready, fenced := true }) := by
  simp only [blockCleared, hrun, hfrozen, hbuf, hquiet, List.isEmpty_nil, Bool.not_true, Bool.or_self, Bool.false_eq_true, if_false]

theorem blockCleared_of_implicitWaiting (hwaits : s.atArg.fenceWaits mask scope = true) : blockCleared s = s := by
  simp only [blockCleared, hrun, hfrozen, hwaits, Bool.or_true, Bool.false_eq_true, if_false, if_true]

end
end

theorem blockCleared_of_other {b : Block} (hrun : s.argSlot.run = .blocked b) (hfence : ∀ mask scope, b ≠ .fencing mask scope ∧ b ≠ .implicit mask scope)
    (hwaits : ¬(b = .dividing ∨ b = .answer ∨ b = .leaf ∨ b = .drain)) :
    blockCleared s = s.modSlot s.arg.t s.arg.k (fun h => { h with run := .ready }) := by
  unfold blockCleared
  simp only [hrun]
  split
  next h => cases h; exact absurd rfl (hfence _ _).1
  next h => cases h; exact absurd rfl (hfence _ _).2
  next h => cases h; exact if_neg hwaits
  next h => exact absurd rfl (h b)

/-! ### Timers and locks (R173, R298) -/

theorem timerExpire_of_present (h : (s.modSlot s.arg.t s.arg.k (fun h => { h with pendTimer := true })).visitorOf (s.ctxName s.arg.t s.arg.k) = none) :
    timerExpire s = s.modSlot s.arg.t s.arg.k (fun h => { h with pendTimer := true }) := by
  have hn : (s.modSlot s.arg.t s.arg.k (fun h => { h with pendTimer := true })).ctxName s.arg.t s.arg.k = s.ctxName s.arg.t s.arg.k := rfl
  simp only [timerExpire, hn, h]

theorem lockTimeout_of_due {l : LockRec} (h : (s.tile s.arg.t).locks.find? (fun l => l.slot == s.arg.k && decide (l.since + 4096 ≤ s.clock (vdOf s.arg.t))) = some l) :
    lockTimeout s = (s.unlockAll s.arg.t s.arg.k).modSlot s.arg.t s.arg.k (fun h => { h with pendLock := some l.mask }) := by
  simp only [lockTimeout, h]

end

/-- Settles O37: the causes at an instruction boundary, the two fences and any other block each by its lemma above. -/
theorem slotEvents : Obligations.SlotEvents := by
  unfold Obligations.SlotEvents
  intro s t k h here
  refine ⟨fun hready hfenced hshadow hv => ?_, fun mask scope hrun hfrozen hbuf => ⟨?_, ?_⟩, fun mask scope hrun hfrozen hbuf => ⟨?_, ?_⟩, ?_, rfl, rfl, rfl, ?_, ?_⟩
  · have hb : s.argSlot.AtBoundary := ⟨hready, hfenced, hshadow, hv⟩
    exact ⟨fun n hm => congrArg Host.Outcome.next (pendingCauseTaken_of_mchk hb hm),
      fun r rest hm hr => congrArg Host.Outcome.next (pendingCauseTaken_of_range hb hm hr),
      fun m hm hr hl => congrArg Host.Outcome.next (pendingCauseTaken_of_lock hb hm hr hl),
      fun hm hr hl ht hi => congrArg Host.Outcome.next (pendingCauseTaken_of_timer hb hm hr hl ht hi)⟩
  · exact fun hquiet => congrArg Host.Outcome.next (blockCleared_of_fenceOver hfrozen hrun hbuf hquiet)
  · exact fun hwaits => congrArg Host.Outcome.next (blockCleared_of_fenceWaiting hfrozen hrun hwaits)
  · exact fun hquiet => congrArg Host.Outcome.next (blockCleared_of_implicitOver hfrozen hrun hbuf hquiet)
  · exact fun hwaits => congrArg Host.Outcome.next (blockCleared_of_implicitWaiting hfrozen hrun hwaits)
  · exact fun b hrun hfence hdiv hans hleaf hdrain => congrArg Host.Outcome.next (blockCleared_of_other hrun hfence (by simp [hdiv, hans, hleaf, hdrain]))
  · exact fun hhome => congrArg Host.Outcome.next (timerExpire_of_present hhome)
  · exact fun l hl => congrArg Host.Outcome.next (lockTimeout_of_due hl)

end Sys2Proof.Machine
end

section
/-! O49: groups at their manager and at a member's tile, and watches at their home and at the tile that asked. -/

namespace Sys2Proof.Machine
open Sys2Proof

section
variable {s : State}

/-! ### The group manager (R150, R151) -/

/-- The record of a group that one more member has joined; while the barrier is arming it is counted as well. -/
def State.memberAdded (s : State) (arming : Bool) : State :=
  let s1 := s.recPut s.mrec 16 16 (uRELOAD (s.rec_ s.mrec) + 1)
  let s2 := if arming then s1.recPut s.mrec 32 16 (uCOUNT (s.rec_ s.mrec) + 1) else s1
  s2.recPut s.mrec 12 3 (max (uSPAN (s.rec_ s.mrec)) (spanOf (uANCHOR (s.rec_ s.mrec)) (ctxEid (s.msg.aux0.toNat % 2 ^ 27))))

/-- The record of a group that a member has left, and the answer to it. -/
def State.memberDropped (s : State) : State := (s.recPut s.mrec 16 16 (uRELOAD (s.rec_ s.mrec) - 1)).grpAnswer s.msg s.mrec uOK

section
variable (hguard : s.isGuard s.mdie s.mrec = false)
include hguard

section
variable (hgroup : s.isGroup s.mdie s.mrec = true)
include hgroup

theorem groupCheck_of_wrongAsid (ha : uASID (s.rec_ s.mrec) ≠ s.msg.asid) : s.groupCheck s.mdie s.mrec s.msg = some uWRONGASID := by
  simp only [State.groupCheck, hguard, hgroup, bne_iff_ne, ne_eq, ha, not_false_eq_true, Bool.not_true, Bool.false_eq_true, if_false, if_true]

theorem groupCheck_of_asid (ha : uASID (s.rec_ s.mrec) = s.msg.asid) : s.groupCheck s.mdie s.mrec s.msg = none := by
  simp only [State.groupCheck, hguard, hgroup, ha, bne_self_eq_false, Bool.not_true, Bool.false_eq_true, if_false]

theorem grpreqLeave_of_wrongAsid (ha : uASID (s.rec_ s.mrec) ≠ s.msg.asid) : grpreqLeave s = s.grpAnswer s.msg s.mrec uWRONGASID := by
  simp only [grpreqLeave, groupCheck_of_wrongAsid hguard hgroup ha]

theorem grpreqArrive_of_wrongAsid (ha : uASID (s.rec_ s.mrec) ≠ s.msg.asid) : grpreqArrive s = s.grpAnswer s.msg s.mrec uWRONGASID := by
  simp only [grpreqArrive, groupCheck_of_wrongAsid hguard hgroup ha]

theorem grpreqJoin_of_wrongAsid (ha : uASID (s.rec_ s.mrec) ≠ s.msg.asid) : grpreqJoin s = s.grpAnswer s.msg s.mrec uWRONGASID := by
  simp only [grpreqJoin, hguard, hgroup, bne_iff_ne, ne_eq, ha, not_false_eq_true, Bool.false_eq_true, if_false, if_true]

section
variable (ha : uASID (s.rec_ s.mrec) = s.msg.asid)
include ha

theorem grpreqJoin_of_full (hfull : uRELOAD (s.rec_ s.mrec) = uCAP (s.rec_ s.mrec)) : grpreqJoin s = s.grpAnswer s.msg s.mrec uFULL := by
  simp only [grpreqJoin, hguard, hgroup, ha, bne_self_eq_false, hfull, decide_true, Bool.true_or, Bool.false_eq_true, if_false, if_true]

theorem grpreqJoin_of_releasing (hroom : uRELOAD (s.rec_ s.mrec) ≠ uCAP (s.rec_ s.mrec)) (hst : uBST (s.rec_ s.mrec) ≠ 0) :
    grpreqJoin s = (s.memberAdded false).grpAnswer s.msg s.mrec uOK := by
  simp only [grpreqJoin, hguard, hgroup, ha, bne_self_eq_false, hroom, hst, dfld_low, decide_false, Bool.false_and, Bool.or_self, Bool.false_eq_true, if_false, if_true]
  rfl

theorem grpreqJoin_of_arming (hroom : uRELOAD (s.rec_ s.mrec) ≠ uCAP (s.rec_ s.mrec)) (hst : uBST (s.rec_ s.mrec) = 0)
    (hplace : uNARR (s.rec_ s.mrec) + uCOUNT (s.rec_ s.mrec) ≠ uCAP (s.rec_ s.mrec)) :
    grpreqJoin s = (s.memberAdded true).grpAnswer s.msg s.mrec uOK := by
  simp only [grpreqJoin, hguard, hgroup, ha, bne_self_eq_false, hroom, hst, hplace, dfld_low, decide_false, Bool.and_false, Bool.or_self, Bool.false_eq_true, if_false, if_true]
  rfl

theorem grpreqLeave_of_arrived (hbit : wbit s.msg.attr 3 = true) : grpreqLeave s = s.memberDropped := by
  simp only [grpreqLeave, groupCheck_of_asid hguard hgroup ha, hbit, if_true]
  rfl

theorem grpreqLeave_of_releasing (hbit : wbit s.msg.attr 3 = false) (hst : uBST (s.rec_ s.mrec) ≠ 0) : grpreqLeave s = s.memberDropped := by
  simp only [grpreqLeave, groupCheck_of_asid hguard hgroup ha, hbit, hst, Bool.false_eq_true, if_false]
  rfl

theorem grpreqLeave_of_awaited (hbit : wbit s.msg.attr 3 = false) (hst : uBST (s.rec_ s.mrec) = 0) (hmore : uCOUNT (s.rec_ s.mrec) ≠ 1) :
    grpreqLeave s = s.memberDropped.recPut s.mrec 32 16 (uCOUNT (s.rec_ s.mrec) - 1) := by
  simp only [grpreqLeave, groupCheck_of_asid hguard hgroup ha, hbit, hst, hmore, Bool.false_eq_true, if_false, if_true]
  rfl

theorem grpreqLeave_of_last (hbit : wbit s.msg.attr 3 = false) (hst : uBST (s.rec_ s.mrec) = 0) (hlast : uCOUNT (s.rec_ s.mrec) = 1) :
    grpreqLeave s = (s.memberDropped.recPut s.mrec 32 16 0).groupRelease s.mdie s.mrec := by
  simp only [grpreqLeave, groupCheck_of_asid hguard hgroup ha, hbit, hst, hlast, Bool.false_eq_true, if_false, if_true]
  rfl

theorem grpreqArrive_of_releasing (hst : uBST (s.rec_ s.mrec) = 1) : grpreqArrive s = s.holdDie s.mdie (evM .grpreqArrive s.msg) := by
  simp only [grpreqArrive, groupCheck_of_asid hguard hgroup ha, hst, if_true]

theorem grpreqArrive_of_smallFence (hst : uBST (s.rec_ s.mrec) = 0) (hspan : wfld s.msg.attr 4 3 < uSPAN (s.rec_ s.mrec)) :
    grpreqArrive s = s.grpAnswer s.msg s.mrec uRESPAN := by
  simp only [grpreqArrive, groupCheck_of_asid hguard hgroup ha, hst, hspan, zero_ne_one, if_false, if_true]

theorem grpreqArrive_of_fenced (hst : uBST (s.rec_ s.mrec) = 0) (hspan : uSPAN (s.rec_ s.mrec) ≤ wfld s.msg.attr 4 3) :
    grpreqArrive s = (s.grpAnswer s.msg s.mrec uOK).countArrival s.mdie s.mrec (s.msg.aux0.toNat % 2 ^ 27) := by
  simp only [grpreqArrive, groupCheck_of_asid hguard hgroup ha, hst, Nat.not_lt.mpr hspan, zero_ne_one, if_false, dfld_low]

theorem grpreqEngineArrival_of_arming (hst : uBST (s.rec_ s.mrec) = 0) (hok : s.arg.ok = true) :
    grpreqEngineArrival s = (s.grpAnswer s.msg s.mrec uOK).countArrival s.mdie s.mrec (s.msg.aux0.toNat % 2 ^ 27) := by
  simp only [grpreqEngineArrival, groupCheck_of_asid hguard hgroup ha, hst, hok, Bool.not_true, Bool.false_eq_true, zero_ne_one, if_false, dfld_low]

theorem grpreqEngineArrival_of_releasing (hst : uBST (s.rec_ s.mrec) = 1) (hok : s.arg.ok = true) :
    grpreqEngineArrival s = s.holdDie s.mdie (evM .grpreqEngineArrival s.msg) := by
  simp only [grpreqEngineArrival, groupCheck_of_asid hguard hgroup ha, hst, hok, Bool.not_true, Bool.false_eq_true, if_false, if_true]

end
end

section
variable (hnew : s.isGroup s.mdie s.mrec = false) (hfree : (s.die s.mdie).guards = [])
include hnew hfree

theorem grpreqJoin_of_noRoom (hcap : s.msg.aux2.toNat % 2 ^ 16 = 0) : grpreqJoin s = s.grpAnswer s.msg s.mrec uFULL := by
  simp only [grpreqJoin, hguard, hnew, hfree, dfld_low, hcap, List.any_nil, Bool.false_eq_true, if_false, if_true]

theorem grpreqJoin_of_new (hcap : s.msg.aux2.toNat % 2 ^ 16 ≠ 0) :
    grpreqJoin s = ((s.putRec s.mrec (1 + s.msg.asid % 512 * 2 ^ 3 + 1 * 2 ^ 16 + 1 * 2 ^ 32 + s.msg.aux2.toNat % 2 ^ 16 * 2 ^ 64 +
      s.canon s.msg.aux1.toNat / 64 % 2 ^ 50 * 2 ^ 128 + ctxEid (s.msg.aux0.toNat % 2 ^ 27) % 2 ^ 24 * 2 ^ 192)).modDie s.mdie
        (fun D => { D with groups := s.mrec :: D.groups })).grpAnswer s.msg s.mrec uOK := by
  simp only [grpreqJoin, hguard, hnew, hfree, dfld_low, hcap, List.any_nil, Bool.false_eq_true, if_false]

end
end

section
variable (hgroup : s.isGroup s.mdie s.mrec = true)
include hgroup

theorem grelack_of_last (hlast : uPEND (s.rec_ s.mrec) = 1) : grelack s = (s.recPut s.mrec 48 16 0).rearm s.mdie s.mrec := by
  simp only [grelack, hgroup, hlast, Bool.not_true, one_ne_zero, decide_false, Bool.or_self, Bool.false_eq_true, if_false, if_true, Nat.sub_self]

theorem grelack_of_more (hmore : 1 < uPEND (s.rec_ s.mrec)) : grelack s = s.recPut s.mrec 48 16 (uPEND (s.rec_ s.mrec) - 1) := by
  have hne0 : uPEND (s.rec_ s.mrec) ≠ 0 := Nat.ne_of_gt (Nat.zero_lt_of_lt hmore)
  have hne1 : uPEND (s.rec_ s.mrec) ≠ 1 := Nat.ne_of_gt hmore
  simp only [grelack, hgroup, hne0, hne1, Bool.not_true, decide_false, Bool.or_self, Bool.false_eq_true, if_false]

end

/-! ### Answers and releases at a member's tile (R104, R151, R154) -/

section
variable {n path rp la rd what j : Nat} (hp : s.Answers ⟨n, path, rp, la, .group rd what j⟩)
include hp

theorem grprsp_of_joined {f : Nat} (hw : what = gqJoin) (hst : wfld s.msg.attr 0 4 = uOK) (hf : (s.slot s.dstTile s.msg.slot).freeGmem = some f) :
    grprsp s = (s.modSlot s.dstTile s.msg.slot (fun h => { h with gmem := mset 0 h.gmem f (gmemWord rp false), gspan := mset 0 h.gspan f (wfld s.msg.attr 4 3) })).outcome
      s.dstTile s.msg.slot s.msg.tag rd 0 := by
  simp only [grprsp, hp, hw, hst, hf, if_true]
  rfl

theorem grprsp_of_left (hw : what = gqLeave ∨ what = gqLeaveArr) :
    grprsp s = s.outcome s.dstTile s.msg.slot s.msg.tag rd (BitVec.ofNat 32 (wfld s.msg.attr 0 4)) := by
  have hjoin : what ≠ gqJoin := by rcases hw with rfl | rfl <;> decide
  have hleave : (decide (what = gqLeave) || decide (what = gqLeaveArr)) = true := by simpa using hw
  simp only [grprsp, hp, hjoin, hleave, if_false, if_true]

theorem grprsp_of_arrival (hw : what = gqArrive) (hst : wfld s.msg.attr 0 4 = uOK) :
    grprsp s = (s.modSlot s.dstTile s.msg.slot (fun h => { h with gspan := mset 0 h.gspan j (wfld s.msg.attr 4 3) })).outcome s.dstTile s.msg.slot s.msg.tag rd 0 := by
  simp [grprsp, hp, hst, hw, gqJoin, gqLeave, gqLeaveArr, gqArrive, uOK, uRESPAN]

theorem grprsp_of_barw (hw : what = gqBarw) (hst : wfld s.msg.attr 0 4 = uOK) :
    grprsp s = (s.modSlot s.dstTile s.msg.slot (fun h => { h with gspan := mset 0 h.gspan j (wfld s.msg.attr 4 3) })).settle s.dstTile s.msg.slot s.msg.tag := by
  simp [grprsp, hp, hst, hw, gqJoin, gqLeave, gqLeaveArr, gqArrive, gqBarw, uOK, uRESPAN]

end

/-- The outstanding BARW of a record. -/
def isBarwOf (pa : Nat) (p : Pend) : Bool := p.pa == pa && (match p.kind with | .group _ 3 _ => true | _ => false)

/-- ARR of GMEM entry j is cleared, and its span is the record's (R151). -/
def State.memberReleased (s : State) (t k j span : Nat) : State := s.modSlot t k (fun h => { h.setArr j false with gspan := mset 0 h.gspan j span })

section
variable {t k j span : Nat}

theorem releaseMember_of_noBarw (hb : ((s.memberReleased t k j span).slot t k).pend.find? (isBarwOf (gmemRec (mget 0 (s.slot t k).gmem j))) = none) :
    s.releaseMember t k j span = ((s.memberReleased t k j span).wakeBarrier t k j).unholdTile t := by
  unfold State.releaseMember
  extract_lets pa s1 s2
  have hs2 : s2 = s1 := by
    unfold s2
    split
    next h => cases hb.symm.trans h
    next => rfl
  rw [hs2]
  rfl

theorem releaseMember_of_barw {tag path rp la rd x : Nat}
    (hb : ((s.memberReleased t k j span).slot t k).pend.find? (isBarwOf (gmemRec (mget 0 (s.slot t k).gmem j))) = some ⟨tag, path, rp, la, .group rd 3 x⟩) :
    s.releaseMember t k j span = (((s.memberReleased t k j span).outcome t k tag rd 0).wakeBarrier t k j).unholdTile t := by
  unfold State.releaseMember
  extract_lets pa s1 s2
  have hs2 : s2 = s1.outcome t k tag rd 0 := by
    unfold s2
    split
    next h => cases hb.symm.trans h; rfl
    next h => exact (h _ _ _ _ _ _ _ hb).elim
  rw [hs2]
  rfl

end

/-- The slot a release names (R151). -/
abbrev State.relSlot (s : State) : Nat := s.msg.aux0.toNat % 2 ^ 27 % 8

/-- The release is acknowledged, with whether it was latched (R154). -/
def State.relAnswered (s u : State) (latched : Word) : State := u.answer .grelack (fun q => { q with memd := true, aux0 := s.msg.aux0, attr := latched })

section
variable (hset : s.settling s.dstTile s.relSlot = false)
include hset

theorem grel_of_member {j : Nat} (hm : (s.slot s.dstTile s.relSlot).member s.msg.pa = some j) (harr : (s.slot s.dstTile s.relSlot).arrived j = true) :
    grel s = s.relAnswered (s.releaseMember s.dstTile s.relSlot j (wfld s.msg.attr 4 3)) 0 := by
  simp only [grel, ctxSlot, dfld_low, hset, hm, harr, Option.filter_some, Bool.false_eq_true, if_false, if_true]
  rfl

section
variable (hm : (s.slot s.dstTile s.relSlot).member s.msg.pa = none)
include hm

theorem grel_of_latched {f : FwdEntry} {j : Nat}
    (hf : ((s.tile s.dstTile).fwd.filter (fun f => f.slots.testBit s.relSlot)).findSome? (fun f => (s.latchable f s.relSlot s.msg.pa).map (fun j => (f, j))) = some (f, j)) :
    grel s = s.relAnswered { s with mem := wrLE s.mem (s.latchAddr f s.relSlot) 1 (rdLE s.mem (s.latchAddr f s.relSlot) 1 ||| 2 ^ j) } 1 := by
  simp only [grel, ctxSlot, dfld_low, hset, hm, hf, Option.filter_none, Bool.false_eq_true, if_false]
  rfl

theorem grel_of_stranger (hf : (s.tile s.dstTile).fwd.filter (fun f => f.slots.testBit s.relSlot) = []) : grel s = s.relAnswered s 0 := by
  simp only [grel, ctxSlot, dfld_low, hset, hm, hf, Option.filter_none, List.findSome?_nil, List.find?_nil, Bool.false_eq_true, if_false]
  rfl

end
end

/-! ### Watches (R242, R250) -/

section
variable {pa : Nat} (hh : atHome .watchInstall 0 8 false false s = .ok pa) (hd : s.decodes s.mdie s.mrec = true) (hspace : watchSpace s.mrec = true)
  (hin : outside pa = false)
include hh hd hspace hin

theorem watchInstall_of_home : watchInstall s = s.watchWith pa (rdLE s.mem pa 8) := by
  unfold State.mdie State.mrec at hd
  unfold State.mrec at hspace
  simp only [watchInstall, hd, hspace, hh, hin, Bool.not_true, Bool.or_self, Bool.false_eq_true, if_false]

theorem watchInstall_of_met (hhit : cwHit (rdLE s.mem pa 8) (s.msg.aux0.toNat % 2 ^ 63) = true) :
    watchInstall s = s.answer .watchrsp (fun q => { q with aux0 := BitVec.ofNat 64 (rdLE s.mem pa 8) }) := by
  simp only [watchInstall_of_home hh hd hspace hin, State.watchWith, dfld_low, hhit, if_true]

theorem watchInstall_of_unmet (hhit : cwHit (rdLE s.mem pa 8) (s.msg.aux0.toNat % 2 ^ 63) = false)
    (hroom : ((s.die (s.watchDie pa)).watches.filter (fun w => w.req.dst == s.msg.dst)).length < 256) :
    watchInstall s = s.modDie (s.watchDie pa) (fun D => { D with watches := D.watches ++ [⟨pa, s.msg.aux0.toNat % 2 ^ 63, s.msg⟩] }) := by
  simp only [watchInstall_of_home hh hd hspace hin, State.watchWith, dfld_low, hhit, Nat.not_le.mpr hroom, decide_false, Bool.and_false, Bool.false_eq_true, if_false]

end

theorem watchRetry_of_watch {tag wp la rd tv : Nat} (hp : (s.slot s.arg.t s.arg.k).getPend s.arg.n = some ⟨tag, 9, wp, la, .watch rd tv⟩) :
    watchRetry s = s.send .req .watchInstall { s.mgrMsg s.arg.t s.arg.k wp tag with aux0 := BitVec.ofNat 64 tv } := by
  simp only [watchRetry, hp]

section
variable {tag path wp la rd tv : Nat} (hc : isComputeTile s.dstTile = true) (htag : s.msg.tag < 16384) (hp : s.Answers ⟨tag, path, wp, la, .watch rd tv⟩)
include hc htag hp

theorem watchrsp_of_met (hst : wfld s.msg.attr 0 2 = 0) :
    watchrsp s = (s.outcome s.dstTile s.msg.slot tag rd (b2w (s.msg.aux0.getLsbD 63))).notifyAll s.dstTile := by
  simp only [watchrsp, State.tileWatchrsp, hc, Nat.not_le.mpr htag, hp, hst, false_and, Bool.not_true, Bool.false_eq_true, if_false, if_true]

theorem watchrsp_of_refused (hst : wfld s.msg.attr 0 2 = 1) : watchrsp s = s.after (vdOf s.dstTile) 1024 (evTKN .watchRetry s.dstTile s.msg.slot tag) := by
  simp only [watchrsp, State.tileWatchrsp, hc, Nat.not_le.mpr htag, hp, hst, false_and, one_ne_zero, Bool.not_true, Bool.false_eq_true, if_false, if_true]

end
end

/-- Settles O49: each clause is the branch of its event's function that a lemma above names. -/
theorem groupAndWatchEvents : Obligations.GroupAndWatchEvents := by
  unfold Obligations.GroupAndWatchEvents
  intro s m pa vd r t who rearmed released counted
  have hreleased (u : State) : u.groupRelease vd pa = released u := rfl
  have hcounted (u : State) : u.countArrival vd pa who = counted u := rfl
  refine ⟨fun hguard hgroup => ⟨fun ha => ?_, fun ha => ?_, ?_, ?_⟩, ?_, ?_, ?_, ?_, rfl, ?_, ?_⟩
  · exact ⟨congrArg Host.Outcome.next (grpreqJoin_of_wrongAsid hguard hgroup ha), congrArg Host.Outcome.next (grpreqLeave_of_wrongAsid hguard hgroup ha),
      congrArg Host.Outcome.next (grpreqArrive_of_wrongAsid hguard hgroup ha)⟩
  · refine ⟨?_, ?_, ?_, ?_, ?_, ?_, ?_, ?_, ?_, ?_, ?_, ?_⟩
    · exact fun hfull => congrArg Host.Outcome.next (grpreqJoin_of_full hguard hgroup ha hfull)
    · intro hroom hst
      have hne : uBST (s.rec_ s.mrec) ≠ 0 := fun h0 => by cases h0.symm.trans hst
      exact congrArg Host.Outcome.next (grpreqJoin_of_releasing hguard hgroup ha hroom hne)
    · exact fun hroom hst hplace => congrArg Host.Outcome.next (grpreqJoin_of_arming hguard hgroup ha hroom hst hplace)
    · exact fun hbit => congrArg Host.Outcome.next (grpreqLeave_of_arrived hguard hgroup ha hbit)
    · exact fun hbit hst hmore => congrArg Host.Outcome.next (grpreqLeave_of_awaited hguard hgroup ha hbit hst hmore)
    · exact fun hbit hst hlast => congrArg Host.Outcome.next ((grpreqLeave_of_last hguard hgroup ha hbit hst hlast).trans (hreleased _))
    · exact fun hbit hst => congrArg Host.Outcome.next (grpreqLeave_of_releasing hguard hgroup ha hbit hst)
    · exact fun hst => congrArg Host.Outcome.next (grpreqArrive_of_releasing hguard hgroup ha hst)
    · exact fun hst hspan => congrArg Host.Outcome.next (grpreqArrive_of_smallFence hguard hgroup ha hst hspan)
    · exact fun hst hspan => congrArg Host.Outcome.next ((grpreqArrive_of_fenced hguard hgroup ha hst hspan).trans (hcounted _))
    · exact fun hst hok => congrArg Host.Outcome.next ((grpreqEngineArrival_of_arming hguard hgroup ha hst hok).trans (hcounted _))
    · exact fun hst hok => congrArg Host.Outcome.next (grpreqEngineArrival_of_releasing hguard hgroup ha hst hok)
  · exact fun hlast => congrArg Host.Outcome.next (grelack_of_last hgroup hlast)
  · exact fun hmore => congrArg Host.Outcome.next (grelack_of_more hgroup hmore)
  · exact fun hguard hnew hfree => ⟨fun hcap => congrArg Host.Outcome.next (grpreqJoin_of_noRoom hguard hnew hfree hcap),
      fun hcap => congrArg Host.Outcome.next (grpreqJoin_of_new hguard hnew hfree hcap)⟩
  · intro n path rp la rd what j hp st span
    have hst : wfld s.msg.attr 0 4 = st := wfld_low s.msg.attr 4
    refine ⟨fun f hw h0 hf => congrArg Host.Outcome.next (grprsp_of_joined hp hw (hst.trans h0) hf), fun hw => congrArg Host.Outcome.next ?_,
      fun hw h0 => congrArg Host.Outcome.next (grprsp_of_arrival hp hw (hst.trans h0)), fun hw h0 => congrArg Host.Outcome.next (grprsp_of_barw hp hw (hst.trans h0))⟩
    rw [grprsp_of_left hp hw, hst]
    rfl
  · intro k fs done hset
    refine ⟨fun j hm harr => ?_, fun hm => ⟨fun f j hf => congrArg Host.Outcome.next (grel_of_latched hset hm hf), fun hf => congrArg Host.Outcome.next (grel_of_stranger hset hm hf)⟩⟩
    intro u barw
    have hgrel := grel_of_member hset hm harr
    exact ⟨fun hb => congrArg Host.Outcome.next (hgrel.trans (congrArg (done · 0) (releaseMember_of_noBarw hb))),
      fun tag path rp la rd x hb => congrArg Host.Outcome.next (hgrel.trans (congrArg (done · 0) (releaseMember_of_barw hb)))⟩
  · exact fun hh hd hspace hin => ⟨fun hhit => congrArg Host.Outcome.next (watchInstall_of_met hh hd hspace hin hhit),
      fun hhit hroom => congrArg Host.Outcome.next (watchInstall_of_unmet hh hd hspace hin hhit hroom)⟩
  · exact fun tag wp la rd tv hp => congrArg Host.Outcome.next (watchRetry_of_watch hp)
  · intro tag path wp la rd tv hc htag hp
    have hst : wfld s.msg.attr 0 2 = m.attr.toNat % 4 := wfld_low s.msg.attr 2
    exact ⟨fun h0 => congrArg Host.Outcome.next (watchrsp_of_met hc htag hp (hst.trans h0)),
      fun h1 => congrArg Host.Outcome.next (watchrsp_of_refused hc htag hp (hst.trans h1))⟩

end Sys2Proof.Machine
end

section
/-! O57: an arm of `exec` ends in `finish` or in `.next`, and nothing a step does around it makes another outcome of a next state. -/

namespace Sys2Proof.Machine
open Sys2Proof

/-- An outcome that is a next state. -/
def Proceeds (o : Out) : Prop := ∃ t, o = .next t

theorem Proceeds.next (s : State) : Proceeds (.next s) := ⟨s, rfl⟩

theorem Proceeds.ite {c : Prop} [Decidable c] {o p : Out} (ho : Proceeds o) (hp : Proceeds p) : Proceeds (if c then o else p) := by
  split
  · exact ho
  · exact hp

/-- Whatever an instruction or event meets (a trap, a park, a block, a message dropped) is a next state too: each arm of `exec` is a state
under `Outcome.next`. -/
theorem exec_proceeds (i : Instr) (s : State) : Proceeds (exec i s) := by
  cases i <;> exact ⟨_, rfl⟩

section
variable {s : State} {t k : Nat} {o : Out}

theorem Proceeds.checker (h : Proceeds o) (w : Nat) (s : State) : Proceeds (checker w s o) := by
  obtain ⟨u, rfl⟩ := h
  exact .ite (.next _) (.ite (.next _) (.ite (.next _) (.next _)))

theorem Proceeds.afterIssue (h : Proceeds o) : Proceeds (afterIssue t k o) := by
  obtain ⟨u, rfl⟩ := h
  exact .next _

theorem stepSlot_proceeds (t k : Nat) (s : State) : Proceeds (stepSlot t k s) := by
  unfold stepSlot
  split
  next s1 _ => exact .afterIssue (.next s1)
  next w i s1 _ => exact .afterIssue ((exec_proceeds i s1).checker w s1)

theorem stepTile_proceeds (t : Nat) (s : State) : Proceeds (stepTile t s) := by
  unfold stepTile
  split
  · exact stepSlot_proceeds ..
  · exact .next s

theorem stepEvent_proceeds (n : Nat) (s : State) : Proceeds (stepEvent n s) := by
  unfold stepEvent
  split
  · exact .next s
  · exact exec_proceeds ..

theorem stepChoice_proceeds (n : Nat) (s : State) : Proceeds (stepChoice n s) := by
  unfold stepChoice
  split
  · exact stepEvent_proceeds ..
  · exact .next s

theorem stepTurn_proceeds (t : Nat) (s : State) : Proceeds (stepTurn t s) := by
  unfold stepTurn
  split
  · exact stepEvent_proceeds ..
  · exact stepTile_proceeds ..

theorem stepTick_proceeds (vds : List Nat) (s : State) : Proceeds (stepTick vds s) := by
  unfold stepTick
  extract_lets mine
  split
  · exact stepEvent_proceeds ..
  · split
    · exact stepTile_proceeds ..
    · exact .next _

/-- A step proceeds but on a turn of a tile that the package does not have. -/
theorem step_proceeds_or (s : State) :
    Proceeds (step s) ∨ ∃ n rest, s.agenda = .tile n :: rest ∧ isComputeTile n = false ∧ step s = .fault (.noSuchTile n) := by
  unfold step
  split
  next => exact .inl (stepChoice_proceeds ..)
  next n rest ha =>
    cases hn : isComputeTile n with
    | true => exact .inl (stepTurn_proceeds ..)
    | false => exact .inr ⟨n, rest, ha, hn, rfl⟩
  next => exact .inl (stepTick_proceeds ..)
  next =>
    refine .inl ?_
    split
    · exact stepEvent_proceeds ..
    · split
      · exact stepTile_proceeds ..
      · exact .next _

end

/-- Settles O57: `exec` proceeds by its arms, and `step` by the functions it goes through; the tiles that exist are those below 1,024. -/
theorem everyInstructionProceeds : Obligations.EveryInstructionProceeds := by
  unfold Obligations.EveryInstructionProceeds
  refine ⟨exec_proceeds, fun s => ?_⟩
  obtain h | ⟨n, rest, ha, hn, hstep⟩ := step_proceeds_or s
  · exact .inl h
  · exact .inr ⟨n, rest, ha, by simpa [isComputeTile] using hn, hstep⟩

end Sys2Proof.Machine
end

section
/-! O51: each event of a link module, and each discovery message, takes the branch that its clause's conditions choose. -/

namespace Sys2Proof.Machine
open Sys2Proof

section
variable {s : State}

/-! ### Frames (R116, R117) -/

/-- The trailer of the frame that has come. -/
def State.frameTrailer (s : State) : Nat := leNat ((s.arg.bytes.drop 256).take 16)

/-- The four cells of the frame that has come, with their sequence numbers. -/
def State.frameCells (s : State) : List (Nat × Cell) :=
  (List.range 4).map (fun i => (nfld s.frameTrailer (12 * i) 12, BitVec.ofNat 512 (leNat ((s.arg.bytes.drop (64 * i)).take 64))))

theorem sluiceFrame_of_good (hlen : s.arg.bytes.length = 272) (hcrc : crc64 (s.arg.bytes.take 264) = nfld s.frameTrailer 64 64) :
    sluiceFrame s = (s.frameCells.foldl (fun u q => u.frameCell s.arg.t q) (s.modLink s.arg.t (fun L => L.trailer s.frameTrailer))).drainLink s.arg.t := by
  unfold State.frameTrailer at hcrc
  simp only [sluiceFrame, hlen, hcrc, bne_self_eq_false, Bool.or_self, Bool.false_eq_true, if_false]
  rfl

theorem sluiceFrame_of_bad (hbad : s.arg.bytes.length ≠ 272 ∨ crc64 (s.arg.bytes.take 264) ≠ nfld s.frameTrailer 64 64) :
    sluiceFrame s = s.modLink s.arg.t (fun L => { L with trailerOk := false }) := by
  have hcond : (s.arg.bytes.length != 272 || crc64 (s.arg.bytes.take 264) != nfld s.frameTrailer 64 64) = true := by simpa using hbad
  exact if_pos hcond

/-! ### Acknowledgement and replay (R117, R118) -/

theorem ackTimer_of_due (h : (s.link s.arg.t).ackDue = true) : ackTimer s = s.linkReply s.arg.t 0 := if_pos h

theorem ackTimer_of_notDue (h : (s.link s.arg.t).ackDue = false) : ackTimer s = s := if_neg (ne_true_of_eq_false h)

section
variable {key : Nat}

theorem replay_of_none (h : (s.link key).unacked = []) : s.replay key = s := by
  simp [State.replay, h]

variable (h : (s.link key).unacked ≠ [])
include h

theorem replay_of_progress (hr : (s.link key).replays < 8) :
    s.replay key = (s.modLink key (fun L => { L.again with replays := L.replays + 1 })).armReplay key := by
  simp [State.replay, h, Nat.not_le.mpr hr]

theorem replay_of_noProgress (hr : 8 ≤ (s.link key).replays) :
    s.replay key = (s.modLink key (fun L => { L with up := false })).unTimer (replayEvent key) := by
  simp [State.replay, h, hr]

end

/-! ### A lost module (R341) -/

/-- The module of the event is down, and replays nothing. -/
def State.moduleLost (s : State) : State := (s.modLink s.arg.t (fun L => { L with up := false })).unTimer (replayEvent s.arg.t)

theorem linkDown_of_flume (hk : 512 ≤ s.arg.t) :
    linkDown s = ((s.moduleLost.logError (linkDie s.arg.t) (8 + (s.arg.t - 512) % 16 / 4) true cLINKDOWN 0 0).endAllLaunches).mcLost (linkDie s.arg.t) :=
  if_neg (Nat.not_lt.mpr hk)

theorem linkDown_of_sluice {v2 e2 : Nat} (hk : s.arg.t < 512) (hp : sluicePeer (s.arg.t / 32) (s.arg.t % 32 / 8) = some (v2, e2)) :
    linkDown s = (((s.moduleLost.logError (s.arg.t / 32) (16 + s.arg.t % 32 / 8) true cLINKDOWN 0 0).modLink (sluiceKey v2 e2 (s.arg.t % 8))
      (fun L => { L with up := false })).logError v2 (16 + e2) true cLINKDOWN 0 0).endAllLaunches := by
  simp only [linkDown, hk, hp, if_true]
  rfl

/-! ### Discovery (R140, R141) -/

/-- The hops that a discovery message still has to take. -/
abbrev State.hopsLeft (s : State) : Nat := s.msg.aux0.toNat % 4

/-- The die and edge that the next hop of a discovery message leads to. -/
abbrev State.nextHop (s : State) : Option (Nat × Nat) := sluicePeer s.arg.t (nfld s.msg.aux0.toNat 4 2)

/-- A discovery message with one hop taken. -/
def State.hopped (s : State) : Msg := { s.msg with aux0 := BitVec.ofNat 64 (s.hopsLeft - 1 + nfld s.msg.aux0.toNat 6 4 * 16) }

section
variable (hend : s.hopsLeft = 0)
include hend

theorem discAt_of_end {f : State → State × Nat} (hsub : wfld s.msg.attr 4 4 < 3) : discAt f s = (f s).1.discAnswer (f s).2 := by
  have hhop : discHop s = .ok () := if_pos hend
  simp only [discAt, hhop, Nat.not_le.mpr hsub, if_false]

theorem discrsp_of_end : discrsp s = s.modDie s.arg.t (fun D => { D with disc := D.disc ++ [s.msg] }) := if_pos hend

end

theorem discAssign_of_assigned (h : (s.die s.arg.t).vdAssigned.isSome = true) : discAssign s = (s, 2) := if_pos h

/-- The die of the event has taken vd v. -/
def State.vdTaken (s : State) (v : Nat) : State :=
  s.modDie s.arg.t (fun D => { D with vdAssigned := some (v, dfld s.msg.aux1 4 12), remapped := true })

/-- A forwarding entry of tile t is kept when vd v is taken: it is of no tile of v, and leads to none (R334, R342). -/
def State.fwdKept (s : State) (v t : Nat) (f : FwdEntry) : Bool := vdOf t != v && !(f.toTile && eidPkg f.target == s.pkg && eidVd f.target == v)

theorem discAssign_of_unassigned {v : Nat} (h : (s.die s.arg.t).vdAssigned = none) (hv : dfld s.msg.aux1 0 4 = v) :
    discAssign s = ((s.vdTaken v).tiles.foldl (fun u p => u.modTile p.1 (fun T => { T with fwd := T.fwd.filter (s.fwdKept v p.1) })) (s.vdTaken v), 0) := by
  subst hv
  exact if_neg (by simp [h])

section
variable (hmore : s.hopsLeft ≠ 0)
include hmore

theorem discAt_of_nowhere {f : State → State × Nat} (hn : s.nextHop = none) : discAt f s = s.logError s.arg.t 20 false cUNREACH 0 0 := by
  have hhop : discHop s = .error (s.logError s.arg.t 20 false cUNREACH 0 0) := by
    refine (if_neg hmore).trans ?_
    rw [show sluicePeer s.arg.t (nfld s.arg.msg.aux0.toNat 4 2) = none from hn]
  simp only [discAt, hhop]

theorem discrsp_of_nowhere (hn : s.nextHop = none) : discrsp s = s.logError s.arg.t 20 false cUNREACH 0 0 := by
  refine (if_neg hmore).trans ?_
  rw [show sluicePeer s.arg.t (nfld s.arg.msg.aux0.toNat 4 2) = none from hn]

variable {v e : Nat} (hn : s.nextHop = some (v, e))
include hn

theorem discQuery_of_hop {f : State → State × Nat} (hsub : wfld s.msg.attr 4 4 = 0) :
    discAt f s = s.emit ⟨.discQuery, { s.arg with t := v, k := s.arg.k + 1, n := s.arg.n * 4 % 64 + e, v := e, msg := s.hopped }⟩ := by
  have hhop : discHop s = .error (s.emit ⟨.discQuery, { s.arg with t := v, k := s.arg.k + 1, n := s.arg.n * 4 % 64 + e, v := e, msg := s.hopped }⟩) := by
    refine (if_neg hmore).trans ?_
    rw [show sluicePeer s.arg.t (nfld s.arg.msg.aux0.toNat 4 2) = some (v, e) from hn, show wfld s.arg.msg.attr 4 4 = 0 from hsub]
    rfl
  simp only [discAt, hhop]

theorem discrsp_of_hop : discrsp s = s.emit ⟨.discrsp, { s.arg with t := v, v := e, msg := s.hopped }⟩ := by
  refine (if_neg hmore).trans ?_
  rw [show sluicePeer s.arg.t (nfld s.arg.msg.aux0.toNat 4 2) = some (v, e) from hn]
  rfl

end
end

/-- Settles O51: acknowledgements, INIT and retraining are their functions as they stand; every other clause is the branch that a lemma above
names. -/
theorem linkEvents : Obligations.LinkEvents := by
  unfold Obligations.LinkEvents
  intro s a key L
  refine ⟨⟨fun hlen hcrc => congrArg Host.Outcome.next (sluiceFrame_of_good hlen hcrc), fun hbad => congrArg Host.Outcome.next (sluiceFrame_of_bad hbad)⟩,
    rfl, rfl, rfl, fun h => congrArg Host.Outcome.next (ackTimer_of_due h), fun h => congrArg Host.Outcome.next (ackTimer_of_notDue h),
    fun h => congrArg Host.Outcome.next (replay_of_none h), fun h hr => congrArg Host.Outcome.next (replay_of_progress h hr),
    fun h hr => congrArg Host.Outcome.next (replay_of_noProgress h hr), rfl, fun hk => congrArg Host.Outcome.next (linkDown_of_flume hk),
    fun v2 e2 hk hp => congrArg Host.Outcome.next (linkDown_of_sluice hk hp), ?_⟩
  intro x
  refine ⟨fun hend hsub => ⟨congrArg Host.Outcome.next (discAt_of_end hend hsub), congrArg Host.Outcome.next (discAt_of_end hend hsub), fun hv => ?_, fun hv => ?_⟩,
    fun hmore hn i hi => ?_, fun hend => congrArg Host.Outcome.next (discrsp_of_end hend), fun v e hmore hn =>
      ⟨congrArg Host.Outcome.next (discrsp_of_hop hmore hn), fun hsub => congrArg Host.Outcome.next (discQuery_of_hop hmore hn hsub)⟩⟩
  · have hanswer := discAt_of_end (f := discAssign) hend hsub
    rw [discAssign_of_assigned hv] at hanswer
    exact congrArg Host.Outcome.next hanswer
  · have hanswer := discAt_of_end (f := discAssign) hend hsub
    rw [discAssign_of_unassigned hv (dfld_low s.msg.aux1 4)] at hanswer
    exact congrArg Host.Outcome.next hanswer
  · rcases hi with rfl | rfl | rfl | rfl
    · exact congrArg Host.Outcome.next (discAt_of_nowhere hmore hn)
    · exact congrArg Host.Outcome.next (discAt_of_nowhere hmore hn)
    · exact congrArg Host.Outcome.next (discAt_of_nowhere hmore hn)
    · exact congrArg Host.Outcome.next (discrsp_of_nowhere hmore hn)

end Sys2Proof.Machine
end

section
/-! O50: each event of the multicast units takes the branch that its clause's conditions choose. The unit is `eidDie s.msg.dst`, and the
group `msgGroup s.msg`. -/

namespace Sys2Proof.Machine
open Sys2Proof

section
variable {s : State}

/-- The I/O die, 0 or 1, of the unit that the message came to. -/
abbrev State.mcIod (s : State) : Nat := iodOf (eidDie s.msg.dst)

/-- The map entry of the message's group on its relay. -/
abbrev State.relayEntry (s : State) : Nat := s.groupMap s.mcIod (msgGroup s.msg)

/-! ### The relay (R133, R246, R249) -/

section
variable (hu : isMcUnit s.msg.dst = true)
include hu

theorem mcreq_of_headgate (hr : s.atRelay s.msg = false) : mcreq s = s.headgate (eidDie s.msg.dst) s.msg := by
  simp only [mcreq, hu, hr, Bool.not_true, Bool.false_eq_true, if_false]

section
variable (hr : s.atRelay s.msg = true)
include hr

theorem mcreq_of_unmapped (he : s.relayEntry.testBit 0 = false) : mcreq s = s.stampTo s.msg 4 0 false := by
  simp only [mcreq, hu, hr, he, Bool.not_true, Bool.not_false, Bool.false_eq_true, if_false, if_true]

variable (he : s.relayEntry.testBit 0 = true)
include he

theorem mcreq_of_mappedHere (hd : nfld s.relayEntry 1 24 = s.msg.dst) : mcreq s = s.headgate (eidDie s.msg.dst) s.msg := by
  simp only [mcreq, hu, hr, he, hd, Bool.not_true, Bool.false_eq_true, if_false, if_true]

theorem mcreq_of_mappedAway (hd : nfld s.relayEntry 1 24 ≠ s.msg.dst) :
    mcreq s = s.sendFrom (eidDie s.msg.dst) false .req .mcreq { s.msg with dst := nfld s.relayEntry 1 24 } := by
  simp only [mcreq, hu, hr, he, hd, Bool.not_true, Bool.false_eq_true, if_false, if_true]

end

theorem wrack_of_mcUnit : wrack s = s.mcAck (eidDie s.msg.dst) s.msg.tag := if_pos hu

end

section
variable (hr : s.atRelay s.msg = true)
include hr

theorem mcseqreq_of_unmapped (he : s.relayEntry.testBit 0 = false) : mcseqreq s = s.answer .mcseqrsp (fun r => { r with attr := 1 }) := by
  simp only [mcseqreq, hr, he, Bool.not_false, Bool.true_or, if_true]

theorem mcseqreq_of_memberHere (he : s.relayEntry.testBit 0 = true) (hm : s.relayEntry.testBit 25 = true)
    (hd : 8 + nfld s.relayEntry 26 1 = eidDie s.msg.dst) : mcseqreq s = s.seqAtMember (eidDie s.msg.dst) s.msg := by
  simp only [mcseqreq, hr, he, hm, hd, Bool.not_true, Bool.or_self, Bool.false_eq_true, if_false, if_true]

end

/-! ### Members apply stores in the order of their stamps (R134, R137, R248) -/

section
variable (hv : s.meValid s.mcIod (msgGroup s.msg) = true)
include hv

section
variable (ha : s.meState s.mcIod (msgGroup s.msg) = meACTIVE)
include ha

theorem mcapply_of_applied (hle : s.msg.aux3.toNat ≤ s.meApplied s.mcIod (msgGroup s.msg)) : mcapply s = s := by
  simp only [mcapply, hv, ha, hle, bne_self_eq_false, Bool.not_true, Bool.or_self, Bool.false_eq_true, if_false, if_true]

theorem mcapply_of_early (hlt : s.meApplied s.mcIod (msgGroup s.msg) + 1 < s.msg.aux3.toNat) :
    mcapply s = s.holdDie (eidDie s.msg.dst) (evM .mcapply s.msg) := by
  have hnew : ¬s.msg.aux3.toNat ≤ s.meApplied s.mcIod (msgGroup s.msg) := by omega
  have hnext : (s.msg.aux3.toNat != s.meApplied s.mcIod (msgGroup s.msg) + 1) = true := by simpa using Nat.ne_of_gt hlt
  simp only [mcapply, hv, ha, hnew, hnext, bne_self_eq_false, Bool.not_true, Bool.or_self, Bool.true_or, Bool.false_eq_true, if_false, if_true]

section
variable (hnext : s.msg.aux3.toNat = s.meApplied s.mcIod (msgGroup s.msg) + 1)
  (hfree : (s.die (eidDie s.msg.dst)).mc.applying.any (fun a => a.group == msgGroup s.msg) = false)
include hnext hfree

theorem mcapply_of_store (hs : wbit s.msg.attr 12 = false) :
    mcapply s = s.sendParts (eidDie s.msg.dst) (msgGroup s.msg) s.msg.aux3.toNat 0 (s.meWbase s.mcIod (msgGroup s.msg) + s.msg.aux0.toNat) s.msg
      (s.msg.data.take (s.msg.len + 1)) := by
  simp [mcapply, hv, ha, hnext, hfree, hs, State.mcDecide]

theorem mcapply_of_conditional {pa : Nat} (hc : wbit s.msg.attr 12 = true) (hpa : s.canon (s.meWbase s.mcIod (msgGroup s.msg) + s.msg.aux0.toNat) = pa)
    (hres : s.reserved pa 8 = false) (hread : s.refuses 6 pa 8 false false = none) :
    mcapply s =
      if s.mcDecide s.msg (s.meWbase s.mcIod (msgGroup s.msg)) s.msg.aux3.toNat = true then
        (s.readCheck pa 8 0).sendParts (eidDie s.msg.dst) (msgGroup s.msg) s.msg.aux3.toNat 0 (s.meWbase s.mcIod (msgGroup s.msg) + s.msg.aux0.toNat) s.msg
          (s.msg.data.take (s.msg.len + 1))
      else (s.readCheck pa 8 0).sendApplied (eidDie s.msg.dst) (msgGroup s.msg) s.msg.aux3.toNat 1 s.msg := by
  simp [mcapply, hv, ha, hnext, hfree, hc, hpa, hres, hread]

end

theorem mcctlSnap_of_active :
    mcctlSnap s = ((List.range 7).map (mcTag (msgGroup s.msg))).foldl (fun u tag => u.mcAck (eidDie s.msg.dst) tag)
      (s.mcMod (eidDie s.msg.dst) (fun M => { M with applying := M.applying ++
        [⟨msgGroup s.msg, s.msg.aux3.toNat, s.msg, (List.range 7).map (mcTag (msgGroup s.msg)), 2, 0⟩] })) := by
  simp only [mcctlSnap, hv, ha, bne_self_eq_false, Bool.not_true, Bool.or_self, Bool.false_eq_true, if_false]

end

theorem mcctlJoined_of_joining (hj : s.meState s.mcIod (msgGroup s.msg) = meJOINING) :
    mcctlJoined s = s.sendApplied (eidDie s.msg.dst) (msgGroup s.msg) s.msg.aux3.toNat 3 s.msg := by
  simp only [mcctlJoined, hv, hj, bne_self_eq_false, Bool.not_true, Bool.or_self, Bool.false_eq_true, if_false]

end

theorem mcctlJoined_of_abandoned (h : s.meValid s.mcIod (msgGroup s.msg) = false ∨ s.meState s.mcIod (msgGroup s.msg) ≠ meJOINING) :
    mcctlJoined s = s :=
  if_pos (by simpa using h)

/-- The copy of a window goes on with its next line, which its home lets the unit read (R137, log entry 148). -/
theorem mcAck_of_nextLine {vd tag pa : Nat} {x : McApply} (hx : (s.die vd).mc.applying.find? (fun a => a.acks.contains tag) = some x) (hphase : x.phase = 2)
    (hmore : x.next < s.meLines (iodOf vd) x.group) (hpa : s.canon (s.meWbase (iodOf vd) x.group + 256 * x.next) = pa)
    (hread : s.refuses 6 pa 256 false false = none) (hres : s.reserved pa 256 = false) :
    s.mcAck vd tag = (s.mcMod vd (fun M => { M with applying := updWhere (fun y => y == x) (fun _ => { x with next := x.next + 1 }) M.applying })).sendLine
      vd tag x.next pa x.msg := by
  have hnext : (x.phase != 2 || decide (s.meLines (iodOf vd) x.group ≤ x.next)) = false := by simp [hphase, Nat.not_le.mpr hmore]
  simp only [State.mcAck, hx, hnext, hpa, hread, hres, Option.isSome_none, Bool.false_eq_true, if_false]

section
variable {vd : Nat} {x : McApply}

/-- The job is off the unit's list. -/
def State.jobOff (s : State) (vd : Nat) (x : McApply) : State := s.mcMod vd (fun M => { M with applying := dropFirst (fun y => y == x) M.applying })

theorem mcJobDone_of_bytes (h : x.phase = 0) : s.mcJobDone vd x = (s.jobOff vd x).sendApplied vd x.group x.stamp 1 x.msg := by
  simp only [State.mcJobDone, h, State.jobOff]

theorem mcJobDone_of_sequenceWord (h : x.phase = 1) : s.mcJobDone vd x = (s.jobOff vd x).applied vd x.group x.stamp := by
  simp only [State.mcJobDone, h, State.jobOff]

theorem mcJobDone_of_snap (h : x.phase = 2) : s.mcJobDone vd x = ((s.jobOff vd x).snapAnswer x.msg 0).unholdDie vd := by
  simp only [State.mcJobDone, h, State.jobOff]

theorem mcJobDone_of_join (h : x.phase = 3) : s.mcJobDone vd x = ((s.jobOff vd x).joinApplied vd x.group x.stamp x.msg).unholdDie vd := by
  simp only [State.mcJobDone, h, State.jobOff]

end

/-! ### Acknowledgements and late members at the headgate (R133, R135) -/

/-- The acknowledgement of a member counts, and what all have acknowledged is settled. -/
def State.memberAcked (s : State) : State :=
  let upd (a : McApply) : McApply := if a.group = msgGroup s.msg && a.stamp = s.msg.aux3.toNat then { a with acks := a.acks.filter (· != eidPkg s.msg.src) } else a
  ((s.mcMod (eidDie s.msg.dst) (fun M => { M with outstanding := M.outstanding.map upd })).unTimer
    (memberTimer (eidDie s.msg.dst) (msgGroup s.msg) (eidPkg s.msg.src) s.msg.aux3.toNat)).settleStores (eidDie s.msg.dst)

theorem mcack_of_noJoins (h : (s.memberAcked.die (eidDie s.msg.dst)).mc.joins = []) : mcack s = s.memberAcked := by
  have hnone : (s.memberAcked.die (eidDie s.msg.dst)).mc.joins.find? (fun j => j.group == msgGroup s.msg) = none := by rw [h]; rfl
  unfold mcack
  extract_lets m vd g p upd s1 s2
  split
  next hj => cases hnone.symm.trans hj
  next => rfl

section
variable (hv : s.arg.v ≠ 2 ^ 64)
include hv

/-- Whether a store still waits for the member that the time-out names. -/
abbrev State.lateMember (s : State) : Bool :=
  (s.die s.arg.t).mc.outstanding.any (fun x => x.group == s.arg.k && x.stamp == s.arg.v && x.acks.contains s.arg.n)

theorem memberTimeout_of_late (h : s.lateMember = true) : memberTimeout s = s.evictMember s.arg.t s.arg.k s.arg.n := by
  simp only [memberTimeout, hv, h, Bool.not_true, Bool.false_eq_true, if_false]

theorem memberTimeout_of_acked (h : s.lateMember = false) : memberTimeout s = s := by
  simp only [memberTimeout, hv, h, Bool.not_false, if_false, if_true]

end

/-! ### Answers at the sender (R133, R247, R249) -/

section
variable {tag path pa la rd : Nat}

theorem mcstamp_of_refused (hp : s.Answers ⟨tag, path, pa, la, .mcast rd false⟩) (hst : wfld s.msg.attr 4 4 ≠ 0) :
    mcstamp s = s.outcomePair s.dstTile s.msg.slot tag rd (wfld s.msg.attr 4 4 * 2 ^ 32) := by
  simp [mcstamp, hp, hst]

theorem mcstamp_of_stamp (hp : s.Answers ⟨tag, path, pa, la, .mcast rd false⟩) (hst : wfld s.msg.attr 4 4 = 0) (hall : wbit s.msg.attr 0 = false) :
    mcstamp s = ((s.fillPair s.dstTile s.msg.slot rd (BitVec.ofNat 32 s.msg.aux3.toNat) (BitVec.ofNat 32 (s.msg.aux3.toNat / 2 ^ 32)) false).modSlot s.dstTile s.msg.slot
      (fun h => { h with pend := h.pend.map (fun p => if p.tag = tag then { p with kind := .mcast rd true } else p) })).notify s.dstTile s.msg.slot := by
  simp [mcstamp, hp, hst, hall]

theorem mcstamp_of_all {stamped : Bool} (hp : s.Answers ⟨tag, path, pa, la, .mcast rd stamped⟩) (hst : wfld s.msg.attr 4 4 = 0) (hall : wbit s.msg.attr 0 = true) :
    mcstamp s = s.donePend s.dstTile s.msg.slot tag := by
  simp [mcstamp, hp, hst, hall]

theorem mcseqrsp_of_waiting {n : Nat} (hp : s.Answers ⟨tag, path, pa, la, .mcseq rd n⟩) :
    mcseqrsp s = (s.outcomePair s.dstTile s.msg.slot tag rd (s.msg.aux0.toNat % 2 ^ 63 + if wbit s.msg.attr 0 then 2 ^ 63 else 0)).notifyAll
      s.dstTile := by
  simp only [mcseqrsp, hp, dfld_low, b2n, ite_mul, one_mul, zero_mul]

end

/-! ### Joining and leaving (R136, R137) -/

section
variable (hu : isMcUnit s.msg.dst = true) (hv : s.hgValid s.mcIod (msgGroup s.msg) = true)
include hu hv

section
variable (hst : s.hgState s.mcIod (msgGroup s.msg) ≠ stRUN)
include hst

theorem mcjoinJoin_of_notRunning : mcjoinJoin s = s.holdDie (eidDie s.msg.dst) (evM .mcjoinJoin s.msg) := by
  simp [mcjoinJoin, hu, hv, hst]

theorem mcjoinLeave_of_notRunning : mcjoinLeave s = s.holdDie (eidDie s.msg.dst) (evM .mcjoinLeave s.msg) := by
  simp [mcjoinLeave, hu, hv, hst]

end

section
variable (hst : s.hgState s.mcIod (msgGroup s.msg) = stRUN)
include hst

theorem mcjoinLeave_of_member (hin : s.hgIn s.mcIod (msgGroup s.msg) (eidPkg s.msg.src) = true) :
    mcjoinLeave s = (s.hgPut s.mcIod (msgGroup s.msg) (eidPkg s.msg.src) false).mcctl (eidDie s.msg.dst) .mcctlLeft 3 s.msg.src (msgGroup s.msg) 0
      (s.hgNext s.mcIod (msgGroup s.msg) - 1) := by
  simp only [mcjoinLeave, hu, hv, hst, hin, bne_self_eq_false, Bool.not_true, Bool.or_self, Bool.false_eq_true, if_false]

/-- The join that the message asks for. -/
def State.joinAsked (s : State) : McJoin :=
  ⟨msgGroup s.msg, eidPkg s.msg.src, dfld s.msg.aux0 0 24, s.hgNext s.mcIod (msgGroup s.msg) - 1, 0, s.msg⟩

/-- The first member of a group has no window to copy. -/
theorem mcjoinJoin_of_first (hsrc : dfld s.msg.aux0 0 24 = 0) (hempty : s.hgNmem s.mcIod (msgGroup s.msg) = 0)
    (hin : s.hgIn s.mcIod (msgGroup s.msg) (eidPkg s.msg.src) = false) (hsize : dfld s.msg.aux1 0 5 = nfld (s.hgW s.mcIod (msgGroup s.msg) 0) 12 5) :
    mcjoinJoin s = ((s.hgSetState s.mcIod (msgGroup s.msg) stJOINHOLD).mcMod (eidDie s.msg.dst) (fun M => { M with joins := M.joins ++ [s.joinAsked] })).joinJoined
      (eidDie s.msg.dst) s.joinAsked := by
  simp [mcjoinJoin, State.joinAsked, hu, hv, hst, hsrc, hempty, hin, hsize]

end
end

/-! ### Answers to a join (R137) -/

theorem mcctlrsp_of_refusal (hbad : wfld s.msg.attr 16 4 ≠ 0) (hjoin : wfld s.msg.attr 12 4 ≠ 0) :
    mcctlrsp s = (s.meSet s.mcIod (msgGroup s.msg) meFAILED).answerSeq (eidDie s.msg.dst) (msgGroup s.msg) := by
  simp [mcctlrsp, hbad, hjoin]

/-- Whether a join waits for the copy of the window that the message answers. -/
def State.awaitsSnap (s : State) (j : McJoin) : Bool :=
  j.group == msgGroup s.msg && j.point == s.msg.aux3.toNat && (j.phase == 1 && j.source == s.msg.src)

theorem group_of_awaitsSnap {j : McJoin} (h : s.awaitsSnap j = true) : j.group = msgGroup s.msg := by
  simp only [State.awaitsSnap, Bool.and_eq_true, beq_iff_eq] at h
  obtain ⟨⟨hg, -⟩, -⟩ := h
  exact hg

theorem mcctlrsp_of_snap {j : McJoin} (hgood : wfld s.msg.attr 16 4 = 0) (hsnap : wfld s.msg.attr 12 4 = 0)
    (hj : (s.die (eidDie s.msg.dst)).mc.joins.find? s.awaitsSnap = some j) :
    mcctlrsp s = (s.joinTimersOff (eidDie s.msg.dst) j).joinJoined (eidDie s.msg.dst) j := by
  unfold State.awaitsSnap at hj
  simp [mcctlrsp, hgood, hsnap, hj]

/-! ### The join window (R138) -/

section
variable {iod g x : Nat}

theorem mod_two_of_meValid (hv : s.meValid iod g = true) : s.meW iod g 0 % 2 = 1 := by
  simp only [State.meValid, Bool.and_eq_true] at hv
  obtain ⟨hbit, -⟩ := hv
  simpa [Nat.testBit_zero] using hbit

/-- The registers of a member entry are 0 at reset. -/
theorem regReset_memBase (g j : Nat) : regReset (memBase g + 8 * j) = 0 := by
  have h1 : memBase g + 8 * j ≠ 0x121020 := by unfold memBase; omega
  have h2 : memBase g + 8 * j ≠ 0x180000 := by unfold memBase; omega
  have h3 : ¬memBase g + 8 * j < 0x230000 := by unfold memBase; omega
  simp [regReset, h1, h2, h3]

theorem meW_eq_mmio (s : State) (iod g j : Nat) : s.meW iod g j = (mget 0 s.mmio (mkey iod (memBase g + 8 * j))).toNat := by
  simp [State.meW, State.reg, regReset_memBase]

/-- STATE is two bits of an entry's first word, which is not 0 while V is set: the word stays listed. -/
theorem mmio_meSet (hv : s.meValid iod g = true) :
    (s.meSet iod g x).mmio = mput s.mmio (mkey iod (memBase g)) (BitVec.ofNat 64 (nput (s.meW iod g 0) 1 2 x)) := by
  have hodd := mod_two_of_meValid hv
  have hne : BitVec.ofNat 64 (nput (s.meW iod g 0) 1 2 x) ≠ 0 := by
    intro h0
    have hzero : nput (s.meW iod g 0) 1 2 x % 2 ^ 64 = 0 := by simpa using congrArg BitVec.toNat h0
    simp only [nput] at hzero
    omega
  have hreset : regReset (memBase g) = 0 := regReset_memBase g 0
  simp only [State.meSet, State.setReg, hreset, Nat.xor_zero, mset, if_neg hne]

theorem meW_meSet_first (hv : s.meValid iod g = true) : (s.meSet iod g x).meW iod g 0 = nput (s.meW iod g 0) 1 2 x % 2 ^ 64 := by
  rw [meW_eq_mmio, mmio_meSet hv]
  simp

theorem meW_meSet_other {j : Nat} (hv : s.meValid iod g = true) (hj : j ≠ 0) : (s.meSet iod g x).meW iod g j = s.meW iod g j := by
  have hkey : mkey iod (memBase g + 8 * j) ≠ mkey iod (memBase g) := by
    unfold mkey
    omega
  rw [meW_eq_mmio, mmio_meSet hv, mget_mput_other _ _ _ hkey, ← meW_eq_mmio]

theorem meHg_meSet (hv : s.meValid iod g = true) : (s.meSet iod g x).meHg iod g = s.meHg iod g := by
  simp only [State.meHg, meW_meSet_first hv, nput, nfld]
  omega

end

section
variable (hz : nfld s.arg.desc.toNat 12 4 = 0 ∧ nfld s.arg.desc.toNat 17 47 = 0 ∧ nfld s.arg.desc.toNat 88 40 = 0)
  (hv : s.meValid s.arg.t (nfld s.arg.desc.toNat 0 12) = true)
include hz hv

theorem joinDescriptor_of_leave (ha : s.meState s.arg.t (nfld s.arg.desc.toNat 0 12) = meACTIVE) :
    joinDescriptor true s = s.send .req .mcjoinLeave { Msg.zero with
      src := s.eid (iodVd s.arg.t) 0x38, dst := s.meHg s.arg.t (nfld s.arg.desc.toNat 0 12), tag := 0x8000 + nfld s.arg.desc.toNat 0 12,
      attr := BitVec.ofNat 32 (nfld s.arg.desc.toNat 0 12 + 4096) } := by
  obtain ⟨h1, h2, h3⟩ := hz
  simp [joinDescriptor, h1, h2, h3, hv, ha]

/-- The request shows the entry as it stands when JOINING. -/
theorem joinDescriptor_of_join {u : State} (ha : s.meState s.arg.t (nfld s.arg.desc.toNat 0 12) ≠ meACTIVE)
    (hw : s.meSet s.arg.t (nfld s.arg.desc.toNat 0 12) meJOINING = u) :
    joinDescriptor false s = u.send .req .mcjoinJoin { Msg.zero with
      src := u.eid (iodVd s.arg.t) 0x38, dst := u.meHg s.arg.t (nfld s.arg.desc.toNat 0 12), tag := 0x8000 + nfld s.arg.desc.toNat 0 12,
      attr := BitVec.ofNat 32 (nfld s.arg.desc.toNat 0 12), aux0 := BitVec.ofNat 64 (nfld s.arg.desc.toNat 64 24),
      aux1 := BitVec.ofNat 64 (nfld (u.meW s.arg.t (nfld s.arg.desc.toNat 0 12) 1) 56 5) } := by
  obtain ⟨h1, h2, h3⟩ := hz
  subst hw
  rw [meHg_meSet hv, meW_meSet_other hv one_ne_zero]
  simp [joinDescriptor, h1, h2, h3, hv, ha]
  rfl

end
end

/-- Settles O50: each clause is the branch of its event's function that a lemma above names. -/
theorem multicastEvents : Obligations.MulticastEvents := by
  unfold Obligations.MulticastEvents
  intro s m vd iod g t stamp
  have hg : g = msgGroup m := (wfld_low m.attr 12).symm
  clear_value g
  subst hg
  refine ⟨fun hu => ⟨fun hr => congrArg Host.Outcome.next (mcreq_of_headgate hu hr), ?_⟩, fun hv ha => ⟨?_, ?_, ?_⟩, ?_, ?_, ?_, ?_, ?_,
    fun hu hv => ⟨?_, ?_, ?_⟩, ?_, ?_, ?_, ?_, ?_, ?_, rfl, rfl, ?_, ?_, ?_⟩
  · exact fun hr => ⟨fun he => congrArg Host.Outcome.next (mcreq_of_unmapped hu hr he),
      fun he hd => congrArg Host.Outcome.next (mcreq_of_mappedHere hu hr he hd), fun he hd => congrArg Host.Outcome.next (mcreq_of_mappedAway hu hr he hd),
      fun he hm hd => congrArg Host.Outcome.next (mcseqreq_of_memberHere hr he hm hd), fun he => congrArg Host.Outcome.next (mcseqreq_of_unmapped hr he)⟩
  · exact fun hle => congrArg Host.Outcome.next (mcapply_of_applied hv ha hle)
  · exact fun hlt => congrArg Host.Outcome.next (mcapply_of_early hv ha hlt)
  · intro hnext hfree at_ pa
    refine ⟨fun hs => congrArg Host.Outcome.next (mcapply_of_store hv ha hnext hfree hs), fun hc hres hread => ?_⟩
    have happly := mcapply_of_conditional hv ha hnext hfree hc rfl hres hread
    exact ⟨fun hno => congrArg Host.Outcome.next (happly.trans (if_neg (ne_true_of_eq_false hno))),
      fun hyes => congrArg Host.Outcome.next (happly.trans (if_pos hyes))⟩
  · exact fun _ hjoins => congrArg Host.Outcome.next (mcack_of_noJoins hjoins)
  · exact fun tag path pa la rd hp => ⟨fun hst => congrArg Host.Outcome.next (mcstamp_of_refused hp hst),
      fun hst hall => congrArg Host.Outcome.next (mcstamp_of_stamp hp hst hall)⟩
  · exact fun tag path pa la rd hp hst hall => congrArg Host.Outcome.next (mcstamp_of_all hp hst hall)
  · exact fun tag path pa la rd n hp => congrArg Host.Outcome.next (mcseqrsp_of_waiting hp)
  · exact ⟨fun hv h => congrArg Host.Outcome.next (memberTimeout_of_late hv h), fun hv h => congrArg Host.Outcome.next (memberTimeout_of_acked hv h)⟩
  · exact fun hst => ⟨congrArg Host.Outcome.next (mcjoinJoin_of_notRunning hu hv hst), congrArg Host.Outcome.next (mcjoinLeave_of_notRunning hu hv hst)⟩
  · exact fun hst hin => congrArg Host.Outcome.next (mcjoinLeave_of_member hu hv hst hin)
  · intro src
    have hsrc : src = dfld m.aux0 0 24 := (dfld_low m.aux0 24).symm
    clear_value src
    subst hsrc
    exact fun hst hz hempty hin hsize => congrArg Host.Outcome.next (mcjoinJoin_of_first hu hv hst hz hempty hin ((dfld_low m.aux1 5).trans hsize))
  · exact fun hv ha => congrArg Host.Outcome.next (mcctlSnap_of_active hv ha)
  · exact fun u x tag hx hphase hmore hread hres => mcAck_of_nextLine hx hphase hmore rfl hread hres
  · exact fun hv hj => congrArg Host.Outcome.next (mcctlJoined_of_joining hv hj)
  · exact fun h => congrArg Host.Outcome.next (mcctlJoined_of_abandoned h)
  · exact fun hu => congrArg Host.Outcome.next (wrack_of_mcUnit hu)
  · exact fun u x => ⟨mcJobDone_of_bytes, mcJobDone_of_sequenceWord, mcJobDone_of_snap, mcJobDone_of_join⟩
  · exact fun hbad hjoin => congrArg Host.Outcome.next (mcctlrsp_of_refusal hbad hjoin)
  · intro j hgood hsnap hj
    have hgroup : j.group = msgGroup m := group_of_awaitsSnap (List.find?_some hj)
    rw [← hgroup]
    exact congrArg Host.Outcome.next (mcctlrsp_of_snap hgood hsnap hj)
  · intro d io dg ask
    have hdg : dg = nfld d 0 12 := by simp [dg, nfld]
    clear_value dg
    subst hdg
    intro h1 h2 h3 hv
    exact ⟨fun ha => congrArg Host.Outcome.next (joinDescriptor_of_leave ⟨h1, h2, h3⟩ hv ha),
      fun ha => congrArg Host.Outcome.next (joinDescriptor_of_join ⟨h1, h2, h3⟩ hv ha rfl)⟩

end Sys2Proof.Machine
end

section
/-! O39: its clause on a bank that is cleared with nothing new in the cycle is refuted. The clause has no report follow, but the model asks
the bank once its entry is off the die's list: a list that holds the bank twice then shows the second entry, and an uncorrectable record
there is reported in ERRSUM (R340). `doubledBank` is no state of a run from reset, where the keys of `banks` rise: `errorBankClear_of_rising`
is the clause with that premise. -/

namespace Sys2Proof.Machine
open Sys2Proof

/-- The bank of the event after it is cleared in a cycle that has brought nothing to it. -/
def State.bankCleared (s : State) : State :=
  s.modDie s.arg.t (fun D => { D with banks := mset 0 D.banks s.arg.k 0, bankIn := mset BankTick.none D.bankIn s.arg.k ⟨D.cycle, 0, []⟩ })

/-- A valid record of an uncorrectable error: V and UC (R339). -/
def uncorrectable (b : BitVec 256) : Bool := b.getLsbD 0 && b.getLsbD 1

section
variable {s : State} (h : (mget BankTick.none (s.die s.arg.t).bankIn s.arg.k).cycle ≠ (s.die s.arg.t).cycle ∨
  (mget BankTick.none (s.die s.arg.t).bankIn s.arg.k).events = [])
include h

/-- With nothing new in the cycle, an uncorrectable record that is cleared is reported if the bank still shows one. -/
theorem errorBankClear_of_quiet :
    errorBankClear s =
      if ((s.die s.arg.t).bankUc s.arg.k && uncorrectable (mget 0 (mdel (s.die s.arg.t).banks s.arg.k) s.arg.k)) = true then
        s.bankCleared.reportUc s.arg.t
      else s.bankCleared := by
  have hquiet : (s.die s.arg.t).bankTick s.arg.k = ⟨(s.die s.arg.t).cycle, mget 0 (s.die s.arg.t).banks s.arg.k, []⟩ :=
    if_neg fun ⟨hcycle, hevents⟩ => h.elim (· hcycle) hevents
  unfold errorBankClear State.clearBank
  dsimp only
  rw [hquiet]
  rfl

/-- The refuted clause, where the keys of `banks` rise. -/
theorem errorBankClear_of_rising (hr : risingFrom 0 (s.die s.arg.t).banks = true) : errorBankClear s = s.bankCleared := by
  simp [errorBankClear_of_quiet h, mget_mdel _ _ _ _ _ hr, uncorrectable]

end

/-- vd0 lists bank 0 twice, each time with an uncorrectable record (V and UC), and the bank is cleared. -/
def doubledBank : State := { State.reset.modDie 0 (fun D => { D with banks := [(0, 3), (0, 3)] }) with arg := { t := 0, k := 0 } }

theorem errorBankClear_doubledBank : errorBankClear doubledBank = doubledBank.bankCleared.reportUc 0 :=
  (errorBankClear_of_quiet (.inr (by decide +kernel))).trans (if_pos (by decide +kernel))

/-- Refutes O39: clearing bank 0 of `doubledBank` sets the bit of vd0 in ERRSUM, and the clause leaves ERRSUM as it was, clear. -/
theorem not_registerEvents : ¬ Obligations.RegisterEvents := by
  unfold Obligations.RegisterEvents
  intro h
  obtain ⟨-, -, -, -, ⟨hquiet, -⟩, -⟩ := h doubledBank
  have hclause : errorBankClear doubledBank = doubledBank.bankCleared := Host.Outcome.next.inj (hquiet (.inr (by decide +kernel)))
  rw [errorBankClear_doubledBank] at hclause
  exact absurd (congrArg State.mmio hclause) (by decide +kernel)

end Sys2Proof.Machine
end

section
/-! O9: what a source field delivers, and how its instruction stops instead: a register of the slot, then an enabled channel. -/

namespace Sys2Proof.Machine
open Sys2Proof

section
variable {i : Instr} {srcs : List Src} {r : Reg} {s : State}

/-- A thread whose register waits to be filled parks and remembers the register (R164, R327). -/
def State.parkOn (s : State) (r : Reg) : State := (s.modTh (fun h => { h with parkReg := r.toNat })).park pSYNCREAD

theorem isFull_of_full (hf : s.th.fe.getLsbD r.toNat = true) : s.th.isFull r.toNat = true := by
  simp only [Slot.isFull, wbit, hf, Bool.or_true]

/-! ### A field that is no enabled channel (R163, R164, R326) -/

section
variable (hc : s.th.isChan r.toNat = false)
include hc

theorem readSrc_of_zero (h0 : r = 0) (hp : s.th.poison.getLsbD 0 = false) : readSrc i srcs r s = .ok 0 := by
  subst h0
  exact delivers_plain srcs 0 s hc rfl hp i

section
variable (h0 : r ≠ 0) (hf : s.th.fe.getLsbD r.toNat = true)
include hf

theorem readSrc_of_poisoned (hp : s.th.poison.getLsbD r.toNat = true) :
    readSrc i srcs r s = .error (s.trap tMCHK 1 (BitVec.ofNat 32 r.toNat)) := by
  simp only [readSrc, hc, isFull_of_full hf, wbit, hp, Bool.false_eq_true, if_false, if_true]

include h0

theorem readSrc_of_full (hp : s.th.poison.getLsbD r.toNat = false) : readSrc i srcs r s = .ok (mget 0 s.th.g r.toNat) := by
  have hg : s.th.greg r.toNat = mget 0 s.th.g r.toNat := if_neg (BitVec.toNat_ne_iff_ne.mpr h0)
  rw [delivers_plain srcs r s hc (isFull_of_full hf) hp i, hg]

end

/-- An empty register: the mode and the producer decide. -/
theorem readSrc_of_empty (h0 : r ≠ 0) (hf : s.th.fe.getLsbD r.toNat = false) :
    readSrc i srcs r s =
      if modeOf srcs r = 1 ∨ s.th.prod.getLsbD r.toNat = false then .error (s.trap tEMPTYREAD r.toNat (insnWord i))
      else if modeOf srcs r = 2 then .error (s.parkOn r)
      else .error (s.block .register) := by
  have hempty : s.th.isFull r.toNat = false := by
    simp only [Slot.isFull, wbit, hf, Bool.or_false, beq_eq_false_iff_ne]
    exact BitVec.toNat_ne_iff_ne.mpr h0
  simp only [readSrc, hc, hempty, wbit, Bool.false_eq_true, if_false, Bool.or_eq_true, decide_eq_true_eq, Bool.not_eq_true']
  rfl

end

/-! ### An enabled channel (R158, R159) -/

section
variable (hc : s.th.isChan r.toNat = true) (hv : s.th.isVisitor = false) (hs : s.th.shadow = none)
include hc

theorem consume_of_channel (m : BitVec 2) : consume [⟨r, m⟩] s = s.fifoPop s.cur.1 (chanOf s.cur.2 r.toNat) := by
  simp only [consume, List.map_cons, List.map_nil, List.dedup_cons_of_notMem List.not_mem_nil, List.dedup_nil, List.foldl_cons,
    List.foldl_nil, hc, if_true]

theorem writeResult_of_channel (v : Word) : writeResult r v s = s.chanSend (r.toNat - 28) v := by
  simp only [writeResult, hc, if_true]

include hv hs

theorem readSrc_of_word {m : Msg} {rest : List Msg} (hq : s.fifo s.cur.1 (chanOf s.cur.2 r.toNat) = m :: rest) :
    readSrc i srcs r s = .ok (BitVec.ofNat 32 m.aux0.toNat) := by
  simp only [readSrc, hc, hv, hs, hq, Option.isSome_none, Bool.false_eq_true, if_false, if_true]

theorem readSrc_of_emptyFifo (hq : s.fifo s.cur.1 (chanOf s.cur.2 r.toNat) = []) :
    readSrc i srcs r s = .error (if modeOf srcs r = 1 then s.trap tEMPTYREAD r.toNat (insnWord i)
      else if modeOf srcs r = 2 then s.parkOn r else s.block .channel) := by
  simp only [readSrc, hc, hv, hs, hq, Option.isSome_none, Bool.false_eq_true, if_false, if_true]
  simp only [apply_ite (Except.error (α := Word))]
  rfl

theorem destReady_of_channel :
    destReady r s = .ok () ↔ mget 0 s.th.chOut (r.toNat - 28) < 4 ∧ (s.tile s.cur.1).tagsFull = false := by
  rw [destReady_ok, if_pos hc]
  simp only [hv, hs, Option.isSome_none, true_and]

end
end

/-- Settles O9: a register by its state, an enabled channel by its FIFO, each through its lemma above. -/
theorem sourceDelivery : Obligations.SourceDelivery := by
  unfold Obligations.SourceDelivery
  refine ⟨fun i srcs r s hc => ⟨readSrc_of_zero hc, readSrc_of_full hc, fun _ => readSrc_of_poisoned hc, ?_, ?_, ?_⟩,
    fun i srcs r s hc hv hs => ⟨fun m rest hq => ⟨readSrc_of_word hc hv hs hq, consume_of_channel hc⟩,
      readSrc_of_emptyFifo hc hv hs, destReady_of_channel hc hv hs, writeResult_of_channel hc⟩⟩
  · intro h0 hf hstop
    rw [readSrc_of_empty hc h0 hf, if_pos hstop]
  · intro h0 hf hp hm
    rw [readSrc_of_empty hc h0 hf, if_neg (by simp [hp, hm]), if_pos hm]
    rfl
  · intro h0 hf hp hm
    rw [readSrc_of_empty hc h0 hf, if_neg (by simp [hp, hm]), if_neg (by simp [hm])]

end Sys2Proof.Machine
end

section
/-! O38: a predicted branch whose register has been filled resolves, for the predicted way or against it. -/

namespace Sys2Proof.Machine
open Sys2Proof

section
variable {s : State} {sh : Shadow}

/-- The event's slot is on a predicted path whose branch can resolve: its register is full and free of poison, and the checker reports
nothing. -/
structure State.BranchDue (s : State) (sh : Shadow) : Prop where
  predicted : s.argSlot.shadow = some sh
  full : sh.fe.getLsbD sh.reg = true
  unpoisoned : sh.poison.getLsbD sh.reg = false
  agreed : s.argSlot.mismatch = 0

/-- The state in which the event's slot has kept its predicted path: the branch has committed. -/
def State.pathKept (s : State) : State :=
  (((s.atArg.modSlot s.arg.t s.arg.k (fun h =>
    { h with shadow := none, st := wsetb h.st 15 false, instret := h.instret + 1, quantum := h.quantum + 1 })).lateRevoke s.arg.t s.arg.k).notify
      s.arg.t s.arg.k).quantumOut s.arg.t s.arg.k

/-- The state in which the event's slot has left its predicted path for the branch's other way: the branch has committed. -/
def State.pathLeft (s : State) (sh : Shadow) : State :=
  ((s.atArg.discardPath s.arg.t s.arg.k sh (if sh.taken then sh.pcNot else sh.pcTaken)).modSlot s.arg.t s.arg.k (fun h =>
    { h with instret := h.instret + 1, quantum := h.quantum + 1, lastIssue := some (max (h.lastIssue.getD 0) (s.clock (vdOf s.arg.t) - 3)) })).quantumOut
      s.arg.t s.arg.k

variable (hdue : s.BranchDue sh)
include hdue

theorem branchResolve_of_predicted (hway : condHolds sh.cond (mget 0 sh.g sh.reg) = sh.taken) :
    branchResolve s = if s.argSlot.cbuf = [] then s.pathKept else s.pathKept.after (vdOf s.arg.t) 1 (evTK .branchResolve s.arg.t s.arg.k) := by
  obtain ⟨hs, hf, hp, hm⟩ := hdue
  simp only [branchResolve, hs, wbit, hf, hp, hm, hway, List.isEmpty_iff, Bool.not_true, Bool.false_eq_true, if_false, if_true,
    Nat.reduceLeDiff, zero_ne_one]
  rfl

theorem branchResolve_of_mispredicted (hway : condHolds sh.cond (mget 0 sh.g sh.reg) ≠ sh.taken) : branchResolve s = s.pathLeft sh := by
  obtain ⟨hs, hf, hp, hm⟩ := hdue
  simp only [branchResolve, hs, wbit, hf, hp, hm, hway, Bool.not_true, Bool.false_eq_true, if_false, Nat.reduceLeDiff, zero_ne_one]
  rfl

end

/-- Settles O38: the condition holds as predicted, or not; `discardPath` brings the registers back and empties the commit buffer. -/
theorem branchResolution : Obligations.BranchResolution := by
  unfold Obligations.BranchResolution
  intro s sh t k h v hs hf hp hm
  exact ⟨fun hway => congrArg Host.Outcome.next (branchResolve_of_predicted ⟨hs, hf, hp, hm⟩ hway),
    fun hway => congrArg Host.Outcome.next (branchResolve_of_mispredicted ⟨hs, hf, hp, hm⟩ hway)⟩

end Sys2Proof.Machine
end

section
/-! O41: messages and wakes at a compute tile that holds the slot they are for. -/

namespace Sys2Proof.Machine
open Sys2Proof

section
variable {s : State}

/-- A data or queue message reaches the slot of its channel: the tile is a compute tile, and no crew of that slot has left, is being
moved, or has mailbox entries that still wait. -/
structure State.WordArrives (s : State) : Prop where
  tile : isComputeTile s.dstTile = true
  here : s.fwdSlot s.dstTile (msgCh s.msg / 4) s.msg.asid = none
  settled : s.settling s.dstTile (msgCh s.msg / 4) = false
  delivered : s.mailing s.dstTile (msgCh s.msg / 4) = false

/-- The message has joined the message queue of its tile. -/
def State.msgQueued (s : State) : State :=
  (s.wordIn s.msg).modTile s.dstTile (fun T => { T with msgq := T.msgq ++ [(s.clock (vdOf s.dstTile), s.msg)] })

/-! ### Words (R158, R245) -/

section
variable {t : Nat} {m : Msg}

theorem takeWord_of_room (hroom : (s.fifo t (msgCh m)).length < 4)
    (hfirst : ∀ q, q ∈ (s.tile t).msgq → msgKind q.2 = 0 → msgCh q.2 ≠ msgCh m) :
    s.takeWord t m = some ((s.wordIn m).fifoPush t (msgCh m) m) := by
  have hnone : (s.tile t).msgq.any (fun q => msgKind q.2 == 0 && msgCh q.2 == msgCh m) = false := by
    rw [List.any_eq_false]
    intro q hq
    simpa using hfirst q hq
  simp only [State.takeWord, hroom, hnone, decide_true, Bool.not_false, Bool.and_self, if_true]

theorem takeWord_of_fullFifo (hfull : 4 ≤ (s.fifo t (msgCh m)).length) (hroom : (s.tile t).msgq.length < 32) :
    s.takeWord t m = some ((s.wordIn m).modTile t (fun T => { T with msgq := T.msgq ++ [(s.clock (vdOf t), m)] })) := by
  simp only [State.takeWord, Nat.not_lt.mpr hfull, hroom, decide_false, Bool.false_and, Bool.false_eq_true, if_false, if_true]

end

section
variable (hw : s.WordArrives)
include hw

theorem msgData_of_taken {u : State} (ha : (s.slot s.dstTile (msgCh s.msg / 4)).asid = s.msg.asid)
    (hu : s.takeWord s.dstTile s.msg = some u) : msgData s = u := by
  obtain ⟨ht, hhere, hset, hmail⟩ := hw
  simp only [msgData, ht, hhere, hset, hmail, ha, hu, Bool.not_true, Bool.or_self, bne_self_eq_false, Bool.false_eq_true, if_false,
    Option.getD_some]

theorem msgQueue_of_room (hroom : (s.tile s.dstTile).msgq.length < 32) (hplain : s.msg.aux0.getLsbD 31 = false) :
    msgQueue s = (s.msgQueued.wakeSlot7 s.dstTile).wakeRq s.dstTile [1, 2] := by
  obtain ⟨ht, hhere, hset, hmail⟩ := hw
  simp only [msgQueue, State.takeQueued, ht, hhere, hset, hmail, hroom, hplain, Bool.not_true, Bool.or_self, Bool.false_eq_true, if_false,
    if_true, Option.getD_some]
  rfl

end

/-! ### A bank that has been read (R39) -/

theorem msg_readCheck (s : State) (pa n ctx : Nat) : (s.readCheck pa n ctx).msg = s.msg := by
  obtain ⟨-, -, -, -, harg, -⟩ := sameTiles_readCheck s pa n ctx
  exact congrArg Arg.msg harg

/-- Neither the tiles and the memory, nor the crews and the clock of a die differ. -/
structure SameHolders (s u : State) : Prop where
  pkg : u.pkg = s.pkg
  tiles : u.tiles = s.tiles
  mem : u.mem = s.mem
  ecc : u.ecc = s.ecc
  arg : u.arg = s.arg
  dies : ∀ d, (u.die d).crews = (s.die d).crews ∧ (u.die d).cycle = (s.die d).cycle

theorem SameHolders.putBank {u : State} (h : SameHolders s u) (vd bank : Nat) (T : BankTick) :
    SameHolders s (u.setDie vd ((u.die vd).putBank bank T)) := by
  obtain ⟨hpkg, htiles, hmem, hecc, harg, hdies⟩ := h
  refine ⟨hpkg, htiles, hmem, hecc, harg, fun d => ?_⟩
  by_cases hd : d = vd
  · subst hd
    rw [State.die_setDie]
    exact hdies d
  · rw [State.die_setDie_other _ _ hd]
    exact hdies d

section
variable (pa n ctx : Nat)

theorem sameHolders_scrub : SameHolders s (s.scrub pa n ctx) :=
  List.foldlRecOn (motive := SameHolders s) _ _ ⟨rfl, rfl, rfl, rfl, rfl, fun _ => ⟨rfl, rfl⟩⟩ (fun _ h _ _ => h.putBank _ _ _)

/-- Does a read of n bytes at pa touch the 8-byte word at w? -/
def readTouches (pa n w : Nat) : Bool := decide (w < pa + n) && decide (pa < w + 8)

/-- The words the read touches are corrected, the others stay as they are. -/
theorem ecc1_scrub : (s.scrub pa n ctx).ecc1 = s.ecc1.filter (fun w => !readTouches pa n w) :=
  List.foldlRecOn (motive := fun u : State => u.ecc1 = s.ecc1.filter (fun w => !readTouches pa n w)) _ _ rfl (fun _ h _ _ => h)

theorem scrub_scrub (ctx' : Nat) : (s.scrub pa n ctx).scrub pa n ctx' = s.scrub pa n ctx := by
  have hecc1 := ecc1_scrub (s := s) pa n ctx
  generalize s.scrub pa n ctx = u at hecc1
  have hnone : u.ecc1.filter (readTouches pa n) = [] := by
    simp [hecc1, List.filter_filter]
  have hkept : u.ecc1.filter (fun w => !readTouches pa n w) = u.ecc1 := by
    simp only [hecc1, List.filter_filter, Bool.and_self]
  unfold readTouches at hnone hkept
  simp only [State.scrub, hnone, hkept, List.foldl_nil]

end

section
variable {u : State} (h : SameHolders s u)
include h

theorem SameHolders.tile (t : Nat) : u.tile t = s.tile t := by
  simp only [State.tile, h.tiles]

theorem SameHolders.slot (t k : Nat) : u.slot t k = s.slot t k := by
  simp only [State.slot, h.tile]

theorem SameHolders.msg : u.msg = s.msg := congrArg Arg.msg h.arg

theorem SameHolders.dstTile : u.dstTile = s.dstTile := by
  simp only [State.dstTile, h.msg]

theorem SameHolders.settling (t k : Nat) : u.settling t k = s.settling t k := by
  simp only [State.settling, (h.dies _).1]

theorem SameHolders.fwdSlot (t k asid : Nat) : u.fwdSlot t k asid = s.fwdSlot t k asid := by
  simp only [State.fwdSlot, State.fwdAsid, State.canon, h.slot, h.tile, h.mem, h.pkg]

theorem SameHolders.dry (t k : Nat) : u.dry t k = s.dry t k := by
  simp only [State.dry, State.fifo, State.clock, h.slot, h.tile, (h.dies _).2]
  rfl

theorem SameHolders.eccBad (pa n : Nat) : u.eccBad pa n = s.eccBad pa n := by
  simp only [State.eccBad, h.ecc]

end

theorem readCheck_of_readable {pa n : Nat} (h : s.eccBad pa n = false) (ctx : Nat) : s.readCheck pa n ctx = s.scrub pa n ctx := by
  have hecc : (s.scrub pa n ctx).eccBad pa n = false := ((sameHolders_scrub pa n ctx).eccBad pa n).trans h
  simp only [State.readCheck, hecc, Bool.false_eq_true, if_false]

/-! ### Recasts (R160) -/

/-- The slot whose thread takes the roles of a tile. -/
def Tile.roleSlot (T : Tile) : Nat := wfld T.rolectl 2 3

/-- The address of the role table's entry for a role. -/
def Tile.roleEntry (T : Tile) (r : Nat) : Nat := dfld T.roletb 0 56 + 32 * r

/-- What a recast loads from the role table's entry at `a`: the enabled channels, their peers and the PC. -/
def State.roleLoaded (s : State) (a : Nat) (h : Slot) : Slot :=
  let w (j : Nat) : Word := BitVec.ofNat 32 (rdLE s.mem (a + 4 * j) 4)
  { h with chmap := w 1 &&& 0xF, chpeer := (List.range 4).foldl (fun (p : List (Nat × Word)) (j : Nat) => mset 0 p j (w (2 + j) &&& 0x1FFFFFFF)) [], pc := w 0 }

/-- The state in which slot k of tile t has taken role r, whose entry is at `a`, and the recast has been acknowledged. -/
def State.recast (s : State) (t k r a : Nat) : State :=
  ((s.modSlot t k (fun h => ((s.roleLoaded a h).setG 1 (BitVec.ofNat 32 r)).wake)).modTile t (fun T => { T with rolectl := wput T.rolectl 0 2 r })).wrackTo s.msg

/-- A recast for the thread in slot k reaches it: the tile is a compute tile, and no crew of that slot has left or is being moved. -/
structure State.RecastArrives (s : State) (k : Nat) : Prop where
  role : (s.tile s.dstTile).roleSlot = k
  tile : isComputeTile s.dstTile = true
  settled : s.settling s.dstTile k = false
  here : s.fwdSlot s.dstTile k s.msg.asid = none

/-- A recast of slot k to role r can be done: the thread is dry, and the role's entry lies at `a` in memory and can be read. -/
structure State.RecastGood (s : State) (k r a : Nat) : Prop where
  dry : s.dry s.dstTile k = true
  named : s.msg.aux0.toNat % 2 ^ 32 = r
  role : r ≠ 0 ∧ ¬3 < r
  entry : (s.tile s.dstTile).roleEntry r = a
  space : spaceOf a = 0
  decodes : s.decodes (vdOf s.dstTile) a = true
  readable : s.eccBad a 24 = false

section
variable {k r a : Nat} (hw : s.RecastArrives k)
include hw

theorem msgRecast_of_busy (hdry : s.dry s.dstTile k = false) : msgRecast s = s.answer .msgref id := by
  obtain ⟨rfl, ht, hset, hhere⟩ := hw
  unfold Tile.roleSlot at *
  simp only [msgRecast, ht, hset, hhere, hdry, Bool.not_true, Bool.not_false, Bool.true_or, Bool.false_eq_true, if_false, if_true]

theorem msgRecast_of_good (hg : s.RecastGood k r a) : msgRecast s = (s.readCheck a 24 (s.ctxName s.dstTile k)).recast s.dstTile k r a := by
  obtain ⟨rfl, ht, hset, hhere⟩ := hw
  obtain ⟨hdry, hr, ⟨hlo, hhi⟩, rfl, hspace, hdec, hecc⟩ := hg
  unfold State.recast
  rw [msg_readCheck]
  unfold Tile.roleSlot Tile.roleEntry at *
  simp only [msgRecast, ht, hset, hhere, hdry, hr, hlo, hhi, hspace, hdec, hecc, Bool.not_true, Bool.or_self, Bool.false_eq_true,
    if_false, decide_false, bne_self_eq_false]
  rfl

end

section
variable {u : State} (h : SameHolders s u)
include h

theorem SameHolders.recastArrives {k : Nat} (hw : s.RecastArrives k) : u.RecastArrives k := by
  obtain ⟨hk, ht, hset, hhere⟩ := hw
  exact ⟨by rwa [h.dstTile, h.tile], by rwa [h.dstTile], by rwa [h.dstTile, h.settling], by rwa [h.dstTile, h.msg, h.fwdSlot]⟩

theorem SameHolders.recastGood {k r a : Nat} (hg : s.RecastGood k r a) : u.RecastGood k r a := by
  obtain ⟨hdry, hr, hrole, ha, hspace, hdec, hecc⟩ := hg
  have hdec' (vd : Nat) : u.decodes vd a = s.decodes vd a := by
    simp only [State.decodes, hspace]
  exact ⟨by rwa [h.dstTile, h.dry], by rwa [h.msg], hrole, by rwa [h.dstTile, h.tile], hspace, by rwa [h.dstTile, hdec'], by rwa [h.eccBad]⟩

end

/-- The recast of a thread whose role entry has just been read by another access: the entry's bank has nothing left to correct. -/
theorem msgRecast_of_checked {k r a : Nat} (hw : s.RecastArrives k) (hg : s.RecastGood k r a) (ctx : Nat) :
    msgRecast (s.readCheck a 24 ctx) = (s.readCheck a 24 ctx).recast s.dstTile k r a := by
  rw [readCheck_of_readable hg.readable]
  have hsame := sameHolders_scrub (s := s) a 24 ctx
  have hg' := hsame.recastGood hg
  rw [msgRecast_of_good (hsame.recastArrives hw) hg', readCheck_of_readable hg'.readable, scrub_scrub, hsame.dstTile]

theorem msgref_of_pending {p : Pend} (hp : (s.slot s.dstTile s.msg.slot).getPend s.msg.tag = some p) :
    msgref s = s.sendDone s.dstTile s.msg.slot s.msg.tag p.kind := by
  simp only [msgref, hp]

/-! ### Wakes (R285, R286, R295, R329) -/

section
variable (ht : isComputeTile s.dstTile = true)
include ht

section
variable (hk : s.msg.slot < 7) (hhere : s.fwdSlot s.dstTile s.msg.slot s.msg.asid = none) (hset : s.settling s.dstTile s.msg.slot = false)
  (ho : (s.slot s.dstTile s.msg.slot).occ = .thread) (ha : wakeAllowed s.msg (s.slot s.dstTile s.msg.slot).asid = true)
include hk hhere hset ho ha

theorem wakeSlotMsg_of_parked (hr : (s.slot s.dstTile s.msg.slot).run = .parked) (hp : stPARK (s.slot s.dstTile s.msg.slot).st = pPARK) :
    wakeSlotMsg s = s.setSlot s.dstTile s.msg.slot (s.slot s.dstTile s.msg.slot).wake := by
  simp [wakeSlotMsg, ht, Nat.mod_eq_of_lt (hk.trans (by decide : 7 < 8)), hhere, hset, ho, ha, hr, hp, hk.ne]

theorem wakeSlotMsg_of_ready (hr : (s.slot s.dstTile s.msg.slot).run = .ready) :
    wakeSlotMsg s = s.modSlot s.dstTile s.msg.slot (fun h => { h with wl := true }) := by
  simp [wakeSlotMsg, ht, Nat.mod_eq_of_lt (hk.trans (by decide : 7 < 8)), hhere, hset, ho, ha, hr, hk.ne]

end

theorem wakeFaultMsg_of_parkedFault (hk : s.msg.slot < 8) (ho : (s.slot s.dstTile s.msg.slot).occ = .thread)
    (hcrew : (s.slot s.dstTile s.msg.slot).crewid = BitVec.ofNat 32 s.msg.aux1.toNat)
    (hin : ∀ c, s.crewAt (vdOf s.dstTile) (BitVec.ofNat 32 s.msg.aux1.toNat).toNat = some c → c.state ≠ 1)
    (hset : s.settling s.dstTile s.msg.slot = false) (hp : parkedFault (s.slot s.dstTile s.msg.slot) = true) (hlive : s.msg.aux0.getLsbD 17 = false) :
    wakeFaultMsg s = (s.resumeSteps s.dstTile s.msg.slot (fun _ => true) false).modSlot s.dstTile s.msg.slot (fun h => h.wake) := by
  have hstay : (s.crewAt (vdOf s.dstTile) (BitVec.ofNat 32 s.msg.aux1.toNat).toNat).any (fun c => c.state == 1) = false := by
    cases hc : s.crewAt (vdOf s.dstTile) (BitVec.ofNat 32 s.msg.aux1.toNat).toNat with
    | none => rfl
    | some c => simpa using hin c hc
  simp only [wakeFaultMsg, ht, Nat.mod_eq_of_lt hk, ho, hcrew, hstay, hset, hp, hlive, Bool.not_true, Bool.false_eq_true, if_false, if_true,
    BEq.rfl, Bool.true_or, Bool.and_self]
  rfl

end

section
variable {t tag : Nat}

theorem tagWake_of_sleeping {e : RqEntry} (he : (s.tile t).rq.find? (fun e => e.tag == tag) = some e) (hs : e.sleep = true) :
    s.tagWake t tag = (s.setTile t { s.tile t with
      rq := updWhere (fun e => e.tag == tag) (fun e => { e with sleep := false, order := (s.tile t).rqOrder }) (s.tile t).rq
      rqOrder := (s.tile t).rqOrder + 1 }).wakeRq t [0, 2] := by
  simp only [State.tagWake, he, hs, if_true]

theorem tagWake_of_absent (he : (s.tile t).rq.find? (fun e => e.tag == tag) = none) (hl : (s.tile t).latch.contains tag = false)
    (hroom : (s.tile t).latch.length < 8) : s.tagWake t tag = s.setTile t { s.tile t with latch := (s.tile t).latch ++ [tag] } := by
  simp only [State.tagWake, he, hl, Nat.not_le.mpr hroom, decide_false, Bool.or_self, Bool.false_eq_true, if_false]

end

theorem wakeTagMsg_of_tile (ht : isComputeTile s.dstTile = true) : wakeTagMsg s = s.tagWake s.dstTile (s.msg.aux0.toNat % 2 ^ 16) := by
  simp only [wakeTagMsg, ht, dfld_low, if_true]

theorem wakeDescriptor_of_good {d : Nat} (hd : s.arg.desc.toNat = d) (h27 : d / 2 ^ 27 % 2 ^ 5 = 0) (h33 : d / 2 ^ 33 % 2 ^ 31 = 0)
    (h96 : d / 2 ^ 96 % 2 ^ 32 = 0) :
    wakeDescriptor s = s.post .wakeFaultMsg { Msg.zero with
      src := s.eid (8 + s.arg.t) 2, dst := d % 2 ^ 27 / 2 ^ 15 * 4096 + d % 2 ^ 27 / 8 % 4096, slot := d % 2 ^ 27 % 8, attr := 1
      aux0 := BitVec.ofNat 64 (d / 2 ^ 32 % 2 * 2 ^ 17), aux1 := BitVec.ofNat 64 (d / 2 ^ 64 % 2 ^ 32) } := by
  subst hd
  simp only [wakeDescriptor, nfld, h27, h33, h96, bne_self_eq_false, Bool.or_self, Bool.false_eq_true, if_false, pow_zero, Nat.div_one]
  rfl

end

/-- Settles O41: each clause is the branch of its message's function that a lemma above names. The recast of the statement is taken in the
state in which the role's entry has just been read, where reading it again changes nothing. -/
theorem messageEvents : Obligations.MessageEvents := by
  unfold Obligations.MessageEvents
  intro s m t ch k
  have hch : msgCh s.msg = ch := wfld_low s.msg.attr 5
  refine ⟨fun ht hhere hset hmail => ?_, ?_, ?_, ?_, ?_, ?_, ?_⟩
  · have hw : s.WordArrives := ⟨ht, hch ▸ hhere, hch ▸ hset, hch ▸ hmail⟩
    refine ⟨fun ha => ⟨fun hroom hfirst => ?_, fun hfull hroom => ?_⟩, fun hroom hplain => congrArg Host.Outcome.next (msgQueue_of_room hw hroom hplain)⟩
    · have htake := takeWord_of_room (m := s.msg) (hch ▸ hroom) (hch ▸ hfirst)
      exact congrArg Host.Outcome.next ((msgData_of_taken hw (hch ▸ ha) htake).trans (by rw [hch]))
    · exact congrArg Host.Outcome.next (msgData_of_taken hw (hch ▸ ha) (takeWord_of_fullFifo (m := s.msg) (hch ▸ hfull) hroom))
  · intro k ht hset hhere
    have hw : s.RecastArrives k := ⟨rfl, ht, hset, hhere⟩
    refine ⟨fun hdry => congrArg Host.Outcome.next (msgRecast_of_busy hw hdry), fun r => ?_⟩
    intro a hdry hr hlo hhi hspace hdec hecc u w newRole
    have ha : (s.tile s.dstTile).roleEntry r = a := by
      simp only [Tile.roleEntry, dfld_low]
      rfl
    have hrecast := msgRecast_of_checked hw ⟨hdry, hr, ⟨Nat.one_le_iff_ne_zero.mp hlo, Nat.not_lt.mpr hhi⟩, ha, hspace, hdec, hecc⟩ (s.ctxName t k)
    refine congrArg Host.Outcome.next (hrecast.trans ?_)
    exact congrArg (State.wrackTo _) (msg_readCheck s a 24 (s.ctxName t k))
  · exact fun p hp => congrArg Host.Outcome.next (msgref_of_pending hp)
  · exact fun ht hk hhere hset ho ha => ⟨fun hr hp => congrArg Host.Outcome.next (wakeSlotMsg_of_parked ht hk hhere hset ho ha hr hp),
      fun hr => congrArg Host.Outcome.next (wakeSlotMsg_of_ready ht hk hhere hset ho ha hr)⟩
  · intro tag ht
    have htag := wakeTagMsg_of_tile ht
    exact ⟨fun e he hs => congrArg Host.Outcome.next (htag.trans (tagWake_of_sleeping he hs)),
      fun he hl hroom => congrArg Host.Outcome.next (htag.trans (tagWake_of_absent he hl hroom))⟩
  · exact fun ht hk ho hcrew hin hset hp hlive => congrArg Host.Outcome.next (wakeFaultMsg_of_parkedFault ht hk ho hcrew hin hset hp hlive)
  · exact fun h27 h33 h96 => congrArg Host.Outcome.next (wakeDescriptor_of_good rfl h27 h33 h96)

end Sys2Proof.Machine
end

section
/-! O19: WAITC, POSTC, POSTCE, SEND, CHON and CHOFF of an ordinary thread pass their checks, and commit with what they send. -/

namespace Sys2Proof.Machine
open Sys2Proof

section
variable {i : Instr} {s s1 : State} {d : Reg} {sg : BitVec 3} {a b : Src} {x lo hi v : Word} (ho : Ordinary s)
include ho

/-! ### Completion words (R242, R243) -/

section
variable (hd : LaterReady d s)
include hd

/-- WAITC of a pair source, which names the target t. -/
theorem waitc_of_target {pa t : Nat} {srcs : List Src} (hsrcs : srcs = [a] ++ srcPair b) (hfree : s.th.watching = false)
    (hx : Delivers srcs a.r s x) (hpair : readPairZ i srcs b s = .ok (lo, hi)) (ht : dwordOf lo hi = t)
    (hp : watchPlace sg.toNat x.toNat s = .ok (pa, s1)) :
    waitc i d sg a b s = .ok ((s1.committedLater srcs d).ask .watchInstall pa (.watch d.toNat t) (fun m => { m with aux0 := BitVec.ofNat 64 t })) := by
  subst hsrcs ht
  simp only [waitc, enter_system_of_ordinary ho, hx i, hpair, hd i, hfree, hp, bind, Except.bind, Bool.false_eq_true, if_false]
  rfl

/-- POSTC and POSTCE ask the home of their word for it; `err` tells POSTCE. -/
theorem postc_of_place {err : Bool} {p : P0} (hx : Delivers [a, b] a.r s x) (hv : Delivers [a, b] b.r s v)
    (hp : p0Place rAtomic 3 sg.toNat x.toNat 8 99 s = .ok (p, s1)) (hheld : s1.th.lineHeld (s1.tileEid s1.cur.1) p.pa = false) :
    postc i err d sg a b s = .ok (commitNow ((markLater d (consume [a, b] s1)).p0Send .rsv p.pa p.la 8 (.post d.toNat v err) 0)) := by
  simp only [postc, enter_system_of_ordinary ho, hx i, hv i, hd i, hp, hheld, bind, Except.bind, Bool.false_eq_true, if_false]

end

/-! ### Messages and channels (R158, R244) -/

theorem send_of_room {kind : BitVec 3} (hx : Delivers [a, b] a.r s x) (hv : Delivers [a, b] b.r s v) (hlt : x.toNat < 2 ^ 29) (hroom : s.th.sendOut < 4) :
    let q := (consume [a, b] s).th.addPend 0 (3 * 2 ^ 52 + x.toNat % 2 ^ 24 * 2 ^ 24) 0 .send
    let u := commitNow ((consume [a, b] s).modTh (fun _ => { q.2 with sendOut := q.2.sendOut + 1 }))
    send i a b kind s = .ok (u.send .req (if kind = 0 then .msgData else if kind = 1 then .msgRecast else .msgQueue)
      { Msg.zero with src := s.tileEid s.cur.1, dst := x.toNat % 2 ^ 24, slot := s.cur.2, asid := s.th.asid, tag := q.1
                      attr := BitVec.ofNat 32 (x.toNat / 2 ^ 24 + kind.toNat * 32), aux0 := v.zeroExtend 64 }) := by
  have hkind : wfld x 24 5 = x.toNat / 2 ^ 24 := by
    simp only [wfld, nfld]
    omega
  have hword : BitVec.ofNat 64 v.toNat = v.zeroExtend 64 := BitVec.ofNat_toNat 64 v
  simp only [send, enter_system_of_ordinary ho, hx i, hv i, wfld_above hlt, illValue_of_good, Nat.not_le.mpr hroom, wfld_low, hkind, hword,
    bind, Except.bind, bne_self_eq_false, if_false]

theorem chon_of_idle {k : BitVec 2} (hx : Delivers [a] a.r s x) (hlt : x.toNat < 2 ^ 29) (hidle : s.th.prod.getLsbD (28 + k.toNat) = false) :
    chon i a k s = .ok (commitNow ((consume [a] s).modTh (fun h => { h with chpeer := mset 0 h.chpeer k.toNat x, chmap := wsetb h.chmap k.toNat true }))) := by
  have hpeer : x &&& 0x1FFFFFFF = x := by
    refine BitVec.eq_of_toNat_eq ?_
    rw [BitVec.toNat_and]
    exact (Nat.and_two_pow_sub_one_eq_mod x.toNat 29).trans (Nat.mod_eq_of_lt hlt)
  simp only [chon, enter_system_of_ordinary ho, hx i, wbit, hidle, wfld_above hlt, illValue_of_good, hpeer, bind, Except.bind,
    bne_self_eq_false, Bool.false_eq_true, if_false]

theorem choff_of_ordinary {k : BitVec 2} : choff i k s = .ok (commitNow (s.modTh (fun h => { h with chmap := wsetb h.chmap k.toNat false }))) := by
  simp only [choff, enter_system_of_ordinary ho, bind, Except.bind]

end

theorem srcPair_of_zero {b : Src} (h0 : b.r = 0) : srcPair b = [b] := if_pos h0

theorem readPairZ_of_zero {i : Instr} {srcs : List Src} {b : Src} {s : State} {lo : Word} (h0 : b.r = 0) (hlo : Delivers srcs b.r s lo) :
    readPairZ i srcs b s = .ok (0, 0) := by
  rw [h0] at hlo
  simp only [readPairZ, h0, hlo i, bind, Except.bind, if_true]

theorem readPairZ_of_pair {i : Instr} {srcs : List Src} {b : Src} {s : State} {lo hi : Word} (h0 : b.r ≠ 0) (hlo : Delivers srcs b.r s lo)
    (hhi : Delivers srcs (b.r + 1) s hi) : readPairZ i srcs b s = .ok (lo, hi) := by
  simp only [readPairZ, hlo i, hhi i, bind, Except.bind, h0, if_false]

/-- Settles O19: each instruction's checks pass, and what it commits and sends is said by its lemma above; a WAITC whose rs2 is g0 waits for 0. -/
theorem completionAndChannelInstructions : Obligations.CompletionAndChannelInstructions := by
  unfold Obligations.CompletionAndChannelInstructions
  intro s s1 d sg a b x lo hi v ho marked
  refine ⟨fun pa hd hfree hp => ⟨fun h0 hx hlo hhi => ?_, fun h0 hx hlo => ?_⟩,
    fun p hd hx hv hp hheld => ⟨congrArg finish (postc_of_place ho hd hx hv hp hheld), congrArg finish (postc_of_place ho hd hx hv hp hheld)⟩,
    fun kind hx hv hlt hroom => congrArg finish (send_of_room ho hx hv hlt hroom),
    fun k hx hlt hidle => congrArg finish (chon_of_idle ho hx hlt hidle), fun k => congrArg finish (choff_of_ordinary ho)⟩
  · have htarget : dwordOf lo hi = lo.toNat + hi.toNat % 2 ^ 31 * 2 ^ 32 := by rw [dwordOf, wfld_low]
    exact congrArg finish (waitc_of_target ho hd rfl hfree hx (readPairZ_of_pair h0 hlo hhi) htarget hp)
  · exact congrArg finish (waitc_of_target ho hd (by rw [srcPair_of_zero h0]; rfl) hfree hx (readPairZ_of_zero h0 hlo) rfl hp)

end Sys2Proof.Machine
end

section
/-! O26: FORK, JOINC and SPAWN of an ordinary thread. FORK and JOINC take their cell and go on in the state after it; what JOINC does with the
cell's value depends on the thread's continuation. SPAWN asks for its record, or for its second half, and sends it once it has come. -/

namespace Sys2Proof.Machine
open Sys2Proof

/-! ### The turn stays with its slot -/

/-- The result of an operation that leaves the turn with the slot that had it in s. -/
def SameTurn (s : State) {α : Type} (r : α × State) : Prop := r.2.cur = s.cur

theorem ends_of_ok {ε α : Type} {P : α → Prop} {x : Except ε α} (h : ∀ a, x = .ok a → P a) : Ends (fun _ => True) P x := by
  cases x with
  | error _ => exact .error trivial
  | ok a => exact .ok (h a rfl)

section
variable {rights : Seg → Bool} {kind sn off n al op la pa : Nat} {s : State}

theorem sameTurn_p0Translate : Ends (fun _ => True) (SameTurn s) (p0Translate la kind n op s) :=
  ends_of_ok fun _ h => (sameNames_of_portTranslate h).2

theorem sameTurn_p0Place : Ends (fun _ => True) (SameTurn s) (p0Place rights kind sn off n op s) := by
  unfold p0Place p0PlaceAt
  refine .seq (ends_of_ok fun _ _ => trivial) fun p => .seq (ends_of_ok fun _ _ => trivial) fun _ => ?_
  extract_lets t k
  split
  · split
    · exact .ite (.error trivial) (.ok rfl)
    · split
      · exact .error trivial
      · exact .error trivial
      · exact .seq (ends_of_ok fun _ _ => trivial) fun _ => .ok rfl
  · split
    · exact .ite (.error trivial) (sameTurn_p0Translate.bind fun _ h => .ok h)
    · split
      · exact .error trivial
      · exact .error trivial
      · exact .seq (ends_of_ok fun _ _ => trivial) fun _ => .ok rfl
      · exact sameTurn_p0Translate.bind fun _ h => .ok h

theorem sameTurn_joinCell : Ends (fun _ => True) (SameTurn s) (joinCell sn off s) := by
  unfold joinCell
  refine sameTurn_p0Place.bind fun q hq => ?_
  refine .ite (.error trivial) ?_
  split
  · exact .error trivial
  · refine .seq (ends_of_ok fun _ _ => trivial) fun _ => .ite (.error trivial) ?_
    exact .ite (.error trivial) (.ok ((sameTiles_readCheck _ _ _ _).1.trans hq))

theorem cur_homeWrite (s : State) (pa : Nat) (bs : List Byte) : (s.homeWrite pa bs).cur = s.cur := by
  unfold State.homeWrite
  split
  · rfl
  · extract_lets n s1
    split <;> rfl

theorem cur_fireWatches (s : State) (pa n : Nat) : (s.fireWatches pa n).cur = s.cur := by
  unfold State.fireWatches
  extract_lets vd hit again hit' ws s1
  split
  · rfl
  · exact List.foldlRecOn (motive := fun u : State => u.cur = s.cur) ws _ rfl fun _ hu _ _ => (sameTiles_send _ _ _ _).1.trans hu

theorem cur_perform (s : State) (pa : Nat) (bs : List Byte) : (s.perform pa bs).cur = s.cur :=
  (cur_fireWatches _ _ _).trans (cur_homeWrite _ _ _)

end

/-! ### Continuations (R155, R290) -/

/-- The least part that a continuation has not placed is j. -/
structure Fork.Next (f : Fork) (j : Nat) : Prop where
  listed : f.umap.getLsbD j = true
  inMap : j < 256
  least : ∀ i, i < j → f.umap.getLsbD i = false

theorem Fork.Next.find? {f : Fork} {j : Nat} (h : f.Next j) : (List.range 256).find? (fun j => f.umap.getLsbD j) = some j := by
  obtain ⟨hj, hlt, hleast⟩ := h
  exact List.find?_range_eq_some.mpr ⟨hj, List.mem_range.mpr hlt, fun i hi => by rw [hleast i hi]; rfl⟩

theorem Fork.Next.ucount {f : Fork} {j : Nat} (h : f.Next j) : f.ucount ≠ 0 := by
  obtain ⟨hj, hlt, -⟩ := h
  have hmem : j ∈ (List.range 256).filter (fun i => f.umap.getLsbD i) := List.mem_filter.mpr ⟨List.mem_range.mpr hlt, hj⟩
  exact (List.length_pos_of_mem hmem).ne'

theorem Fork.idle_of_none {f : Fork} (h : f.v = false ∨ f.umap = 0) : (f.v && f.ucount != 0) = false := by
  rcases h with h | h
  · simp only [h, Bool.false_and]
  · have hcount : f.ucount = 0 := by simp [Fork.ucount, mapCount, h]
    simp only [hcount, bne_self_eq_false, Bool.and_false]

/-! ### What is waited for -/

theorem drainedTh_of_drained {s : State} (hpend : ∀ p, p ∈ s.th.pend → p.path ≠ 0) (hbuf : s.th.cbuf = []) (hprod : s.th.prod = 0) :
    drainedTh s = .ok () := by
  have hquiet : s.th.pend.any (fun p => p.path == 0) = false := by simpa using hpend
  simp only [drainedTh, hquiet, hbuf, hprod, List.isEmpty_nil, Bool.not_true, bne_self_eq_false, Bool.or_self, Bool.false_eq_true, if_false]

theorem fenceFirst_of_quiet {s : State} {mask scope : Nat} (hbuf : s.th.cbuf = []) (hquiet : s.fenceWaits mask scope = false) :
    fenceFirst mask scope s = .ok () := by
  simp only [fenceFirst, hbuf, hquiet, List.isEmpty_nil, Bool.not_true, Bool.or_self, Bool.false_eq_true, if_false]

/-! ### FORK (R155, R156, R289) -/

/-- The number of parts of a FORK of n elements in grains of g: no more than there are tiles for, nor than FMAX. -/
def State.forkParts (s1 : State) (n g : Nat) : Nat :=
  min (min (cdiv n g) (1 + (s1.idleTiles s1.cur.1).length)) (s1.tile s1.cur.1).fmax.toNat

/-- The cell holds the number of parts, and recruits are seated for all parts but the first; the parts without a recruit. -/
def State.forkSeated (s1 : State) (cell : P0) (n p joff : Nat) : State × List Nat :=
  let s2 := s1.perform cell.pa (leBytes 8 p)
  s2.recruitAll (s2.crewOf s1.cur.1 s2.cur.2) s1.th ((s1.idleTiles s1.cur.1).take (p - 1)) n p joff

/-- What a thread keeps of its FORK: the parts left for its JOINC, if any. -/
def forkKept (h : Slot) (n p sg : Nat) (joff : Word) (left : List Nat) : Fork :=
  if left = [] then {} else { v := true, rpc := h.pc + 4, n := n, p := p, seg := sg, joff := joff, umap := left.foldl (fun m i => m ||| (1#256 <<< i)) 0 }

section
variable {s s1 : State} {d : Reg} {sg : BitVec 3} {a b : Src} {x n g q : Word} {cell : P0} (ho : Ordinary s)
include ho

theorem fork_of_cell (hx : Delivers ([a] ++ srcPair b) a.r s x) (hn : Delivers ([a] ++ srcPair b) b.r s n) (hg : Delivers ([a] ++ srcPair b) (b.r + 1) s g)
    (h1 : destReady 1 s = .ok ()) (h2 : destReady 2 s = .ok ()) (h4 : destReady 4 s = .ok ()) (hd : destReady d s = .ok ())
    (hpos : 0 < n.toNat) (hlt : n.toNat < 2 ^ 31) (hg0 : g ≠ 0) (hidle : s.th.fork.v = false ∨ s.th.fork.umap = 0)
    (hcell : joinCell sg.toNat x.toNat s = .ok (cell, s1)) {p : Nat} (hp : s1.forkParts n.toNat g.toNat = p) :
    let r := s1.forkSeated cell n.toNat p x.toNat
    fork d sg a b s = .ok (commitNow (writeResult d (BitVec.ofNat 32 p) ((consume ([a] ++ srcPair b) r.1).modTh (fun h =>
      { (((h.setG 1 0).setG 2 (BitVec.ofNat 32 (n.toNat / p))).setG 4 x) with fork := forkKept s1.th n.toNat p sg.toNat x r.2 })))) := by
  subst hp
  have hrange : (n.toNat == 0 || decide (2 ^ 31 ≤ n.toNat)) = false := by
    simp only [Bool.or_eq_false_iff, beq_eq_false_iff_ne, decide_eq_false_iff_not]
    omega
  simp only [fork, enter_system_of_ordinary ho, hx _, hn _, hg _, h1, h2, h4, hd, hrange, beq_eq_false_iff_ne.mpr hg0, illValue_of_good,
    Fork.idle_of_none hidle, illWord_of_good, hcell, bind, Except.bind, List.isEmpty_iff]
  rfl

/-! ### JOINC (R157, R290) -/

section
variable (hx : Delivers [a] a.r s x) (hd : destReady d s = .ok ()) (h7 : s.cur.2 ≠ 7) (hcell : joinCell sg.toNat x.toNat s = .ok (cell, s1))
include hx hd h7 hcell

/-- The thread's own fork has a part that no recruit took: the thread takes it. -/
theorem joinc_of_part {f : Fork} {j : Nat} (hf : s.th.fork = f) (hv : f.v = true) (hseg : f.seg = sg.toNat) (hjoff : f.joff = x) (hj : f.Next j)
    (h1 : destReady 1 s = .ok ()) (h2 : destReady 2 s = .ok ()) :
    joinc d sg a s = .ok ((consume [a] (s1.perform cell.pa (leBytes 8 (joinValue (rdLE s1.mem cell.pa 8))))).modTh (fun h =>
      { ((h.setG 1 (BitVec.ofNat 32 (f.n * j / f.p))).setG 2 (BitVec.ofNat 32 (f.n * (j + 1) / f.p))).commitAt f.rpc with
        fork := { f with umap := f.umap &&& ~~~(1#256 <<< j) } })) := by
  subst hf
  simp only [joinc, enter_system_of_ordinary ho, hx _, hd, h7, hv, hseg, hjoff, h1, h2, hcell, hj.find?, bne_iff_ne.mpr hj.ucount, bind, Except.bind,
    decide_true, decide_false, Bool.and_self, Bool.false_and, Bool.false_eq_true, if_false, if_true, Option.getD_some]

section
variable {v : Nat} (hnone : s.th.fork.v = false) (hpend : ∀ p, p ∈ s1.th.pend → p.path ≠ 0) (hbuf : s1.th.cbuf = []) (hprod : s1.th.prod = 0)
  (hvalue : joinValue (rdLE s1.mem cell.pa 8) = v)
include hnone hpend hbuf hprod hvalue

/-- A thread that is no forker counts its part down; the last one goes on, any other ends. -/
theorem joinc_of_member :
    joinc d sg a s = .ok (if v % 2 ^ 32 = 0 then commitWith [a] d (b2w (v.testBit 63)) (s1.perform cell.pa (leBytes 8 v))
      else (consume [a] (s1.perform cell.pa (leBytes 8 v))).haltNow) := by
  subst hvalue
  have hturn (bs : List Byte) : (s1.perform cell.pa bs).cur.2 ≠ 7 := by
    have hcur : s1.cur = s.cur := (Ends.of_ok hcell sameTurn_joinCell : SameTurn s (cell, s1))
    rwa [cur_perform, hcur]
  simp only [joinc, enter_system_of_ordinary ho, hx _, hd, h7, hnone, hcell, drainedTh_of_drained hpend hbuf hprod, hturn, bind, Except.bind,
    decide_false, Bool.false_and, Bool.false_eq_true, if_false, apply_ite (Except.ok (ε := State))]

end
end

/-! ### SPAWN (R291) -/

section
variable {i : Instr} (hx : Delivers [a, b] a.r s x) (hq : Delivers [a, b] b.r s q) (hd : LaterReady d s) (hlt : q.toNat < 2 ^ 14)
  (hp : p0PlaceAt rLoad 1 sg.toNat x.toNat 128 64 0 s = .ok (cell, s1))
include hx hq hd hlt hp

theorem spawn_of_unread (hf : s1.th.fetched = none) :
    spawn d sg a b s = .error ((s1.p0Send .rd cell.pa cell.la (if (cell.la + 64) % 4096 = 0 then 64 else 128) (.record false) 0).block .answer) := by
  simp only [spawn, enter_system_of_ordinary ho, hx _, hq _, hd _, wfld_above hlt, illValue_of_good, hp, hf, Option.filter_none, bind, Except.bind,
    bne_self_eq_false]

section
variable {bs : List Byte} (hf : s1.th.fetched = some (cell.pa, bs))
include hf

theorem spawn_of_half {half : P0} {s2 : State} (hlen : bs.length < 128) (hhalf : p0PlaceAt rLoad 1 sg.toNat (x.toNat + 64) 64 64 0 s1 = .ok (half, s2)) :
    spawn d sg a b s = .error ((s2.p0Send .rd half.pa half.la 64 (.record true) 0).block .answer) := by
  simp only [spawn, enter_system_of_ordinary ho, hx _, hq _, hd _, wfld_above hlt, illValue_of_good, hp, hf, hlen, hhalf, Option.filter_some, BEq.rfl,
    bind, Except.bind, bne_self_eq_false, if_true]

theorem spawn_of_record (hlen : 128 ≤ bs.length) (hbuf : s1.th.cbuf = []) (hquiet : s1.fenceWaits 0x0F 3 = false) :
    let u := (s1.committedLater [a, b] d).modTh (fun h => { h with fetched := none })
    let r := u.th.addPend noPath cell.pa 0 (.spawn d.toNat)
    spawn d sg a b s = .ok ((u.modTh (fun _ => r.2)).send .req .launchFetch
      { Msg.zero with src := u.tileEid u.cur.1, dst := u.eid (8 + q.toNat % 2) 1, slot := u.cur.2, asid := r.2.asid, tag := r.1
                      aux1 := BitVec.ofNat 64 (q.toNat / 2), aux2 := BitVec.ofNat 64 (stPL s.th.st), data := bs.take 128 }) := by
  have hqueue : wfld q 1 13 = q.toNat / 2 := by
    simp only [wfld, nfld]
    omega
  simp only [spawn, enter_system_of_ordinary ho, hx _, hq _, hd _, wfld_above hlt, illValue_of_good, hp, hf, Nat.not_lt.mpr hlen,
    fenceFirst_of_quiet hbuf hquiet, hqueue, wfld_channel, Option.filter_some, BEq.rfl, bind, Except.bind, bne_self_eq_false, if_false, if_true]
  rfl

end
end
end

/-- Settles O26: FORK by its cell; JOINC by its thread's continuation and the cell's new value; SPAWN by how much of its record has come. -/
theorem forkJoinSpawn : Obligations.ForkJoinSpawn := by
  unfold Obligations.ForkJoinSpawn
  intro s s1 d sg a b x n g q cell ho
  refine ⟨?_, fun hx hd h7 hcell => ?_, fun hx hq hd hlt hp => ⟨fun hf => ?_, fun bs half s2 hf hlen hhalf => ?_, fun bs hf hlen hbuf hquiet => ?_⟩⟩
  · intro srcs hx hn hg h1 h2 h4 hd hpos hlt hg0 hidle hcell
    exact congrArg finish (fork_of_cell ho hx hn hg h1 h2 h4 hd hpos hlt hg0 hidle hcell rfl)
  · refine ⟨fun j hv hseg hjoff h1 h2 hlt hj hleast => congrArg finish (joinc_of_part ho hx hd h7 hcell rfl hv hseg hjoff ⟨hj, hlt, hleast⟩ h1 h2),
      fun hv hpend hbuf hprod => ?_⟩
    have hmember := joinc_of_member ho hx hd h7 hcell hv hpend hbuf hprod rfl
    exact ⟨fun hlast => congrArg finish (hmember.trans (congrArg Except.ok (if_pos hlast))),
      fun hmore => congrArg finish (hmember.trans (congrArg Except.ok (if_neg hmore)))⟩
  · exact congrArg finish (spawn_of_unread ho hx hq hd hlt hp hf)
  · exact congrArg finish (spawn_of_half ho hx hq hd hlt hp hf hlen hhalf)
  · exact congrArg finish (spawn_of_record ho hx hq hd hlt hp hf hlen hbuf hquiet)

end Sys2Proof.Machine
end

section
/-! O60: decoding inverts encoding (R176-R181).

The word of an instruction is its code, the major and the function, with each operand added at its place. The places are free in the code
and apart from one another (`layout`), so no addition carries: the word shows each operand at its place and the code everywhere else
(`shows_word`). The decoder looks at nothing but such ranges, so it takes the arm of the code and reads the operands back (`roundTrip`). -/

namespace Sys2Proof.Machine.Encoding
open Sys2Proof

/-! ### A value placed in a free range -/

section
variable {x p m lo n : Nat} {v : BitVec m}

theorem fld_place_below (h : lo + n ≤ p) : fld (x + at' v.toNat p) lo n = fld x lo n := by
  obtain ⟨q, rfl⟩ := Nat.exists_eq_add_of_le h
  have hmul : at' v.toNat (lo + n + q) = v.toNat * 2 ^ q * 2 ^ n * 2 ^ lo := by
    simp only [at', pow_add]
    ring
  rw [fld, hmul, Nat.add_mul_div_right _ _ (Nat.two_pow_pos lo), Nat.add_mul_mod_self_right, fld]

section
variable (hfree : fld x p m = 0)
include hfree

theorem fld_place_same : fld (x + at' v.toNat p) p m = v.toNat := by
  rw [fld] at hfree
  rw [fld, at', Nat.add_mul_div_right _ _ (Nat.two_pow_pos p), Nat.add_mod, hfree, Nat.zero_add, Nat.mod_mod, Nat.mod_eq_of_lt v.isLt]

/-- A value in a free range does not carry out of it. -/
theorem place_div_of_free : (x + at' v.toNat p) / 2 ^ (p + m) = x / 2 ^ (p + m) := by
  have hx : x / 2 ^ p = 2 ^ m * (x / 2 ^ p / 2 ^ m) := by
    conv_lhs => rw [← Nat.div_add_mod (x / 2 ^ p) (2 ^ m), show x / 2 ^ p % 2 ^ m = 0 from hfree, Nat.add_zero]
  rw [pow_add, ← Nat.div_div_eq_div_mul, ← Nat.div_div_eq_div_mul, at', Nat.add_mul_div_right _ _ (Nat.two_pow_pos p), hx,
    Nat.mul_add_div (Nat.two_pow_pos m), Nat.div_eq_of_lt v.isLt, Nat.add_zero, Nat.mul_div_cancel_left _ (Nat.two_pow_pos m)]

theorem fld_place_above (h : p + m ≤ lo) : fld (x + at' v.toNat p) lo n = fld x lo n := by
  obtain ⟨q, rfl⟩ := Nat.exists_eq_add_of_le h
  rw [fld, fld, pow_add _ _ q, ← Nat.div_div_eq_div_mul, ← Nat.div_div_eq_div_mul, place_div_of_free hfree]

theorem place_lt {b : Nat} (hx : x < 2 ^ b) (h : p + m ≤ b) : x + at' v.toNat p < 2 ^ b := by
  obtain ⟨q, rfl⟩ := Nat.exists_eq_add_of_le h
  rw [← Nat.div_eq_zero_iff_lt (Nat.two_pow_pos _), pow_add, ← Nat.div_div_eq_div_mul] at hx ⊢
  rw [place_div_of_free hfree, hx]

end
end

/-! ### Ranges (lowest bit, width) that lie apart -/

/-- The two ranges have no bit in common. -/
def apart (r s : Nat × Nat) : Bool := s.1 + s.2 ≤ r.1 || r.1 + r.2 ≤ s.1

theorem apart_comm {r s : Nat × Nat} : apart r s = apart s r := Bool.or_comm ..

theorem fld_place_apart {p m lo n x : Nat} {v : BitVec m} (hfree : fld x p m = 0) (h : apart (p, m) (lo, n) = true) :
    fld (x + at' v.toNat p) lo n = fld x lo n := by
  simp only [apart, Bool.or_eq_true, decide_eq_true_eq] at h
  exact h.elim fld_place_below (fld_place_above hfree)

/-- The ranges lie in the 32 bits, over zeros of the code, each apart from the others. -/
def layout (c : Nat) : List (Nat × Nat) → Bool
  | [] => c < 2 ^ 32
  | r :: rs => fld c r.1 r.2 == 0 && r.1 + r.2 ≤ 32 && rs.all (apart · r) && layout c rs

theorem layout_cons_iff {c : Nat} {r : Nat × Nat} {rs : List (Nat × Nat)} :
    layout c (r :: rs) = true ↔ fld c r.1 r.2 = 0 ∧ r.1 + r.2 ≤ 32 ∧ (∀ s ∈ rs, apart s r = true) ∧ layout c rs = true := by
  simp only [layout, Bool.and_eq_true, beq_iff_eq, decide_eq_true_eq, List.all_eq_true, and_assoc]

/-- After a value is placed in the first range, the others still lie over zeros. -/
theorem layout_place {p m c : Nat} {v : BitVec m} {rs : List (Nat × Nat)} (h : layout c ((p, m) :: rs) = true) :
    layout (c + at' v.toNat p) rs = true := by
  obtain ⟨hfree, hin, hapart, hrest⟩ := layout_cons_iff.mp h
  clear h
  induction rs with
  | nil => exact decide_eq_true (place_lt hfree (of_decide_eq_true hrest) hin)
  | cons r rs ih =>
    obtain ⟨hr, hrin, hrs, hrest⟩ := layout_cons_iff.mp hrest
    have hkeep := fld_place_apart (v := v) hfree (apart_comm.trans (hapart r List.mem_cons_self))
    exact layout_cons_iff.mpr ⟨hkeep.trans hr, hrin, hrs, ih (fun s hs => hapart s (List.mem_cons_of_mem _ hs)) hrest⟩

/-! ### The operands of a word -/

/-- An operand of an instruction word: bits from a position on, or a source with the positions of its register and its mode (R177). -/
inductive Operand where
  | bits (lo : Nat) {n : Nat} (v : BitVec n)
  | src (r m : Nat) (a : Src)

namespace Operand

/-- What `encode` adds for the operand. -/
def placed : Operand → Nat
  | bits lo v => at' v.toNat lo
  | src r m a => a.enc r m

def ranges : Operand → List (Nat × Nat)
  | bits (n := n) lo _ => [(lo, n)]
  | src r m _ => [(r, 5), (m, 2)]

/-- What the decoder reads at the operand's place is the operand. -/
def ReadAt (w : Nat) : Operand → Prop
  | bits (n := n) lo v => bvAt n w lo = v
  | src r m a => srcAt w r m = a

/-- The word of a code and its operands, added in the order of `encode`. -/
def word (c : Nat) : List Operand → Nat
  | [] => c
  | o :: os => word (c + o.placed) os

/-- A word shows each operand at its place, and the code in every range apart from them. -/
structure Shows (c : Nat) (os : List Operand) (w : Nat) : Prop where
  lt : w < 2 ^ 32
  operand : ∀ o ∈ os, o.ReadAt w
  code : ∀ lo n, (os.flatMap ranges).all (apart · (lo, n)) = true → fld w lo n = fld c lo n

theorem Shows.bits_cons {c lo n w : Nat} {v : BitVec n} {os : List Operand} (hlay : layout c ((bits lo v :: os).flatMap ranges) = true)
    (h : Shows (c + at' v.toNat lo) os w) : Shows c (bits lo v :: os) w := by
  obtain ⟨hfree, -, hapart, -⟩ := layout_cons_iff.mp hlay
  refine ⟨h.lt, List.forall_mem_cons.mpr ⟨?_, h.operand⟩, fun l k hall => ?_⟩
  · exact BitVec.eq_of_toNat_eq ((h.code lo n (List.all_eq_true.mpr hapart)).trans (fld_place_same hfree))
  · obtain ⟨hv, hos⟩ := (Bool.and_eq_true _ _).mp hall
    exact (h.code l k hos).trans (fld_place_apart hfree hv)

theorem Shows.src_cons {c r m w : Nat} {a : Src} {os : List Operand} (h : Shows c (bits r a.r :: bits m a.m :: os) w) :
    Shows c (src r m a :: os) w := by
  obtain ⟨hlt, hops, hcode⟩ := h
  simp only [List.forall_mem_cons] at hops
  obtain ⟨hr, hm, hos⟩ := hops
  exact ⟨hlt, List.forall_mem_cons.mpr ⟨congrArg₂ Src.mk hr hm, hos⟩, hcode⟩

theorem shows_word {c : Nat} {os : List Operand} (h : layout c (os.flatMap ranges) = true) : Shows c os (word c os) := by
  induction os generalizing c with
  | nil => exact ⟨of_decide_eq_true h, nofun, fun _ _ _ => rfl⟩
  | cons o os ih =>
    cases o with
    | bits lo v => exact .bits_cons h (ih (layout_place h))
    | src r m a =>
      have hm := layout_place (v := a.r) h
      have hword : word c (src r m a :: os) = word (c + at' a.r.toNat r + at' a.m.toNat m) os := by rw [word, placed, Src.enc, Nat.add_assoc]
      rw [hword]
      exact .src_cons (.bits_cons h (.bits_cons hm (ih (layout_place hm))))

end Operand

/-! ### Decoding the word -/

theorem accept_eq_ok {i : Instr} {w : Nat} {mbz : List (Nat × Nat)} (hwf : i.wellFormed = true) (hmbz : ∀ r ∈ mbz, fld w r.1 r.2 = 0) :
    accept w mbz i = .ok i := by
  rw [accept, if_pos (List.all_eq_true.mpr fun r hr => beq_iff_eq.mpr (hmbz r hr)), Option.isNone_iff_eq_none.mp hwf]

/-- The operands leave alone the major code, which is neither all zeros nor all ones, and the ranges that must be zero and are. -/
def codeOk (c major : Nat) (rs mbz : List (Nat × Nat)) : Bool :=
  layout c rs && fld c 0 7 == major && major % 127 != 0 && ((0, 7) :: mbz).all (fun r => rs.all (apart · r)) && mbz.all (fun r => fld c r.1 r.2 == 0)

theorem codeOk_iff {c major : Nat} {rs mbz : List (Nat × Nat)} :
    codeOk c major rs mbz = true ↔ layout c rs = true ∧ fld c 0 7 = major ∧ major % 127 ≠ 0 ∧ rs.all (apart · (0, 7)) = true ∧
      ∀ r ∈ mbz, rs.all (apart · r) = true ∧ fld c r.1 r.2 = 0 := by
  simp only [codeOk, Bool.and_eq_true, bne_iff_ne, List.all_cons, List.all_eq_true, beq_iff_eq, and_assoc, forall_and, ne_eq]

/-- The word decodes to the instruction, also as a word of the opcode table. -/
def RoundTrip (w : Nat) (i : Instr) : Prop := w < 2 ^ 32 ∧ decodeWord w = .ok i ∧ decodeTableWord 32 w = some i

/-- A word goes back to its instruction when the table D of its major, on the operands and the code the word shows, comes to that
instruction and its must-be-zero ranges. The code is given shifted and cut to width, which evaluates on a numeral. -/
theorem roundTrip {c : Nat} (major : Nat) (D : Nat → Except Reject Instr) (os : List Operand) (mbz : List (Nat × Nat)) {i : Instr} {w : Nat}
    (hwf : i.wellFormed = true) (hw : some (Operand.word c os) = some w)
    (hd : ∀ u, os.Forall (Operand.ReadAt u) →
      (∀ lo n, (os.flatMap Operand.ranges).all (apart · (lo, n)) = true → fld u lo n = c >>> lo % 1 <<< n) → D u = accept u mbz i)
    (hok : codeOk c major (os.flatMap Operand.ranges) mbz = true := by
      simp only [List.flatMap_cons, List.flatMap_nil, Operand.ranges, List.cons_append, List.nil_append]; decide)
    (hD : ∀ u, ¬ (u = 0 ∨ u = 0xFFFFFFFF) → u % 128 = major → decodeWord u = D u := by
      intro u hu hm; rw [decodeWord, if_neg hu, hm]; rfl) : RoundTrip w i := by
  cases hw
  obtain ⟨hlay, hmajor, hcodes, h07, hmbz⟩ := codeOk_iff.mp hok
  obtain ⟨hlt, hops, hcode⟩ := Operand.shows_word hlay
  have hm : Operand.word c os % 128 = major := by simpa [fld] using (hcode 0 7 h07).trans hmajor
  have hnz : ¬ (Operand.word c os = 0 ∨ Operand.word c os = 0xFFFFFFFF) := by omega
  have hshift (lo n) (hr : (os.flatMap Operand.ranges).all (apart · (lo, n)) = true) : fld (Operand.word c os) lo n = c >>> lo % 1 <<< n := by
    rw [hcode lo n hr, fld, Nat.shiftRight_eq_div_pow, Nat.one_shiftLeft]
  have hdec : decodeWord (Operand.word c os) = .ok i := calc
    decodeWord _ = D _ := hD _ hnz hm
    _ = accept _ mbz i := hd _ (List.forall_iff_forall_mem.mpr hops) hshift
    _ = .ok i := accept_eq_ok hwf fun r hr => (hcode r.1 r.2 (hmbz r hr).1).trans (hmbz r hr).2
  exact ⟨hlt, hdec, by rw [decodeTableWord, Nat.mod_eq_of_lt hlt, Nat.mod_eq_of_lt hlt, hdec]⟩

/-- The same for an engine command (R251): table D of engine e. -/
theorem roundTrip_engine {c : Nat} (e : Nat) (D : Nat → Except Reject Instr) (os : List Operand) (mbz : List (Nat × Nat)) {i : Instr} {w : Nat}
    (hwf : i.wellFormed = true) (hw : some (Operand.word c os) = some w)
    (hd : ∀ u, os.Forall (Operand.ReadAt u) →
      (∀ lo n, (os.flatMap Operand.ranges).all (apart · (lo, n)) = true → fld u lo n = c >>> lo % 1 <<< n) → D u = accept u mbz i)
    (hok : codeOk c 0x30 (os.flatMap Operand.ranges) mbz = true := by
      simp only [List.flatMap_cons, List.flatMap_nil, Operand.ranges, List.cons_append, List.nil_append]; decide)
    (hfree : (os.flatMap Operand.ranges).all (apart · (7, 3)) = true := by rfl) (he : c >>> 7 % 1 <<< 3 = e := by decide)
    (hD : ∀ u, fld u 7 3 = e → decode30 u = D u := by intro u hu; rw [decode30, hu]; rfl) : RoundTrip w i :=
  roundTrip 0x30 decode30 os mbz hwf hw (fun u hops hcode => (hD u ((hcode 7 3 hfree).trans he)).trans (hd u hops hcode)) hok

/-- Each format of R177 with the ranges its instructions leave zero; an event has no word. -/
theorem roundTrip_of_encode {i : Instr} {w : Nat} (hwf : i.wellFormed = true) (hw : encode i = some w) : RoundTrip w i := by
  cases i with
  | add d a b | sub d a b | and d a b | or d a b | xor d a b | andn d a b | sll d a b | srl d a b | sra d a b | rol d a b | ror d a b
  | mul d a b | mulh d a b | mulhu d a b | div d a b | divu d a b | rem d a b | remu d a b | min d a b | max d a b | minu d a b
  | maxu d a b | adds d a b | subs d a b =>
    exact roundTrip 0x01 decode01 [.bits 7 d, .src 12 17 a, .src 19 24 b] [] hwf hw (by
      rintro u ⟨rfl, rfl, rfl⟩ hcode; rw [decode01, hcode 26 6 rfl]; rfl)
  | seq d a b | sne d a b | slt d a b | sltu d a b =>
    exact roundTrip 0x06 decode06 [.bits 7 d, .src 12 17 a, .src 19 24 b] [] hwf hw (by
      rintro u ⟨rfl, rfl, rfl⟩ hcode; rw [decode06, hcode 26 6 rfl]; rfl)
  | fadd d a b | fsub d a b | fmul d a b | fdiv d a b | fmin d a b | fmax d a b | fcpys d a b | fxsgn d a b | fminp d a b | fmaxp d a b =>
    exact roundTrip 0x28 decode28 [.bits 7 d, .src 12 17 a, .src 19 24 b] [] hwf hw (by
      rintro u ⟨rfl, rfl, rfl⟩ hcode; rw [decode28, hcode 26 6 rfl]; rfl)
  | fcmpeq d a b | fcmplt d a b | fcmple d a b =>
    exact roundTrip 0x2A decode2A [.bits 7 d, .src 12 17 a, .src 19 24 b] [] hwf hw (by
      rintro u ⟨rfl, rfl, rfl⟩ hcode; rw [decode2A, hcode 26 6 rfl]; rfl)
  | mcseq d a b =>
    exact roundTrip 0x1F decode1F [.bits 7 d, .src 12 17 a, .src 19 24 b] [(26, 3)] hwf hw (by
      rintro u ⟨rfl, rfl, rfl⟩ hcode; rw [decode1F, hcode 29 3 rfl]; rfl)
  | addi d a imm =>
    exact roundTrip 0x02 (fun u => accept u [] (.addi (bvAt 5 u 7) (srcAt u 12 17) (bvAt 13 u 19)))
      [.bits 7 d, .src 12 17 a, .bits 19 imm] [] hwf hw (by rintro u ⟨rfl, rfl, rfl⟩ -; rfl)
  | seqi d a imm | snei d a imm | slti d a imm | sltui d a imm | sgti d a imm | sgtui d a imm =>
    exact roundTrip 0x07 decode07 [.bits 7 d, .src 12 17 a, .bits 19 imm] [] hwf hw (by
      rintro u ⟨rfl, rfl, rfl⟩ hcode; rw [decode07, hcode 29 3 rfl]; rfl)
  | jalr d a imm =>
    exact roundTrip 0x22 (fun u => accept u [] (.jalr (bvAt 5 u 7) (srcAt u 12 17) (bvAt 13 u 19)))
      [.bits 7 d, .src 12 17 a, .bits 19 imm] [] hwf hw (by rintro u ⟨rfl, rfl, rfl⟩ -; rfl)
  | slli d a c | srli d a c | srai d a c | rori d a c =>
    exact roundTrip 0x03 decode03 [.bits 7 d, .src 12 17 a, .bits 19 c] [(24, 5)] hwf hw (by
      rintro u ⟨rfl, rfl, rfl⟩ hcode; rw [decode03, hcode 29 3 rfl]; rfl)
  | csrxch d a c =>
    exact roundTrip 0x48 decode48 [.bits 7 d, .src 12 17 a, .bits 19 c] [] hwf hw (by
      rintro u ⟨rfl, rfl, rfl⟩ hcode; rw [decode48, hcode 31 1 rfl]; rfl)
  | csrbs d a c =>
    exact roundTrip 0x49 decode49 [.bits 7 d, .src 12 17 a, .bits 19 c] [] hwf hw (by
      rintro u ⟨rfl, rfl, rfl⟩ hcode; rw [decode49, hcode 31 1 rfl]; rfl)
  | csrbc d a c =>
    exact roundTrip 0x4A decode4A [.bits 7 d, .src 12 17 a, .bits 19 c] [] hwf hw (by
      rintro u ⟨rfl, rfl, rfl⟩ hcode; rw [decode4A, hcode 31 1 rfl]; rfl)
  | lui d imm =>
    exact roundTrip 0x04 (fun u => accept u [] (.lui (bvAt 5 u 7) (bvAt 20 u 12)))
      [.bits 7 d, .bits 12 imm] [] hwf hw (by rintro u ⟨rfl, rfl⟩ -; rfl)
  | addpc d imm =>
    exact roundTrip 0x05 (fun u => accept u [] (.addpc (bvAt 5 u 7) (bvAt 20 u 12)))
      [.bits 7 d, .bits 12 imm] [] hwf hw (by rintro u ⟨rfl, rfl⟩ -; rfl)
  | jal d imm =>
    exact roundTrip 0x21 (fun u => accept u [] (.jal (bvAt 5 u 7) (bvAt 20 u 12)))
      [.bits 7 d, .bits 12 imm] [] hwf hw (by rintro u ⟨rfl, rfl⟩ -; rfl)
  | selnz d a b c | seleqz d a b c =>
    exact roundTrip 0x08 decode08 [.bits 7 d, .src 12 17 a, .src 19 24 b, .bits 26 c] [] hwf hw (by
      rintro u ⟨rfl, rfl, rfl, rfl⟩ hcode; rw [decode08, hcode 31 1 rfl]; rfl)
  | fmadd d a b c | fmsub d a b c =>
    exact roundTrip 0x29 decode29 [.bits 7 d, .src 12 17 a, .src 19 24 b, .bits 26 c] [] hwf hw (by
      rintro u ⟨rfl, rfl, rfl, rfl⟩ hcode; rw [decode29, hcode 31 1 rfl]; rfl)
  | clz d a | ctz d a | popc d a | brev d a | bswap d a | sextb d a | sexth d a | zexth d a =>
    exact roundTrip 0x09 decode09 [.bits 7 d, .src 12 17 a] [(19, 7)] hwf hw (by
      rintro u ⟨rfl, rfl⟩ hcode; rw [decode09, hcode 26 6 rfl]; rfl)
  | fsqrt d a | fneg d a | fabs d a =>
    exact roundTrip 0x28 decode28 [.bits 7 d, .src 12 17 a] [(19, 7)] hwf hw (by
      rintro u ⟨rfl, rfl⟩ hcode; rw [decode28, hcode 26 6 rfl]; rfl)
  | fclass d a | ftoi d a | ftou d a | itof d a | utof d a | ftobf d a | ftoh d a | bftof d a | htof d a =>
    exact roundTrip 0x2A decode2A [.bits 7 d, .src 12 17 a] [(19, 7)] hwf hw (by
      rintro u ⟨rfl, rfl⟩ hcode; rw [decode2A, hcode 26 6 rfl]; rfl)
  | rqpush d a | rqpop d a | splock d a | lagrant d a =>
    exact roundTrip 0x4D decode4D [.bits 7 d, .src 12 17 a] [(19, 10)] hwf hw (by
      rintro u ⟨rfl, rfl⟩ hcode; rw [decode4D, hcode 29 3 rfl]; rfl)
  | extu d a p w | exts d a p w | ins d a p w =>
    exact roundTrip 0x0A decode0A [.bits 7 d, .src 12 17 a, .bits 25 p, .bits 20 w] [(19, 1)] hwf hw (by
      rintro u ⟨rfl, rfl, rfl, rfl⟩ hcode; rw [decode0A, hcode 30 2 rfl]; rfl)
  | beqz a imm p | bnez a imm p | bltz a imm p | bgez a imm p | bgtz a imm p | blez a imm p =>
    exact roundTrip 0x20 decode20 [.src 11 16 a, .bits 18 imm, .bits 10 p] [] hwf hw (by
      rintro u ⟨rfl, rfl, rfl⟩ hcode; rw [decode20, hcode 7 3 rfl]; rfl)
  | bfull a imm p | bempty a imm p =>
    exact roundTrip 0x20 decode20 [.bits 11 a, .bits 18 imm, .bits 10 p] [(16, 2)] hwf hw (by
      rintro u ⟨rfl, rfl, rfl⟩ hcode; rw [decode20, hcode 7 3 rfl]; rfl)
  | lea d sg a c imm =>
    exact roundTrip 0x0B (fun u => accept u [] (.lea (bvAt 5 u 7) (bvAt 3 u 21) (srcAt u 14 19) (bvAt 2 u 12) (bvAt 8 u 24)))
      [.bits 7 d, .bits 21 sg, .src 14 19 a, .bits 12 c, .bits 24 imm] [] hwf hw (by rintro u ⟨rfl, rfl, rfl, rfl, rfl⟩ -; rfl)
  | segld d sg a imm =>
    exact roundTrip 0x0C decode0C [.bits 7 d, .bits 21 sg, .src 14 19 a, .bits 24 imm] [(10, 2)] hwf hw (by
      rintro u ⟨rfl, rfl, rfl, rfl⟩ hcode; rw [decode0C, hcode 12 2 rfl]; rfl)
  | ldw d sg a imm =>
    exact roundTrip 0x10 (fun u => accept u [(12, 2)] (.ldw (bvAt 5 u 7) (bvAt 3 u 21) (srcAt u 14 19) (bvAt 8 u 24)))
      [.bits 7 d, .bits 21 sg, .src 14 19 a, .bits 24 imm] [(12, 2)] hwf hw (by rintro u ⟨rfl, rfl, rfl, rfl⟩ -; rfl)
  | ldh d sg a imm | ldhu d sg a imm =>
    exact roundTrip 0x11 decode11 [.bits 7 d, .bits 21 sg, .src 14 19 a, .bits 24 imm] [] hwf hw (by
      rintro u ⟨rfl, rfl, rfl, rfl⟩ hcode; rw [decode11, hcode 12 2 rfl]; rfl)
  | ldb d sg a imm | ldbu d sg a imm =>
    exact roundTrip 0x12 decode12 [.bits 7 d, .bits 21 sg, .src 14 19 a, .bits 24 imm] [] hwf hw (by
      rintro u ⟨rfl, rfl, rfl, rfl⟩ hcode; rw [decode12, hcode 12 2 rfl]; rfl)
  | ldp d sg a imm =>
    exact roundTrip 0x13 (fun u => accept u [(12, 2)] (.ldp (bvAt 5 u 7) (bvAt 3 u 21) (srcAt u 14 19) (bvAt 8 u 24)))
      [.bits 7 d, .bits 21 sg, .src 14 19 a, .bits 24 imm] [(12, 2)] hwf hw (by rintro u ⟨rfl, rfl, rfl, rfl⟩ -; rfl)
  | segrd d sg p =>
    exact roundTrip 0x0C decode0C [.bits 7 d, .bits 21 sg, .bits 24 p] [(14, 7), (26, 6)] hwf hw (by
      rintro u ⟨rfl, rfl, rfl⟩ hcode; rw [decode0C, hcode 12 2 rfl]; rfl)
  | stw t sg a imm =>
    exact roundTrip 0x14 (fun u => accept u [] (.stw (srcAt u 7 12) (bvAt 3 u 21) (srcAt u 14 19) (bvAt 8 u 24)))
      [.src 7 12 t, .bits 21 sg, .src 14 19 a, .bits 24 imm] [] hwf hw (by rintro u ⟨rfl, rfl, rfl, rfl⟩ -; rfl)
  | sth t sg a imm =>
    exact roundTrip 0x15 (fun u => accept u [] (.sth (srcAt u 7 12) (bvAt 3 u 21) (srcAt u 14 19) (bvAt 8 u 24)))
      [.src 7 12 t, .bits 21 sg, .src 14 19 a, .bits 24 imm] [] hwf hw (by rintro u ⟨rfl, rfl, rfl, rfl⟩ -; rfl)
  | stb t sg a imm =>
    exact roundTrip 0x16 (fun u => accept u [] (.stb (srcAt u 7 12) (bvAt 3 u 21) (srcAt u 14 19) (bvAt 8 u 24)))
      [.src 7 12 t, .bits 21 sg, .src 14 19 a, .bits 24 imm] [] hwf hw (by rintro u ⟨rfl, rfl, rfl, rfl⟩ -; rfl)
  | stp t sg a imm =>
    exact roundTrip 0x17 (fun u => accept u [] (.stp (srcAt u 7 12) (bvAt 3 u 21) (srcAt u 14 19) (bvAt 8 u 24)))
      [.src 7 12 t, .bits 21 sg, .src 14 19 a, .bits 24 imm] [] hwf hw (by rintro u ⟨rfl, rfl, rfl, rfl⟩ -; rfl)
  | aadd d sg a b | aand d sg a b | aor d sg a b | axor d sg a b | amin d sg a b | amax d sg a b | aminu d sg a b | amaxu d sg a b =>
    exact roundTrip 0x18 decode18 [.bits 7 d, .bits 26 sg, .src 12 17 a, .src 19 24 b] [] hwf hw (by
      rintro u ⟨rfl, rfl, rfl, rfl⟩ hcode; rw [decode18, hcode 29 3 rfl]; rfl)
  | aaddC d sg a b | aandC d sg a b | aorC d sg a b | axorC d sg a b | aminC d sg a b | amaxC d sg a b | aminuC d sg a b | amaxuC d sg a b =>
    exact roundTrip 0x19 decode19 [.bits 7 d, .bits 26 sg, .src 12 17 a, .src 19 24 b] [] hwf hw (by
      rintro u ⟨rfl, rfl, rfl, rfl⟩ hcode; rw [decode19, hcode 29 3 rfl]; rfl)
  | swap d sg a b | cas d sg a b =>
    exact roundTrip 0x1A decode1A [.bits 7 d, .bits 26 sg, .src 12 17 a, .src 19 24 b] [] hwf hw (by
      rintro u ⟨rfl, rfl, rfl, rfl⟩ hcode; rw [decode1A, hcode 29 3 rfl]; rfl)
  | binit d sg a b | bind d sg a b | unbind d sg a b | acqX d sg a b | acqS d sg a b | gtryX d sg a b | gtryS d sg a b =>
    exact roundTrip 0x1C decode1C [.bits 7 d, .bits 26 sg, .src 12 17 a, .src 19 24 b] [] hwf hw (by
      rintro u ⟨rfl, rfl, rfl, rfl⟩ hcode; rw [decode1C, hcode 29 3 rfl]; rfl)
  | join d sg a b | waitc d sg a b | postc d sg a b | postce d sg a b =>
    exact roundTrip 0x1D decode1D [.bits 7 d, .bits 26 sg, .src 12 17 a, .src 19 24 b] [] hwf hw (by
      rintro u ⟨rfl, rfl, rfl, rfl⟩ hcode; rw [decode1D, hcode 29 3 rfl]; rfl)
  | mcst d sg a b | mcstc d sg a b =>
    exact roundTrip 0x1F decode1F [.bits 7 d, .bits 26 sg, .src 12 17 a, .src 19 24 b] [] hwf hw (by
      rintro u ⟨rfl, rfl, rfl, rfl⟩ hcode; rw [decode1F, hcode 29 3 rfl]; rfl)
  | fork d sg a b | spawn d sg a b =>
    exact roundTrip 0x4C decode4C [.bits 7 d, .bits 26 sg, .src 12 17 a, .src 19 24 b] [] hwf hw (by
      rintro u ⟨rfl, rfl, rfl, rfl⟩ hcode; rw [decode4C, hcode 29 3 rfl]; rfl)
  | ctxsv d sg a b | ctxld d sg a b =>
    exact roundTrip 0x4D decode4D [.bits 7 d, .bits 26 sg, .src 12 17 a, .src 19 24 b] [] hwf hw (by
      rintro u ⟨rfl, rfl, rfl, rfl⟩ hcode; rw [decode4D, hcode 29 3 rfl]; rfl)
  | fence c p =>
    exact roundTrip 0x1B (fun u => accept u [(7, 12), (30, 2)] (.fence (bvAt 3 u 27) (bvAt 8 u 19)))
      [.bits 27 c, .bits 19 p] [(7, 12), (30, 2)] hwf hw (by rintro u ⟨rfl, rfl⟩ -; rfl)
  | rel d sg a =>
    exact roundTrip 0x1C decode1C [.bits 7 d, .bits 26 sg, .src 12 17 a] [(19, 7)] hwf hw (by
      rintro u ⟨rfl, rfl, rfl⟩ hcode; rw [decode1C, hcode 29 3 rfl]; rfl)
  | leave d sg a | arrive d sg a | bwait d sg a | barw d sg a =>
    exact roundTrip 0x1D decode1D [.bits 7 d, .bits 26 sg, .src 12 17 a] [(19, 7)] hwf hw (by
      rintro u ⟨rfl, rfl, rfl⟩ hcode; rw [decode1D, hcode 29 3 rfl]; rfl)
  | joinc d sg a =>
    exact roundTrip 0x4C decode4C [.bits 7 d, .bits 26 sg, .src 12 17 a] [(19, 7)] hwf hw (by
      rintro u ⟨rfl, rfl, rfl⟩ hcode; rw [decode4C, hcode 29 3 rfl]; rfl)
  | send a b k =>
    exact roundTrip 0x1E decode1E [.src 12 17 a, .src 19 24 b, .bits 26 k] [(7, 5)] hwf hw (by
      rintro u ⟨rfl, rfl, rfl⟩ hcode; rw [decode1E, hcode 29 3 rfl]; rfl)
  | chon a k =>
    exact roundTrip 0x1E decode1E [.src 12 17 a, .bits 7 k] [(9, 3), (19, 10)] hwf hw (by
      rintro u ⟨rfl, rfl⟩ hcode; rw [decode1E, hcode 29 3 rfl]; rfl)
  | choff k =>
    exact roundTrip 0x1E decode1E [.bits 7 k] [(9, 20)] hwf hw (by
      rintro u rfl hcode; rw [decode1E, hcode 29 3 rfl]; rfl)
  | mzero a | mstore a | mreduce a =>
    exact roundTrip_engine 0 decode30e0 [.src 10 15 a] [(17, 7)] hwf hw (by
      rintro u rfl hcode; rw [decode30e0, hcode 24 8 rfl]; rfl)
  | lfill a | lgather a | ldrain a | lcancel a =>
    exact roundTrip_engine 2 decode30e2 [.src 10 15 a] [(17, 7)] hwf hw (by
      rintro u rfl hcode; rw [decode30e2, hcode 24 8 rfl]; rfl)
  | qsync a | qcancel a =>
    exact roundTrip_engine 3 decode30e3 [.src 10 15 a] [(17, 7)] hwf hw (by
      rintro u rfl hcode; rw [decode30e3, hcode 24 8 rfl]; rfl)
  | mma a b | mmag a b | mqput a b =>
    exact roundTrip_engine 0 decode30e0 [.src 10 15 a, .src 17 22 b] [] hwf hw (by
      rintro u ⟨rfl, rfl⟩ hcode; rw [decode30e0, hcode 24 8 rfl]; rfl)
  | vcvt a b | vadd a b | vsub a b | vmul a b | vdiv a b | vmin a b | vmax a b | vfma a b | vfms a b | vadds a b | vmuls a b | vfmas a b
  | vabs a b | vneg a b | vrelu a b | vclamp a b | vexp2 a b | vlog2 a b | vrcp a b | vrsq a b | vsqrt a b | vtanh a b | vcmplt a b
  | vcmpeq a b | vsel a b | vrsum a b | vrmax a b | vrmin a b | vrsumsq a b | vdot a b =>
    exact roundTrip_engine 1 decode30e1 [.src 10 15 a, .src 17 22 b] [] hwf hw (by
      rintro u ⟨rfl, rfl⟩ hcode; rw [decode30e1, hcode 24 8 rfl]; rfl)
  | xcopy a b | npost a b =>
    exact roundTrip_engine 5 decode30e5 [.src 10 15 a, .src 17 22 b] [] hwf hw (by
      rintro u ⟨rfl, rfl⟩ hcode; rw [decode30e5, hcode 24 8 rfl]; rfl)
  | vfill b | viota b =>
    exact roundTrip_engine 1 decode30e1 [.src 17 22 b] [(10, 7)] hwf hw (by
      rintro u rfl hcode; rw [decode30e1, hcode 24 8 rfl]; rfl)
  | lwptr a d =>
    exact roundTrip_engine 2 decode30e2 [.src 10 15 a, .bits 17 d] [(22, 2)] hwf hw (by
      rintro u ⟨rfl, rfl⟩ hcode; rw [decode30e2, hcode 24 8 rfl]; rfl)
  | npoll a d =>
    exact roundTrip_engine 5 decode30e5 [.src 10 15 a, .bits 17 d] [(22, 2)] hwf hw (by
      rintro u ⟨rfl, rfl⟩ hcode; rw [decode30e5, hcode 24 8 rfl]; rfl)
  | ewr a eng ereg | ewrs a eng ereg | ewrh a eng ereg =>
    exact roundTrip 0x31 decode31 [.src 10 15 a, .bits 7 eng, .bits 17 ereg] [] hwf hw (by
      rintro u ⟨rfl, rfl, rfl⟩ hcode; rw [decode31, hcode 25 7 rfl]; rfl)
  | erd a eng ereg | erdh a eng ereg =>
    exact roundTrip 0x31 decode31 [.bits 10 a, .bits 7 eng, .bits 17 ereg] [(15, 2)] hwf hw (by
      rintro u ⟨rfl, rfl, rfl⟩ hcode; rw [decode31, hcode 25 7 rfl]; rfl)
  | fmtp fa fb fo rnd sc =>
    exact roundTrip 0x40 (fun u => accept u [(24, 8)] (.fmtp (bvAt 4 u 7) (bvAt 4 u 11) (bvAt 4 u 15) (bvAt 3 u 19) (bvAt 2 u 22)))
      [.bits 7 fa, .bits 11 fb, .bits 15 fo, .bits 19 rnd, .bits 22 sc] [(24, 8)] hwf hw (by rintro u ⟨rfl, rfl, rfl, rfl, rfl⟩ -; rfl)
  | csrxchi d c u =>
    exact roundTrip 0x48 decode48 [.bits 7 d, .bits 19 c, .bits 12 u] [] hwf hw (by
      rintro u ⟨rfl, rfl, rfl⟩ hcode; rw [decode48, hcode 31 1 rfl]; rfl)
  | csrbsi d c u =>
    exact roundTrip 0x49 decode49 [.bits 7 d, .bits 19 c, .bits 12 u] [] hwf hw (by
      rintro u ⟨rfl, rfl, rfl⟩ hcode; rw [decode49, hcode 31 1 rfl]; rfl)
  | csrbci d c u =>
    exact roundTrip 0x4A decode4A [.bits 7 d, .bits 19 c, .bits 12 u] [] hwf hw (by
      rintro u ⟨rfl, rfl, rfl⟩ hcode; rw [decode4A, hcode 31 1 rfl]; rfl)
  | nop | eret | yield | park | halt =>
    exact roundTrip 0x4B decode4B [] [(7, 19)] hwf hw (by
      rintro u - hcode; rw [decode4B, hcode 26 6 rfl]; rfl)
  | trap a u =>
    exact roundTrip 0x4B decode4B [.src 12 17 a, .bits 7 u] [(19, 7)] hwf hw (by
      rintro u ⟨rfl, rfl⟩ hcode; rw [decode4B, hcode 26 6 rfl]; rfl)
  | brk u =>
    exact roundTrip 0x4B decode4B [.bits 7 u] [(12, 14)] hwf hw (by
      rintro u rfl hcode; rw [decode4B, hcode 26 6 rfl]; rfl)
  | wake a b =>
    exact roundTrip 0x4B decode4B [.src 12 17 a, .src 19 24 b] [(7, 5)] hwf hw (by
      rintro u ⟨rfl, rfl⟩ hcode; rw [decode4B, hcode 26 6 rfl]; rfl)
  | spunlock a =>
    exact roundTrip 0x4D decode4D [.src 12 17 a] [(7, 5), (19, 10)] hwf hw (by
      rintro u rfl hcode; rw [decode4D, hcode 29 3 rfl]; rfl)
  | scrub sg a b =>
    exact roundTrip 0x4D decode4D [.bits 26 sg, .src 12 17 a, .src 19 24 b] [(7, 5)] hwf hw (by
      rintro u ⟨rfl, rfl, rfl⟩ hcode; rw [decode4D, hcode 29 3 rfl]; rfl)
  | _ => cases hw

/-- Settles O60: the word of each instruction, by its format, reads back. -/
theorem encodeDecode : Obligations.EncodeDecode := by
  unfold Obligations.EncodeDecode
  exact fun _ hwf _ hw => roundTrip_of_encode hwf hw

end Sys2Proof.Machine.Encoding
end

section
/-! The CSRs (R169, R170, R172, R175): what a write lands, what it leaves alone, and when it traps; O53, O23 and O24.

A CSR of a slot that is written is replaced by `landBits` of its old value (`csrWrite_slotCsr`). Each of `putSlot`, `putTile` and `putDie`
has one frame: what it may change of the state. -/

namespace Sys2Proof.Machine
open Sys2Proof

/-! ### The bits that land -/

theorem landBits_testBit {old en v rw w1c : Nat} (i : Nat) (h : rw &&& w1c = 0) :
    (landBits old en v rw w1c).testBit i =
      if en.testBit i && rw.testBit i then v.testBit i else if en.testBit i && v.testBit i && w1c.testBit i then false else old.testBit i := by
  have hi : (rw.testBit i && w1c.testBit i) = false := by rw [← Nat.testBit_and, h, Nat.zero_testBit]
  simp only [landBits, Nat.testBit_xor, Nat.testBit_or, Nat.testBit_and]
  revert hi
  generalize en.testBit i = e, rw.testBit i = r, w1c.testBit i = c, v.testBit i = b, old.testBit i = o
  revert e r c b o
  decide

theorem landBits_of_disabled {old en v rw : Nat} (h : en &&& rw = 0) : landBits old en v rw 0 = old := by
  simp [landBits, h]

theorem landBits_lt {old en v rw n : Nat} (ho : old < 2 ^ n) (hv : v < 2 ^ n) : landBits old en v rw 0 < 2 ^ n := by
  simp only [landBits, Nat.and_zero, Nat.xor_zero]
  exact Nat.or_lt_two_pow (Nat.xor_lt_two_pow ho (Nat.and_le_left.trans_lt ho)) (Nat.and_le_left.trans_lt hv)

/-- With every bit of 32 enabled and writable, the new value is what is written. -/
theorem landBits_all {old v : Nat} (ho : old < 2 ^ 32) (hv : v < 2 ^ 32) : landBits old 0xFFFFFFFF v 0xFFFFFFFF 0 = v := by
  have hold : old &&& 0xFFFFFFFF = old := Nat.and_two_pow_sub_one_of_lt_two_pow (n := 32) ho
  have hval : v &&& 0xFFFFFFFF = v := Nat.and_two_pow_sub_one_of_lt_two_pow (n := 32) hv
  simp [landBits, hold, hval]

/-! ### A write to a CSR of a slot -/

section
variable {s : State} {pl t k vd n c : Nat} {en v : Word}

theorem csrW1c_slotCsr (hn : n < 0x200) : csrW1c pl n = 0 := by
  have h1 : ¬ 0x220 ≤ n := by omega
  have h2 : n ≠ 0x230 := by omega
  simp [csrW1c, h1, h2]

/-- ST, whose PARK field reads 0 and stays, is not among the CSRs meant (R167). -/
theorem csrWrite_slotCsr (hn : n < 0x200) (hst : n ≠ 0x003) :
    s.csrWrite pl t k vd n en v =
      if en.toNat &&& csrRw pl n = 0 then s else s.putSlot t k n (landBits (s.csrSlot t k n) en.toNat v.toNat (csrRw pl n) 0) := by
  have hbase : csrBase n = n := Nat.mod_eq_of_lt (by omega)
  have hlow : csrHigh n = false := decide_eq_false (by omega)
  simp only [State.csrWrite, State.csrPut, hbase, hlow, csrW1c_slotCsr hn, hn, hst, Bool.false_eq_true, if_false, if_true, Nat.mul_one, Nat.or_zero]

/-- The CSRs of a slot that hold 32 bits as they are written: no rule of their own speaks of their values. -/
def plainCsrs : List Nat := [0x006, 0x007, 0x008, 0x010, 0x100, 0x101, 0x102, 0x103, 0x104, 0x105, 0x106, 0x107]

/-- The field of a slot that such a CSR is. -/
def Slot.plainCsr (h : Slot) : Nat → Word
  | 0x006 => h.mxcnan
  | 0x007 => h.mxcinf
  | 0x008 => h.mxcsat
  | 0x010 => h.chmap
  | 0x100 => h.tvec
  | 0x101 => h.epc
  | 0x102 => h.ecause
  | 0x103 => h.eval
  | 0x104 => h.estat
  | 0x105 => h.timer
  | 0x106 => h.escr
  | _ => h.epfx

theorem csrSlot_of_plain (hc : c ∈ plainCsrs) : s.csrSlot t k c = ((s.slot t k).plainCsr c).toNat := by
  simp only [plainCsrs, List.mem_cons, List.not_mem_nil, or_false] at hc
  rcases hc with rfl | rfl | rfl | rfl | rfl | rfl | rfl | rfl | rfl | rfl | rfl | rfl <;> rfl

theorem slot_timerWrite {w : Word} : (s.timerWrite t k w).slot t k = { s.slot t k with timer := w, pendTimer := false } :=
  s.slot_modSlot t k (fun h => { h with timer := w, pendTimer := false })

theorem plainCsr_putSlot {x : Nat} (hc : c ∈ plainCsrs) : ((s.putSlot t k c x).slot t k).plainCsr c = BitVec.ofNat 32 x := by
  simp only [plainCsrs, List.mem_cons, List.not_mem_nil, or_false] at hc
  rcases hc with rfl | rfl | rfl | rfl | rfl | rfl | rfl | rfl | rfl | rfl | rfl | rfl <;>
    (unfold State.putSlot; simp only [slot_timerWrite, State.slot_modSlot, Slot.plainCsr])

theorem csrSlot_csrWrite_of_plain (hc : c ∈ plainCsrs) :
    (s.csrWrite pl t k vd c en v).csrSlot t k c = landBits (s.csrSlot t k c) en.toNat v.toNat (csrRw pl c) 0 := by
  have hslot : c < 0x200 ∧ c ≠ 0x003 := by revert c; decide
  rw [csrWrite_slotCsr hslot.1 hslot.2]
  split
  next h => exact (landBits_of_disabled h).symm
  next =>
    have hold : s.csrSlot t k c < 2 ^ 32 := csrSlot_of_plain hc ▸ BitVec.isLt _
    rw [csrSlot_of_plain hc, plainCsr_putSlot hc, BitVec.toNat_ofNat, Nat.mod_eq_of_lt (landBits_lt hold v.isLt)]

theorem csrRead_rngs : s.csrRead t k 0x005 = (s.slot t k).rngs := BitVec.ofNat_toNat ..

theorem rngs_csrWrite : ((s.csrWrite pl t k vd 0x005 0xFFFFFFFF v).slot t k).rngs = if v = 0 then 1 else v := by
  have hland : landBits (s.csrSlot t k 0x005) 0xFFFFFFFF v.toNat 0xFFFFFFFF 0 = v.toNat := landBits_all (BitVec.isLt _) v.isLt
  rw [csrWrite_slotCsr (by decide) (by decide), if_neg (by simp [csrRw])]
  simp [State.putSlot, csrRw, hland]

end

/-- After reset slot 7 of every tile holds its parked thread, and the other slots are free (R145). -/
theorem slot_reset (t k : Nat) : State.reset.slot t k = if k = 7 then Slot.idle7 else {} := by
  change mget _ [(7, Slot.idle7)] k = _
  simp only [mget, eq_comm (a := 7)]
  split <;> rfl

/-- Settles O53: RNGS is a field of the slot, and writing all 32 bits lands them, where 0 becomes 1. -/
theorem generatorRegister : Obligations.GeneratorRegister := by
  unfold Obligations.GeneratorRegister
  refine ⟨fun t k => ?_, fun _ _ _ _ _ _ => ⟨csrRead_rngs, rngs_csrWrite⟩⟩
  rw [slot_reset]
  split <;> rfl

/-! ### What a write leaves alone -/

/-- What no write to a CSR of its slot changes of a thread. -/
def Slot.SameRun (h u : Slot) : Prop :=
  u.g = h.g ∧ u.fe = h.fe ∧ u.prod = h.prod ∧ u.poison = h.poison ∧ u.pc = h.pc ∧ u.instret = h.instret ∧ u.sg = h.sg

/-- Memory, the MMIO registers and the links are as they were. -/
def State.SameOutside (s u : State) : Prop := u.mem = s.mem ∧ u.mmio = s.mmio ∧ u.links = s.links

/-- From s to u nothing has changed but slot k of tile t, what its thread runs on excepted, and events. -/
def OnlySlotCsrs (s : State) (t k : Nat) (u : State) : Prop :=
  s.SameOutside u ∧ u.dies = s.dies ∧ (∀ x j, (x, j) ≠ (t, k) → u.slot x j = s.slot x j) ∧ (s.slot t k).SameRun (u.slot t k)

/-- From s to u nothing has changed but tile t outside its slots. -/
def OnlyTileCsrs (s : State) (t : Nat) (u : State) : Prop :=
  s.SameOutside u ∧ u.dies = s.dies ∧ (∀ x, x ≠ t → u.tile x = s.tile x) ∧ ∀ j, u.slot t j = s.slot t j

/-- From s to u nothing has changed but die vd and events. -/
def OnlyDieCsrs (s : State) (vd : Nat) (u : State) : Prop :=
  s.SameOutside u ∧ u.tiles = s.tiles ∧ ∀ x, x ≠ vd → u.die x = s.die x

section
variable {s : State} {pl t k vd n v : Nat}

theorem OnlySlotCsrs.refl : OnlySlotCsrs s t k s := ⟨⟨rfl, rfl, rfl⟩, rfl, fun _ _ _ => rfl, ⟨rfl, rfl, rfl, rfl, rfl, rfl, rfl⟩⟩
theorem OnlyTileCsrs.refl : OnlyTileCsrs s t s := ⟨⟨rfl, rfl, rfl⟩, rfl, fun _ _ => rfl, fun _ => rfl⟩
theorem OnlyDieCsrs.refl : OnlyDieCsrs s vd s := ⟨⟨rfl, rfl, rfl⟩, rfl, fun _ _ => rfl⟩

theorem onlySlotCsrs_modSlot {f : Slot → Slot} (hf : (s.slot t k).SameRun (f (s.slot t k))) : OnlySlotCsrs s t k (s.modSlot t k f) := by
  refine ⟨⟨rfl, rfl, rfl⟩, rfl, fun x j h => ?_, by rwa [State.slot_modSlot]⟩
  exact s.slot_setSlot_other t k _ (not_and_or.mp fun ⟨hx, hj⟩ => h (by rw [hx, hj]))

theorem OnlySlotCsrs.timerWrite {w : Word} : OnlySlotCsrs s t k (s.timerWrite t k w) :=
  onlySlotCsrs_modSlot (s := s) (t := t) (k := k) (f := fun h => { h with timer := w, pendTimer := false }) ⟨rfl, rfl, rfl, rfl, rfl, rfl, rfl⟩

theorem OnlySlotCsrs.banksFreed {u : State} (h : OnlySlotCsrs s t k u) (x : Nat) : OnlySlotCsrs s t k (u.banksFreed x) := by
  unfold State.banksFreed State.emitOnce
  split
  · exact h
  · split
    · exact h
    · exact h

theorem onlyTileCsrs_modTile {f : Tile → Tile} (hf : (f (s.tile t)).slots = (s.tile t).slots) : OnlyTileCsrs s t (s.modTile t f) := by
  refine ⟨⟨rfl, rfl, rfl⟩, rfl, fun x h => s.tile_modTile_other f h, fun j => ?_⟩
  simp only [State.slot, State.tile_modTile, Tile.slot, hf]

theorem onlyDieCsrs_modDie {f : Die → Die} : OnlyDieCsrs s vd (s.modDie vd f) :=
  ⟨⟨rfl, rfl, rfl⟩, rfl, fun _ h => s.die_modDie_other f h⟩

theorem OnlyDieCsrs.emit {u : State} {e : Ev} (h : OnlyDieCsrs s vd u) : OnlyDieCsrs s vd (u.emit e) := h

theorem OnlyDieCsrs.clockBack {u : State} (h : OnlyDieCsrs s vd u) : OnlyDieCsrs s vd (u.clockBack vd) := by
  unfold State.clockBack State.setMhz
  split
  · split
    · exact h
    · obtain ⟨⟨hmem, hmmio, hlinks⟩, htiles, hdies⟩ := h
      exact ⟨⟨hmem, hmmio, hlinks⟩, htiles, fun x hx => (State.die_modDie_other _ _ hx).trans (hdies x hx)⟩
  · exact h

theorem onlySlotCsrs_putSlot : OnlySlotCsrs s t k (s.putSlot t k n v) := by
  unfold State.putSlot
  extract_lets w up
  have hup {f : Slot → Slot} (hf : (s.slot t k).SameRun (f (s.slot t k))) : OnlySlotCsrs s t k (up f) := onlySlotCsrs_modSlot hf
  clear_value up
  split
  case h_13 => exact .timerWrite
  case h_22 => exact (hup ⟨rfl, rfl, rfl, rfl, rfl, rfl, rfl⟩).banksFreed t
  case h_23 =>
    split
    · exact hup ⟨rfl, rfl, rfl, rfl, rfl, rfl, rfl⟩
    · exact .refl
  all_goals exact hup ⟨rfl, rfl, rfl, rfl, rfl, rfl, rfl⟩

theorem onlyTileCsrs_putTile : OnlyTileCsrs s t (s.putTile t n v) := by
  unfold State.putTile
  extract_lets w up
  split
  case h_7 =>
    split
    · exact onlyTileCsrs_modTile rfl
    · exact .refl
  all_goals exact onlyTileCsrs_modTile rfl

theorem onlyDieCsrs_putDie : OnlyDieCsrs s vd (s.putDie vd n v) := by
  unfold State.putDie
  extract_lets w nz up s1
  have hup {f : Die → Die} : OnlyDieCsrs s vd (up f) := onlyDieCsrs_modDie
  have hs1 : OnlyDieCsrs s vd s1 := hup
  clear_value s1
  split
  case h_2 =>
    split
    · exact .refl
    · exact hup
  case h_5 =>
    split
    · exact hs1
    · exact hs1.clockBack
  case h_8 =>
    split
    · exact hup
    · split
      · exact hup.emit
      · exact .refl
  all_goals exact hup

theorem onlySlotCsrs_csrWrite {c : Nat} {en v : Word} (hc : csrBase c < 0x200) : OnlySlotCsrs s t k (s.csrWrite pl t k vd c en v) := by
  unfold State.csrWrite State.csrPut
  extract_lets sh writable w1c
  split
  · exact .refl
  · exact onlySlotCsrs_putSlot

theorem onlyTileCsrs_csrWrite {c : Nat} {en v : Word} (hlo : 0x200 ≤ csrBase c) (hhi : csrBase c < 0x300) :
    OnlyTileCsrs s t (s.csrWrite pl t k vd c en v) := by
  unfold State.csrWrite State.csrPut
  extract_lets sh writable w1c
  split
  · exact .refl
  · rw [if_neg (Nat.not_lt.mpr hlo)]
    exact onlyTileCsrs_putTile

theorem onlyDieCsrs_csrWrite {c : Nat} {en v : Word} (hc : 0x300 ≤ csrBase c) : OnlyDieCsrs s vd (s.csrWrite pl t k vd c en v) := by
  unfold State.csrWrite State.csrPut
  extract_lets sh writable w1c
  split
  · exact .refl
  · rw [if_neg (Nat.not_lt.mpr ((by decide : 0x200 ≤ 0x300).trans hc)), if_neg (Nat.not_lt.mpr hc)]
    exact onlyDieCsrs_putDie

theorem sameOutside_csrWrite {c : Nat} {en v : Word} : s.SameOutside (s.csrWrite pl t k vd c en v) := by
  by_cases hslot : csrBase c < 0x200
  · exact (onlySlotCsrs_csrWrite hslot).1
  · by_cases htile : csrBase c < 0x300
    · exact (onlyTileCsrs_csrWrite (Nat.not_lt.mp hslot) htile).1
    · exact (onlyDieCsrs_csrWrite (Nat.not_lt.mp htile)).1

end

/-! ### The instructions (R170, R175) -/

section
variable {i : Instr} {op : Nat} {d : Reg} {a : Src} {c : BitVec 12} {u : BitVec 7} {v : Word} {s : State} (ho : Ordinary s)
  (hr : csrReadable (stPL s.th.st) c.toNat = true)
include ho

theorem csrReg_of_unreachable (h : csrReadable (stPL s.th.st) c.toNat = false ∨ op = 0 ∧ csrWritable (stPL s.th.st) c.toNat = false) :
    csrReg i op d a c s = .error (s.trap tPRIV 0 (insnWord i)) := by
  have hpriv : (!csrReadable (stPL s.th.st) c.toNat || (decide (op = 0) && !csrWritable (stPL s.th.st) c.toNat)) = true := by
    rcases h with h | ⟨h0, h⟩
    · rw [h]; rfl
    · rw [h0, h]; exact Bool.or_true _
  simp only [csrReg, enter_ordinary i .system false 0 s ho (Nat.zero_le _), bind, Except.bind, hpriv, if_true]

include hr

section
variable (hx : Delivers [a] a.r s v) (hd : destReady d s = .ok ())
include hx hd

theorem csrReg_of_reachable (hw : op ≠ 0 ∧ v = 0 ∨ csrWritable (stPL s.th.st) c.toNat = true) :
    csrReg i op d a c s = .ok (csrEffect op [a] d c.toNat v s) := by
  have hpriv : (!csrReadable (stPL s.th.st) c.toNat || (decide (op = 0) && !csrWritable (stPL s.th.st) c.toNat)) = false := by
    rcases hw with ⟨h0, -⟩ | hw
    · rw [hr, decide_eq_false h0]; rfl
    · rw [hr, hw]; exact Bool.and_false _
  have hsub : (v != 0 && !csrWritable (stPL s.th.st) c.toNat) = false := by
    rcases hw with ⟨-, rfl⟩ | hw
    · rfl
    · rw [hw]; exact Bool.and_false _
  simp only [csrReg, enter_ordinary i .system false 0 s ho (Nat.zero_le _), hx i, hd, bind, Except.bind, hpriv, hsub, Bool.false_eq_true, if_false]

theorem csrReg_of_unwritable (hop : op ≠ 0) (hv : v ≠ 0) (hw : csrWritable (stPL s.th.st) c.toNat = false) :
    csrReg i op d a c s = .error (s.trap tPRIV 1 (insnWord i)) := by
  simp only [csrReg, enter_ordinary i .system false 0 s ho (Nat.zero_le _), hx i, hd, bind, Except.bind, hr, hw, hop, hv, Bool.not_true, Bool.false_or,
    decide_false, Bool.false_eq_true, if_false, bne_iff_ne, ne_eq, not_false_eq_true, Bool.not_false, Bool.and_true, if_true]

end

theorem csrImm_of_reachable (hd : destReady d s = .ok ()) (hw : op ≠ 0 ∧ u = 0 ∨ csrWritable (stPL s.th.st) c.toNat = true) :
    csrImm i op d c u s = .ok (csrEffect op [] d c.toNat (u.zeroExtend 32) s) := by
  have hpriv : (!csrReadable (stPL s.th.st) c.toNat || ((decide (op = 0) || u != 0) && !csrWritable (stPL s.th.st) c.toNat)) = false := by
    rcases hw with ⟨h0, rfl⟩ | hw
    · rw [hr, decide_eq_false h0]; rfl
    · rw [hr, hw]; exact Bool.and_false _
  simp only [csrImm, enter_ordinary i .system false 0 s ho (Nat.zero_le _), hd, bind, Except.bind, hpriv, Bool.false_eq_true, if_false]

end

theorem toNat_eq_cycle {c : BitVec 12} : c.toNat = 0x009 ↔ c = 0x009 := BitVec.toNat_inj (y := 0x009)
theorem toNat_eq_instret {c : BitVec 12} : c.toNat = 0x00B ↔ c = 0x00B := BitVec.toNat_inj (y := 0x00B)

/-- An instruction of a level above the thread's ends in PRIV, whatever it would do. -/
theorem finish_of_priv {i : Instr} {c : Cls} {fmt : Bool} {pl : Nat} {s : State} {f : Unit → M State} (ho : Ordinary s) (hpl : stPL s.th.st < pl) :
    finish (enter i c fmt pl s >>= f) = .next (s.trap tPRIV 0 (insnWord i)) := by
  rw [enter_priv i c fmt pl s ho hpl]
  rfl

/-- Settles O23: the level is checked before the operands, and PL 0 reads no CSR of 0x100 and above, PL 1 writes none of 0x300 and above. -/
theorem privilegeTraps : Obligations.PrivilegeTraps := by
  unfold Obligations.PrivilegeTraps
  intro s d sg a b c ho traps
  refine ⟨fun h0 => ?_, fun h1 hc => ?_⟩
  · have hpl : stPL s.th.st < 1 := by rw [h0]; decide
    refine ⟨finish_of_priv ho hpl, finish_of_priv ho hpl, finish_of_priv ho hpl, finish_of_priv ho hpl, finish_of_priv ho hpl, finish_of_priv ho hpl,
      finish_of_priv ho hpl, finish_of_priv ho hpl, fun hc => ?_⟩
    have hread : csrReadable (stPL s.th.st) c.toNat = false :=
      Bool.or_eq_false_iff.mpr ⟨decide_eq_false (Nat.not_lt.mpr hc), decide_eq_false (Nat.not_le.mpr hpl)⟩
    exact ⟨congrArg finish (csrReg_of_unreachable ho (.inl hread)), congrArg finish (csrReg_of_unreachable ho (.inl hread)),
      congrArg finish (csrReg_of_unreachable ho (.inl hread))⟩
  · have hwrite : csrWritable (stPL s.th.st) c.toNat = false :=
      Bool.and_eq_false_iff.mpr (.inr (Bool.or_eq_false_iff.mpr
        ⟨decide_eq_false (Nat.not_lt.mpr hc), decide_eq_false (Nat.not_le.mpr (Nat.lt_succ_of_le h1))⟩))
    exact congrArg finish (csrReg_of_unreachable ho (.inr ⟨rfl, hwrite⟩))

/-- Settles O24: the instructions commit by `csrEffect`, and what a write lands and leaves alone is said by the lemmas above. -/
theorem csrInstructions : Obligations.CsrInstructions := by
  unfold Obligations.CsrInstructions
  refine ⟨fun s d a c u v ho hd hr => ?_, fun old en v rw w1c i h => landBits_testBit i h, fun s pl t k vd c en v => ?_⟩
  · intro t k pl read done
    have hdone {op : Nat} {srcs : List Src} {x : Word} : csrEffect op srcs d c.toNat x s = done srcs (csrEnable op x) (csrValue op x) := by
      simp only [csrEffect, done, read, toNat_eq_cycle, toNat_eq_instret, t, k, pl]
    refine ⟨fun hx => ⟨fun hw => ?_, fun hw => ?_, fun hw hv => ?_⟩, fun hw => ?_, fun hw => ?_⟩
    · exact congrArg finish ((csrReg_of_reachable ho hr hx hd (.inr hw)).trans (congrArg Except.ok hdone))
    · have hw' (op : Nat) (hop : op ≠ 0) := hw.symm.imp_left fun h : v = 0 => And.intro hop h
      exact ⟨congrArg finish ((csrReg_of_reachable ho hr hx hd (hw' 1 (by decide))).trans (congrArg Except.ok hdone)),
        congrArg finish ((csrReg_of_reachable ho hr hx hd (hw' 2 (by decide))).trans (congrArg Except.ok hdone))⟩
    · exact congrArg finish (csrReg_of_unwritable ho hr hx hd (by decide) hv hw)
    · exact congrArg finish ((csrImm_of_reachable ho hr hd (.inr hw)).trans (congrArg Except.ok hdone))
    · have hw' (op : Nat) (hop : op ≠ 0) := hw.symm.imp_left fun h : u = 0 => And.intro hop h
      exact ⟨congrArg finish ((csrImm_of_reachable ho hr hd (hw' 1 (by decide))).trans (congrArg Except.ok hdone)),
        congrArg finish ((csrImm_of_reachable ho hr hd (hw' 2 (by decide))).trans (congrArg Except.ok hdone))⟩
  · obtain ⟨hmem, hmmio, hlinks⟩ := sameOutside_csrWrite (s := s) (pl := pl) (t := t) (k := k) (vd := vd) (c := c) (en := en) (v := v)
    refine ⟨hmem, hmmio, hlinks, fun hc => ?_, fun hc => (onlySlotCsrs_csrWrite hc).2.2.2, fun hlo hhi => (onlyTileCsrs_csrWrite hlo hhi).2,
      fun hc => (onlyDieCsrs_csrWrite hc).2, csrSlot_csrWrite_of_plain⟩
    obtain ⟨-, hdies, hothers, -⟩ := onlySlotCsrs_csrWrite (s := s) (pl := pl) (t := t) (k := k) (vd := vd) (en := en) (v := v) hc
    exact ⟨hdies, hothers⟩

end Sys2Proof.Machine
end

section
/-! O21: the exception entry (R182) and TRAP and BREAK (R282). The entry is `Slot.takeTrap`; its new status differs from the old in three
bits (`trapSt_bit`). -/

namespace Sys2Proof.Machine
open Sys2Proof

/-! ### Bits after a field or a bit is written -/

theorem nput_testBit (v lo n x i : Nat) :
    (nput v lo n x).testBit i = if lo ≤ i ∧ i < lo + n then x.testBit (i - lo) else v.testBit i := by
  have hput : nput v lo n x = 2 ^ lo * (2 ^ n * (v / 2 ^ (lo + n)) + x % 2 ^ n) + v % 2 ^ lo := by
    simp only [nput, pow_add]
    ring
  rw [hput, Nat.testBit_two_pow_mul_add _ (Nat.mod_lt _ (Nat.two_pow_pos lo)), Nat.testBit_two_pow_mul_add _ (Nat.mod_lt _ (Nat.two_pow_pos n))]
  by_cases hlo : i < lo
  · rw [if_pos hlo, if_neg (by omega), Nat.testBit_mod_two_pow, decide_eq_true hlo, Bool.true_and]
  · by_cases hhi : i - lo < n
    · rw [if_neg hlo, if_pos hhi, if_pos (by omega), Nat.testBit_mod_two_pow, decide_eq_true hhi, Bool.true_and]
    · rw [if_neg hlo, if_neg hhi, if_neg (by omega), Nat.testBit_div_two_pow]
      congr 1
      omega

theorem wput_bit (w : Word) (lo n x i : Nat) :
    (wput w lo n x).getLsbD i = (decide (i < 32) && if lo ≤ i ∧ i < lo + n then x.testBit (i - lo) else w.getLsbD i) := by
  simp only [wput, BitVec.getLsbD_ofNat, nput_testBit, BitVec.testBit_toNat]

theorem wfld_testBit (w : Word) (lo n i : Nat) : (wfld w lo n).testBit i = (decide (i < n) && w.getLsbD (lo + i)) := by
  simp only [wfld, nfld, Nat.testBit_mod_two_pow, Nat.testBit_div_two_pow, BitVec.testBit_toNat, Nat.add_comm i lo]

theorem wsetb_bit (w : Word) {i : Nat} (b : Bool) (j : Nat) (hi : i < 32) : (wsetb w i b).getLsbD j = if j = i then b else w.getLsbD j := by
  have hone : (1#32 <<< i).getLsbD j = decide (j = i) := by
    rw [BitVec.getLsbD_shiftLeft, BitVec.getLsbD_one, Bool.eq_iff_iff]
    simp only [Bool.and_eq_true, Bool.not_eq_true', decide_eq_true_eq, decide_eq_false_iff_not]
    omega
  cases b
  · rw [wsetb, if_neg Bool.false_ne_true, BitVec.getLsbD_and, BitVec.getLsbD_not, hone]
    by_cases hj : j = i
    · rw [if_pos hj, decide_eq_true hj, Bool.not_true, Bool.and_false, Bool.and_false]
    · rw [if_neg hj, decide_eq_false hj, Bool.not_false, Bool.and_true]
      exact Bool.and_eq_left_iff_imp.mpr fun h => decide_eq_true (BitVec.lt_of_getLsbD h)
  · rw [wsetb, if_pos rfl, BitVec.getLsbD_or, hone]
    by_cases hj : j = i
    · rw [if_pos hj, decide_eq_true hj, Bool.or_true]
    · rw [if_neg hj, decide_eq_false hj, Bool.or_false]

/-! ### The entry -/

/-- ST after the entry: PP clear, INH set, and a task raised to supervisor; a task's PL field is 0, so one bit of it changes. -/
theorem trapSt_bit (st : Word) {n : Nat} (hn : n < 32) :
    (trapSt st).getLsbD n = if n = 0 then false else if n = 14 then true else if n = 11 ∧ stPL st = 0 then true else st.getLsbD n := by
  have hst1 : (wsetb (wsetb st 0 false) 14 true).getLsbD n = if n = 0 then false else if n = 14 then true else st.getLsbD n := by
    rw [wsetb_bit _ _ _ (by decide), wsetb_bit _ _ _ (by decide)]
    by_cases h0 : n = 0
    · rw [h0]
      rfl
    · simp only [h0, if_false]
  change (if stPL st = 0 then stSetPL (wsetb (wsetb st 0 false) 14 true) 1 else wsetb (wsetb st 0 false) 14 true).getLsbD n = _
  by_cases hpl : stPL st = 0
  · have h12 : st.getLsbD 12 = false := by
      have h := wfld_testBit st 11 2 1
      rw [show wfld st 11 2 = 0 from hpl] at h
      exact h.symm
    rw [if_pos hpl, stSetPL, wput_bit, decide_eq_true hn, Bool.true_and, hst1]
    by_cases h11 : n = 11
    · subst h11
      simp only [hpl]
      rfl
    · by_cases hn12 : n = 12
      · subst hn12
        exact h12.symm
      · rw [if_neg (by omega)]
        simp only [h11, false_and, if_false]
  · simp only [hst1, hpl, and_false, if_false]

theorem wput_low_zero (w : Word) : wput w 0 2 0 = (w >>> 2) <<< 2 := by
  refine BitVec.eq_of_getLsbD_eq fun i hi => ?_
  rw [wput_bit, BitVec.getLsbD_shiftLeft, BitVec.getLsbD_ushiftRight, decide_eq_true hi, Bool.true_and, Bool.true_and]
  by_cases h : i < 2
  · rw [if_pos (by omega), Nat.zero_testBit, decide_eq_true h]
    rfl
  · rw [if_neg (by omega), decide_eq_false h, Nat.add_sub_cancel' (Nat.not_lt.mp h)]
    rfl

theorem onlyThread_modTh (s : State) (f : Slot → Slot) : OnlyThread s (s.modTh f) := by
  refine ⟨rfl, rfl, ?_, fun k hk => s.tile_setTile_other _ hk⟩
  rw [State.th_modTh]
  exact s.tile_setTile _ _

/-- Settles O21: the entry is `Slot.takeTrap` on the issuing thread, for every code but MCHK; TRAP and BREAK end in it. -/
theorem trapEntry : Obligations.TrapEntry := by
  unfold Obligations.TrapEntry
  refine ⟨fun s code sub val hv hs hc => ?_, fun s a u v ho => ?_⟩
  · intro t
    have ht : t = s.modTh (fun h => h.takeTrap code sub val) := by
      simp only [t, State.trap, hv, hs, hc, Option.isSome_none, Bool.false_eq_true, if_false]
    have hth : t.th = s.th.takeTrap code sub val := by rw [ht, State.th_modTh]
    rw [hth]
    refine ⟨rfl, rfl, rfl, rfl, rfl, fun n hn => trapSt_bit _ hn, wput_low_zero _, rfl, ?_⟩
    rw [ht]
    exact onlyThread_modTh ..
  · intro entered
    have henter (i : Instr) := enter_ordinary i .system false 0 s ho (Nat.zero_le _)
    refine ⟨fun hx => ?_, ?_, ?_, ?_⟩
    · have htrap : trapInstr a u s = .ok (s.trap tTRAP u.toNat v) := by
        simp only [trapInstr, henter, hx _, bind, Except.bind]
      exact congrArg finish (htrap.trans (congrArg Except.ok (trap_ordinary s _ _ _ ho (by decide))))
    · have hbrk : breakInstr u s = .ok (s.trap tBREAK u.toNat (insnWord (.brk u))) := by
        simp only [breakInstr, henter, bind, Except.bind]
      exact congrArg finish (hbrk.trans (congrArg Except.ok (trap_ordinary s _ _ _ ho (by decide))))
    · rw [State.th_modTh]
    · rw [State.th_modTh]

end Sys2Proof.Machine
end

section
/-! O10: what a commit with a result leaves unchanged (R164, R209). The register file is a list of pairs with rising keys, and a key set to
its default value, 0, is taken out of the list (`mset`). The statement quantifies over every state, also over those where a key stands in
the list twice; there the result 0 takes out the first entry only, and the second one shows. -/

namespace Sys2Proof.Machine
open Sys2Proof

theorem mget_mset_of_rising {α : Type} [DecidableEq α] {d v : α} {m : SMap α} {n k lo : Nat} (h : risingFrom lo m = true) :
    mget d (mset d m n v) k = if k = n then v else mget d m k := by
  unfold mset
  split
  next hv => rw [mget_mdel d m n k lo h, hv]
  next =>
    rw [mget_mput]
    simp only [eq_comm (a := n)]

theorem greg_setG_of_rising {h : Slot} {n r lo : Nat} {v : Word} (hg : risingFrom lo h.g = true) :
    (h.setG n v).greg r = if r = n ∧ r ≠ 0 then v else h.greg r := by
  unfold Slot.setG Slot.greg
  by_cases hr : r = 0
  · simp only [hr, if_true, ne_eq, not_true_eq_false, and_false, if_false]
  · by_cases hn : n = 0
    · simp only [hn, hr, if_true, false_and, if_false]
    · simp only [hn, hr, if_false, mget_mset_of_rising hg, ne_eq, not_false_eq_true, and_true]

section
variable {srcs : List Src} {d : Reg} {v : Word} {s : State} (hsrcs : ∀ a, a ∈ srcs → s.th.isChan a.r.toNat = false)
include hsrcs

/-- Where no source is an enabled channel, consuming the sources at most empties registers. -/
theorem g_consume : (consume srcs s).th.g = s.th.g ∧ (consume srcs s).th.chmap = s.th.chmap := by
  unfold consume
  have hl : ∀ r ∈ (srcs.map (·.r)).dedup, s.th.isChan r.toNat = false := fun r hr => by
    obtain ⟨a, ha, rfl⟩ := List.mem_map.mp (List.mem_dedup.mp hr)
    exact hsrcs a ha
  generalize (srcs.map (·.r)).dedup = l at hl
  clear hsrcs
  induction l generalizing s with
  | nil => exact ⟨rfl, rfl⟩
  | cons r l ih =>
    obtain ⟨hr, hrest⟩ := List.forall_mem_cons.mp hl
    rw [List.foldl_cons, hr, if_neg Bool.false_ne_true]
    split
    · have hg : (s.th.emptyReg r.toNat).g = s.th.g ∧ (s.th.emptyReg r.toNat).chmap = s.th.chmap := by
        unfold Slot.emptyReg
        split <;> exact ⟨rfl, rfl⟩
      have h := ih (s := s.modTh (fun h => h.emptyReg r.toNat)) (by simpa only [State.th_modTh, Slot.isChan, hg.2] using hrest)
      rw [State.th_modTh] at h
      exact ⟨h.1.trans hg.1, h.2.trans hg.2⟩
    · exact ih hrest

/-- The refuted clause, where the keys of the register file rise. -/
theorem greg_commitWith_of_rising {lo : Nat} (hd : s.th.isChan d.toNat = false) (hg : risingFrom lo s.th.g = true) (r : Nat) :
    (commitWith srcs d v s).th.greg r = if r = d.toNat ∧ r ≠ 0 then v else s.th.greg r := by
  obtain ⟨hkeep, hchan⟩ := g_consume hsrcs
  have hd' : (consume srcs s).th.isChan d.toNat = false := by simpa only [Slot.isChan, hchan] using hd
  rw [commitWith, writeResult_plain d v _ hd', State.th_modTh, State.th_modTh]
  change ((consume srcs s).th.setG d.toNat v).greg r = _
  rw [greg_setG_of_rising (hkeep ▸ hg)]
  simp only [Slot.greg, hkeep]

end

/-- The issuing thread lists g1 twice. -/
def doubledRegister : State := State.reset.modSlot 0 0 (fun h => { h with g := [(1, 5), (1, 5)] })

/-- Refutes O10: a commit of 0 to g1 of `doubledRegister` leaves 5 in g1. -/
theorem not_commitFrame : ¬ Obligations.CommitFrame := by
  unfold Obligations.CommitFrame
  intro h
  obtain ⟨hclause, -⟩ := h doubledRegister [] 1 0 nofun (by decide +kernel)
  have hreg : (commitWith [] 1 0 doubledRegister).th.greg 1 = 5 := by decide +kernel
  exact absurd (hreg.symm.trans (hclause 1)) (by decide +kernel)

end Sys2Proof.Machine
end

section
/-! O55: what reset leaves. Slot 7 exists from reset on: R145 gives its state, a thread parked PARK, and the model holds it so
(`slot_reset`). -/

namespace Sys2Proof.Machine
open Sys2Proof

/-- Refutes O55: slot 7 of tile 0 holds a thread after reset (R145), and the statement leaves every slot free. -/
theorem not_resetState : ¬ Obligations.ResetState := by
  unfold Obligations.ResetState
  intro h
  obtain ⟨-, -, -, -, -, hslots, -⟩ := h
  obtain ⟨hfree, -⟩ := hslots 0 7
  rw [slot_reset, if_pos rfl] at hfree
  cases hfree

end Sys2Proof.Machine
end

section
/-! O59: words of the spec's worked encodings. -/

namespace Sys2Proof.Machine
open Sys2Proof

/-- Settles O59: the decoder, run on each word. -/
theorem wordsDecode : Obligations.WordsDecode := by
  unfold Obligations.WordsDecode
  decide +kernel

end Sys2Proof.Machine
end

section
/-! What a scalar instruction answers when no format code waits and its operands are delivered: it commits, with the result its function gives
(R209). One lemma for each shape of `Machine/Scalar.lean` and `Machine/Fp.lean`; `f x y = v` lets the caller name the result in the words of its table. -/

namespace Sys2Proof.Machine
open Sys2Proof

section
variable {s : State} {i : Instr} {d c r : Reg} {a b : Src} {x y z v t : Word} {imm : BitVec 14} {p : BitVec 1} {e : Bool} (hp : stPP s.th.st = false)
include hp

/-! ### A branch -/

theorem branch_of_delivered {cond : Nat} (hpred : s.predicts a = false) (hx : Delivers [a] a.r s x) (ht : s.th.pc + off14 imm = t) (he : condHolds cond x = e) :
    finish (branch i cond a imm p s) = .next (commitBranch [a] e t s) := by
  simp only [branch, enter_scalar i s hp, hpred, hx i, bind, Except.bind, ht, he, Bool.false_eq_true, if_false, finish_ok]

theorem branchFull_of_register {want : Bool} (hc : s.th.isChan r.toNat = false) (ht : s.th.pc + off14 imm = t) (he : (s.th.isFull r.toNat == want) = e) :
    finish (branchFull i want r imm s) = .next (commitBranch [] e t s) := by
  simp only [branchFull, State.fullBit, enter_scalar i s hp, hc, bind, Except.bind, ht, he, Bool.false_and, Bool.false_eq_true, if_false, finish_ok]

section
variable (hd : destReady d s = .ok ())
include hd

/-! ### A result, or a jump that writes PC + 4 -/

theorem alu2_of_delivered {f : Word → Word → Word} (hx : Delivers [a, b] a.r s x) (hy : Delivers [a, b] b.r s y) (hv : f x y = v) :
    finish (alu2 i d a b f s) = .next (commitWith [a, b] d v s) := by
  simp only [alu2, enter_scalar i s hp, hx i, hy i, hd, bind, Except.bind, hv, finish_ok]

theorem alu1_of_delivered {f : Word → Word} (hx : Delivers [a] a.r s x) (hv : f x = v) :
    finish (alu1 i d a f s) = .next (commitWith [a] d v s) := by
  simp only [alu1, enter_scalar i s hp, hx i, hd, bind, Except.bind, hv, finish_ok]

theorem alu0_of_ready {w : Word} (hv : w = v) : finish (alu0 i d w s) = .next (commitWith [] d v s) := by
  simp only [alu0, enter_scalar i s hp, hd, bind, Except.bind, hv, finish_ok]

theorem select_of_delivered {whenZero : Bool} (hx : Delivers [a, b, plain c] a.r s x) (hy : Delivers [a, b, plain c] b.r s y)
    (hz : Delivers [a, b, plain c] c s z) (hv : (if (z == 0) == whenZero then x else y) = v) :
    finish (select i d a b c whenZero s) = .next (commitWith [a, b, plain c] d v s) := by
  simp only [select, enter_scalar i s hp, hz i, hx i, hy i, hd, bind, Except.bind, hv, finish_ok]

theorem insertBits_of_delivered {p w : BitVec 5} (hx : Delivers [a, plain d] a.r s x) (hy : Delivers [a, plain d] d s y)
    (hc : s.th.isChan d.toNat = false) :
    finish (insertBits i d a p w s) = .next (commitWith [a, plain d] d (insertF y x p w) s) := by
  simp only [insertBits, enter_scalar i s hp, hc, hx i, hy i, hd, bind, Except.bind, Bool.false_and, Bool.false_eq_true, if_false, finish_ok]

theorem jump_of_ready {imm : BitVec 20} (ht : s.th.pc + off20 imm = t) :
    finish (jump i d imm s) = .next (commitJump [] d t s) := by
  simp only [jump, enter_scalar i s hp, hd, bind, Except.bind, ht, finish_ok]

theorem jumpReg_of_delivered {imm : BitVec 13} (hx : Delivers [a] a.r s x) (ht : x + sx13 imm = t) :
    finish (jumpReg i d a imm s) = .next (commitJump [a] d t s) := by
  simp only [jumpReg, enter_scalar i s hp, hx i, hd, bind, Except.bind, ht, finish_ok]

/-! ### An FP32 result with its flags -/

section
variable {q : Word × Word} {adv : Bool}

theorem fp2_of_delivered {g : Slot → Word → Word → Word × Word} (hx : Delivers [a, b] a.r s x) (hy : Delivers [a, b] b.r s y) (hr : g s.th x y = q) :
    finish (fp2 i d a b adv g s) = .next (commitFp [a, b] d q.1 q.2 adv s) := by
  simp only [fp2, enter_scalar i s hp, hx i, hy i, hd, bind, Except.bind, hr, finish_ok]

theorem fp1_of_delivered {g : Slot → Word → Word × Word} (hx : Delivers [a] a.r s x) (hr : g s.th x = q) :
    finish (fp1 i d a adv g s) = .next (commitFp [a] d q.1 q.2 adv s) := by
  simp only [fp1, enter_scalar i s hp, hx i, hd, bind, Except.bind, hr, finish_ok]

theorem fma_of_delivered {sub : Bool} (hx : Delivers [a, b, plain c] a.r s x) (hy : Delivers [a, b, plain c] b.r s y) (hz : Delivers [a, b, plain c] c s z)
    (hr : fpFma s.th sub x y z = q) : finish (fma i sub d a b c s) = .next (commitFp [a, b, plain c] d q.1 q.2 true s) := by
  simp only [fma, enter_scalar i s hp, hx i, hy i, hz i, hd, bind, Except.bind, hr, finish_ok]

end
end
end

/-! ### Values that several instructions share -/

theorem add_eq_ofInt {x y : Word} {n : Int} (hy : y = BitVec.ofInt 32 n) : x + y = BitVec.ofInt 32 (x.toInt + n) := by
  rw [BitVec.ofInt_add, BitVec.ofInt_toInt, hy]

theorem signExtend_shiftLeft_two {n : Nat} (i : BitVec n) : i.signExtend 32 <<< 2 = BitVec.ofInt 32 (4 * i.toInt) := by
  rw [BitVec.ofInt_mul, BitVec.shiftLeft_eq_mul_twoPow, BitVec.mul_comm]
  rfl

theorem b2w_decide (p : Prop) [Decidable p] : b2w (decide p) = if p then 1 else 0 := by
  simp only [b2w, decide_eq_true_eq]

/-- A number read as signed with n bits is the integer of its n-bit word. -/
theorem sgn_eq_toInt (n v : Nat) : sgn n v = (BitVec.ofNat n v).toInt := by
  have hhalf : v % 2 ^ n < 2 ^ (n - 1) ↔ 2 * (v % 2 ^ n) < 2 ^ n := by
    cases n with
    | zero => simp [Nat.mod_one]
    | succ n => rw [Nat.add_sub_cancel, pow_succ]; omega
  simp only [sgn, BitVec.toInt, BitVec.toNat_ofNat, hhalf]
  push_cast
  rfl

theorem ofInt_sgn (n v : Nat) : BitVec.ofInt 32 (sgn n v) = (BitVec.ofNat n v).signExtend 32 := by
  rw [sgn_eq_toInt]
  rfl

end Sys2Proof.Machine
end

section
/-! O1: the register forms (R211). -/

namespace Sys2Proof.Machine
open Sys2Proof

theorem add_eq_ofNat (x y : Word) : x + y = BitVec.ofNat 32 (x.toNat + y.toNat) := by
  rw [BitVec.ofNat_add, BitVec.ofNat_toNat, BitVec.ofNat_toNat, BitVec.setWidth_eq, BitVec.setWidth_eq]

theorem mul_eq_ofNat (x y : Word) : x * y = BitVec.ofNat 32 (x.toNat * y.toNat) := by
  rw [BitVec.ofNat_mul, BitVec.ofNat_toNat, BitVec.ofNat_toNat, BitVec.setWidth_eq, BitVec.setWidth_eq]

theorem sub_eq_ofInt (x y : Word) : x - y = BitVec.ofInt 32 (x.toInt - y.toInt) :=
  BitVec.eq_of_toInt_eq (by rw [BitVec.toInt_sub, BitVec.toInt_ofInt])

theorem ite_eq_ofInt_min (x y : Word) : (if x.toInt ≤ y.toInt then x else y) = BitVec.ofInt 32 (min x.toInt y.toInt) := by
  rw [min_def, apply_ite (BitVec.ofInt 32), BitVec.ofInt_toInt, BitVec.ofInt_toInt]

theorem ite_eq_ofInt_max (x y : Word) : (if x.toInt ≤ y.toInt then y else x) = BitVec.ofInt 32 (max x.toInt y.toInt) := by
  rw [max_def, apply_ite (BitVec.ofInt 32), BitVec.ofInt_toInt, BitVec.ofInt_toInt]

theorem ite_eq_ofNat_min (x y : Word) : (if x.toNat ≤ y.toNat then x else y) = BitVec.ofNat 32 (min x.toNat y.toNat) := by
  rw [min_def, apply_ite (BitVec.ofNat 32), BitVec.ofNat_toNat, BitVec.ofNat_toNat, BitVec.setWidth_eq, BitVec.setWidth_eq]

theorem ite_eq_ofNat_max (x y : Word) : (if x.toNat ≤ y.toNat then y else x) = BitVec.ofNat 32 (max x.toNat y.toNat) := by
  rw [max_def, apply_ite (BitVec.ofNat 32), BitVec.ofNat_toNat, BitVec.ofNat_toNat, BitVec.setWidth_eq, BitVec.setWidth_eq]

/-- Settles O1: every form is `alu2`; what its function gives is the result of the table. -/
theorem integerRegisterResults : Obligations.IntegerRegisterResults := by
  unfold Obligations.IntegerRegisterResults
  intro s d a b x y hp hx hy hd
  have commits {i : Instr} {f : Word → Word → Word} {v : Word} (hv : f x y = v) :
      finish (alu2 i d a b f s) = .next (commitWith [a, b] d v s) := alu2_of_delivered hp hd hx hy hv
  have hamount : wfld y 0 5 = y.toNat % 32 := wfld_low y 5
  exact ⟨commits (add_eq_ofNat x y), commits (sub_eq_ofInt x y), commits rfl, commits rfl, commits rfl, commits rfl,
    commits (congrArg (x <<< ·) hamount), commits (congrArg (x >>> ·) hamount), commits (congrArg x.sshiftRight hamount),
    commits (congrArg x.rotateLeft hamount), commits (congrArg x.rotateRight hamount),
    commits (mul_eq_ofNat x y), commits rfl, commits rfl, commits (ite_eq_ofInt_min x y), commits (ite_eq_ofInt_max x y),
    commits (ite_eq_ofNat_min x y), commits (ite_eq_ofNat_max x y), commits rfl, commits rfl⟩

end Sys2Proof.Machine
end

section
/-! O2: the immediate forms (R213-R215). -/

namespace Sys2Proof.Machine
open Sys2Proof

/-- Settles O2: an immediate is extended by its sign, and an offset in words is four times as many bytes. -/
theorem immediateResults : Obligations.ImmediateResults := by
  unfold Obligations.ImmediateResults
  intro s d a x i13 c i20 hp hx hd
  have commits {i : Instr} {f : Word → Word} {v : Word} (hv : f x = v) :
      finish (alu1 i d a f s) = .next (commitWith [a] d v s) := alu1_of_delivered hp hd hx hv
  have hlui : i20.zeroExtend 32 <<< 12 = BitVec.ofNat 32 (i20.toNat * 2 ^ 12) := by
    rw [BitVec.ofNat_mul, BitVec.ofNat_toNat]
    exact BitVec.shiftLeft_eq_mul_twoPow ..
  have haddpc : s.th.pc + off20 i20 = BitVec.ofInt 32 (s.th.pc.toInt + i20.toInt * 4) := by
    rw [mul_comm]
    exact add_eq_ofInt (signExtend_shiftLeft_two i20)
  exact ⟨commits (add_eq_ofInt rfl), commits rfl, commits rfl, commits rfl, commits rfl, alu0_of_ready hp hd hlui, alu0_of_ready hp hd haddpc⟩

end Sys2Proof.Machine
end

section
/-! O3: the compares (R216). -/

namespace Sys2Proof.Machine
open Sys2Proof

theorem b2w_beq (x y : Word) : b2w (x == y) = if x = y then 1 else 0 := by
  simp only [b2w, beq_iff_eq]

theorem b2w_bne (x y : Word) : b2w (x != y) = if x = y then 0 else 1 := by
  simp only [b2w, bne_iff_ne, ne_eq, ite_not]

theorem toInt_sx10 (c : BitVec 10) : (sx10 c).toInt = c.toInt := BitVec.toInt_signExtend_of_le (by decide)

theorem eq_sx10_iff (x : Word) (c : BitVec 10) : x = sx10 c ↔ x.toInt = c.toInt := by
  rw [← toInt_sx10, BitVec.toInt_inj]

/-- Settles O3: a Boolean written as 1 or 0; an immediate is compared by its value as a number, or as the word it extends to. -/
theorem compareResults : Obligations.CompareResults := by
  unfold Obligations.CompareResults
  intro s d a b x y c hp hx hy hx1 hd
  have register {i : Instr} {f : Word → Word → Word} {v : Word} (hv : f x y = v) :
      finish (alu2 i d a b f s) = .next (commitWith [a, b] d v s) := alu2_of_delivered hp hd hx hy hv
  have immediate {i : Instr} {f : Word → Word} {v : Word} (hv : f x = v) :
      finish (alu1 i d a f s) = .next (commitWith [a] d v s) := alu1_of_delivered hp hd hx1 hv
  have hseqi : b2w (x == sx10 c) = if x.toInt = c.toInt then 1 else 0 := by simp only [b2w_beq, eq_sx10_iff]
  have hsnei : b2w (x != sx10 c) = if x.toInt = c.toInt then 0 else 1 := by simp only [b2w_bne, eq_sx10_iff]
  have hslti : b2w (decide (x.toInt < (sx10 c).toInt)) = if x.toInt < c.toInt then 1 else 0 := by rw [b2w_decide, toInt_sx10]
  have hsgti : b2w (decide ((sx10 c).toInt < x.toInt)) = if c.toInt < x.toInt then 1 else 0 := by rw [b2w_decide, toInt_sx10]
  exact ⟨register (b2w_beq x y), register (b2w_bne x y), register (b2w_decide _), register (b2w_decide _), immediate hseqi, immediate hsnei,
    immediate hslti, immediate (b2w_decide _), immediate hsgti, immediate (b2w_decide _)⟩

end Sys2Proof.Machine
end

section
/-! O4: select and the bit fields (R217, R219), the fields bit by bit. -/

namespace Sys2Proof.Machine
open Sys2Proof

theorem insertF_bit {p w : BitVec 5} {n : Nat} (o x : Word) (hn : n < 32) :
    (insertF o x p w).getLsbD n = if p.toNat ≤ n ∧ n ≤ p.toNat + w.toNat then x.getLsbD (n - p.toNat) else o.getLsbD n := by
  rw [insertF, wput_bit, decide_eq_true hn, Bool.true_and, BitVec.testBit_toNat]
  simp only [← Nat.add_assoc, Nat.lt_succ_iff]

/-- Bit n of an extracted signed field is bit n of the field, or its highest bit from there on. -/
theorem extractS_bit {p w : BitVec 5} {n : Nat} (x : Word) (hn : n < 32) : (extractS x p w).getLsbD n = x.getLsbD (p.toNat + min n w.toNat) := by
  have hfield : extractS x p w = (BitVec.ofNat (w.toNat + 1) (wfld x p.toNat (w.toNat + 1))).signExtend 32 := ofInt_sgn ..
  have hbit {k : Nat} (hk : k < w.toNat + 1) : (BitVec.ofNat (w.toNat + 1) (wfld x p.toNat (w.toNat + 1))).getLsbD k = x.getLsbD (p.toNat + k) := by
    rw [BitVec.getLsbD_ofNat, wfld_testBit, decide_eq_true hk, Bool.true_and, Bool.true_and]
  rw [hfield, BitVec.getLsbD_signExtend, decide_eq_true hn, Bool.true_and]
  split
  next hlow => rw [hbit hlow, Nat.min_eq_left (Nat.le_of_lt_succ hlow)]
  next hhigh => rw [BitVec.msb_eq_getLsbD_last, Nat.add_sub_cancel, hbit (Nat.lt_succ_self _), Nat.min_eq_right (by omega)]

theorem extractS_eq_shifts {p w : BitVec 5} (x : Word) (h : p.toNat + w.toNat ≤ 31) :
    extractS x p w = (x <<< (31 - p.toNat - w.toNat)).sshiftRight (31 - w.toNat) := by
  refine BitVec.eq_of_getLsbD_eq fun n hn => ?_
  have hleft {k : Nat} (hk : k ≤ w.toNat) : (x <<< (31 - p.toNat - w.toNat)).getLsbD (31 - w.toNat + k) = x.getLsbD (p.toNat + k) := by
    rw [BitVec.getLsbD_shiftLeft, decide_eq_true (by omega), decide_eq_false (by omega), Bool.not_false, Bool.true_and, Bool.true_and]
    congr 1
    omega
  rw [extractS_bit x hn, BitVec.getLsbD_sshiftRight, decide_eq_false (Nat.not_le.mpr hn), Bool.not_false, Bool.true_and]
  split
  next hlow => rw [hleft (by omega), Nat.min_eq_left (by omega)]
  next hhigh => rw [BitVec.msb_eq_getLsbD_last, Nat.min_eq_right (by omega), ← hleft le_rfl, Nat.sub_add_cancel (by omega)]

/-- Settles O4: each form commits by its shape, and its value is that of the lemmas above. -/
theorem selectAndFieldResults : Obligations.SelectAndFieldResults := by
  unfold Obligations.SelectAndFieldResults
  intro s d c a b x y z o p w hp hd
  refine ⟨fun hx hy hz => ⟨?_, ?_⟩, fun hx hpw => ⟨?_, ?_⟩, fun hx ho hc _ => ?_⟩
  · exact select_of_delivered hp hd hx hy hz (by by_cases h : z = 0 <;> simp [h])
  · exact select_of_delivered hp hd hx hy hz (by by_cases h : z = 0 <;> simp [h])
  · exact alu1_of_delivered hp hd hx rfl
  · exact alu1_of_delivered hp hd hx (extractS_eq_shifts x hpw)
  · exact ⟨insertF o x p w, insertBits_of_delivered hp hd hx ho hc, fun n hn => insertF_bit o x hn⟩

end Sys2Proof.Machine
end

section
/-! O5: the one-source bit operations (R218): what each counts or moves, and the words of major 0x09. -/

namespace Sys2Proof.Machine
open Sys2Proof

/-! ### Counts -/

/-- Below bit n, `countLead n w` zeros stand above a one or above the end. -/
theorem countLead_spec (n : Nat) (w : Word) :
    countLead n w ≤ n ∧ (∀ k, k < countLead n w → w.getLsbD (n - 1 - k) = false) ∧ (countLead n w < n → w.getLsbD (n - 1 - countLead n w) = true) := by
  induction n with
  | zero => exact ⟨le_rfl, nofun, nofun⟩
  | succ n ih =>
    obtain ⟨hle, hzero, hone⟩ := ih
    simp only [countLead, Nat.add_sub_cancel]
    split
    next h => exact ⟨Nat.zero_le _, nofun, fun _ => h⟩
    next h =>
      refine ⟨by omega, fun k hk => ?_, fun hlt => ?_⟩
      · cases k with
        | zero => exact Bool.eq_false_of_not_eq_true h
        | succ k => rw [Nat.add_comm k, Nat.sub_add_eq]; exact hzero k (by omega)
      · rw [Nat.sub_add_eq]; exact hone (by omega)

/-- From bit 32 - n up, `countTrail n w` zeros stand below a one or below the end. -/
theorem countTrail_spec {n : Nat} (w : Word) (hn : n ≤ 32) :
    countTrail n w ≤ n ∧ (∀ k, k < countTrail n w → w.getLsbD (32 - n + k) = false) ∧ (countTrail n w < n → w.getLsbD (32 - n + countTrail n w) = true) := by
  induction n with
  | zero => exact ⟨le_rfl, nofun, nofun⟩
  | succ n ih =>
    obtain ⟨hle, hzero, hone⟩ := ih (by omega)
    have hfirst : 32 - (n + 1) + 0 = 31 - n := by omega
    have hnext (k : Nat) : 32 - (n + 1) + (1 + k) = 32 - n + k := by omega
    simp only [countTrail]
    split
    next h => exact ⟨Nat.zero_le _, nofun, fun _ => by rw [hfirst]; exact h⟩
    next h =>
      refine ⟨by omega, fun k hk => ?_, fun hlt => ?_⟩
      · cases k with
        | zero => rw [hfirst]; exact Bool.eq_false_of_not_eq_true h
        | succ k => rw [Nat.add_comm k, hnext]; exact hzero k (by omega)
      · rw [hnext]; exact hone (by omega)

theorem countOnes_eq_length (n : Nat) (w : Word) : countOnes n w = ((List.range n).filter (fun k => w.getLsbD k)).length := by
  induction n with
  | zero => rfl
  | succ n ih =>
    rw [List.range_succ, List.filter_append, List.length_append, ← ih, countOnes, Nat.add_comm, List.filter_singleton, wbit]
    cases w.getLsbD n <;> rfl

/-! ### Moved bits -/

theorem b2n_eq_toNat (b : Bool) : b2n b = b.toNat := by
  cases b <;> rfl

/-- The bits of w from bit n - 1 down are reversed into the bits from 32 - n up. -/
theorem reverseBits_testBit {n : Nat} (w : Word) (hn : n ≤ 32) (i : Nat) :
    (reverseBits n w).testBit i = (decide (32 - n ≤ i ∧ i < 32) && w.getLsbD (31 - i)) := by
  induction n generalizing i with
  | zero => rw [reverseBits, Nat.zero_testBit, decide_eq_false (by omega), Bool.false_and]
  | succ n ih =>
    have ih := ih (by omega)
    obtain ⟨q, hq⟩ : 2 ^ (32 - n) ∣ reverseBits n w := by
      refine Nat.dvd_of_mod_eq_zero (Nat.eq_of_testBit_eq fun k => ?_)
      rw [Nat.testBit_mod_two_pow, ih, Nat.zero_testBit, ← Bool.and_assoc, ← Bool.decide_and, decide_eq_false (by omega), Bool.false_and]
    have hbit : (wbit w n).toNat * 2 ^ (31 - n) < 2 ^ (32 - n) := by
      rw [show 32 - n = 31 - n + 1 by omega, pow_succ, mul_comm]
      exact Nat.mul_lt_mul_of_pos_left (Bool.toNat_lt _) (Nat.two_pow_pos _)
    rw [reverseBits, b2n_eq_toNat, Nat.add_comm, hq, Nat.two_pow_add_eq_or_of_lt hbit, ← hq, Nat.testBit_or, ih, Nat.testBit_mul_two_pow, Nat.testBit_bool_toNat,
      ← Bool.and_assoc, ← Bool.decide_and, wbit]
    by_cases hi : i = 31 - n
    · rw [decide_eq_false (by omega), decide_eq_true (by omega), decide_eq_true (by omega), Bool.false_and, Bool.false_or, show 31 - i = n by omega]
    · rw [decide_eq_false (p := 31 - n ≤ i ∧ i - (31 - n) = 0) (by omega), Bool.false_and, Bool.or_false]
      congr 1
      exact decide_eq_decide.mpr (by omega)

theorem swapBytes_bit {n : Nat} (w : Word) (hn : n < 32) : (swapBytes w).getLsbD n = w.getLsbD (8 * (3 - n / 8) + n % 8) := by
  have hbytes : swapBytes w = BitVec.ofNat 32 (2 ^ 8 * (2 ^ 8 * (2 ^ 8 * wfld w 0 8 + wfld w 8 8) + wfld w 16 8) + wfld w 24 8) := by
    rw [swapBytes]
    congr 1
    ring
  have hlt (lo : Nat) : wfld w lo 8 < 2 ^ 8 := Nat.mod_lt _ (by decide)
  rw [hbytes, BitVec.getLsbD_ofNat, decide_eq_true hn, Bool.true_and]
  simp only [Nat.testBit_two_pow_mul_add _ (hlt _), wfld_testBit]
  repeat' split
  all_goals
    rw [decide_eq_true (by omega), Bool.true_and]
    congr 1
    omega

/-! ### Words of major 0x09 -/

section
variable {d : Reg} {a : Src} {f r w : Nat}

/-- The fields do not overlap, so the word goes to the table of its major, which reads each of them back; r stands in those that must be zero. -/
theorem bitOp_fields (hf : f < 64) (hr : r < 2 ^ 7)
    (hw : w = 0x09 + d.toNat * 2 ^ 7 + a.r.toNat * 2 ^ 12 + a.m.toNat * 2 ^ 17 + f * 2 ^ 26 + r * 2 ^ 19) :
    decodeWord w = decode09 w ∧ fld w 26 6 = f ∧ fld w 19 7 = r ∧ bvAt 5 w 7 = d ∧ srcAt w 12 17 = a := by
  let os : List Encoding.Operand := [.bits 7 d, .src 12 17 a, .bits 26 (BitVec.ofNat 6 f), .bits 19 (BitVec.ofNat 7 r)]
  have hword : Encoding.Operand.word 0x09 os = w := by
    simp only [hw, os, Encoding.Operand.word, Encoding.Operand.placed, Src.enc, at', BitVec.toNat_ofNat, Nat.mod_eq_of_lt hf, Nat.mod_eq_of_lt hr]
    omega
  obtain ⟨-, hops, hcode⟩ := Encoding.Operand.shows_word (c := 0x09) (os := os) rfl
  rw [hword] at hops hcode
  have ⟨hd, ha, hfn, hmbz⟩ := List.forall_iff_forall_mem.mpr hops
  have hmajor : w % 128 = 0x09 := by simpa [fld] using hcode 0 7 rfl
  refine ⟨?_, ?_, ?_, hd, ha⟩
  · rw [decodeWord, if_neg (by omega), hmajor]
    rfl
  · exact (congrArg BitVec.toNat hfn).trans (Nat.mod_eq_of_lt hf)
  · exact (congrArg BitVec.toNat hmbz).trans (Nat.mod_eq_of_lt hr)

theorem accept_of_nonzero {i : Instr} {lo n : Nat} (h : fld w lo n ≠ 0) : accept w [(lo, n)] i = .error .mustBeZero := by
  simp [accept, h]

/-- The instruction of each assigned function code of major 0x09 (R218). -/
def bitOp (d : Reg) (a : Src) : Nat → Option Instr
  | 0 => some (.clz d a)
  | 1 => some (.ctz d a)
  | 2 => some (.popc d a)
  | 3 => some (.brev d a)
  | 4 => some (.bswap d a)
  | 5 => some (.sextb d a)
  | 6 => some (.sexth d a)
  | 7 => some (.zexth d a)
  | _ => none

/-- The table of major 0x09 by `bitOp`: every instruction of it has the same checks after the function code. -/
theorem decode09_eq_elim {answer : Instr → Except Reject Instr} (hfn : fld w 26 6 = f) (hd : bvAt 5 w 7 = d) (ha : srcAt w 12 17 = a)
    (h : ∀ i : Instr, i.check = need a.wf .sourceMode → accept w [(19, 7)] i = answer i) :
    decode09 w = (bitOp d a f).elim (.error .unassignedFunction) answer := by
  rw [decode09, hfn, hd, ha]
  clear hfn
  match f with
  | 0 | 1 | 2 | 3 | 4 | 5 | 6 | 7 => exact h _ rfl
  | f + 8 => rfl

theorem bitOp_isSome (hf : f < 8) : (bitOp d a f).isSome = true := by
  match f with
  | 0 | 1 | 2 | 3 | 4 | 5 | 6 | 7 => rfl
  | f + 8 => omega

theorem decodeWord_bitOp (hwf : a.wf = true) (hf : f < 64)
    (hw : w = 0x09 + d.toNat * 2 ^ 7 + a.r.toNat * 2 ^ 12 + a.m.toNat * 2 ^ 17 + f * 2 ^ 26) :
    decodeWord w = (bitOp d a f).elim (.error .unassignedFunction) .ok := by
  obtain ⟨hdec, hfn, hmbz, hd, ha⟩ := bitOp_fields (d := d) (a := a) (w := w) hf (Nat.two_pow_pos 7) (by rw [hw, Nat.zero_mul, Nat.add_zero])
  have hneed : need a.wf .sourceMode = none := by rw [hwf]; rfl
  exact hdec.trans (decode09_eq_elim hfn hd ha fun i hi =>
    Encoding.accept_eq_ok (congrArg Option.isNone (hi.trans hneed)) (List.forall_mem_singleton.mpr hmbz))

theorem decodeWord_bitOp_of_nonzero (hf : f < 8) (hpos : 0 < r) (hr : r < 2 ^ 7)
    (hw : w = 0x09 + d.toNat * 2 ^ 7 + a.r.toNat * 2 ^ 12 + a.m.toNat * 2 ^ 17 + f * 2 ^ 26 + r * 2 ^ 19) : decodeWord w = .error .mustBeZero := by
  obtain ⟨hdec, hfn, hmbz, hd, ha⟩ := bitOp_fields (by omega) hr hw
  obtain ⟨i, hi⟩ := Option.isSome_iff_exists.mp (bitOp_isSome (d := d) (a := a) hf)
  rw [hdec, decode09_eq_elim hfn hd ha fun i _ => accept_of_nonzero (hmbz.trans_ne hpos.ne'), hi, Option.elim_some]

end

/-- Settles O5: each result by its lemma above, and the words by the two lemmas on the decoder. -/
theorem bitOperationResults : Obligations.BitOperationResults := by
  unfold Obligations.BitOperationResults
  refine ⟨fun s d a x hp hx hd => ?_, fun d a f hwf hf => ?_⟩
  · have commits {i : Instr} {f : Word → Word} {v : Word} (hv : f x = v) :
        finish (alu1 i d a f s) = .next (commitWith [a] d v s) := alu1_of_delivered hp hd hx hv
    refine ⟨⟨countLead 32 x, commits rfl, countLead_spec 32 x⟩, ⟨countTrail 32 x, commits rfl, ?_⟩, commits (congrArg _ (countOnes_eq_length 32 x)),
      ⟨BitVec.ofNat 32 (reverseBits 32 x), commits rfl, fun n hn => ?_⟩,
      ⟨swapBytes x, commits rfl, fun n hn => swapBytes_bit x hn⟩, commits (ofInt_sgn 8 _), commits (ofInt_sgn 16 _), commits ?_⟩
    · simpa using countTrail_spec x le_rfl
    · rw [BitVec.getLsbD_ofNat, reverseBits_testBit x le_rfl, decide_eq_true hn, decide_eq_true ⟨Nat.zero_le n, hn⟩, Bool.true_and, Bool.true_and]
    · rw [wfld_low, ← BitVec.toNat_setWidth]
      exact BitVec.ofNat_toNat 32 (x.truncate 16)
  · refine ⟨(decodeWord_bitOp hwf hf rfl).trans ?_, fun r hpos hr hlt => decodeWord_bitOp_of_nonzero hlt hpos hr rfl⟩
    clear hf
    match f with
    | 0 | 1 | 2 | 3 | 4 | 5 | 6 | 7 => rfl
    | f + 8 => rfl

end Sys2Proof.Machine
end

section
/-! O6: its clause on DIVIDER_DONE is refuted. R210 has the divider serve the waiting slots 0-6 in order after the slot it served last. The
statement lets a divide of slot 7 leave that slot as it was; the model takes slot 7 itself as the last, so that the order begins at slot 0. -/

namespace Sys2Proof.Machine
open Sys2Proof

/-- A divide of slot 7 into g5, with the result 3. -/
def slot7Divide : DivOp := ⟨7, .div 5 ⟨1, 0⟩ ⟨4, 0⟩, 5, [⟨1, 0⟩, ⟨4, 0⟩], 3, 0, 1⟩

/-- The divider runs it, and served slot 2 before. -/
def slot7Divides : State := State.reset.modTile 0 (fun T => { T with div := some slot7Divide, divLast := 2 })

/-- Refutes O6: when the divide of `slot7Divides` ends, the model's order begins after slot 6, and the clause's still after slot 2. -/
theorem not_divisionResults : ¬ Obligations.DivisionResults := by
  unfold Obligations.DivisionResults
  intro h
  obtain ⟨-, hdone⟩ := h
  have hstate : dividerDone slot7Divides = _ := Host.Outcome.next.inj (hdone slot7Divides slot7Divide (by decide +kernel) (by decide +kernel))
  have hmodel : ((dividerDone slot7Divides).tile 0).divLast = 6 := by decide +kernel
  rw [hstate] at hmodel
  exact absurd hmodel (by decide +kernel)

end Sys2Proof.Machine
end

section
/-! O7: branches and jumps (R220-R222). -/

namespace Sys2Proof.Machine
open Sys2Proof

theorem wbit_sign (x : Word) : wbit x 31 = decide (x.toInt < 0) := by
  rw [← BitVec.msb_eq_toInt, BitVec.msb_eq_getLsbD_last]
  rfl

/-- Settles O7: each condition as the code `condHolds` gives it, and targets as in O2. -/
theorem branchAndJumpTargets : Obligations.BranchAndJumpTargets := by
  unfold Obligations.BranchAndJumpTargets
  intro s d r a x i14 p i20 i13 hp goto
  have htarget : s.th.pc + off14 i14 = BitVec.ofInt 32 (s.th.pc.toInt + 4 * i14.toInt) := add_eq_ofInt (signExtend_shiftLeft_two i14)
  refine ⟨fun hpred hx => ?_, fun hc => ⟨?_, ?_⟩, fun hd => ⟨?_, fun hx => ?_⟩⟩
  · have goes {i : Instr} {cond : Nat} {e : Bool} (he : condHolds cond x = e) : finish (branch i cond a i14 p s) = .next (goto [a] e) :=
      branch_of_delivered hp hpred hx htarget he
    have hnonneg : (!wbit x 31) = decide (0 ≤ x.toInt) := by
      rw [wbit_sign, ← decide_not]
      exact decide_eq_decide.mpr Int.not_lt
    have hne : (x != 0) = decide (x ≠ 0) := by
      rw [decide_not, ← beq_eq_decide]
      rfl
    exact ⟨goes (beq_eq_decide ..), goes hne, goes (wbit_sign x), goes hnonneg, goes rfl, goes rfl⟩
  · exact branchFull_of_register hp hc htarget (beq_true _)
  · exact branchFull_of_register hp hc htarget (beq_false _)
  · exact jump_of_ready hp hd (add_eq_ofInt (signExtend_shiftLeft_two i20))
  · exact jumpReg_of_delivered hp hd hx (add_eq_ofInt rfl)

end Sys2Proof.Machine
end

section
/-! O8: scalar FP32 (R223-R226). -/

namespace Sys2Proof.Machine
open Sys2Proof

/-- Settles O8: every form commits by its shape; of the values only those of the compares are not the stated terms themselves. -/
theorem floatResults : Obligations.FloatResults := by
  unfold Obligations.FloatResults
  intro s d c a b x y z hp hd h two one three
  refine ⟨fun hx hy => ?_, fun hx => ?_, fun hx hy hz => ⟨?_, ?_⟩⟩
  · have commits {i : Instr} {adv : Bool} {g : Slot → Word → Word → Word × Word} {r : Word × Word} (hr : g s.th x y = r) :
        finish (fp2 i d a b adv g s) = .next (two r adv) := fp2_of_delivered hp hd hx hy hr
    have heq : fpCmp true (fun c => c == 0) h x y =
        if (h.fp x).isNan || (h.fp y).isNan then (0, nvIf ((h.fp x).isSig || (h.fp y).isSig)) else (if (h.fp x).cmp (h.fp y) = 0 then 1 else 0, 0) := by
      simp only [fpCmp, Bool.not_true, Bool.false_or, beq_eq_decide, b2w_decide]
    have hlt : fpCmp false (fun c => decide (c < 0)) h x y =
        if (h.fp x).isNan || (h.fp y).isNan then (0, fNV) else (if (h.fp x).cmp (h.fp y) < 0 then 1 else 0, 0) := by
      simp only [fpCmp, Bool.not_false, Bool.true_or, nvIf, if_true, b2w_decide]
    have hle : fpCmp false (fun c => decide (c ≤ 0)) h x y =
        if (h.fp x).isNan || (h.fp y).isNan then (0, fNV) else (if (h.fp x).cmp (h.fp y) ≤ 0 then 1 else 0, 0) := by
      simp only [fpCmp, Bool.not_false, Bool.true_or, nvIf, if_true, b2w_decide]
    exact ⟨commits rfl, commits rfl, commits rfl, commits rfl, commits rfl, commits rfl, commits rfl, commits rfl, commits rfl,
      commits heq, commits hlt, commits hle⟩
  · have commits {i : Instr} {adv : Bool} {g : Slot → Word → Word × Word} {r : Word × Word} (hr : g s.th x = r) :
        finish (fp1 i d a adv g s) = .next (one r adv) := fp1_of_delivered hp hd hx hr
    exact ⟨commits rfl, commits rfl, commits rfl, commits rfl, commits rfl, commits rfl, commits rfl, commits rfl, commits rfl,
      commits rfl, commits rfl⟩
  · exact fma_of_delivered hp hd hx hy hz rfl
  · exact fma_of_delivered hp hd hx hy hz rfl

end Sys2Proof.Machine
end

section
/-! O12: LEA writes an offset that stays in its segment or raises SEG; SEGRD writes a word of a segment register. -/

namespace Sys2Proof.Machine
open Sys2Proof

theorem enter_memory_of_ordinary {i : Instr} {s : State} (h : Ordinary s) : enter i .memory false 0 s = .ok () :=
  enter_ordinary i .memory false 0 s h (Nat.zero_le _)

theorem enter_scalar_of_ordinary {i : Instr} {s : State} (h : Ordinary s) : enter i .scalar false 0 s = .ok () :=
  enter_ordinary i .scalar false 0 s h (Nat.zero_le _)

/-! ### LEA (R232) -/

theorem ofNat_leaScale (c : BitVec 2) :
    BitVec.ofNat 32 (leaScale c) = if c = 0 then 1 else if c = 1 then 4 else if c = 2 then 8 else 256 := by
  simp only [leaScale, apply_ite (BitVec.ofNat 32)]
  rfl

section
variable {s : State} {i : Instr} {d : Reg} {sg : BitVec 3} {a : Src} {x off : Word} {c p : BitVec 2} {imm : BitVec 8}
  (ho : Ordinary s) (hd : destReady d s = .ok ())
include ho hd

section
variable (hx : Delivers [a] a.r s x) (hoff : x + imm.signExtend 32 * BitVec.ofNat 32 (leaScale c) = off)
include hx hoff

theorem lea_of_inBounds {q : Place} (hq : segBounds (s.th.seg sg.toNat) s.th.spbase s.th.spsize off.toNat 1 = .ok q) :
    lea i d sg a c imm s = .ok (commitWith [a] d off s) := by
  simp only [lea, enter_scalar_of_ordinary ho, hx i, hd, mOff, hoff, hq, BitVec.ofNat_toNat, BitVec.setWidth_eq, bind, Except.bind]

theorem lea_of_outOfBounds {e : Nat} (he : segBounds (s.th.seg sg.toNat) s.th.spbase s.th.spsize off.toNat 1 = .error e) :
    lea i d sg a c imm s = .error (s.trap tSEG e off) := by
  simp only [lea, enter_scalar_of_ordinary ho, hx i, hd, mOff, hoff, he, BitVec.ofNat_toNat, BitVec.setWidth_eq, bind, Except.bind]

end

/-! ### SEGRD (R233) -/

theorem segrd_of_ready {v : Word} (hv : segPart (s.th.seg sg.toNat) p = v) : segrd i d sg p s = .ok (commitWith [] d v s) := by
  simp only [segrd, enter_memory_of_ordinary ho, hd, hv, bind, Except.bind]

end

section
variable (g : Seg)

theorem segPart_base_low : segPart g 0 = g.base.truncate 32 := BitVec.ofNat_toNat 32 g.base

theorem segPart_base_high : segPart g 1 = (g.base >>> 32).truncate 32 := by
  have hword : segPart g 1 = BitVec.ofNat 32 (g.base.toNat / 2 ^ 32) := rfl
  have hhigh : (g.base >>> 32).toNat = g.base.toNat / 2 ^ 32 := by
    rw [BitVec.toNat_ushiftRight, Nat.shiftRight_eq_div_pow]
  rw [hword, ← hhigh]
  exact BitVec.ofNat_toNat 32 (g.base >>> 32)

theorem segPart_limit : segPart g 2 = g.limit := rfl

theorem segPart_rights : segPart g 3 =
    BitVec.ofNat 32 (b2n g.r + 2 * b2n g.w + 4 * b2n g.x + 8 * b2n g.a + 16 * b2n g.g + 32 * b2n g.k + 64 * b2n g.s) := by
  have hword : segPart g 3 = BitVec.ofNat 32 g.rights := rfl
  simp only [hword, Seg.rights, Nat.mul_comm]

end

/-- Settles O12: LEA by the two outcomes of its check, and SEGRD by the part of the register it names. -/
theorem addressAndSegmentReads : Obligations.AddressAndSegmentReads := by
  unfold Obligations.AddressAndSegmentReads
  intro s d sg a x c imm ho hd g off
  have hoff : x + imm.signExtend 32 * BitVec.ofNat 32 (leaScale c) = off := by rw [ofNat_leaScale]
  exact ⟨fun hx => ⟨fun p hp => congrArg finish (lea_of_inBounds ho hd hx hoff hp), fun e he => congrArg finish (lea_of_outOfBounds ho hd hx hoff he)⟩,
    congrArg finish (segrd_of_ready ho hd (segPart_base_low g)), congrArg finish (segrd_of_ready ho hd (segPart_base_high g)),
    congrArg finish (segrd_of_ready ho hd (segPart_limit g)), congrArg finish (segrd_of_ready ho hd (segPart_rights g))⟩

end Sys2Proof.Machine
end

section
/-! O13: a load that finds its place marks its destination empty, asks the home of the place, and commits; SEGLD asks and blocks. -/

namespace Sys2Proof.Machine
open Sys2Proof

/-! ### A pair of destinations (R229) -/

theorem toNat_pairHi {d : Reg} (heven : d.toNat % 2 = 0) (h0 : d ≠ 0) : (pairHi d).toNat = d.toNat + 1 := by
  simp only [pairHi, h0, if_false]
  bv_omega

/-- The marks of an even register and of its odd neighbour; where the pair is g0 there are none. -/
theorem markEmpty_pair (h : Slot) {d : Reg} (heven : d.toNat % 2 = 0) :
    (h.markEmpty d.toNat).markEmpty (pairHi d).toNat = if d = 0 then h else (h.markEmpty d.toNat).markEmpty (d.toNat + 1) := by
  rcases eq_or_ne d 0 with rfl | h0
  · rfl
  · rw [if_neg h0, toNat_pairHi heven h0]

/-! ### Loads and SEGLD (R230, R233) -/

section
variable {s s1 : State} {d : Reg} {sg g : BitVec 3} {a : Src} {x : Word} {imm : BitVec 8} {p : P0} {i : Instr} {n : Nat} {sx : Bool}

/-- The state in which a load of n bytes from the place `p` has committed: `mark` has emptied what it is to fill. -/
def State.loadIssued (s1 : State) (a : Src) (d : Reg) (p : P0) (mark : Slot → Slot) (n : Nat) (sx : Bool) : State :=
  ((((consume [a] s1).modTh mark).p0Send .rd p.pa p.la n (.load d.toNat n sx) 0).modTh (fun h => h.commit)).touchLocal p.pa

variable (ho : Ordinary s) (hx : Delivers [a] a.r s x)
include ho hx

theorem load_of_place (hd : LaterReady d s) (hn : n ≠ 8) (hp : loadPlace sg.toNat (mOff x imm n) n s = .ok (p, s1)) :
    load i d sg a imm n sx s = .ok (s1.loadIssued a d p (fun h => h.markEmpty d.toNat) n sx) := by
  simp only [load, enter_memory_of_ordinary ho, hx i, hd i, hp, hn, bind, Except.bind, decide_false, Bool.false_and, Bool.false_eq_true, if_false]
  rfl

theorem loadPair_of_place (hd : LaterReady d s) (hhi : LaterReady (pairHi d) s) (heven : d.toNat % 2 = 0)
    (hp : loadPlace sg.toNat (mOff x imm 8) 8 s = .ok (p, s1)) :
    load i d sg a imm 8 sx s = .ok (s1.loadIssued a d p (fun h => (h.markEmpty d.toNat).markEmpty (pairHi d).toNat) 8 sx) := by
  have hmark (h : Slot) : (if d != 0 then (h.markEmpty d.toNat).markEmpty (d.toNat + 1) else h.markEmpty d.toNat) =
      (h.markEmpty d.toNat).markEmpty (pairHi d).toNat := by
    rcases eq_or_ne d 0 with rfl | h0
    · rfl
    · rw [if_pos (bne_iff_ne.mpr h0), toNat_pairHi heven h0]
  simp only [load, enter_memory_of_ordinary ho, hx i, destLaterPair_of_laterReady hd hhi, hp, hmark, bind, Except.bind, decide_true, Bool.true_and, if_true]
  rfl

theorem segLoad_of_place (hp : loadPlace sg.toNat (mOff x imm 16) 16 s = .ok (p, s1)) :
    segLoad i g sg a imm s =
      .ok (((s1.p0Send .rd p.pa p.la 16 (.segld g.toNat sg.toNat a.r.toNat a.m.toNat) 0).block .answer).touchLocal p.pa) := by
  simp only [segLoad, enter_memory_of_ordinary ho, hx i, hp, bind, Except.bind]

end

/-- Settles O13: a load of one register, the one of a pair, and SEGLD, each by its lemma above. -/
theorem loadsIssue : Obligations.LoadsIssue := by
  unfold Obligations.LoadsIssue
  intro s s1 d sg a x imm p ho hx found issued
  refine ⟨fun hd => ?_, fun g hp => congrArg finish (segLoad_of_place ho hx hp)⟩
  have loads (i : Instr) {n : Nat} (sx : Bool) (hn : n ≠ 8) (hp : found n) : finish (load i d sg a imm n sx s) = .next (issued n sx) :=
    congrArg finish (load_of_place ho hx hd hn hp)
  exact ⟨loads _ false (by decide), fun hp => ⟨loads _ true (by decide) hp, loads _ false (by decide) hp⟩,
    fun hp => ⟨loads _ true (by decide) hp, loads _ false (by decide) hp⟩,
    fun hp hhi heven => congrArg finish (loadPair_of_place ho hx hd hhi heven hp)⟩

end Sys2Proof.Machine
end

section
/-! O14: a store that finds its place posts its bytes to the home of the place and commits. -/

namespace Sys2Proof.Machine
open Sys2Proof

section
variable {s s1 : State} {t a : Src} {sg : BitVec 3} {x v hi : Word} {imm : BitVec 8} {p : P0} {i : Instr} {n : Nat}

/-- The state in which a store of the n low bytes of `w` to the place `p` has committed. -/
def State.storePosted (s1 : State) (p : P0) (srcs : List Src) (n : Nat) (w : DWord) : State :=
  (((consume srcs s1).p0Send .wr p.pa p.la n (.store n) w).modTh (fun h => h.commit)).touchLocal p.pa

variable (ho : Ordinary s) (hheld : s1.th.lineHeld (s1.tileEid s1.cur.1) p.pa = false)
include ho hheld

theorem store_of_place {w : DWord} (hn : n ≠ 8) (hv : Delivers [t, a] t.r s v) (hx : Delivers [t, a] a.r s x)
    (hw : BitVec.ofNat 64 (v.toNat % 2 ^ (8 * n)) = w) (hp : p0Place rStore 2 sg.toNat (mOff x imm n) n 0 s = .ok (p, s1)) :
    store i t sg a imm n s = .ok (s1.storePosted p [t, a] n w) := by
  simp only [store, enter_memory_of_ordinary ho, hn, List.singleton_append, hv i, hw, hx i, hp, hheld, bind, Except.bind, Bool.false_eq_true, if_false]
  rfl

theorem storePair_of_place {srcs : List Src} (h0 : t.r ≠ 0) (hsrcs : srcPair t ++ [a] = srcs) (hv : Delivers srcs t.r s v)
    (hh : Delivers srcs (t.r + 1) s hi) (hx : Delivers srcs a.r s x) (hp : p0Place rStore 2 sg.toNat (mOff x imm 8) 8 0 s = .ok (p, s1)) :
    store i t sg a imm 8 s = .ok (s1.storePosted p srcs 8 (hi ++ v)) := by
  simp only [store, enter_memory_of_ordinary ho, readPair, hsrcs, hv i, h0, hh i, hx i, hp, hheld, bind, Except.bind, Bool.false_eq_true, if_true, if_false]
  rfl

end

theorem srcPair_of_pair {t : Src} (h0 : t.r ≠ 0) : srcPair t = [t, ⟨t.r + 1, t.m⟩] := if_neg h0

/-- The n low bits of a word, as the message of a store carries them. -/
theorem ofNat_low_bits (v : Word) (n : Nat) : BitVec.ofNat 64 (v.toNat % 2 ^ n) = (v.truncate n).zeroExtend 64 := by
  rw [← BitVec.toNat_setWidth, BitVec.ofNat_toNat]

/-- Settles O14: the stores of one register by the bytes they keep of it, and STP by its pair. -/
theorem storesIssue : Obligations.StoresIssue := by
  unfold Obligations.StoresIssue
  intro s s1 t a sg x v hi imm p ho found posted
  refine ⟨fun hv hx => ?_, fun h0 hv hh hx ⟨hp, hheld⟩ => ?_⟩
  · have stores (i : Instr) {n : Nat} {w : DWord} (hn : n ≠ 8) (hw : BitVec.ofNat 64 (v.toNat % 2 ^ (8 * n)) = w) :
        found n → finish (store i t sg a imm n s) = .next (posted [t, a] n w) :=
      fun ⟨hp, hheld⟩ => congrArg finish (store_of_place ho hheld hn hv hx hw hp)
    have hword : BitVec.ofNat 64 (v.toNat % 2 ^ (8 * 4)) = v.zeroExtend 64 := by rw [ofNat_low_bits, BitVec.truncate_eq_setWidth, BitVec.setWidth_eq]
    exact ⟨stores _ (by decide) hword, stores _ (by decide) (ofNat_low_bits v 16), stores _ (by decide) (ofNat_low_bits v 8)⟩
  · exact congrArg finish (storePair_of_place ho hheld h0 (by rw [srcPair_of_pair h0]; rfl) hv hh hx hp)

end Sys2Proof.Machine
end

section
/-! O20: MCST and MCSTC read a source that passes every check and send it to the relay; MCSEQ sends its question. -/

namespace Sys2Proof.Machine
open Sys2Proof

section
variable {i : Instr} {s : State} {d : Reg} {sg : BitVec 3} {a b : Src} {x ctl off lo hi : Word} {p : Place} {n ext : Nat}

/-- The state in which an instruction with a pair to be filled later has taken its sources and emptied the pair. -/
def State.pairMarked (s : State) (srcs : List Src) (d : Reg) : State :=
  (consume srcs s).modTh (fun h => (h.markEmpty d.toNat).markEmpty (pairHi d).toNat)

/-- The state in which a multicast store of n bytes `body` at `off` of the group in `ctl` has committed: it is outstanding on path 6, and the
relay is asked to multicast it (R246). -/
def State.multicast (s : State) (srcs : List Src) (d : Reg) (n attr : Nat) (ctl off : Word) (e c : Nat) (body : List Byte) : State :=
  let q := (s.pairMarked srcs d).th.addPend 6 (ctl.toNat % 2 ^ 12) 0 (.mcast d.toNat false)
  (((s.pairMarked srcs d).modTh (fun _ => q.2)).modTh (fun h => h.commit)).send .req .mcreq
    { Msg.zero with src := s.tileEid s.cur.1, dst := s.relay s.cur.1, slot := s.cur.2, asid := s.th.asid, tag := q.1, len := n - 1, attr := BitVec.ofNat 32 attr
                    aux0 := off.zeroExtend 64, aux1 := BitVec.ofNat 64 e, aux2 := BitVec.ofNat 64 c, data := body }

/-- The source of a multicast store passes every check: `p` is the scratchpad place of its `ext` bytes, which no guard and no lock holds
back and whose check bits are good. -/
structure State.McstSource (s : State) (sg : BitVec 3) (x : Word) (ext : Nat) (p : Place) : Prop where
  passes : seg (fun g => g.r && g.s) sg.toNat x.toNat ext s = .ok p
  aligned : p.at_ % 8 = 0
  unguarded : (s.tile s.cur.1).rngCopy s.cur.2 p.at_ ext false = .pass
  unlocked : (s.tile s.cur.1).bankHeld s.cur.2 p.at_ ext = false
  readable : (s.readCheck (s.spPa s.cur.1 p.at_) ext (s.ctxName s.cur.1 s.cur.2)).eccBad (s.spPa s.cur.1 p.at_) ext = false

variable (ho : Ordinary s) (hd : LaterReady d s) (hh : LaterReady (pairHi d) s) (hx : Delivers ([a] ++ srcPair b) a.r s x)
include ho hd hh hx

theorem mcst_of_source {cond : Bool} {pa : Nat} {u : State} (heven : d.toNat % 2 = 0) (hctl : Delivers ([a] ++ srcPair b) b.r s ctl)
    (hoff : Delivers ([a] ++ srcPair b) (b.r + 1) s off) (hlt : ctl.toNat < 2 ^ 17) (hal : off.toNat % 8 = 0)
    (hn : (ctl.toNat / 2 ^ 12 + 1) * 8 = n) (hext : (if cond then n + 16 else n) = ext) (hp : s.McstSource sg x ext p)
    (hpa : s.spPa s.cur.1 p.at_ = pa) (hu : s.readCheck pa ext (s.ctxName s.cur.1 s.cur.2) = u) :
    mcst i cond d sg a b s = .ok (u.multicast ([a] ++ srcPair b) d n (ctl.toNat % 2 ^ 12 + b2n cond * 4096) ctl off
      (if cond then rdLE u.mem pa 8 else 0) (if cond then rdLE u.mem (pa + 8) 8 else 0) (rdBytes u.mem (if cond then pa + 16 else pa) n)) := by
  have hcur : u.cur = s.cur := hu ▸ (sameTiles_readCheck s pa ext _).1
  have hlen : (wfld ctl 12 5 + 1) * 8 = n := by
    simp only [wfld, nfld]
    omega
  have hlow : wfld off 0 3 = 0 := (wfld_low off 3).trans hal
  have hword : BitVec.ofNat 64 off.toNat = off.zeroExtend 64 := BitVec.ofNat_toNat 64 off
  have hgood : u.eccBad pa ext = false := by
    rw [← hu, ← hpa]
    exact hp.readable
  simp only [mcst, enter_system_of_ordinary ho, hx i, hctl i, hoff i, destLaterPair_of_laterReady hd hh, wfld_above hlt, hlow, illValue_of_good,
    hlen, hext, hp.passes, aligned_of_dvd hp.aligned, hp.unguarded, bankFree_of_free hp.unlocked, hpa, hu, hgood, ← markEmpty_pair _ heven, wfld_low,
    hword, bne_self_eq_false, bind, Except.bind, Bool.false_eq_true, if_false]
  simp only [State.multicast, State.pairMarked, hcur]
  rfl

theorem mcseq_of_idle {t : Nat} (heven : d.toNat % 2 = 0) (h0 : d ≠ 0) (hlt : x.toNat < 2 ^ 12) (hpair : readPairZ i ([a] ++ srcPair b) b s = .ok (lo, hi))
    (ht : dwordOf lo hi = t) (hidle : s.th.sequencing = false) :
    let u := s.pairMarked ([a] ++ srcPair b) d
    let q := u.th.addPend noPath x.toNat 0 (.mcseq d.toNat t)
    mcseq i d a b s = .ok ((commitNow (u.modTh (fun _ => q.2))).send .req .mcseqreq
      { Msg.zero with src := s.tileEid s.cur.1, dst := s.relay s.cur.1, slot := s.cur.2, asid := s.th.asid, tag := q.1, attr := x, aux0 := BitVec.ofNat 64 t }) := by
  have hgroup : wfld x 0 12 = x.toNat := (wfld_low x 12).trans (Nat.mod_eq_of_lt hlt)
  simp only [mcseq, State.pairMarked, enter_system_of_ordinary ho, hx i, hpair, destLaterPair_of_laterReady hd hh, wfld_above hlt, illValue_of_good, hidle,
    toNat_pairHi heven h0, hgroup, ht, BitVec.ofNat_toNat, BitVec.setWidth_eq, bne_self_eq_false, bind, Except.bind, Bool.false_eq_true, if_false]

end

/-- Settles O20: MCST and MCSTC are `mcst` of their source, MCSTC with the 16 bytes before it; MCSEQ waits for the value of its pair, 0 for g0. -/
theorem multicastInstructions : Obligations.MulticastInstructions := by
  unfold Obligations.MulticastInstructions
  intro s d sg a b x ctl off ho hd hh heven srcs marked hx
  refine ⟨?_, fun lo hi h0 hlt hlo hhi hidle => ?_⟩
  · intro p hctl hoff hlt hal len usable sent pa
    have source {ext : Nat} : usable ext → s.McstSource sg x ext p :=
      fun ⟨passes, aligned, unguarded, unlocked, readable⟩ => ⟨passes, aligned, unguarded, unlocked, readable⟩
    exact ⟨fun h => congrArg finish (mcst_of_source (cond := false) ho hd hh hx heven hctl hoff hlt hal rfl rfl (source h) rfl rfl),
      fun h => congrArg finish (mcst_of_source (cond := true) ho hd hh hx heven hctl hoff hlt hal rfl rfl (source h) rfl rfl)⟩
  · have hpair (i : Instr) : readPairZ i srcs b s = .ok (lo, hi) := by
      rcases hhi with ⟨hb, rfl, rfl⟩ | ⟨hb, hhi⟩
      · exact readPairZ_of_zero hb hlo
      · exact readPairZ_of_pair hb hlo hhi
    have htarget : dwordOf lo hi = lo.toNat + hi.toNat % 2 ^ 31 * 2 ^ 32 := by rw [dwordOf, wfld_low]
    exact congrArg finish (mcseq_of_idle ho hd hh hx heven h0 hlt (hpair _) htarget hidle)

end Sys2Proof.Machine
end

section
/-! O29: a move of an engine register passes the checks of an engine command and blocks on no predicted path; ERD and ERDH take a half of what
the register reads. -/

namespace Sys2Proof.Machine
open Sys2Proof

/-! ### Words and halves -/

theorem toNat_append_eq_add {m n : Nat} (x : BitVec m) (y : BitVec n) : (x ++ y).toNat = x.toNat * 2 ^ n + y.toNat := by
  rw [BitVec.toNat_append, ← Nat.shiftLeft_add_eq_or_of_lt y.isLt, Nat.shiftLeft_eq]

theorem halfOf_low (v : DWord) : halfOf v.toNat false = v.truncate 32 :=
  BitVec.ofNat_toNat 32 v

theorem halfOf_high (v : DWord) : halfOf v.toNat true = (v >>> 32).truncate 32 := by
  apply BitVec.eq_of_toNat_eq
  simp [halfOf, Nat.shiftRight_eq_div_pow]

/-- EWRH keeps the low half of the register's old value. -/
theorem ofNat_high_low (x : Word) (old : DWord) : BitVec.ofNat 64 (old.toNat % 2 ^ 32 + x.toNat * 2 ^ 32) = x ++ old.truncate 32 := by
  apply BitVec.eq_of_toNat_eq
  rw [toNat_append_eq_add, BitVec.toNat_ofNat, BitVec.truncate_eq_setWidth, BitVec.toNat_setWidth]
  omega

/-- PFX after FMTP is its fields side by side, the scale mode highest (R255). -/
theorem ofNat_formatFields (fa fb fo : BitVec 4) (rnd : BitVec 3) (sc : BitVec 2) :
    BitVec.ofNat 32 (fa.toNat + fb.toNat * 16 + fo.toNat * 256 + rnd.toNat * 4096 + sc.toNat * 32768) =
      ((sc ++ rnd) ++ fo ++ (fb ++ fa)).zeroExtend 32 := by
  apply BitVec.eq_of_toNat_eq
  simp only [BitVec.truncate_eq_setWidth, BitVec.toNat_ofNat, BitVec.toNat_setWidth, toNat_append_eq_add]
  congr 1
  ring

/-! ### The moves -/

section
variable {s : State} {i : Instr} {a : Src} {d : Reg} {x : Word} {eng : BitVec 3} {r : BitVec 8}

theorem cmdEnterNow_of_ready (hr : CmdReady s) (hp : stPP s.th.st = false) : cmdEnterNow i s = .ok () := by
  simp [cmdEnterNow, cmdEnter_of_ready hr hp, hr.shadow_none, bind, Except.bind]

theorem ewrite_of_ready {f : DWord → Word → DWord} (hr : CmdReady s) (hp : stPP s.th.st = false) (hx : Delivers [a] a.r s x) :
    ewrite i a eng r f s = .ok ((consume [a] s).modTh (fun h => (setEreg h eng.toNat r.toNat (f (ereg h eng.toNat r.toNat) x)).commit)) := by
  simp only [ewrite, cmdEnterNow_of_ready hr hp, hx i, bind, Except.bind]

theorem eread_of_ready {hi : Bool} {w : Word} (hr : CmdReady s) (hp : stPP s.th.st = false) (hd : LaterReady d s)
    (hw : halfOf (s.eregRead s.cur.1 s.cur.2 eng.toNat r.toNat).toNat hi = w) :
    eread i d eng r hi s = .ok ((commitNow s).valueLater s.cur.1 s.cur.2 d.toNat false (w.zeroExtend 64) 2) := by
  simp only [eread, cmdEnterNow_of_ready hr hp, hd i, hw, bind, Except.bind]

theorem fmtp_of_ready {fa fb fo : BitVec 4} {rnd : BitVec 3} {sc : BitVec 2} (hr : CmdReady s) :
    fmtp fa fb fo rnd sc s = .ok (s.modTh (fun h => { h.commit with pfx := ((sc ++ rnd) ++ fo ++ (fb ++ fa)).zeroExtend 32, st := h.st ||| 1 })) := by
  obtain ⟨hv, -⟩ := hr
  simp only [fmtp, hv, Bool.false_eq_true, if_false, ofNat_formatFields]
  rfl

end

/-- Settles O29: each move by its lemma above; EWRH and the reads by the halves of the register. -/
theorem engineRegisterMoves : Obligations.EngineRegisterMoves := by
  unfold Obligations.EngineRegisterMoves
  intro s a d eng r x fa fb fo rnd sc hr wrote
  refine ⟨fun hp hx => ⟨congrArg finish (ewrite_of_ready hr hp hx), congrArg finish (ewrite_of_ready hr hp hx), ?_⟩, fun hp hd => ?_,
    congrArg finish (fmtp_of_ready hr)⟩
  · simp only [← ofNat_high_low]
    exact congrArg finish (ewrite_of_ready hr hp hx)
  · exact ⟨congrArg finish (eread_of_ready hr hp hd (halfOf_low _)), congrArg finish (eread_of_ready hr hp hd (halfOf_high _))⟩

end Sys2Proof.Machine
end

section
/-! O30 and O31: a matrix or vector command whose register values and operands pass the checks of R252 is admitted as captured. -/

namespace Sys2Proof.Machine
open Sys2Proof

section
variable {s : State} {i : Instr} {a b : Src} {x y fmt : Word}

/-! ### Orders 1 and 7 to 9 of R252 -/

/-- A command that takes a format code enters with one waiting as well (R180). -/
theorem cmdEnter_format_of_ready (hr : CmdReady s) : cmdEnter i true s = .ok () := by
  obtain ⟨hv, hs, hc, ht, hq⟩ := hr
  have henter : enter i .engine true 0 s = .ok () := by simp [enter, hv, hs, ht]
  have hfree : ((s.tile s.cur.1).mq ++ (s.tile s.cur.1).vq).any (fun c => c.slot == s.cur.2 && c.op != 7 && c.held s) = false := by
    rw [List.any_eq_false]
    exact fun c hc => by simpa using hq c hc
  simp [cmdEnter, henter, hc, hfree, bind, Except.bind]

theorem admitCmd_of_admitted {e : Nat} {srcs : List Src} {c : EngCmd} (hr : CmdReady s) (ha : CmdAdmitted s e c) :
    admitCmd e srcs c s = .ok (s.accepted srcs e c) := by
  obtain ⟨hleave, hpower, hroom⟩ := ha
  simp [admitCmd, hr.shadow_none, State.oddLeave, hleave, hpower, hroom, State.accepted]

/-! ### Matrix commands -/

theorem bankOk_of_owned {mask v : Nat} (h : mask &&& s.th.accmask.toNat = mask) : bankOk mask v s = .ok () := by
  rw [bankOk, if_pos h]

theorem mzero_of_good (hr : CmdReady s) (hp : stPP s.th.st = false) (hx : Delivers [a] a.r s x) (hlt : x.toNat < 16)
    (hown : x &&& s.th.accmask = x) (ha : CmdAdmitted s 0 (s.newCmd opMZERO x 0 0 [] 0 [])) :
    mzero i a s = .ok (s.accepted [a] 0 (s.newCmd opMZERO x 0 0 [] 0 [])) := by
  have hbank : x.toNat % 16 &&& s.th.accmask.toNat = x.toNat % 16 := by
    rw [Nat.mod_eq_of_lt hlt, ← BitVec.toNat_and, hown]
  simp only [mzero, cmdEnter_of_ready hr hp, hx i, bind, Except.bind, wfld_above (n := 4) hlt, bne_self_eq_false, illWord_of_good, bankOk_of_owned hbank]
  exact admitCmd_of_admitted hr ha

theorem mstore_of_good {c : EngCmd} (hr : CmdReady s) (hx : Delivers [a] a.r s x) (hfmt : cmdFmt i (mget 0 s.th.mx 1) s = .ok fmt)
    (hc : s.newCmd opMSTORE x 0 fmt s.th.mx 0 [] = c) (hill : mstoreIll c s.th = false) (hok : mstoreChecks c s = .ok ())
    (ha : CmdAdmitted s 0 { c with wext := c.extC.wext s.th }) : mstore i a s = .ok (s.accepted [a] 0 { c with wext := c.extC.wext s.th }) := by
  simp only [mstore, cmdEnter_format_of_ready hr, hx i, hfmt, hc, hill, hok, bind, Except.bind, illWord_of_good]
  exact admitCmd_of_admitted hr ha

theorem mreduce_of_good {c : EngCmd} (hr : CmdReady s) (hp : stPP s.th.st = false) (hx : Delivers [a] a.r s x)
    (hc : s.newCmd opMREDUCE x 0 0 s.th.mx 0 [] = c) (hbad : mxBad s.th ([0, 3, 4, 14, 15] ++ cwRegs s.th) = false) (hpos : 0 < c.nsl)
    (hle : c.nsl ≤ 4096) (hok : mreduceChecks c s = .ok ()) (ha : CmdAdmitted s 0 { c with energy := cdiv (c.rows * c.cols * c.nsl) 64 }) :
    mreduce i a s = .ok (s.accepted [a] 0 { c with energy := cdiv (c.rows * c.cols * c.nsl) 64 }) := by
  have hill : (mxBad s.th ([0, 3, 4, 14, 15] ++ cwRegs s.th) || c.nsl == 0 || decide (4096 < c.nsl)) = false := by
    rw [hbad, beq_false_of_ne hpos.ne', decide_eq_false (not_lt.mpr hle)]
    rfl
  simp only [mreduce, cmdEnter_of_ready hr hp, hx i, hc, hill, hok, bind, Except.bind, illWord_of_good]
  exact admitCmd_of_admitted hr ha

theorem mma_of_good {c : EngCmd} (hr : CmdReady s) (hx : Delivers [a, b] a.r s x) (hy : Delivers [a, b] b.r s y) (hill : mmaIll s.th fmt = false)
    (hfmt : cmdFmt i (mget 0 s.th.mx 1) s = .ok fmt) (hc : s.newCmd opMMA x y fmt s.th.mx 0 [] = c) (hok : mmaChecks c s = .ok ())
    (ha : CmdAdmitted s 0 { c with energy := mmaEnergy c.rows c.cols c.kdim (fmFA fmt) (fmFB fmt) }) :
    mma i a b s = .ok (s.accepted [a, b] 0 { c with energy := mmaEnergy c.rows c.cols c.kdim (fmFA fmt) (fmFB fmt) }) := by
  simp only [mma, cmdEnter_format_of_ready hr, hx i, hy i, hfmt, hill, hc, hok, bind, Except.bind, illWord_of_good]
  exact admitCmd_of_admitted hr ha

theorem mmag_of_good {c : EngCmd} {ms : List (Nat × Nat)} (hr : CmdReady s) (hx : Delivers [a, b] a.r s x) (hy : Delivers [a, b] b.r s y)
    (hill : mmaIll s.th fmt = false) (hms : gangMembers s.cur.1 (s.th.mxn 12) = ms) (hc : { s.newCmd opMMAG x y fmt s.th.mx 0 [] with members := ms } = c)
    (hfmt : cmdFmt i (mget 0 s.th.mx 1) s = .ok fmt) (hbad : mxBad s.th [12] = false) (htwo : 2 ≤ ms.length) (hlead : s.cur.1 ∈ ms.map (·.1))
    (hok : mmagChecks c s = .ok ()) (ha : CmdAdmitted s 0 { c with energy := mmaEnergy c.rows c.cols c.kdim (fmFA fmt) (fmFB fmt) * ms.length }) :
    mmag i a b s = .ok (s.accepted [a, b] 0 { c with energy := mmaEnergy c.rows c.cols c.kdim (fmFA fmt) (fmFB fmt) * ms.length }) := by
  have hgang : (mmaIll s.th fmt || mxBad s.th [12] || decide (ms.length < 2) || !(ms.map (·.1)).contains s.cur.1) = false := by
    rw [hill, hbad, decide_eq_false (by omega), List.contains_iff_mem.mpr hlead]
    rfl
  subst hc
  simp only [mmag, cmdEnter_format_of_ready hr, hx i, hy i, hfmt, hms, hgang, hok, bind, Except.bind, illWord_of_good]
  exact admitCmd_of_admitted hr ha

/-! ### Vector commands -/

/-- A VOP reads its first operand where its sources name it, and else takes 0. -/
theorem vecCmd_of_good {o : Nat} {srcs : List Src} {z : Word} {c : EngCmd} (hr : CmdReady s)
    (hx : srcs.contains a = true ∧ Delivers srcs a.r s x ∨ srcs.contains a = false ∧ x = 0) (hz : Delivers srcs b.r s z)
    (hfmt : cmdFmt i (mget 0 s.th.vx 1) s = .ok fmt) (hill : vopIll s.th o fmt = false) (hc : s.newCmd (256 + o) x z fmt s.th.vx 0 [] = c)
    (hok : vecChecks c s = .ok ()) (ha : CmdAdmitted s 1 { c with energy := vopEnergy o c.total, wext := c.vextZ.wext s.th }) :
    vecCmd i o srcs a b s = .ok (s.accepted srcs 1 { c with energy := vopEnergy o c.total, wext := c.vextZ.wext s.th }) := by
  rcases hx with ⟨hin, hx⟩ | ⟨hout, rfl⟩
  · simp only [vecCmd, cmdEnter_format_of_ready hr, hin, if_true, hx i, hz i, hfmt, hill, hc, hok, bind, Except.bind, illWord_of_good]
    exact admitCmd_of_admitted hr ha
  · simp only [vecCmd, cmdEnter_format_of_ready hr, hout, Bool.false_eq_true, if_false, hz i, hfmt, hill, hc, hok, bind, Except.bind, illWord_of_good]
    exact admitCmd_of_admitted hr ha

end

/-- Settles O30: each command by its lemma above. -/
theorem matrixCommandsIssue : Obligations.MatrixCommandsIssue := by
  unfold Obligations.MatrixCommandsIssue
  intro s a b x y fmt hr put
  refine ⟨fun hx => ⟨?_, ?_, ?_⟩, fun hx hy hill => ⟨?_, ?_⟩⟩
  · exact fun hp hlt hown ha => congrArg finish (mzero_of_good hr hp hx hlt hown ha)
  · exact fun hfmt hill hok ha => congrArg finish (mstore_of_good hr hx hfmt rfl hill hok ha)
  · exact fun hp hbad hpos hle hok ha => congrArg finish (mreduce_of_good hr hp hx rfl hbad hpos hle hok ha)
  · exact fun hfmt hok ha => congrArg finish (mma_of_good hr hx hy hill hfmt rfl hok ha)
  · exact fun hfmt hbad htwo hlead hok ha => congrArg finish (mmag_of_good hr hx hy hill rfl rfl hfmt hbad htwo hlead hok ha)

/-- Settles O31: every VOP is `vecCmd` with its code; VFILL and VIOTA name their destination's offset alone. -/
theorem vectorCommandsIssue : Obligations.VectorCommandsIssue := by
  unfold Obligations.VectorCommandsIssue
  intro s a b x z hr put
  refine ⟨fun hx hz => ?_, fun hb hz => ?_⟩
  · have two {i : Instr} {op : Nat} (he : exec i s = finish (vecCmd i op [a, b] a b s)) : put i op [a, b] x :=
      fun fmt hfmt hill hok ha => he.trans (congrArg finish (vecCmd_of_good hr (.inl ⟨by simp, hx⟩) hz hfmt hill rfl hok ha))
    exact ⟨two rfl, two rfl, two rfl, two rfl, two rfl, two rfl, two rfl, two rfl, two rfl, two rfl, two rfl, two rfl, two rfl, two rfl, two rfl,
      two rfl, two rfl, two rfl, two rfl, two rfl, two rfl, two rfl, two rfl, two rfl, two rfl, two rfl, two rfl, two rfl, two rfl, two rfl⟩
  · have hnone : [b].contains ⟨0, 3⟩ = false := by
      have hne : (⟨0, 3⟩ : Src) ≠ b := fun h => hb (h ▸ rfl)
      simpa using hne
    have one {i : Instr} {op : Nat} (he : exec i s = finish (vecCmd i op [b] ⟨0, 3⟩ b s)) : put i op [b] 0 :=
      fun fmt hfmt hill hok ha => he.trans (congrArg finish (vecCmd_of_good hr (.inr ⟨hnone, rfl⟩) hz hfmt hill rfl hok ha))
    exact ⟨one rfl, one rfl⟩

end Sys2Proof.Machine
end

section
/-! O33: QSYNC, QCANCEL and NPOLL act in the cycle they commit; MQPUT, XCOPY and NPOST read a record first, which changes neither a tile nor the
package's number, and take effect on the state after their commit. -/

namespace Sys2Proof.Machine
open Sys2Proof

/-! ### The package's number stays -/

section
variable {s t : State}

theorem pkg_msix (s : State) (vd vec : Nat) : (s.msix vd vec).pkg = s.pkg := by
  unfold State.msix
  split <;> rfl

theorem pkg_reportUc (s : State) (vd : Nat) : (s.reportUc vd).pkg = s.pkg := by
  unfold State.reportUc
  extract_lets up
  rw [pkg_msix, pkg_msix]

theorem pkg_logError (s : State) (vd bank : Nat) (uc : Bool) (cause addr ctx : Nat) : (s.logError vd bank uc cause addr ctx).pkg = s.pkg := by
  unfold State.logError
  extract_lets D T T1 s1
  split
  · exact pkg_reportUc s1 vd
  · rfl

theorem pkg_transmit (s : State) (key vc : Nat) (cells : List Cell) : (s.transmit key vc cells).pkg = s.pkg := by
  unfold State.transmit
  extract_lets L seqs s1
  split
  · unfold State.armReplay
    extract_lets s2
    split <;> rfl
  · rfl

theorem pkg_drainSome (f key : Nat) (s : State) : (s.drainSome f key).pkg = s.pkg := by
  induction f generalizing s with
  | zero => rfl
  | succ f ih =>
    unfold State.drainSome
    split
    · rfl
    · split
      · rfl
      · rw [ih, pkg_transmit]

theorem pkg_toLink (s : State) (key : Nat) (i : Instr) (m : Msg) : (s.toLink key i m).pkg = s.pkg := by
  unfold State.toLink State.drainLink
  split
  · rw [pkg_drainSome]
  · rfl

theorem pkg_of_pass {vd : Nat} {transit : Bool} {i : Instr} {m : Msg} (h : s.pass vd transit i m = .ok t) : t.pkg = s.pkg := by
  unfold State.pass at h
  split at h <;> cases h
  · rfl
  · exact pkg_toLink ..

theorem pkg_sendFrom (s : State) (vd : Nat) (transit : Bool) (vc : Vc) (i : Instr) (m : Msg) : (s.sendFrom vd transit vc i m).pkg = s.pkg := by
  unfold State.sendFrom
  split
  next hp => exact pkg_of_pass hp
  next =>
    split
    · split
      next hp =>
        split at hp
        · exact pkg_of_pass hp
        · exact pkg_of_pass hp
      next => exact pkg_logError ..
    · exact pkg_logError ..

theorem pkg_wrackTo (s : State) (m : Msg) : (s.wrackTo m).pkg = s.pkg := by
  unfold State.wrackTo
  split
  · rfl
  · exact pkg_sendFrom ..

theorem pkg_notifySlot (s : State) (t k : Nat) : (s.notifySlot t k).pkg = s.pkg := by
  unfold State.notifySlot State.emitOnce
  split
  · split
    · rfl
    · split <;> rfl
  · rfl

theorem pkg_notify (s : State) (t k : Nat) : (s.notify t k).pkg = s.pkg := by
  unfold State.notify
  split
  · split
    · exact pkg_notifySlot ..
    · rfl
  · exact pkg_notifySlot ..

theorem pkg_wakeReader (s : State) (t k r : Nat) : (s.wakeReader t k r).pkg = s.pkg := by
  unfold State.wakeReader State.wakeIf
  extract_lets h
  split
  · split <;> rfl
  · rfl

theorem pkg_fifoPush (s : State) (t ch : Nat) (m : Msg) : (s.fifoPush t ch m).pkg = s.pkg :=
  (pkg_notify ..).trans (pkg_wakeReader ..)

theorem pkg_unholdTile (s : State) (t : Nat) : (s.unholdTile t).pkg = s.pkg :=
  rfl

theorem pkg_fifoPop (s : State) (t ch : Nat) : (s.fifoPop t ch).pkg = s.pkg := by
  unfold State.fifoPop
  split
  · rfl
  · extract_lets s1
    have hs1 : s1.pkg = s.pkg := (pkg_wrackTo ..).trans (State.modTile_pkg ..)
    clear_value s1
    split
    · exact hs1
    · rw [pkg_unholdTile, pkg_fifoPush]
      exact hs1

theorem pkg_consume (srcs : List Src) (s : State) : (consume srcs s).pkg = s.pkg := by
  refine List.foldlRecOn (motive := fun u : State => u.pkg = s.pkg) _ _ rfl fun u hu r _ => ?_
  split
  · exact (pkg_fifoPop ..).trans hu
  · split <;> exact hu

theorem pkg_readCheck (s : State) (pa n ctx : Nat) : (s.readCheck pa n ctx).pkg = s.pkg := by
  unfold State.readCheck
  extract_lets s1
  have hs1 : s1.pkg = s.pkg := (sameHolders_scrub pa n ctx).pkg
  split
  · exact (pkg_logError ..).trans hs1
  · exact hs1

/-! ### A record read at issue -/

/-- What reading a record at issue leaves alone: the tiles, the turn, and the package's number. -/
def SameIssuer (s t : State) : Prop := SameTiles s t ∧ t.pkg = s.pkg

theorem SameIssuer.cur (h : SameIssuer s t) : t.cur = s.cur := by
  obtain ⟨⟨hcur, -⟩, -⟩ := h
  exact hcur

theorem SameIssuer.th (h : SameIssuer s t) : t.th = s.th := by
  obtain ⟨htiles, -⟩ := h
  exact htiles.th

theorem SameIssuer.ctxName (h : SameIssuer s t) (u k : Nat) : t.ctxName u k = s.ctxName u k := by
  obtain ⟨-, hpkg⟩ := h
  simp only [State.ctxName, hpkg]

theorem sameIssuer_of_recordPlace {sn off n : Nat} {bs : List Byte} (h : recordPlace sn off n s = .ok (bs, t)) : SameIssuer s t := by
  have hends : Ends (fun _ => True) (fun r : List Byte × State => SameIssuer s r.2) (recordPlace sn off n s) := by
    unfold recordPlace
    extract_lets g
    refine .ite (.error trivial) (.seq (ends_of_ok fun _ _ => trivial) fun p => .seq (ends_of_ok fun _ _ => trivial) fun _ => ?_)
    split
    · exact .error trivial
    · exact .error trivial
    · refine .seq (ends_of_ok fun _ _ => trivial) fun _ => ?_
      extract_lets pa s1
      exact .ite (.error trivial) (.ite (.error trivial) (.ok ⟨sameTiles_readCheck .., pkg_readCheck ..⟩))
  exact Ends.of_ok (P := fun r : List Byte × State => SameIssuer s r.2) h hends

end

/-! ### QSYNC, QCANCEL and NPOLL -/

section
variable {s : State} {i : Instr} {a : Src} {d : Reg} {x : Word}

theorem syncWaits_iff (t k : Nat) : s.syncWaits t k x.toNat = true ↔
    (x.getLsbD 0 = true ∧ ∃ c, c ∈ (s.tile t).mq ∧ c.slot = k ∧ c.op ≠ opSHARE) ∨ (x.getLsbD 1 = true ∧ ∃ c, c ∈ (s.tile t).vq ∧ c.slot = k ∧ c.op ≠ opSHARE) ∨
      (x.getLsbD 2 = true ∧ ∃ c, c ∈ ((s.tile t).ladle 0).active.toList ++ ((s.tile t).ladle 0).waiting ∧ c.slot = k) ∨
      (x.getLsbD 3 = true ∧ ∃ c, c ∈ ((s.tile t).ladle 1).active.toList ++ ((s.tile t).ladle 1).waiting ∧ c.slot = k) := by
  simp only [State.syncWaits, Tile.ladle, BitVec.testBit_toNat, Bool.or_eq_true, Bool.and_eq_true, List.any_eq_true, beq_iff_eq, bne_iff_ne, or_assoc]

variable (hr : CmdReady s) (hp : stPP s.th.st = false) (hx : Delivers [a] a.r s x)
include hr hp hx

theorem qsync_of_waiting (hlt : x.toNat < 32) (hw : s.syncWaits s.cur.1 s.cur.2 x.toNat = true) : qsync i a s = .error (s.block .fence) := by
  simp [qsync, cmdEnter_of_ready hr hp, hx i, bind, Except.bind, wfld_above (n := 5) hlt, illWord_of_good, hr.shadow_none, hw]

theorem qsync_of_idle (hlt : x.toNat < 32) (hw : s.syncWaits s.cur.1 s.cur.2 x.toNat = false) :
    qsync i a s = .ok (commitNow ((consume [a] s).syncClear s.cur.1 s.cur.2 x.toNat)) := by
  simp [qsync, cmdEnter_of_ready hr hp, hx i, bind, Except.bind, wfld_above (n := 5) hlt, illWord_of_good, hr.shadow_none, hw]

theorem qcancel_of_ready (hlt : x.toNat < 4) :
    qcancel i a s = .ok (((consume [a] s).modTh (fun h => h.commit)).cancelQueues s.cur.1 s.cur.2 x.toNat) := by
  simp only [qcancel, cmdEnter_of_ready hr hp, hx i, bind, Except.bind, wfld_above (n := 2) hlt, illWord_of_good, bne_self_eq_false]
  exact submit_of_accepted hr.shadow_none (by rw [cur_modTh_consume])

theorem npoll_of_ready (hlt : x.toNat < 2048) (hd : LaterReady d s) (hh : LaterReady (pairHi d) s) :
    npoll i a d s = .ok (((consume [a] s).modTh (fun h => h.commit)).sampleCounter s.cur.1 s.cur.2 d.toNat (x.toNat % 1024) (x.getLsbD 10)) := by
  simp [npoll, cmdEnter_of_ready hr hp, hx i, destLaterPair_of_laterReady hd hh, bind, Except.bind, wfld_low, wfld_above (n := 11) hlt, illWord_of_good,
    hr.shadow_none, commitNow, wbit]

end

/-! ### Commands with a record -/

/-- The record an MQPUT captures, before its queue gives it a number and what it waits for (R266). -/
def State.taskRec (s : State) (bs : List Byte) : TaskRec :=
  { id := 0, wait := [], bad := 0, ctx := s.ctxName s.cur.1 s.cur.2, crew := s.th.crewid, asid := s.th.asid, st := s.th.st, rngs := s.th.rngs, bytes := bs }

/-- The watches a new record needs: d + 2 for each dependence d that names an aligned word. -/
def TaskRec.unwatched (r : TaskRec) : List Nat := ((List.range 2).filter (fun d => r.dla d != 0 && r.dla d % 8 == 0)).map (· + 2)

theorem TaskRec.mem_unwatched (r : TaskRec) (j : Nat) : j ∈ r.unwatched ↔ (j = 2 ∨ j = 3) ∧ r.dla (j - 2) ≠ 0 ∧ r.dla (j - 2) % 8 = 0 := by
  simp only [TaskRec.unwatched, List.mem_map, List.mem_filter, List.mem_range, Bool.and_eq_true, bne_iff_ne, beq_iff_eq]
  constructor
  · rintro ⟨d, ⟨hd, hdep⟩, rfl⟩
    exact ⟨by omega, hdep⟩
  · rintro ⟨hj, hdep⟩
    exact ⟨j - 2, ⟨by omega, hdep⟩, by omega⟩

section
variable {u : State} {t k : Nat}

theorem taskAccept_of_room {r : TaskRec} (h : ((u.die (vdOf t)).tasks.filter (fun q => q.1 == clusterOf t)).length < 64) :
    ∃ id, u.taskAccept t k r = some (((u.modSlot t k (fun h => { h with qx := mset 0 h.qx 2 0 })).modDie (vdOf t)
      (fun D => { D with tasks := D.tasks ++ [(clusterOf t, { r with id := id, wait := r.unwatched })] })).pokeTasks t) := by
  rw [State.taskAccept, if_neg (not_le.mpr h)]
  exact ⟨_, rfl⟩

theorem copyAccept_of_room {vd ch : Nat} {c : Copy} (h : ((u.die vd).copyq.filter (fun q => q.1 == ch)).length < 64) :
    u.copyAccept vd ch c = some (((u.modSlot (ctxTile c.ctx) c.slot (fun h => { h with qx := mset 0 h.qx 2 0 })).modDie vd
      (fun D => { D with copyq := D.copyq ++ [(ch, c)] })).emitOnce (copyEvent vd ch)) := by
  rw [State.copyAccept, if_neg (not_le.mpr h)]

theorem postAccept_of_configured {q : Nat} {bs : List Byte} (hroom : u.nqBusy q < 256) (hvalid : u.nqV q = true) (hasid : u.nqAsid q = (u.slot t k).asid)
    (hgood : wrMalformed (leNat bs) = false) (hpeer : wrPidx (leNat bs) < u.nqPeers q) :
    u.postAccept t k q bs = some ((u.modSlot t k (fun h => { h with qx := mset 0 h.qx 2 0 })).netPost q bs (u.ctxName t k)) := by
  simp [State.postAccept, hroom, hvalid, hasid, hgood, hpeer]

end

/-- A command off a predicted path that its engine accepts after the commit, with or without draws. -/
theorem submit_of_some {s t : State} {draws : Bool} {srcs : List Src} {d : Deferred} {go : State → Option State} (hs : s.th.shadow = none)
    (hgo : go ((consume srcs s).modTh (fun h => { h.commit with rngs := if draws then xorshift h.rngs else h.rngs })) = some t) :
    submit draws srcs d go s = .ok t := by
  simp only [submit, hs, hgo, Option.isSome_none, Bool.false_eq_true, if_false]

section
variable {s s1 t : State} {i : Instr} {a b : Src} {x y : Word} {bs : List Byte}
variable (hr : CmdReady s) (hp : stPP s.th.st = false) (hx : Delivers [a, b] a.r s x) (hy : Delivers [a, b] b.r s y)
include hr hp hx hy

theorem mqput_of_record (hlt : y.toNat < 8) (hrec : recordPlace y.toNat x.toNat 64 s = .ok (bs, s1))
    (hgo : ((consume [a, b] s1).modTh (fun h => { h.commit with rngs := if (s1.taskRec bs).fld 281 3 = 5 then xorshift h.rngs else h.rngs })).taskAccept
      s.cur.1 s.cur.2 (s1.taskRec bs) = some t) : mqput i a b s = .ok t := by
  have hsame := sameIssuer_of_recordPlace hrec
  have hsn : wfld y 0 3 = y.toNat := (wfld_low y 3).trans (Nat.mod_eq_of_lt hlt)
  simp only [mqput, cmdEnter_of_ready hr hp, hx i, hy i, bind, Except.bind, wfld_above (n := 3) hlt, illWord_of_good, bne_self_eq_false, hsn, hrec]
  refine submit_of_some (hsame.th ▸ hr.shadow_none) ?_
  rw [cur_modTh_consume, hsame.cur]
  have hcur := hsame.cur
  simp only [State.taskRec, hcur] at hgo
  simpa only [decide_eq_true_eq, hcur] using hgo

theorem xcopy_of_record (hlt : y.toNat < 8) (hrec : recordPlace y.toNat x.toNat 256 s = .ok (bs, s1)) (hill : xcopyIll (leNat bs) = false)
    {c : Copy} (hc : s1.newCopy (xcopyRegs (leNat bs)) 0 = c) (hok : copyChecks c 5 false s1 = .ok ())
    (hgo : ((consume [a, b] s1).modTh (fun h => h.commit)).copyAccept (xcopyDie (leNat bs)) (xcopyChan (leNat bs)) c = some t) : xcopy i a b s = .ok t := by
  have hsame := sameIssuer_of_recordPlace hrec
  have hsn : wfld y 0 3 = y.toNat := (wfld_low y 3).trans (Nat.mod_eq_of_lt hlt)
  simp only [xcopy, cmdEnter_of_ready hr hp, hx i, hy i, bind, Except.bind, wfld_above (n := 3) hlt, illWord_of_good, bne_self_eq_false, hsn, hrec, hill, hc, hok]
  exact submit_of_accepted (hsame.th ▸ hr.shadow_none) hgo

theorem npost_of_record (hlt : y.toNat < 2 ^ 13) (hrec : recordPlace (y.toNat / 1024) x.toNat 64 s = .ok (bs, s1))
    (hgo : ((consume [a, b] s1).modTh (fun h => h.commit)).postAccept s.cur.1 s.cur.2 (y.toNat % 1024) bs = some t) : npost i a b s = .ok t := by
  have hsame := sameIssuer_of_recordPlace hrec
  have hsn : wfld y 10 3 = y.toNat / 1024 := by
    simp only [wfld, nfld]
    omega
  simp only [npost, cmdEnter_of_ready hr hp, hx i, hy i, bind, Except.bind, wfld_above hlt, illWord_of_good, bne_self_eq_false, hsn, hrec, wfld_low]
  refine submit_of_accepted (hsame.th ▸ hr.shadow_none) ?_
  rwa [cur_modTh_consume, hsame.cur]

end

/-- Settles O33: QSYNC by whether a command it names is left, the others by their lemmas above. -/
theorem queueControlInstructions : Obligations.QueueControlInstructions := by
  unfold Obligations.QueueControlInstructions
  intro s a b d x y bs hr hp t k vd cl taken done
  refine ⟨fun hx => ⟨?_, fun hlt => ?_, fun hlt hd hh => congrArg finish (npoll_of_ready hr hp hx hlt hd hh)⟩,
    fun s1 hx hy => ⟨fun hlt hrec hroom => ?_, ?_, ?_⟩⟩
  · intro own lad busy hlt
    have hwaits : s.syncWaits t k x.toNat = true ↔ busy := syncWaits_iff t k
    refine ⟨fun hb => congrArg finish (qsync_of_waiting hr hp hx hlt (hwaits.mpr hb)), fun hb => ?_⟩
    exact congrArg finish (qsync_of_idle hr hp hx hlt (Bool.not_eq_true _ ▸ mt hwaits.mp hb))
  · exact congrArg finish (qcancel_of_ready hr hp hx hlt)
  · have hsame := sameIssuer_of_recordPlace hrec
    obtain ⟨id, hgo⟩ := taskAccept_of_room (u := (consume [a, b] s1).modTh (fun h =>
      { h.commit with rngs := if (s1.taskRec bs).fld 281 3 = 5 then xorshift h.rngs else h.rngs })) (t := t) (k := k) (r := s1.taskRec bs) hroom
    refine ⟨{ s1.taskRec bs with id := id, wait := (s1.taskRec bs).unwatched }, rfl, ?_, ?_, ?_, ?_, ?_, rfl, (s1.taskRec bs).mem_unwatched,
      congrArg finish (mqput_of_record hr hp hx hy hlt hrec hgo)⟩
    · exact (congrArg (fun p : Nat × Nat => s1.ctxName p.1 p.2) hsame.cur).trans (hsame.ctxName t k)
    · exact congrArg Slot.crewid hsame.th
    · exact congrArg Slot.asid hsame.th
    · exact congrArg Slot.st hsame.th
    · exact congrArg Slot.rngs hsame.th
  · intro D c hlt hrec hill hok hroom
    have hsame := sameIssuer_of_recordPlace hrec
    have hslot : c.slot = k := congrArg Prod.snd hsame.cur
    have hgo := copyAccept_of_room (u := taken [a, b] s1) (c := c) hroom
    rw [hslot] at hgo
    exact congrArg finish (xcopy_of_record hr hp hx hy hlt hrec hill rfl hok hgo)
  · intro q u hlt hrec hroom hvalid hasid hgood hpeer
    have hsame := sameIssuer_of_recordPlace hrec
    have hname : (taken [a, b] s1).ctxName t k = s.ctxName t k := by
      have hpkg : (taken [a, b] s1).pkg = s1.pkg := pkg_consume [a, b] s1
      rw [← hsame.ctxName t k, State.ctxName, State.ctxName, hpkg]
    have hthread : (u.slot t k).asid = ((taken [a, b] s1).slot t k).asid := by
      simp only [u, done, State.slot_modSlot]
    have hgo := postAccept_of_configured (u := taken [a, b] s1) (t := t) (k := k) hroom hvalid (hasid.trans hthread) hgood hpeer
    rw [hname] at hgo
    exact congrArg finish (npost_of_record hr hp hx hy hlt hrec hgo)

end Sys2Proof.Machine
end

section
/-! O44: the events of the engines. A command's step and its end each go through the checks of R276 and R254 to one result; the events of tasks,
power, clocks and heat are the branch of their function that their conditions name. -/

namespace Sys2Proof.Machine
open Sys2Proof

section
variable {s u : State} {t e : Nat} {c : EngCmd}

/-! ### Steps of a command (R276, R277) -/

/-- The head command of an engine takes its next step: neither it, its engine, its slot nor its gang is stopped, and it asks for no power. -/
structure EngCmd.Steps (c : EngCmd) (s : State) (t e : Nat) : Prop where
  head : ∃ rest, (s.tile t).engq e = c :: rest
  going : c.stopped = 0
  command : c.op ≠ opSHARE
  good : c.err = 0
  powered : (s.die (vdOf t)).stopped = false
  thawed : (s.slot t c.slot).frozen = false
  left : c.step < c.steps e
  kept : c.cancelled = false
  gang : s.gangReady t c = true
  unasking : c.ask = false

theorem engineStep_of_engine (h : s.arg.k < 2) : engineStep s = cmdStep s.arg.t s.arg.k s.arg.ok s :=
  if_pos h

theorem cmdStep_of_step {c1 : EngCmd} {y : Tally} (h : c.Steps s t e)
    (hstep : (if e = 0 then matrixStep c t (s.unask t e c) else vectorStep c t (s.unask t e c)) = .ok (c1, u, y)) {c2 : EngCmd}
    (hc2 : { c1 with step := c.step + 1, replayed := false, ask := false, done := decide (c.steps e ≤ c.step + 1) } = c2) :
    cmdStep t e true s = ((u.tally t c y).modCmd t e 0 (fun _ => c2)).emitOnce (evTK (if c2.steps e ≤ c2.step then .engineCommandEnd else .engineStep) t e) := by
  obtain ⟨⟨rest, hhead⟩, hgoing, hcommand, hgood, hpowered, hthawed, hleft, hkept, hgang, hask⟩ := h
  subst hc2
  simp [cmdStep, hhead, hgoing, hcommand, hgood, hpowered, hthawed, hleft, hkept, hgang, hask, hstep]

theorem cmdStep_of_mismatch (h : c.Steps s t e) (hchecked : c.checked = true) : cmdStep t e false s = (s.unask t e c).mismatch t e c := by
  obtain ⟨⟨rest, hhead⟩, hgoing, hcommand, hgood, hpowered, hthawed, hleft, hkept, hgang, hask⟩ := h
  simp [cmdStep, hhead, hgoing, hcommand, hgood, hpowered, hthawed, hleft, hkept, hgang, hask, hchecked]

/-- A first mismatch is recorded, and the step made again. -/
theorem mismatch_of_first (h : c.replayed = false) : s.mismatch t e c =
    ((s.logError (vdOf t) (4 + quadrant t) false cCHECKSUM 0 c.ctx).modCmd t e 0 (fun c => { c with replayed := true })).emit (evTK .engineStep t e) := by
  simp only [State.mismatch, h, Bool.not_false, if_true]

/-! ### The end of a command (R254) -/

/-- A head command without steps left is the first of its queue that is over. -/
theorem find_over_head {rest : List EngCmd} (hcommand : c.op ≠ opSHARE) (hgoing : c.stopped = 0) (hover : c.steps e ≤ c.step) :
    ((List.range (c :: rest).length).zip (c :: rest)).find? (fun p => p.2.over e p.1) = some (0, c) := by
  rw [List.length_cons, List.range_succ_eq_map, List.zip_cons_cons, List.find?_cons_of_pos]
  simp [EngCmd.over, hcommand, hgoing, hover]

theorem engineCommandEnd_of_posted {rest : List EngCmd} (hhead : (s.tile s.arg.t).engq s.arg.k = c :: rest) (hcommand : c.op ≠ opSHARE)
    (hgoing : c.stopped = 0) (hover : c.steps s.arg.k ≤ c.step) (hidle : (c.who s.arg.t s.arg.k).busy s = false)
    (hposts : endPosts c s.arg.t s.arg.k s = .ok (0, u)) {v : State} (hv : u.dropCmd s.arg.t s.arg.k 0 c = v) {q : List EngCmd}
    (hq : (v.tile s.arg.t).engq s.arg.k = q) :
    engineCommandEnd s = if ((List.range q.length).zip q).any (fun p => p.2.over s.arg.k p.1) then v.emitOnce (evTK .engineCommandEnd s.arg.t s.arg.k) else v := by
  simp only [engineCommandEnd, hhead, find_over_head hcommand hgoing hover, hidle, hposts, Bool.false_eq_true, if_false, if_true, hv, hq]

/-! ### Values on their way (R163) -/

theorem valueArrived_of_producing {k tag tag' path pa la rd : Nat} {pair : Bool} {v : DWord}
    (hpend : (s.slot t k).getPend tag = some ⟨tag', path, pa, la, .value rd pair v⟩) (hprod : (s.slot t k).prod.getLsbD rd = true) {w : State}
    (hw : s.modSlot t k (fun h => h.delPend tag) = w) :
    s.valueArrived t k tag = if pair then w.fillPair t k rd (BitVec.ofNat 32 v.toNat) (BitVec.ofNat 32 (v.toNat / 2 ^ 32)) false
      else w.fillReg t k rd (BitVec.ofNat 32 v.toNat) false := by
  simp only [State.valueArrived, hpend, wbit, hprod, hw, halfOf, Bool.not_true, Bool.false_eq_true, if_false, if_true]

theorem engineStep_of_value (h : s.arg.k = 8) : engineStep s = s.valueArrived s.arg.t s.arg.n s.arg.v := by
  simp [engineStep, h]

/-! ### Tile tasks (R267) -/

theorem taskRecordStart_of_place {cl tl bank : Nat} {r : TaskRec} (hu : s.taskWatches s.arg.t s.arg.k = u) (hrun : (u.die s.arg.t).stopped = false)
    (hfind : (u.die s.arg.t).tasks.find? (fun q => q.1 == s.arg.k && q.2.wait.isEmpty) = some (cl, r)) (hgood : r.bad = 0) (hform : r.malformed = false)
    (hplace : u.taskTile s.arg.t s.arg.k = some (tl, bank)) {v : State}
    (hv : u.modDie s.arg.t (fun D => { D with tasks := D.tasks.filter (fun q => !(q.1 == s.arg.k && q.2.id == r.id)) }) = v) :
    taskRecordStart s = ((((mzeroStep (2 ^ bank) tl v).modTile tl (fun T => { T with mq := T.mq ++ [r.cmd bank (v.needsLeave tl)] })).kick tl 0).engFreed
      (ctxTile r.ctx)).pokeTasks tl := by
  simp only [taskRecordStart, hu, hrun, hfind, hgood, hform, hplace, hv, bne_self_eq_false, Bool.false_eq_true, if_false]

/-! ### Power and clocks (R278, R345) -/

theorem powerGrant_of_leave {vd k n : Nat} {rest : List (Nat × Nat × Nat)} {D : Die} (hD : s.die s.arg.t = D) (hhead : D.powerq = (vd, k, n) :: rest)
    (hleave : D.pleave.toNat + n ≤ D.pcap.toNat ∧ D.pwr.toNat < 1000 * D.plimit.toNat ∨ D.pleave = 0) {v : State}
    (hv : (s.setDie s.arg.t { D with powerq := rest, pleave := D.pleave + BitVec.ofNat 32 n, grants := D.grants + 1 }).leaveTo vd k n = v) :
    powerGrant s = if rest = [] then v else v.emitOnce (evT .powerGrant s.arg.t) := by
  have hgrant : ((decide (D.pleave.toNat + n ≤ D.pcap.toNat) && decide (D.pwr.toNat < 1000 * D.plimit.toNat)) || decide (D.pleave = 0)) = true := by
    simpa only [Bool.or_eq_true, Bool.and_eq_true, decide_eq_true_eq] using hleave
  simp only [powerGrant, hD, hhead, hgrant, if_true, hv, List.isEmpty_iff]

theorem vfClockChange_of_free {v : State} (hv : s.modDie s.arg.t (fun D => { D with pwr := BitVec.ofNat 32 s.arg.v }) = v) (hvd : s.arg.t < 4)
    (hqueue : (v.die s.arg.t).powerq = []) (hfast : 2000 ≤ dieMhz (v.die s.arg.t)) :
    vfClockChange s = v.setMhz s.arg.t
      (if (v.die s.arg.t).pwr.toNat < 1000 * (v.die s.arg.t).plimit.toNat then max 2000 (min s.arg.n (v.die s.arg.t).vfmax.toNat) else 2000) := by
  simp [vfClockChange, hv, hqueue, not_le.mpr hvd, not_lt.mpr hfast]

/-! ### Heat (R362) -/

section
variable {v : State} (hv : s.modDie s.arg.t (fun D => { D with temp := BitVec.ofNat 32 s.arg.v }) = v) (hvd : s.arg.t < 4)
include hv hvd

theorem thermalThrottle_of_cool (hcool : s.arg.v < 800) :
    thermalThrottle s = if dieMhz (v.die s.arg.t) < 2000 then v.setMhz s.arg.t 2000 else v := by
  have hbelow : ¬840 < s.arg.v := by omega
  have hlow : ¬800 ≤ s.arg.v := by omega
  have hrun : ¬920 ≤ s.arg.v := by omega
  simp [thermalThrottle, hv, not_le.mpr hvd, hbelow, hlow, hrun]

/-- The clock falls by 100 MHz, to 1,200 at the least; at 115 °C the die stops. -/
theorem thermalThrottle_of_hot {f : Nat} (hhot : 840 < s.arg.v)
    (hf : (if 1300 ≤ dieMhz (v.die s.arg.t) then dieMhz (v.die s.arg.t) - 100 else 1200) = f) :
    thermalThrottle s = if 920 ≤ s.arg.v then ((v.setMhz s.arg.t f).modDie s.arg.t (fun D => { D with stopped := true })).endAllLaunches
      else v.setMhz s.arg.t f := by
  simp only [thermalThrottle, hv, if_neg (not_le.mpr hvd), hhot, decide_true, Bool.true_or, if_true, ← apply_ite (v.setMhz s.arg.t), hf]

end

end

/-- Settles O44: each clause is the branch of its event's function that a lemma above names. -/
theorem engineEvents : Obligations.EngineEvents := by
  unfold Obligations.EngineEvents
  intro s t e
  refine ⟨fun c rest hhead he hgoing hcommand hgood => ⟨fun hpowered hthawed hleft hkept hgang hask => ?_, fun u hover hidle hposts => ?_⟩,
    fun rd tag path pa la pair v he hpend hprod => ?_, ?_, ?_, ?_,
    fun hvd => ⟨fun hcool hfast => ?_, fun hcool hslow => ?_, fun hhot hbelow => ?_, fun hstop => ?_⟩⟩
  · have hsteps : c.Steps s t e := ⟨⟨rest, hhead⟩, hgoing, hcommand, hgood, hpowered, hthawed, hleft, hkept, hgang, hask⟩
    have hevent : engineStep s = cmdStep t e s.arg.ok s := engineStep_of_engine he
    refine ⟨fun c1 u y hok hstep => ?_, fun hok hchecked hfirst => ?_⟩
    · rw [hok] at hevent
      exact congrArg Host.Outcome.next (hevent.trans (cmdStep_of_step hsteps hstep rfl))
    · rw [hok] at hevent
      exact congrArg Host.Outcome.next (hevent.trans ((cmdStep_of_mismatch hsteps hchecked).trans (mismatch_of_first hfirst)))
  · exact congrArg Host.Outcome.next (engineCommandEnd_of_posted hhead hcommand hgoing hover hidle hposts rfl rfl)
  · exact congrArg Host.Outcome.next ((engineStep_of_value he).trans (valueArrived_of_producing hpend hprod rfl))
  · exact fun cl r tl bank hrun hfind hbad hform hplace => congrArg Host.Outcome.next (taskRecordStart_of_place rfl hrun hfind hbad hform hplace rfl)
  · exact fun u k n rest hhead hleave => congrArg Host.Outcome.next (powerGrant_of_leave rfl hhead hleave rfl)
  · exact fun hvd hqueue hfast => congrArg Host.Outcome.next (vfClockChange_of_free rfl hvd hqueue hfast)
  · exact congrArg Host.Outcome.next ((thermalThrottle_of_cool rfl hvd hcool).trans (if_neg (not_lt.mpr hfast)))
  · exact congrArg Host.Outcome.next ((thermalThrottle_of_cool rfl hvd hcool).trans (if_pos hslow))
  · exact congrArg Host.Outcome.next ((thermalThrottle_of_hot rfl hvd hhot rfl).trans (if_neg (not_le.mpr hbelow)))
  · exact congrArg Host.Outcome.next ((thermalThrottle_of_hot rfl hvd (by omega) rfl).trans (if_pos hstop))

end Sys2Proof.Machine
end

section
/-! O54: the COMPACT rotation (R318, R319). -/

namespace Sys2Proof.Machine
open Sys2Proof

/-! ### The choice -/

section
variable {T : Tile} {n k : Nat}

/-- Slot 7 goes before the others. -/
theorem Tile.pick_of_seven (hmode : T.rot.getLsbD 0 = false) (h7 : T.eligible n 7 = true) : T.pick n = some 7 := by
  simp only [Tile.pick, wbit, hmode, h7, Bool.false_eq_true, if_false, if_true]

theorem Tile.pick_of_others (hmode : T.rot.getLsbD 0 = false) (h7 : T.eligible n 7 = false) :
    T.pick n = ((List.range 7).find? (fun i => T.eligible n ((T.ptr + 1 + i) % 7))).map (fun i => (T.ptr + 1 + i) % 7) := by
  simp only [Tile.pick, wbit, hmode, h7, Bool.false_eq_true, if_false, List.find?_map]
  rfl

/-- The first eligible slot after ptr. -/
theorem Tile.pick_eq_some_iff (hmode : T.rot.getLsbD 0 = false) (h7 : T.eligible n 7 = false) :
    T.pick n = some k ↔ ∃ i, i < 7 ∧ k = (T.ptr + 1 + i) % 7 ∧ T.eligible n k = true ∧ ∀ j, j < i → T.eligible n ((T.ptr + 1 + j) % 7) = false := by
  simp only [Tile.pick_of_others hmode h7, Option.map_eq_some_iff, List.find?_range_eq_some, List.mem_range, Bool.not_eq_true']
  constructor
  · rintro ⟨i, ⟨hi, hlt, hfirst⟩, rfl⟩
    exact ⟨i, hlt, rfl, hi, hfirst⟩
  · rintro ⟨i, hlt, rfl, hi, hfirst⟩
    exact ⟨i, ⟨hi, hlt, hfirst⟩, rfl⟩

/-- Seven places after ptr are all the slots 0-6. -/
theorem Tile.pick_eq_none_iff (hmode : T.rot.getLsbD 0 = false) (h7 : T.eligible n 7 = false) :
    T.pick n = none ↔ ∀ i, i < 7 → T.eligible n i = false := by
  simp only [Tile.pick_of_others hmode h7, Option.map_eq_none_iff, List.find?_eq_none, List.mem_range, Bool.not_eq_true]
  constructor
  · intro h i hi
    have hplace : (T.ptr + 1 + (i + 7 - (T.ptr + 1) % 7) % 7) % 7 = i := by omega
    exact hplace ▸ h _ (Nat.mod_lt _ (by decide))
  · exact fun h i _ => h _ (Nat.mod_lt _ (by decide))

end

/-! ### What an attempt leaves -/

section
variable {s : State} {t k : Nat}

theorem quantumOut_of_home (hv : (s.slot t k).isVisitor = false) : s.quantumOut t k = s := by
  simp only [State.quantumOut, hv, Bool.false_and, Bool.false_eq_true, if_false]

/-- An attempt that leaves its thread ready was an issue. -/
theorem noteIssue_of_ready (hrun : (s.slot t k).run = .ready) :
    s.noteIssue t k = ((s.modSlot t k (fun h => { h with lastIssue := some (s.clock (vdOf t)), fenced := false })).modTile t
      (fun T => { T with issuedAt := some (s.clock (vdOf t)), ptr := if k < 7 && !wbit T.rot 0 then k else T.ptr })).quantumOut t k := by
  simp only [State.noteIssue, hrun, if_true]

theorem tile_modSlot_modTile (f : Slot → Slot) (g : Tile → Tile) : ((s.modSlot t k f).modTile t g).tile t = g ((s.tile t).setSlot k (f (s.slot t k))) := by
  rw [State.tile_modTile]
  exact congrArg g (s.tile_setTile t _)

theorem tile_noteIssue_of_ready (hrun : (s.slot t k).run = .ready) (hv : (s.slot t k).isVisitor = false) :
    (s.noteIssue t k).tile t =
      { (s.tile t).setSlot k { s.slot t k with lastIssue := some (s.clock (vdOf t)), fenced := false } with
        issuedAt := some (s.clock (vdOf t)), ptr := if k < 7 && !wbit (s.tile t).rot 0 then k else (s.tile t).ptr } := by
  rw [noteIssue_of_ready hrun, quantumOut_of_home]
  · exact tile_modSlot_modTile ..
  · rw [State.slot, tile_modSlot_modTile]
    exact (congrArg Slot.isVisitor (Tile.slot_setSlot ..)).trans hv

theorem noteIssue_of_blocked (hrun : (s.slot t k).run = .blocked .register) : s.noteIssue t k = s := by
  simp only [State.noteIssue, hrun, Bool.false_eq_true, if_false]

end

/-- Settles O54: the choice, what an attempt leaves of the rotation, and a tile with nothing eligible. -/
theorem compactRotation : Obligations.CompactRotation := by
  unfold Obligations.CompactRotation
  refine ⟨fun t => rfl, fun T n k hmode => ⟨fun h7 => ?_, fun h7 => ⟨Tile.pick_eq_some_iff hmode h7, Tile.pick_eq_none_iff hmode h7⟩⟩,
    fun s t k => ⟨fun hrun hv => ?_, noteIssue_of_blocked, fun hidle => ?_⟩⟩
  · rw [Tile.pick_of_seven hmode h7, Option.some_inj, eq_comm]
  · rw [State.slot, tile_noteIssue_of_ready hrun hv]
    refine ⟨?_, congrArg Slot.lastIssue (Tile.slot_setSlot ..)⟩
    simp only [wbit, Bool.and_eq_true, decide_eq_true_eq, Bool.not_eq_true']
  · simp only [stepTile, hidle]

end Sys2Proof.Machine
end

section
/-! O22: the exception return (R283). Its registers are `Slot.eret`; the new status takes its bits from ESTAT but for the reserved ones and
the fields PL and PARK (`eretSt_bit`). -/

namespace Sys2Proof.Machine
open Sys2Proof

theorem pfxBits_bit (w : Word) (n : Nat) : (pfxBits w).getLsbD n = (decide (n < 17) && w.getLsbD n) := by
  have hmask : (0x1FFFF : Word) = BitVec.ofNat 32 (2 ^ 17 - 1) := rfl
  rw [pfxBits, BitVec.getLsbD_and, hmask, BitVec.getLsbD_ofNat, Nat.testBit_two_pow_sub_one, Bool.and_comm]
  by_cases hn : n < 32
  · rw [decide_eq_true hn, Bool.true_and]
  · rw [BitVec.getLsbD_of_ge w n (Nat.not_lt.mp hn), Bool.and_false, Bool.and_false]

/-- A status as ST holds it keeps every bit but the reserved ones and, with the codes 6 and 7, the field RM. -/
theorem stBits_bit (w : Word) {n : Nat} (hn : n < 32) :
    (stBits w).getLsbD n = (!(decide (16 ≤ n ∧ n < 24) || decide (6 ≤ wfld w 3 3 ∧ 3 ≤ n ∧ n < 6)) && w.getLsbD n) := by
  have hreserved : ∀ i < 32, (0xFF00FFFF : Word).getLsbD i = !decide (16 ≤ i ∧ i < 24) := by decide
  have hround : ∀ i < 32, (0xFF00FFC7 : Word).getLsbD i = !(decide (16 ≤ i ∧ i < 24) || decide (3 ≤ i ∧ i < 6)) := by decide
  by_cases hrm : 6 ≤ wfld w 3 3
  · rw [stBits, if_pos hrm, BitVec.getLsbD_and, hround n hn, Bool.and_comm]
    simp only [hrm, true_and]
  · rw [stBits, if_neg hrm, BitVec.getLsbD_and, hreserved n hn, Bool.and_comm]
    simp only [hrm, false_and, decide_false, Bool.or_false]

theorem eretSt_bit (h : Slot) {n : Nat} (hn : n < 32) :
    h.eret.st.getLsbD n = if 24 ≤ n ∨ n = 15 then false else if n = 11 ∨ n = 12 then (min (stPL h.estat) (stPL h.st)).testBit (n - 11)
      else (stBits h.estat).getLsbD n := by
  rw [Slot.eret, wsetb_bit _ _ _ (by decide), stSetPARK, wput_bit, stSetPL, wput_bit, decide_eq_true hn, Nat.zero_testBit]
  by_cases hpark : 24 ≤ n ∨ n = 15
  · rw [if_pos hpark]
    rcases hpark with hpark | rfl
    · rw [if_neg (by omega), if_pos (by omega), Bool.and_false]
    · rw [if_pos rfl]
  · rw [if_neg hpark, if_neg (by omega), if_neg (by omega), Bool.true_and, Bool.true_and]
    congr 1
    exact propext (by omega)

/-- The level of the handler is not raised. -/
theorem stPL_eret (h : Slot) : stPL h.eret.st = min (stPL h.estat) (stPL h.st) := by
  have hlevel : min (stPL h.estat) (stPL h.st) < 2 ^ 2 := lt_of_le_of_lt (min_le_left _ _) (Nat.mod_lt _ (by decide))
  refine Nat.eq_of_testBit_eq fun i => ?_
  rw [stPL, wfld_testBit]
  by_cases hi : i < 2
  · rw [eretSt_bit _ (by omega), if_neg (by omega), if_pos (by omega), decide_eq_true hi, Bool.true_and, Nat.add_sub_cancel_left]
  · rw [decide_eq_false hi, Bool.false_and]
    exact (Nat.testBit_lt_two_pow (hlevel.trans_le (Nat.pow_le_pow_right (by decide) (Nat.not_lt.mp hi)))).symm

theorem stPARK_eret (h : Slot) : stPARK h.eret.st = 0 := by
  refine Nat.eq_of_testBit_eq fun i => ?_
  rw [stPARK, wfld_testBit, Nat.zero_testBit]
  by_cases hi : i < 8
  · rw [eretSt_bit _ (by omega), if_pos (by omega), Bool.and_false]
  · rw [decide_eq_false hi, Bool.false_and]

theorem execEret_of_ordinary {s : State} (ho : Ordinary s) (hpl : 1 ≤ stPL s.th.st) :
    exec .eret s = .next (s.modTh (fun h => { h.eret with instret := h.instret + 1, quantum := h.quantum + 1 })) := by
  have heret : eretInstr s = .ok (s.modTh (fun h => { h.eret with instret := h.instret + 1, quantum := h.quantum + 1 })) := by
    simp only [eretInstr, enter_ordinary .eret .system false 1 s ho hpl, bind, Except.bind]
  exact congrArg finish heret

/-- Settles O22: the thread's registers become `Slot.eret`, bit by bit, and one instruction more has committed. -/
theorem exceptionReturn : Obligations.ExceptionReturn := by
  unfold Obligations.ExceptionReturn
  intro s ho hpl
  refine ⟨_, execEret_of_ordinary ho hpl, ?_⟩
  rw [State.th_modTh]
  refine ⟨rfl, fun n => pfxBits_bit _ _, stPL_eret s.th, stPARK_eret s.th, fun n hn hrm => ?_, fun n hlo hhi => ?_, rfl, onlyThread_modTh ..⟩
  · have hkeep : ¬(16 ≤ n ∧ n < 24) ∧ ¬(6 ≤ wfld s.th.estat 3 3 ∧ 3 ≤ n ∧ n < 6) := by omega
    change s.th.eret.st.getLsbD n = _
    rw [eretSt_bit _ (by omega), if_neg (by omega), if_neg (by omega), stBits_bit _ (by omega), decide_eq_false hkeep.1, decide_eq_false hkeep.2]
    rfl
  · change s.th.eret.st.getLsbD n = _
    rw [eretSt_bit _ (by omega)]
    by_cases h15 : n = 15
    · rw [if_pos (.inr h15)]
    · have hreserved : 16 ≤ n ∧ n < 24 := by omega
      rw [if_neg (by omega), if_neg (by omega), stBits_bit _ (by omega), decide_eq_true hreserved]
      rfl

end Sys2Proof.Machine
end

section
/-! O25: NOP, YIELD, PARK, WAKE and HALT of an ordinary thread pass their checks. -/

namespace Sys2Proof.Machine
open Sys2Proof

section
variable {s : State} {a b : Src} {x y : Word} (ho : Ordinary s)
include ho

theorem nop_of_ordinary : nop s = .ok (commitNow s) := by
  simp only [nop, enter_system_of_ordinary ho, bind, Except.bind]

theorem yield_of_ordinary : yield_ s = .ok ((commitNow s).modTh (fun h => { h with yielded := true })) := by
  simp only [yield_, enter_system_of_ordinary ho, bind, Except.bind]

theorem parkInstr_of_ordinary :
    parkInstr s = .ok (if s.th.wl then (commitNow s).modTh (fun h => { h with wl := false }) else (commitNow s).park pPARK) := by
  simp only [parkInstr, enter_system_of_ordinary ho, bind, Except.bind, apply_ite (Except.ok (ε := State))]

/-- WAKE of context name x: by tag y where rs2 is a register, else by slot. -/
theorem wakeInstr_of_name (hx : Delivers [a, b] a.r s x) (hy : Delivers [a, b] b.r s y) (hname : x.toNat < 2 ^ 27) (htag : y.toNat < 2 ^ 16) :
    let m : Msg := { Msg.zero with src := s.tileEid s.cur.1, dst := x.toNat / 2 ^ 15 * 4096 + x.toNat / 8 % 4096, slot := x.toNat % 8, asid := s.th.asid
                                   aux2 := BitVec.ofNat 64 (stPL s.th.st) }
    wakeInstr a b s = .ok (if b.r = 0 then (commitNow (consume [a, b] s)).post .wakeSlotMsg { m with attr := 11 }
      else (commitNow (consume [a, b] s)).post .wakeTagMsg { m with slot := s.cur.2, aux0 := BitVec.ofNat 64 (y.toNat + 0x10000) }) := by
  have hctx : wfld x 0 27 = x.toNat := (wfld_low x 27).trans (Nat.mod_eq_of_lt hname)
  have hword : wfld y 0 16 = y.toNat := (wfld_low y 16).trans (Nat.mod_eq_of_lt htag)
  simp only [wakeInstr, enter_system_of_ordinary ho, hx _, hy _, wfld_above hname, wfld_above htag, illValue_of_good, hctx, hword, bind, Except.bind,
    bne_self_eq_false, Bool.and_false, apply_ite (Except.ok (ε := State))]
  rfl

theorem haltInstr_of_drained (hpend : ∀ p, p ∈ s.th.pend → p.path ≠ 0) (hbuf : s.th.cbuf = []) (hprod : s.th.prod = 0) :
    haltInstr s = .ok s.haltNow := by
  simp only [haltInstr, enter_system_of_ordinary ho, drainedTh_of_drained hpend hbuf hprod, bind, Except.bind]

end

/-- Settles O25: each instruction's checks pass, and its result is said by its lemma above; PARK goes by the wake latch, WAKE by its second
source, HALT by its slot. -/
theorem systemInstructions : Obligations.SystemInstructions := by
  unfold Obligations.SystemInstructions
  intro s a b x y ho done
  refine ⟨congrArg finish (nop_of_ordinary ho), congrArg finish (yield_of_ordinary ho), fun hwl => ?_, fun hwl => ?_, fun hx hy hname htag => ?_,
    fun hpend hbuf hprod => ?_⟩
  · exact congrArg finish ((parkInstr_of_ordinary ho).trans (congrArg Except.ok (if_pos hwl)))
  · exact congrArg finish ((parkInstr_of_ordinary ho).trans (congrArg Except.ok (if_neg (Bool.not_eq_true _ ▸ hwl))))
  · have hwake := wakeInstr_of_name ho hx hy hname htag
    exact ⟨fun h0 => congrArg finish (hwake.trans (congrArg Except.ok (if_pos h0))), fun h0 => congrArg finish (hwake.trans (congrArg Except.ok (if_neg h0)))⟩
  · have hhalt := congrArg finish (haltInstr_of_drained ho hpend hbuf hprod)
    exact ⟨fun h7 => hhalt.trans (congrArg Host.Outcome.next (if_neg h7)), fun h7 => hhalt.trans (congrArg Host.Outcome.next (if_pos h7))⟩

end Sys2Proof.Machine
end

section
/-! O27: RQPUSH and RQPOP of a supervisor (R293, R294). -/

namespace Sys2Proof.Machine
open Sys2Proof

/-- What RQPOP with selection sel does with the entry and the word it finds: the entry goes first, and a wait consults the wake latch. -/
def State.popped (s : State) (d : Reg) (a : Src) (wait : Bool) (sel : Nat) (entry : Option RqEntry) (word : Option (Nat × Msg)) : M State :=
  match entry, word with
  | some e, _ =>
    .ok (commitPair [a] d (e.tag + e.pri * 65536) (s.setTile s.cur.1 { s.tile s.cur.1 with rq := dropFirst (fun y => y == e) (s.tile s.cur.1).rq }))
  | none, some q =>
    .ok (commitPair [a] d (q.2.aux0.toNat % 2 ^ 32 + (q.2.src % 2 ^ 24 + q.2.slot % 8 * 2 ^ 24 + 2 ^ 30) * 2 ^ 32)
      (((s.setTile s.cur.1 { s.tile s.cur.1 with msgq := dropFirst (fun y => y == q) (s.tile s.cur.1).msgq }).wrackTo q.2).unholdTile s.cur.1))
  | none, none =>
    if !wait || s.th.wl then .ok (commitPair [a] d (2 ^ 63) (if wait then s.modTh (fun h => { h with wl := false }) else s))
    else .error ((s.park pPARK).modTh (fun h => { h with parkReg := rqMark + sel }))

section
variable {s : State} {d : Reg} {a : Src} {x : Word} {T : Tile} (ho : Ordinary s) (hpl : 1 ≤ stPL s.th.st) (hx : Delivers [a] a.r s x)
  (hd : destReady d s = .ok ()) (hT : s.tile s.cur.1 = T)
include ho hpl hx hd hT

/-! ### RQPUSH (R293) -/

section
variable {tag : Nat} (hlt : x.toNat < 2 ^ 19) (htag : x.toNat % 2 ^ 16 = tag)
include hlt htag

/-- The tag's presence and the queue's room decide; an entry that starts READY wakes who waits for one. -/
theorem rqpush_of_tag {sleep : Bool} (hsleep : (x.getLsbD 18 && !T.latch.contains tag) = sleep) {s1 : State}
    (hs1 : s.setTile s.cur.1 { T with rq := T.rq ++ [⟨tag, x.toNat / 2 ^ 16 % 4, sleep, T.rqOrder⟩], rqOrder := T.rqOrder + 1
                                      latch := T.latch.filter (· != tag) } = s1) :
    rqpush d a s = .ok (if T.rq.any (fun e => e.tag == tag) then commitWith [a] d 2 s else if 64 ≤ T.rq.length then commitWith [a] d 1 s
      else commitWith [a] d (if T.latch.contains tag then 3 else 0) (if sleep then s1 else s1.wakeRq s.cur.1 [0, 2])) := by
  subst hT htag hsleep hs1
  have hpri : wfld x 16 2 = x.toNat / 2 ^ 16 % 4 := rfl
  simp only [rqpush, enter_ordinary _ .system false 1 s ho hpl, hx _, hd, wfld_above hlt, wfld_low, hpri, wbit, illValue_of_good, bind, Except.bind,
    bne_self_eq_false, apply_ite (Except.ok (ε := State))]

end

/-! ### RQPOP (R294) -/

section
variable (hd1 : destReady (d + 1) s = .ok ()) (hlt : x.toNat < 8) {sel : Nat} (hsel : x.toNat / 2 = sel) (hsel3 : sel ≠ 3)
include hd1 hlt hsel hsel3

theorem rqpop_of_selection :
    rqpop d a s = s.popped d a (x.getLsbD 0) sel (if sel = 1 then none else T.rqHead) (if sel = 0 then none else T.msgq.find? (fun q => msgKind q.2 == 2)) := by
  subst hT
  have hfld : wfld x 1 2 = sel := by
    simp only [wfld, nfld]
    omega
  simp only [rqpop, enter_ordinary _ .system false 1 s ho hpl, hx _, hd, hd1, wfld_above (n := 3) hlt, hfld, beq_eq_false_iff_ne.mpr hsel3, wbit,
    illValue_of_good, bind, Except.bind, bne_self_eq_false, Bool.or_self]
  rfl

theorem rqpop_of_entry {e : RqEntry} (h1 : sel ≠ 1) (he : T.rqHead = some e) :
    rqpop d a s = .ok (commitPair [a] d (e.tag + e.pri * 65536) (s.setTile s.cur.1 { T with rq := dropFirst (fun y => y == e) T.rq })) := by
  rw [rqpop_of_selection ho hpl hx hd hT hd1 hlt hsel hsel3, if_neg h1, he, ← hT]
  rfl

theorem rqpop_of_word {q : Nat × Msg} (hnone : sel = 1 ∨ sel = 2 ∧ T.rqHead = none) (hq : T.msgq.find? (fun q => msgKind q.2 == 2) = some q) :
    rqpop d a s = .ok (commitPair [a] d (q.2.aux0.toNat % 2 ^ 32 + (q.2.src % 2 ^ 24 + q.2.slot % 8 * 2 ^ 24 + 2 ^ 30) * 2 ^ 32)
      (((s.setTile s.cur.1 { T with msgq := dropFirst (fun y => y == q) T.msgq }).wrackTo q.2).unholdTile s.cur.1)) := by
  have hentry : (if sel = 1 then none else T.rqHead) = none := by
    rcases hnone with h | ⟨-, h⟩
    · rw [if_pos h]
    · rw [h, ite_self]
  rw [rqpop_of_selection ho hpl hx hd hT hd1 hlt hsel hsel3, hentry, if_neg (by omega), hq, ← hT]
  rfl

theorem rqpop_of_none (h0 : sel = 0) (hnone : T.rqHead = none) :
    rqpop d a s = if !x.getLsbD 0 || s.th.wl then .ok (commitPair [a] d (2 ^ 63) (if x.getLsbD 0 then s.modTh (fun h => { h with wl := false }) else s))
      else .error ((s.park pPARK).modTh (fun h => { h with parkReg := rqMark + sel })) := by
  rw [rqpop_of_selection ho hpl hx hd hT hd1 hlt hsel hsel3, hnone, ite_self, if_pos h0]
  rfl

end
end

/-- Settles O27: RQPUSH by its tag and the queue's room, RQPOP by what its selection finds. -/
theorem readyQueueInstructions : Obligations.ReadyQueueInstructions := by
  unfold Obligations.ReadyQueueInstructions
  intro s d a x ho hpl hx hd T tag
  refine ⟨fun hlt => ?_, fun hd1 hlt hsel3 => ⟨fun e h1 he => ?_, fun q hnone hq => ?_, fun h0 hnone => ?_⟩⟩
  · have hpush := congrArg finish (rqpush_of_tag ho hpl hx hd (T := T) rfl hlt (tag := tag) rfl rfl rfl)
    refine ⟨fun hthere => ?_, fun hnew hfull => ?_, fun hnew hroom => ?_⟩
    · exact hpush.trans (congrArg Host.Outcome.next (if_pos hthere))
    · exact hpush.trans (congrArg Host.Outcome.next ((if_neg (Bool.not_eq_true _ ▸ hnew)).trans (if_pos hfull)))
    · exact hpush.trans (congrArg Host.Outcome.next ((if_neg (Bool.not_eq_true _ ▸ hnew)).trans (if_neg (Nat.not_le.mpr hroom))))
  · exact congrArg finish (rqpop_of_entry ho hpl hx hd rfl hd1 hlt rfl hsel3 h1 he)
  · exact congrArg finish (rqpop_of_word ho hpl hx hd rfl hd1 hlt rfl hsel3 hnone hq)
  · have hpop := rqpop_of_none ho hpl hx hd rfl hd1 hlt rfl hsel3 h0 hnone
    refine ⟨fun hnow => ?_, fun hwait hwl => ?_⟩
    · rw [hnow] at hpop
      exact congrArg finish hpop
    · rw [hwait, hwl] at hpop
      exact congrArg finish hpop

end Sys2Proof.Machine
end

section
/-! O28: CTXSV, CTXLD, SPLOCK, SPUNLOCK, LAGRANT and SCRUB (R296-R300), each by its operands. -/

namespace Sys2Proof.Machine
open Sys2Proof

theorem wbit_zero (i : Nat) : wbit 0 i = false := BitVec.getLsbD_zero

theorem wfld_zero (lo n : Nat) : wfld 0 lo n = 0 := by
  simp [wfld, nfld]

theorem producersDone_of_self {s : State} (hprod : s.th.prod = 0) : producersDone false s = .ok () := by
  simp only [producersDone, hprod, bne_self_eq_false, Bool.false_and, Bool.false_eq_true, if_false]

section
variable {s : State} {d : Reg} {sg : BitVec 3} {a b : Src} {x y : Word} {o : Nat} (ho : Ordinary s)
include ho

/-! ### The own context (R296, R297) -/

section
variable {i : Instr} (hpl : 1 ≤ stPL s.th.st) (hx : Delivers [a, b] a.r s x) (hy : Delivers [a, b] b.r s 0) (hd : destReady d s = .ok ())
  (hprod : s.th.prod = 0)
include hpl hx hy hd hprod

theorem ctxsv_of_self (hrange : spRange true sg.toNat x.toNat 256 s = .ok o) (hclean : s.th.poisoned = none) :
    ctxMove false i d sg a b s = .ok (commitWith [a, b] d 0 (s.perform (s.spPa s.cur.1 o) s.th.selfRecord)) := by
  simp only [ctxMove, enter_ordinary _ .system false 1 s ho hpl, hx _, hy _, hd, wbit_zero, wfld_zero, illValue_of_good, hrange,
    producersDone_of_self hprod, hclean, bind, Except.bind, bne_self_eq_false, Bool.not_false, Bool.false_and, Bool.or_self, Bool.false_eq_true, if_false]

theorem ctxld_of_self (hrange : spRange false sg.toNat x.toNat 256 s = .ok o) {u : State}
    (hu : s.readCheck (s.spPa s.cur.1 o) 256 (s.ctxName s.cur.1 s.cur.2) = u) (hgood : u.eccBad (s.spPa s.cur.1 o) 256 = false) :
    ctxMove true i d sg a b s = .ok ((consume [a, b] u).modTh (fun h => (h.loadSelf (rdBytes u.mem (s.spPa s.cur.1 o) 256)).commit)) := by
  simp only [ctxMove, enter_ordinary _ .system false 1 s ho hpl, hx _, hy _, hd, wbit_zero, wfld_zero, illValue_of_good, hrange,
    producersDone_of_self hprod, hu, hgood, bind, Except.bind, bne_self_eq_false, Bool.not_true, Bool.false_and, Bool.or_self, Bool.false_eq_true,
    if_false, if_true]

end

/-! ### SCRUB (R300) -/

section
variable (hx : Delivers [a, b] a.r s x) (hy : Delivers [a, b] b.r s y)
include hx hy

theorem scrub_of_zero (h0 : y = 0) : scrub sg a b s = .ok (commitPlain [a, b] s) := by
  subst h0
  simp only [scrub, enter_system_of_ordinary ho, hx _, hy _, bind, Except.bind, if_true]
  rfl

theorem scrub_of_range (h0 : y ≠ 0) (halign : y.toNat % 256 = 0) (hmax : y.toNat ≤ 0x400000) (hrange : spRange true sg.toNat x.toNat y.toNat s = .ok o) :
    scrub sg a b s = .ok (commitPlain [a, b] (((s.zero (s.spPa s.cur.1 o) y.toNat).modTile s.cur.1 (fun T => T.markDirty o y.toNat)).fireWatches
      (s.spPa s.cur.1 o) y.toNat)) := by
  have hlegal : (y.toNat % 256 != 0 || decide (0x400000 < y.toNat)) = false := by
    simp only [halign, bne_self_eq_false, Bool.false_or, decide_eq_false_iff_not, not_lt, hmax]
  simp only [scrub, enter_system_of_ordinary ho, hx _, hy _, hlegal, illValue_of_good, h0, hrange, bind, Except.bind, if_false]

end

/-! ### Bank locks (R298) -/

section
variable (hpl : 1 ≤ stPL s.th.st) (hx : Delivers [a] a.r s x)
include hpl hx

theorem spunlock_of_mask :
    spunlock a s = .ok ((((commitPlain [a] s).modTile s.cur.1 (fun T =>
      { T with locks := (updWhere (fun l => l.slot == s.cur.2) (fun l => { l with mask := l.mask &&& ~~~x }) (s.tile s.cur.1).locks).filter
                 (fun l => l.mask != 0) })).notifyAll s.cur.1).unholdTile s.cur.1) := by
  simp only [spunlock, enter_ordinary _ .system false 1 s ho hpl, hx _, bind, Except.bind]

section
variable (hd : destReady d s = .ok ())
include hd

theorem splock_of_held (hheld : ∃ l, l ∈ (s.tile s.cur.1).locks ∧ l.slot ≠ s.cur.2 ∧ l.mask &&& x ≠ 0) : splock d a s = .ok (commitWith [a] d 1 s) := by
  have hany : (s.tile s.cur.1).locks.any (fun l => l.slot != s.cur.2 && (l.mask &&& x) != 0) = true := by
    simpa only [List.any_eq_true, Bool.and_eq_true, bne_iff_ne] using hheld
  simp only [splock, enter_ordinary _ .system false 1 s ho hpl, hx _, hd, hany, bind, Except.bind, if_true]

theorem splock_of_free (h0 : x ≠ 0) (hfree : (s.tile s.cur.1).locks = []) :
    splock d a s = .ok (commitWith [a] d 0 ((s.setTile s.cur.1 { s.tile s.cur.1 with locks := [⟨s.cur.2, x, s.clock (vdOf s.cur.1)⟩] }).after (vdOf s.cur.1) 4096
      (evTK .lockTimeout s.cur.1 s.cur.2))) := by
  simp only [splock, enter_ordinary _ .system false 1 s ho hpl, hx _, hd, h0, hfree, List.any_nil, List.nil_append, bind, Except.bind, Bool.false_eq_true, if_false]

/-! ### LAGRANT (R299) -/

section
variable {k : Nat} (hk : x.toNat % 8 = k) (hk7 : k < 7)
include hk hk7

/-- A grant to slot k that has none: at most two slots of a tile have one. -/
theorem lagrant_of_grant (hx8 : x.toNat = 8 + k) (hnone : (s.tile s.cur.1).lamask.getLsbD k = false) :
    lagrant d a s = .ok (if 2 ≤ countOnes 8 (s.tile s.cur.1).lamask then commitWith [a] d 1 s
      else commitWith [a] d 0 (s.modTile s.cur.1 (fun T => { T with lamask := wsetb T.lamask k true }))) := by
  have hbit : wbit x 3 = true := by
    rw [wbit, ← BitVec.testBit_toNat, Nat.testBit_eq_decide_div_mod_eq, decide_eq_true_eq]
    omega
  have hfld : wfld x 0 3 = k := (wfld_low x 3).trans hk
  have hill : (wfld x 4 28 != 0 || k == 7) = false := by
    rw [wfld_above (n := 4) (by omega), beq_eq_false_iff_ne.mpr hk7.ne]
    rfl
  have hm : wbit (s.tile s.cur.1).lamask k = false := hnone
  simp only [lagrant, enter_ordinary _ .system false 1 s ho hpl, hx _, hd, hfld, hill, hbit, hm, illValue_of_good, bind, Except.bind, Bool.false_eq_true,
    if_false, if_true, apply_ite (Except.ok (ε := State))]
  rfl

theorem lagrant_of_revoke (hx8 : x.toNat = k) (hidle : (s.slot s.cur.1 k).shadow = none) :
    lagrant d a s = .ok (commitWith [a] d 0 (s.modTile s.cur.1 (fun T => { T with lamask := wsetb T.lamask k false }))) := by
  have hbit : wbit x 3 = false := by
    rw [wbit, ← BitVec.testBit_toNat, Nat.testBit_eq_decide_div_mod_eq, decide_eq_false_iff_not]
    omega
  have hfld : wfld x 0 3 = k := (wfld_low x 3).trans hk
  have hill : (wfld x 4 28 != 0 || k == 7) = false := by
    rw [wfld_above (n := 4) (by omega), beq_eq_false_iff_ne.mpr hk7.ne]
    rfl
  simp only [lagrant, enter_ordinary _ .system false 1 s ho hpl, hx _, hd, hfld, hill, hbit, hidle, illValue_of_good, bind, Except.bind, Bool.false_eq_true,
    if_false, Option.isSome_none]
  rfl

end
end
end
end

/-- Settles O28: each instruction takes the branch that its operands and its tile choose. -/
theorem contextLockAndScrub : Obligations.ContextLockAndScrub := by
  unfold Obligations.ContextLockAndScrub
  intro s d sg a b x y o ho t k T
  refine ⟨fun hpl hx hy hd hprod => ⟨fun hrange hclean => ?_, fun hrange hgood => ?_⟩, fun hx hy => ⟨fun h0 => ?_, fun h0 halign hmax hrange => ?_⟩,
    fun hpl hx => ⟨fun hd => ⟨fun hheld => ?_, fun h0 hfree => ?_, fun hlo hhi hnone => ?_, fun hlt hidle => ?_⟩, ?_⟩⟩
  · exact congrArg finish (ctxsv_of_self ho hpl hx hy hd hprod hrange hclean)
  · exact congrArg finish (ctxld_of_self ho hpl hx hy hd hprod hrange rfl hgood)
  · exact congrArg finish (scrub_of_zero ho hx hy h0)
  · exact congrArg finish (scrub_of_range ho hx hy h0 halign hmax hrange)
  · exact congrArg finish (splock_of_held ho hpl hx hd hheld)
  · exact congrArg finish (splock_of_free ho hpl hx hd h0 hfree)
  · have hgrant := congrArg finish (lagrant_of_grant ho hpl hx hd rfl (by omega) (by omega) hnone)
    exact ⟨fun hroom => hgrant.trans (congrArg Host.Outcome.next (if_neg (Nat.not_le.mpr hroom))),
      fun hfull => hgrant.trans (congrArg Host.Outcome.next (if_pos hfull))⟩
  · exact congrArg finish (lagrant_of_revoke ho hpl hx hd (Nat.mod_eq_of_lt (by omega)) hlt rfl hidle)
  · exact (congrArg finish (spunlock_of_mask ho hpl hx)).trans (finish_ok _)

end Sys2Proof.Machine
end

section
/-! O45: each event of a launch unit, and LAUNCH at a die, takes the branch that its clause's conditions choose. -/

namespace Sys2Proof.Machine
open Sys2Proof

theorem nfld_low (v n : Nat) : nfld v 0 n = v % 2 ^ n := by
  rw [nfld, pow_zero, Nat.div_one]

section
variable {s : State}

/-! ### Doorbells (R303) -/

theorem doorbell_of_queue {vd q v n : Nat} (hvd : iodVd s.arg.t = vd) (hq : s.arg.k = q) (hv : s.arg.v = v) (hn : (v + 65536 - s.qHead vd q) % 65536 = n)
    (hlt : v < 65536) (hvalid : s.qV vd q = true) :
    doorbell s = if s.qLen vd q < n then s.logError vd 23 false cDOORBELL 0 0 else if v = s.qTail vd q then s
      else (s.qset vd q 2 16 16 v).emitOnce (evTK .launchFetch vd q) := by
  subst hvd hq hv hn
  have hword : s.arg.v / 65536 = 0 := Nat.div_eq_of_lt hlt
  simp only [doorbell, hword, hvalid, bne_self_eq_false, Bool.not_true, Bool.or_self, Bool.false_eq_true, if_false]

/-! ### Fetches and checks (R304-R306) -/

/-- HEAD of a queue passes a record, and the next one is fetched if there is one. -/
def State.nextRecord (s : State) (vd q head : Nat) (ev : Ev) : State :=
  let u := (s.unitClear (luUnit vd 0 ev)).qset vd q 2 0 16 ((head + 1) % 65536)
  if (head + 1) % 65536 = s.qTail vd q then u else u.emitOnce ev

section
variable (hmsg : s.msg = Msg.zero)
include hmsg

section
variable {vd q head pa : Nat} {ev : Ev} (hn : s.arg.n ≠ 1) (hvd : s.arg.t = vd) (hq : s.arg.k = q) (hhead : s.qHead vd q = head) (hsome : head ≠ s.qTail vd q)
  (hpa : s.qRing vd q + 128 * (head % s.qLen vd q) = pa) (hspace : spaceOf pa < 3) (hdec : s.decodes vd pa = true) (hev : evTK .launchFetch vd q = ev)
  {w : State}
include hn hvd hq hhead hsome hpa hspace hdec hev

theorem launchFetch_of_wait (hbytes : s.unitBytes (luUnit vd 0 ev) pa 128 = (none, w)) : launchFetch s = w := by
  subst hvd hq hhead hpa hev
  simp only [launchFetch, hmsg, hn, hsome, hdec, hbytes, Nat.not_le.mpr hspace, bne_self_eq_false, decide_false, Bool.not_true, Bool.or_self,
    Bool.false_eq_true, if_false]

theorem launchFetch_of_record {bs : List Byte} (hbytes : s.unitBytes (luUnit vd 0 ev) pa 128 = (some (.ok bs), w)) :
    launchFetch s = ((w.nextRecord vd q head ev).enterLaunch vd q bs none).checkGo vd (s.lu vd).nextId := by
  subst hvd hq hhead hpa hev
  simp only [launchFetch, hmsg, hn, hsome, hdec, hbytes, Nat.not_le.mpr hspace, bne_self_eq_false, decide_false, Bool.not_true, Bool.or_self,
    Bool.false_eq_true, if_false]
  rfl

end

theorem launchFetch_of_check (hn : s.arg.n = 1) : launchFetch s = s.checkGo s.arg.t s.arg.v := by
  simp only [launchFetch, hmsg, hn, bne_self_eq_false, Bool.false_eq_true, if_false, if_true]

end

/-- The record of a SPAWN comes with its message. -/
theorem launchFetch_of_spawn {m : Msg} {vd : Nat} (hm : s.msg = m) (hvd : eidDie m.dst = vd) (hmsg : m ≠ Msg.zero) :
    launchFetch s = (s.enterLaunch vd (m.aux1.toNat % 4096) m.data (some m)).checkGo vd (s.lu vd).nextId := by
  subst hm hvd
  simp only [launchFetch, bne_iff_ne.mpr hmsg, if_true]

theorem checkGo_of_launch {vd id : Nat} {l : Launch} (hl : s.launch? vd id = some l) (hstate : l.state = .check) :
    s.checkGo vd id = settleLaunch vd l (s.checkLaunch vd l (checkEvent vd id)) (checkEvent vd id) := by
  simp only [State.checkGo, hl, hstate, BEq.rfl, if_true]

/-- A launch that passed is READY, or waits for its dependences. -/
theorem settleLaunch_of_good {vd : Nat} {l x y : Launch} {u : State} {ev : Ev} {ds : List Nat} (hds : [0, 1].filter (fun d => x.dla d != 0) = ds)
    (hy : { x with state := if ds = [] then .ready else .depWait, deps := ds } = y) :
    settleLaunch vd l (.good x u) ev =
      ((((u.modLaunch vd x.id (fun _ => y)).spawnAnswer y 0).depWatches vd y ds).pokeAdmission vd).unitClear (luUnit vd 0 ev) := by
  subst hds hy
  simp only [settleLaunch, List.isEmpty_iff]
  rfl

/-! ### Admission (R308-R311) -/

/-- The state in which an I/O die makes its choice: ages run, SPAWNs over their quota have ended, and queues with empty rings have no deficit. -/
def State.beforeChoice (s : State) (vd : Nat) : State := (((s.startAges vd).spawnQuota vd).startAges vd).emptyRings vd

section
variable {vd : Nat} {v : State}

theorem admitOnce_of_some (hv : [0, 1, 2, 3].findSome? (fun level => (s.beforeChoice vd).admitLevel vd level) = some v) :
    s.admitOnce vd = v.modLu vd (fun L => { L with chosenAt := some (s.clock vd) }) := by
  have hfind : (List.range 4).findSome? (fun level => ((((s.startAges vd).spawnQuota vd).startAges vd).emptyRings vd).admitLevel vd level) = some v := hv
  simp only [State.admitOnce, hfind]

theorem admitOnce_of_level0 (hv : (s.beforeChoice vd).admitLevel vd 0 = some v) :
    s.admitOnce vd = v.modLu vd (fun L => { L with chosenAt := some (s.clock vd) }) :=
  admitOnce_of_some (by rw [List.findSome?_cons, hv])

theorem admitOnce_of_level1 (hnone : (s.beforeChoice vd).admitLevel vd 0 = none) (hv : (s.beforeChoice vd).admitLevel vd 1 = some v) :
    s.admitOnce vd = v.modLu vd (fun L => { L with chosenAt := some (s.clock vd) }) :=
  admitOnce_of_some (by rw [List.findSome?_cons, hnone, List.findSome?_cons, hv])

theorem admitOnce_of_none (hnone : ∀ n, n < 4 → (s.beforeChoice vd).admitLevel vd n = none) : s.admitOnce vd = s.beforeChoice vd := by
  have hfind : (List.range 4).findSome? (fun level => ((((s.startAges vd).spawnQuota vd).startAges vd).emptyRings vd).admitLevel vd level) = none :=
    List.findSome?_eq_none_iff.mpr fun n hn => hnone n (List.mem_range.mp hn)
  simp only [State.admitOnce, hfind]
  rfl

theorem chosen_iff : s.chosen vd = true ↔ (s.lu vd).chosenAt = some (s.clock vd) := beq_iff_eq

end

/-- A choice once in a cycle. -/
theorem admissionChoice_of_cycle (hn : s.arg.n = 0) :
    admissionChoice s = if (s.lu s.arg.t).chosenAt = some (s.clock s.arg.t) then
        (if s.timed (evT .admissionChoice s.arg.t) then s else s.after s.arg.t 1 (evT .admissionChoice s.arg.t))
      else s.admitOnce s.arg.t := by
  simp only [admissionChoice, hn, chosen_iff]

theorem admissionChoice_of_capacity (hn : s.arg.n = 1) : admissionChoice s = s.pokeCapacity := by
  simp only [admissionChoice, hn]

theorem admissionChoice_of_unheld (hn : s.arg.n = 2) : admissionChoice s = s.retryAdmitted s.arg.t := by
  simp only [admissionChoice, hn]

/-! ### HOLD and translations (R306, R311) -/

section
variable {l : Launch} (hl : s.launch? s.arg.t s.arg.k = some l)
include hl

theorem launchHold_of_admitted (hstate : l.state = .admitted) :
    launchHold s = if s.ep s.arg.t l = 0 then s.modLaunch s.arg.t l.id (fun l => { l with hold := true })
      else s.after s.arg.t (s.die s.arg.t).agep.toNat (evTK .launchHold s.arg.t l.id) := by
  simp only [launchHold, hl, hstate, bne_self_eq_false, Bool.false_eq_true, if_false]

theorem launchRetranslate_of_unresolved (hn : s.arg.n = 0) (hholds : l.holds = true) : launchRetranslate s = s.rewalk s.arg.t l l.unresolved := by
  simp only [launchRetranslate, hl, hn, hholds, bne_self_eq_false, Bool.false_eq_true, if_false, if_true]

theorem launchRetranslate_of_watch {d : Nat} (hn : s.arg.n = d + 1) (hstate : l.state = .depWait) (hd : d ∈ l.deps) (hres : 2 + d ∉ l.unresolved) :
    launchRetranslate s = s.depWatches s.arg.t l [d] := by
  have hdep : l.deps.contains d = true := List.contains_iff_mem.mpr hd
  have hknown : l.unresolved.contains (2 + d) = false := by simpa using hres
  have hwatch : (d + 1 != 0) = true := bne_iff_ne.mpr d.succ_ne_zero
  simp only [launchRetranslate, hl, hn, hwatch, State.rewatch, Nat.add_sub_cancel, hstate, hdep, hknown, BEq.rfl, Bool.not_false, Bool.and_self, if_true]

end

/-! ### LAUNCH at a die (R313) -/

section
variable {m : Msg} {vd d : Nat} {l : Launch} (hm : s.msg = m) (hvd : eidDie m.src = vd) (hdie : eidDie m.dst = d)
  (hl : s.launch? vd m.aux0.toNat = some l) (hmap : l.mapla = 0)
include hm hvd hdie hl hmap

theorem launch_of_places {sps : List Spot} (hspots : s.spots l.need d l.w l.h l.rect = some sps) :
    launch s = (((List.range sps.length).zip sps).foldl (fun (s : State) p => s.placeCrew vd l m.aux1.toNat p.1 p.2) s).answer .ldoneAccept
      (fun r => { r with aux0 := BitVec.ofNat 64 (0 + m.aux0.toNat % 2 ^ 32 * 2 ^ 32) }) := by
  subst hm hvd hdie
  simp only [launch, hl, hmap, hspots, bne_self_eq_false, Bool.false_and, Bool.false_eq_true, if_false, if_true]
  rfl

theorem launch_of_none (hspots : s.spots l.need d l.w l.h l.rect = none) :
    launch s = s.answer .ldoneRefuse (fun r => { r with aux0 := BitVec.ofNat 64 (1 + m.aux0.toNat % 2 ^ 32 * 2 ^ 32) }) := by
  subst hm hvd hdie
  simp only [launch, hl, hmap, hspots, bne_self_eq_false, Bool.false_and, Bool.false_eq_true, if_false]
  rfl

end

/-! ### What the dies answer (R307, R316) -/

section
variable {vd : Nat} {l : Launch} (hvd : eidDie s.msg.dst = vd) (hl : s.launch? vd (s.msg.aux0.toNat / 2 ^ 32 % 2 ^ 32) = some l)
include hvd hl

theorem ldoneAccept_of_launch (hunit : isComputeTile (eidTile s.msg.dst) = false) :
    ldoneAccept s = ((s.modLaunch vd l.id (fun l => { l with state := .running, hold := false })).cancelAnswers vd l 1).unheld vd l := by
  subst hvd
  have hl' : s.launch? (eidDie s.msg.dst) (dfld s.msg.aux0 32 32) = some l := hl
  simp only [ldoneAccept, hunit, hl', Bool.false_eq_true, if_false]

theorem ldoneRefuse_of_launch (hunit : isComputeTile (eidTile s.msg.dst) = false) (hcancel : l.cancelTo = []) :
    ldoneRefuse s = (s.modLaunch vd l.id (fun l => { l with state := .admitted })).trySend vd { l with state := .admitted } := by
  subst hvd
  have hl' : s.launch? (eidDie s.msg.dst) (dfld s.msg.aux0 32 32) = some l := hl
  simp only [ldoneRefuse, hunit, hl', hcancel, List.isEmpty_nil, Bool.false_eq_true, if_false, if_true]

/-- The launch ends with its last crew. -/
theorem ldoneRetire_of_launch {err : Bool} {u : State} (herr : (l.err || s.msg.aux0.getLsbD 2) = err) (hu : s.setLive vd l.asid (s.live vd l.asid - 1) = u) :
    ldoneRetire s = if 1 < l.left then ((u.modLaunch vd l.id (fun l => { l with left := l.left - 1, err := err })).pokeCapacity).pokeAdmission vd
      else ((u.modLaunch vd l.id (fun l => { l with left := 0, err := err })).endLaunch vd { l with state := .running } (if err then 7 else 0)).pokeCapacity := by
  subst hvd herr hu
  have hl' : s.launch? (eidDie s.msg.dst) (dfld s.msg.aux0 32 32) = some l := hl
  simp only [ldoneRetire, hl']

end

/-! ### Cancels and crews that come back (R317, R333) -/

section
variable {vd pa id : Nat} {u : State} (hvd : iodVd s.arg.t = vd) (hpa : nfld s.arg.desc.toNat 64 56 = pa) (hid : nfld s.arg.desc.toNat 0 32 = id)
  (hu : (if (s.lu vd).chosenAt = some (s.clock vd) then s else s.admitOnce vd) = u)
include hvd hpa hid hu

theorem launchCancel_of_absent (hl : u.launch? vd id = none) : launchCancel s = u.agentResult vd pa 2 := by
  simp only [launchCancel, chosen_iff, hvd, hpa, hid, hu, hl]

section
variable {l : Launch} (hl : u.launch? vd id = some l)
include hl

theorem launchCancel_of_started (hstate : l.state = .running ∨ l.state = .ended) : launchCancel s = u.agentResult vd pa 1 := by
  rcases hstate with hstate | hstate <;> simp only [launchCancel, chosen_iff, hvd, hpa, hid, hu, hl, hstate]

/-- The die that was asked decides. -/
theorem launchCancel_of_sent (hstate : l.state = .sent) : launchCancel s = u.modLaunch vd l.id (fun l => { l with cancelTo := l.cancelTo ++ [pa] }) := by
  simp only [launchCancel, chosen_iff, hvd, hpa, hid, hu, hl, hstate]

theorem launchCancel_of_waiting (hstate : l.state = .check ∨ l.state = .depWait ∨ l.state = .ready ∨ l.state = .admitted) :
    launchCancel s = (u.agentResult vd pa 0).cancelLaunch vd l := by
  rcases hstate with hstate | hstate | hstate | hstate <;> simp only [launchCancel, chosen_iff, hvd, hpa, hid, hu, hl, hstate]

end
end

theorem engcmdReadmit_of_image {im : Image} {vd : Nat} (hvd : eidDie s.msg.dst = vd) (him : s.images.find? (fun im => im.savea == leNat s.msg.data) = some im)
    (hnew : (s.lu vd).readmit.any (fun c => c.id == im.crew.id) = false) :
    engcmdReadmit s = ((s.modLu vd (fun L => { L with readmit := L.readmit ++ [im.crew] })).pokeAdmission vd).answer .engdone id := by
  subst hvd
  simp only [engcmdReadmit, him, hnew, Bool.false_eq_true, if_false]

end

/-- Settles O45: each clause is the branch of its event's function that a lemma above names. -/
theorem launchEvents : Obligations.LaunchEvents := by
  unfold Obligations.LaunchEvents
  intro s a m vd
  refine ⟨?_, ?_, fun hmsg => ?_, fun hmsg hn l hl hstate => ?_, fun hn => ⟨fun hnew => ?_, fun hchosen => ?_⟩, fun hn => ?_, fun hn => ?_,
    fun l hl => ⟨fun hstate hep => ?_, fun hstate hep => ?_, fun hn hholds => ?_, fun d hn hstate hd hres => ?_⟩,
    fun l hl hmap => ⟨fun sps hspots => ?_, fun hspots => ?_⟩,
    fun hunit l hl => ⟨?_, fun hcancel => ?_⟩, fun l hl => ⟨fun hmore => ?_, fun hlast => ?_⟩, rfl, ?_, fun im him hnew => ?_⟩
  · intro v n hlt hvalid
    have hbell := doorbell_of_queue rfl rfl rfl rfl hlt hvalid
    refine ⟨fun hover => ?_, fun hroom hnew => ?_⟩
    · exact congrArg Host.Outcome.next (hbell.trans (if_pos hover))
    · exact congrArg Host.Outcome.next (hbell.trans ((if_neg (Nat.not_lt.mpr hroom)).trans (if_neg hnew)))
  · intro v q head pa ev unit next hmsg hn hsome hspace hdec
    exact ⟨fun w hbytes => congrArg Host.Outcome.next (launchFetch_of_wait hmsg hn rfl rfl rfl hsome rfl hspace hdec rfl hbytes),
      fun w bs hbytes => congrArg Host.Outcome.next (launchFetch_of_record hmsg hn rfl rfl rfl hsome rfl hspace hdec rfl hbytes)⟩
  · exact congrArg Host.Outcome.next (launchFetch_of_spawn rfl rfl hmsg)
  · have hcheck := (launchFetch_of_check hmsg hn).trans (checkGo_of_launch hl hstate)
    refine ⟨fun u hu => ?_, fun st u hu => ?_, fun x u hu => ?_⟩
    · exact congrArg Host.Outcome.next (hcheck.trans (congrArg (settleLaunch _ _ · _) hu))
    · exact congrArg Host.Outcome.next (hcheck.trans (congrArg (settleLaunch _ _ · _) hu))
    · exact congrArg Host.Outcome.next (hcheck.trans ((congrArg (settleLaunch _ _ · _) hu).trans (settleLaunch_of_good rfl rfl)))
  · have hchoice := (admissionChoice_of_cycle hn).trans (if_neg hnew)
    refine ⟨fun v hv => ?_, fun v h0 hv => ?_, fun hnone => ?_⟩
    · exact congrArg Host.Outcome.next (hchoice.trans (admitOnce_of_level0 hv))
    · exact congrArg Host.Outcome.next (hchoice.trans (admitOnce_of_level1 h0 hv))
    · exact congrArg Host.Outcome.next (hchoice.trans (admitOnce_of_none hnone))
  · have hchoice := (admissionChoice_of_cycle hn).trans (if_pos hchosen)
    exact ⟨fun htimed => congrArg Host.Outcome.next (hchoice.trans (if_pos htimed)),
      fun htimed => congrArg Host.Outcome.next (hchoice.trans (if_neg (Bool.not_eq_true _ ▸ htimed)))⟩
  · exact congrArg Host.Outcome.next (admissionChoice_of_capacity hn)
  · exact congrArg Host.Outcome.next (admissionChoice_of_unheld hn)
  · exact congrArg Host.Outcome.next ((launchHold_of_admitted hl hstate).trans (if_pos hep))
  · exact congrArg Host.Outcome.next ((launchHold_of_admitted hl hstate).trans (if_neg hep))
  · exact congrArg Host.Outcome.next (launchRetranslate_of_unresolved hl hn hholds)
  · exact congrArg Host.Outcome.next (launchRetranslate_of_watch hl hn hstate hd hres)
  · exact congrArg Host.Outcome.next (launch_of_places rfl rfl rfl hl hmap hspots)
  · exact congrArg Host.Outcome.next (launch_of_none rfl rfl rfl hl hmap hspots)
  · exact congrArg Host.Outcome.next (ldoneAccept_of_launch rfl hl hunit)
  · exact congrArg Host.Outcome.next (ldoneRefuse_of_launch rfl hl hunit hcancel)
  · exact congrArg Host.Outcome.next ((ldoneRetire_of_launch rfl hl rfl rfl).trans (if_pos hmore))
  · exact congrArg Host.Outcome.next ((ldoneRetire_of_launch rfl hl rfl rfl).trans (if_neg (Nat.not_lt.mpr hlast)))
  · intro v d pa u
    have hid : nfld s.arg.desc.toNat 0 32 = d % 2 ^ 32 := nfld_low _ _
    refine ⟨fun hl => ?_, fun l hl => ⟨fun hstate => ?_, fun hstate => ?_, fun hstate => ?_⟩⟩
    · exact congrArg Host.Outcome.next (launchCancel_of_absent rfl rfl hid rfl hl)
    · exact congrArg Host.Outcome.next (launchCancel_of_started rfl rfl hid rfl hl hstate)
    · exact congrArg Host.Outcome.next (launchCancel_of_sent rfl rfl hid rfl hl hstate)
    · exact congrArg Host.Outcome.next (launchCancel_of_waiting rfl rfl hid rfl hl hstate)
  · exact congrArg Host.Outcome.next (engcmdReadmit_of_image rfl him hnew)

end Sys2Proof.Machine
end

section
/-! O46: each event of a crew that ends, leaves, returns or moves takes the branch that its clause's conditions choose. -/

namespace Sys2Proof.Machine
open Sys2Proof

section
variable {s u : State} {t : Nat} {c : Crew}

/-! ### Retirement (R316) -/

/-- The state in which tile t looks at what its crew, which has ended, still waits for: its entries are given back, its watches cancelled. -/
def State.retiring (s : State) (t : Nat) (c : Crew) : State :=
  let v := s.modCrew c.vd c.id.toNat (fun c => { c with state := 2 })
  c.slots.foldl (fun (s : State) k => s.cancelWatches t k) ((v.crewEntries c).foldl (fun (s : State) e => s.giveBack c e) v)

/-- Nothing of a crew of tile t that has ended is still awaited. -/
structure State.Done (u : State) (t : Nat) (c : Crew) : Prop where
  entries : u.crewEntries c = []
  post : u.postReady c = true
  answers : ∀ k, k ∈ c.slots → ∀ p, p ∈ (u.slot t k).pend → awaited p = false
  works : u.crewWorks c = false
  divider : (u.tile t).div = none

section
variable (hcrew : s.crewAt (vdOf s.arg.t) s.arg.k = some c) (htile : c.tile = s.arg.t) (hstate : c.state = 0) (hended : s.crewLive s.arg.t c.slots = false)
  (hu : s.retiring s.arg.t c = u)
include hcrew htile hstate hended hu

theorem crewRetire_of_done (hdone : u.Done s.arg.t c) {ws : List (Bool × Msg)} {w : State} (hwords : u.takeWords s.arg.t c.slots = (ws, w)) :
    crewRetire s = (((ws.foldl (fun (s : State) x => s.wrackTo x.2) w).crewPost c c.err).vacate c).reportCrew c .ldoneRetire (2 + 4 * b2n c.err) := by
  obtain ⟨hentries, hpost, hanswers, hworks, hdiv⟩ := hdone
  have hquiet : c.slots.any (fun k => (u.slot s.arg.t k).pend.any awaited) = false :=
    List.any_eq_false.mpr fun k hk => Bool.not_eq_true _ ▸ List.any_eq_false.mpr fun p hp => Bool.not_eq_true _ ▸ hanswers k hk p hp
  subst hu
  simp only [State.retiring] at hentries hpost hquiet hworks hdiv hwords
  simp only [crewRetire, hcrew, htile, hstate, hended, hentries, hpost, hquiet, hworks, hdiv, hwords, List.isEmpty_nil, Option.any_none, bne_self_eq_false,
    Bool.not_true, Bool.false_and, Bool.or_self, Bool.false_eq_true, if_false]

theorem crewRetire_of_busy (hworks : u.crewWorks c = true) (htimed : u.timed (evTK .crewRetire s.arg.t c.id.toNat) = false) :
    crewRetire s = u.after c.vd 16 (evTK .crewRetire s.arg.t c.id.toNat) := by
  subst hu
  simp only [State.retiring] at hworks htimed ⊢
  simp only [crewRetire, hcrew, htile, hstate, hended, hworks, htimed, bne_self_eq_false, Bool.false_and, Bool.or_self,
    Bool.or_true, Bool.true_or, Bool.false_eq_true, if_false, if_true]

end

/-! ### Swap (R330, R331) -/

section
variable (hcrew : s.crewAt (vdOf s.arg.t) s.arg.k = some c) (htile : c.tile = s.arg.t)
include hcrew htile

theorem crewSwap_of_fault (hstate : c.state = 0) (hparked : ∀ h, h ∈ c.slots.map (s.slot s.arg.t) → h.live = true → h.run = .parked)
    (hfault : ∃ h, h ∈ c.slots.map (s.slot s.arg.t) ∧ parkedFault h = true ∧ h.parkedAt + (s.die (vdOf s.arg.t)).swapt.toNat < s.clock (vdOf s.arg.t))
    (hgang : s.inGang c = false) (hroom : (s.tile s.arg.t).fwdRoom = true) (hmig : c.mig = none) (htimers : s.timers = []) :
    crewSwap s = (s.modCrew c.vd c.id.toNat (fun c => { c with state := 1, woken := 0, kwake := 0, saved := false })).after c.vd 1
      (evTK .crewSwap s.arg.t c.id.toNat) := by
  have hall : (c.slots.map (s.slot s.arg.t)).all (fun h => !h.live || h.run == .parked) = true :=
    List.all_eq_true.mpr fun h hh => by
      cases hlive : h.live
      · rfl
      · rw [hparked h hh hlive]
        rfl
  have hsome : (c.slots.map (s.slot s.arg.t)).any parkedFault = true := by
    obtain ⟨h, hh, hf, -⟩ := hfault
    exact List.any_eq_true.mpr ⟨h, hh, hf⟩
  have hlong : (c.slots.map (s.slot s.arg.t)).any
      (fun h => parkedFault h && decide (h.parkedAt + (s.die (vdOf s.arg.t)).swapt.toNat < s.clock (vdOf s.arg.t))) = true := by
    simpa only [List.any_eq_true, Bool.and_eq_true, decide_eq_true_eq] using hfault
  have hnone (f : Crew → Crew) : (s.modCrew c.vd c.id.toNat f).timers = [] := htimers
  simp only [crewSwap, hcrew, htile, hstate, hall, hsome, hlong, hgang, hroom, hmig, hnone, List.any_nil, Option.isNone_none, bne_self_eq_false, zero_ne_one,
    Bool.not_true, Bool.not_false, Bool.false_and, Bool.and_self, Bool.or_self, Bool.false_eq_true, if_false, if_true]

section
variable {x : Crew} (hstate : c.state = 1) (hquiet : s.quiesce c = (true, u)) (hx : u.crewAt c.vd c.id.toNat = some x) (hsaving : u.saving x = false)
include hstate hquiet hx hsaving

theorem crewSwap_of_saved (hsaved : x.saved = true) : crewSwap s = u.leaveCrew x := by
  simp only [crewSwap, hcrew, htile, hstate, hquiet, hx, hsaving, hsaved, Option.getD_some, bne_self_eq_false, Bool.and_false, Bool.or_self, Bool.not_true,
    Bool.false_eq_true, if_false, if_true]

theorem crewSwap_of_unsaved (hsaved : x.saved = false) (hlive : u.crewLive s.arg.t c.slots = true) (hfree : u.partHeld s.arg.t x.spbase x.spsize = false)
    (htags : (u.tile s.arg.t).tagsUsed + x.saveSize < tagLimit) {v : State} (hv : u.saveCrew x = v) {ev : Ev} (hev : evTK .crewSwap s.arg.t c.id.toNat = ev) :
    crewSwap s = if v.timers.any (fun p => p.2.2 == ev && decide (p.2.1 ≤ v.clock c.vd + 16)) then v else v.after c.vd 16 ev := by
  subst hv hev
  simp only [crewSwap, hcrew, htile, hstate, hquiet, hx, hsaving, hsaved, hlive, hfree, Nat.not_le.mpr htags, Option.getD_some,
    bne_self_eq_false, Bool.and_false, Bool.false_and, Bool.or_self, Bool.not_true, decide_false, Bool.false_eq_true, if_false, if_true]

end
end

/-! ### Forwarding entries (R334, R335) -/

/-- ENGDONE waits for the writes to n bytes at a. -/
theorem fwdAnswer_of_image {m : Msg} {a n : Nat} (hm : s.msg = m) :
    s.fwdAnswer (some (a, n)) = if s.writeUnderWay a n then s.after (vdOf (eidTile m.dst)) 16 ⟨.engcmdFwdupd, { msg := m, ok := false, v := a, n := n }⟩
      else s.answer .engdone id := by
  subst hm
  rfl

theorem engcmdFwdupd_of_again (hok : s.arg.ok = false) : engcmdFwdupd s = s.fwdAnswer (some (s.arg.v, s.arg.n)) := by
  simp only [engcmdFwdupd, hok, Bool.not_false, if_true]

section
variable {d id : Nat} {up : FwdEntry → FwdEntry} {w : State} (hok : s.arg.ok = true) (ht : eidTile s.msg.dst = t) (hd : leNat s.msg.data = d)
  (hid : d % 2 ^ 32 = id)
  (hup : (fun f : FwdEntry =>
    { f with toTile := true, target := nfld d 32 24, newSlots := (bitsOf 7 f.slots).zip (bitsOf 7 (nfld d 56 7)), newSp := nfld d 64 32
             newOs := nfld d 96 32, at_ := s.clock (vdOf t) }) = up)
  (hw : (s.modTile t (fun T => { T with fwd := updWhere (fun f => f.crew.toNat == id && !f.toTile) up T.fwd })).after (vdOf t) (2 ^ 24)
    ⟨.forwardExpire, { t := t, v := id }⟩ = w)
include hok ht hd hid hup hw

/-- The entry leads to the new tile; the images that the old one led to are waited for. -/
theorem engcmdFwdupd_of_update {old : Option FwdEntry} (hold : (s.tile t).fwd.find? (fun f => f.crew.toNat == id && !f.toTile) = old) :
    engcmdFwdupd s = w.fwdAnswer (old.map (fun f => (s.canon f.target + 0x23100, f.ossize + f.spsize))) := by
  have hcrew : (BitVec.ofNat 32 id).toNat = id := by
    rw [BitVec.toNat_ofNat, ← hid, Nat.mod_mod]
  have hfld : nfld d 0 32 = id := (nfld_low d 32).trans hid
  subst ht hd hup hw hold
  simp only [engcmdFwdupd, hok, State.dstTile, hfld, fwdExpiry, hcrew, Bool.not_true, Bool.false_eq_true, if_false]
  rfl

end

/-! ### Restore (R335) -/

theorem engdone_of_crew {m : Msg} (hm : s.msg = m) (hc : (s.die (eidDie m.dst)).crews.find? (fun c => c.state == 3 && c.id.toNat % 65536 == m.tag) = some c) :
    engdone s = s.emitOnce (evTKN .crewRestore c.lu c.id.toNat 1) := by
  subst hm
  simp only [engdone, hc]

section
variable {im : Image} (him : s.images.find? (fun im => im.crew.id.toNat == s.arg.k) = some im)
include him

theorem crewRestore_of_homeless (hn : s.arg.n = 0) (hgone : s.findCrew im.crew.id.toNat = none) (hhome : s.homeFor im.crew = none) :
    crewRestore s = (s.modLu im.crew.lu (fun L => { L with readmit := im.crew :: L.readmit })).pokeAdmission im.crew.lu := by
  simp only [crewRestore, hn, him, State.restorePlace, hgone, hhome, Option.isSome_none, OfNat.zero_ne_ofNat, Bool.false_eq_true, if_false, if_true]

theorem crewRestore_of_placed (hn : s.arg.n = 1) (hc : s.findCrew s.arg.k = some c) (hstate : c.state = 3) : crewRestore s = s.restoreRun im c := by
  simp only [crewRestore, hn, him, hc, hstate, OfNat.one_ne_ofNat, one_ne_zero, if_false, if_true]

end

/-! ### Migration (R336) -/

section
variable {id v pa : Nat} (hok : s.arg.ok = true) (hid : nfld s.arg.desc.toNat 0 32 = id) (hv : iodVd s.arg.t = v)
include hok hid hv

theorem liveMigration_of_absent (hpa : nfld s.arg.desc.toNat 64 56 = pa) (hgone : s.findCrew id = none) :
    liveMigration s = s.agentResult v pa (if s.images.any (fun im => im.crew.id.toNat == id) then 3 else 2) := by
  simp only [liveMigration, hok, hid, hv, hgone, State.migResult, hpa, if_true]

section
variable (hc : s.findCrew id = some c) (hstate : c.state = 0) (hmig : c.mig = none)
include hc hstate hmig

theorem liveMigration_of_nowhere (hpa : nfld s.arg.desc.toNat 64 56 = pa) (hspot : s.migSpot v c s.arg.desc = none) :
    liveMigration s = s.agentResult v pa 1 := by
  simp only [liveMigration, hok, hid, hv, hc, hstate, hmig, hspot, State.migResult, hpa, Option.isNone_none, Option.isSome_none, bne_self_eq_false, Bool.or_self,
    OfNat.zero_ne_ofNat, Bool.false_eq_true, if_false, if_true]

theorem liveMigration_of_place {sp : Spot} (hspot : s.migSpot v c s.arg.desc = some sp) :
    liveMigration s = (s.modCrew c.vd id (fun c => { c with state := 4, mig := some (v, s.arg.desc) })).emit
      ⟨.liveMigration, { t := c.tile, k := id, ok := false }⟩ := by
  simp only [liveMigration, hok, hid, hv, hc, hstate, hmig, hspot, Option.isNone_some, Option.isSome_none, bne_self_eq_false, Bool.or_self,
    OfNat.zero_ne_ofNat, Bool.false_eq_true, if_false, if_true]

end
end

end

/-- Settles O46: each clause is the branch of its event's function that a lemma above names. -/
theorem crewEvents : Obligations.CrewEvents := by
  unfold Obligations.CrewEvents
  intro s a m t
  refine ⟨fun c hcrew htile hstate => ⟨?_, ?_⟩, fun c x u hcrew htile hstate hquiet hx hsaving => ⟨fun hsaved => ?_, fun hsaved hlive hfree htags => ?_⟩, rfl, ?_,
    fun c hc => ?_,
    fun im him => ⟨fun hn hgone hhome => ?_, fun new hn hc hstate => ?_⟩, ?_⟩
  · intro hended v u
    exact ⟨fun hentries hpost hanswers hworks hdiv =>
        congrArg Host.Outcome.next (crewRetire_of_done hcrew htile hstate hended rfl ⟨hentries, hpost, hanswers, hworks, hdiv⟩ rfl),
      fun hworks htimed => congrArg Host.Outcome.next (crewRetire_of_busy hcrew htile hstate hended rfl hworks htimed)⟩
  · intro hs ev swapt hparked hfault hgang hroom hmig htimers
    exact congrArg Host.Outcome.next (crewSwap_of_fault hcrew htile hstate hparked hfault hgang hroom hmig htimers)
  · exact congrArg Host.Outcome.next (crewSwap_of_saved hcrew htile hstate hquiet hx hsaving hsaved)
  · exact congrArg Host.Outcome.next (crewSwap_of_unsaved hcrew htile hstate hquiet hx hsaving hsaved hlive hfree htags rfl rfl)
  · intro u d id_ up w
    refine ⟨fun hok => ?_, fun hok => ?_⟩
    · refine ⟨fun hnone => congrArg Host.Outcome.next (engcmdFwdupd_of_update hok (t := u) rfl rfl rfl (up := up) rfl rfl hnone), fun f hf => ?_⟩
      have himage := (engcmdFwdupd_of_update hok (t := u) rfl rfl rfl (up := up) rfl (w := w) rfl hf).trans (fwdAnswer_of_image rfl)
      exact ⟨fun hquiet => congrArg Host.Outcome.next (himage.trans (if_neg (Bool.not_eq_true _ ▸ hquiet))),
        fun hbusy => congrArg Host.Outcome.next (himage.trans (if_pos hbusy))⟩
    · have hagain := (engcmdFwdupd_of_again hok).trans (fwdAnswer_of_image rfl)
      exact ⟨fun hquiet => congrArg Host.Outcome.next (hagain.trans (if_neg (Bool.not_eq_true _ ▸ hquiet))),
        fun hbusy => congrArg Host.Outcome.next (hagain.trans (if_pos hbusy))⟩
  · exact congrArg Host.Outcome.next (engdone_of_crew rfl hc)
  · exact congrArg Host.Outcome.next (crewRestore_of_homeless him hn hgone hhome)
  · exact congrArg Host.Outcome.next (crewRestore_of_placed him hn hc hstate)
  · intro v id hok
    have hid : nfld s.arg.desc.toNat 0 32 = id := nfld_low _ _
    refine ⟨fun hgone => ?_, fun c hc hstate hmig => ⟨fun hspot => ?_, fun sp hspot => ?_⟩⟩
    · exact congrArg Host.Outcome.next (liveMigration_of_absent hok hid rfl rfl hgone)
    · exact congrArg Host.Outcome.next (liveMigration_of_nowhere hok hid rfl hc hstate hmig rfl hspot)
    · exact congrArg Host.Outcome.next (liveMigration_of_place hok hid rfl hc hstate hmig hspot)

end Sys2Proof.Machine
end

section
/-! O52: each event of the host, the devices, the network, attestation, boot and reset takes the branch that its clause's conditions choose. -/

namespace Sys2Proof.Machine
open Sys2Proof

section
variable {s : State} {a : Arg} (ha : s.arg = a)

/-! ### BARs (R350) -/

section
include ha

theorem hostBarRead_of_registers {o : Nat} (hk : a.k = 0) (ho : a.v % 2 ^ 29 = o) (hup : s.failed (o / 2 ^ 28) = false) :
    hostBarRead s = s.hostOut (.readDone a.t (s.mmioBytes o a.n)) := by
  simp only [hostBarRead, ha, hk, ho, hup, Bool.false_and, Bool.false_eq_true, if_false]

section
variable {pa : Nat} (hk : a.k = 2) (hpa : a.v % 2 ^ 39 = pa) (hup : s.failed a.t = false) (hdec : s.decodes (iodVd a.t) pa = true)
include hk hpa hup hdec

theorem hostBarRead_of_memory (hfree : s.reserved pa a.n = false) (hok : s.refuses 7 pa a.n false false = none) :
    hostBarRead s = (s.readCheck pa a.n 0).hostOut (.readDone a.t (rdBytes s.mem pa a.n)) := by
  simp only [hostBarRead, ha, hk, hpa, hup, hdec, hfree, hok, Option.isSome_none, Bool.not_true, Bool.false_eq_true, if_false]

theorem hostBarRead_of_refused {c : Nat} (hbad : s.refuses 7 pa a.n false false = some c) :
    hostBarRead s = (s.logError (iodVd a.t) 20 false cBOUND pa 0).hostOut (.completerAbort a.t) := by
  simp only [hostBarRead, ha, hk, hpa, hup, hdec, hbad, Option.isSome_some, Bool.not_true, Bool.false_eq_true, if_false, if_true]

theorem hostBarWrite_of_memory (hfree : s.reserved pa a.bytes.length = false) (hok : s.refuses 7 pa a.bytes.length false true = none) :
    hostBarWrite s = s.perform pa a.bytes := by
  simp only [hostBarWrite, ha, hk, hpa, hup, hdec, hfree, hok, Option.isSome_none, Bool.not_true, Bool.false_eq_true, if_false]

theorem hostBarWrite_of_refused {c : Nat} (hbad : s.refuses 7 pa a.bytes.length false true = some c) :
    hostBarWrite s = s.logError (iodVd a.t) 20 false cBOUND pa 0 := by
  simp only [hostBarWrite, ha, hk, hpa, hup, hdec, hbad, Option.isSome_some, Bool.not_true, Bool.false_eq_true, if_false, if_true]

end

section
variable (h0 : a.k ≠ 0) (h2 : a.k ≠ 2) (h4 : a.k ≠ 4)
include h0 h2 h4

theorem hostBarRead_of_noBar : hostBarRead s = s.hostOut (.completerAbort a.t) := by
  simp only [hostBarRead, ha]

theorem hostBarWrite_of_noBar : hostBarWrite s = s := by
  simp only [hostBarWrite, ha]

end
end

/-! ### Power states (R349) -/

/-- Some launch of the package has not ended. -/
def State.launching (s : State) : Prop := ∃ v, (v = 8 ∨ v = 9) ∧ ∃ l, l ∈ (s.lu v).launches ∧ l.state ≠ .ended

theorem pcieD3hot_of_request {d3 : Bool} (hd3 : d3 = true ↔ s.arg.v = 3 ∧ ¬s.launching) :
    pcieD3hot s = (s.modDie (iodVd s.arg.t) (fun D => { D with d3 := d3 })).hostOut (.powerState s.arg.t (if d3 then 3 else 0)) := by
  have hbusy : [8, 9].any (fun vd => (s.lu vd).launches.any (fun l => l.state != .ended)) = true ↔ s.launching := by
    simp only [State.launching, List.any_eq_true, List.mem_cons, List.not_mem_nil, or_false, bne_iff_ne]
  have hd : (s.arg.v == 3 && !([8, 9].any (fun vd => (s.lu vd).launches.any (fun l => l.state != .ended)))) = d3 := by
    rw [Bool.eq_iff_iff, hd3, Bool.and_eq_true, beq_iff_eq, Bool.not_eq_true', ← Bool.not_eq_true, hbusy]
  simp only [pcieD3hot, hd]

/-! ### Attestation (R359, R360) -/

theorem extend_of_data (hlo : 7 ≤ s.arg.k) (hhi : s.arg.k ≤ 15) (hlen : s.arg.bytes.length = 64) {u : State} (hu : s.extendMr s.arg.k s.arg.bytes = u) :
    extend s = u.hostOut (.doe s.arg.t (digestBytes (u.mr s.arg.k))) := by
  simp only [extend, Nat.not_lt.mpr hlo, Nat.not_lt.mpr hhi, hlen, hu, decide_false, bne_self_eq_false, Bool.or_self, Bool.false_eq_true, if_false]

theorem extend_of_bad (hbad : s.arg.k < 7 ∨ 15 < s.arg.k ∨ s.arg.bytes.length ≠ 64) : extend s = s.hostOut (.doeError s.arg.t) := by
  have hrefused : (decide (s.arg.k < 7) || decide (15 < s.arg.k) || s.arg.bytes.length != 64) = true := by
    simpa only [Bool.or_eq_true, decide_eq_true_eq, bne_iff_ne, or_assoc] using hbad
  simp only [extend, hrefused, if_true]

/-! ### The network (R354, R356) -/

section
variable {q : Nat} {r : NetReq} (hq : s.arg.k = q) (hr : s.netFind (netVd q) q s.arg.n = some r) (hsent : r.sent = true)
include hq hr hsent

theorem retransmissionExhaustion_of_sent : retransmissionExhaustion s = s.netFail (netVd q) r := by
  simp only [retransmissionExhaustion, hq, hr, hsent, if_true]

theorem netWriteAck_of_write (hop : wrOp r.w = 0) : netWriteAck s = s.netDone (netVd q) r := by
  simp only [netWriteAck, hq, hr, hsent, hop, decide_true, Bool.and_self, if_true]

theorem netReadData_of_read (hop : wrOp r.w = 1) (hnone : r.data = []) :
    netReadData s = (s.modNet (netVd q) r.id (fun r => { r with data := s.arg.bytes.take (wrLen r.w) })).emitOnce (netEvent (netVd q) r.id) := by
  simp only [netReadData, hq, hr, hsent, hop, hnone, List.isEmpty_nil, bne_self_eq_false, Bool.not_true, Bool.or_self, Bool.false_eq_true, if_false]

end

/-- A request of a network engine takes its next step: nothing of it is under way or came back, and no other goes before it. -/
structure NetReq.Steps (r : NetReq) (s : State) (vd id : Nat) : Prop where
  listed : (s.die vd).net.find? (fun r => r.id == id) = some r
  running : (s.die vd).stopped = false
  idle : s.unitBusy (s.netUnit vd r) = false
  first : s.netBehind vd r = false
  answered : (s.die vd).outs.find? (fun o => o.ev == (s.netUnit vd r).ev && o.path < 16 && o.got.isSome) = none
  room : s.unitFull vd (s.netUnit vd r).ag = false
  sent : r.sent = true

section
variable {vd id : Nat} {r : NetReq} (h : r.Steps s vd id)
include h

theorem netStep_of_step : netStep vd id s = s.netNext vd r := by
  obtain ⟨hr, hrun, hidle, hfirst, hnone, -, -⟩ := h
  simp only [netStep, hr, hrun, hidle, hfirst, hnone, Bool.or_self, Bool.false_eq_true, if_false]

/-- A request that has been sent takes none of the steps before its sending. -/
theorem NetReq.Steps.not_unsent (p : Bool) : ¬(!r.sent && p) = true := by
  rw [h.sent]
  exact Bool.false_ne_true

theorem netNext_of_performed (hend : r.data.length ≤ r.at_) (hsome : r.incoming = true ∨ r.data ≠ []) : s.netNext vd r = s.netDone vd r := by
  have hdone : (r.incoming || !r.data.isEmpty) = true := by
    simpa only [Bool.or_eq_true, Bool.not_eq_true', List.isEmpty_eq_false_iff] using hsome
  have hsent : ¬(!r.sent) = true := Bool.and_true (!r.sent) ▸ h.not_unsent true
  unfold State.netNext
  rw [if_neg (Bool.not_eq_true _ ▸ h.room), if_neg (h.not_unsent _), if_neg (h.not_unsent _), if_neg hsent, if_pos hend, if_pos hdone]

/-- The bytes go out up to the end of a line of 256. -/
theorem netNext_of_place (hmore : r.at_ < r.data.length) {pa : Nat} {v : State} (hplace : s.netPlace vd r r.at_ r.data.length 5 = (some (.ok pa), v))
    {bs : List Byte} (hbs : (r.data.drop r.at_).take (min (r.data.length - r.at_) (256 - pa % 256)) = bs) :
    s.netNext vd r = (v.unitPut (s.netUnit vd r) pa ((s.netLa vd r + r.at_) % 2 ^ 48) bs).modNet vd r.id (fun r => { r with at_ := r.at_ + bs.length }) := by
  have hsent : ¬(!r.sent) = true := Bool.and_true (!r.sent) ▸ h.not_unsent true
  unfold State.netNext
  rw [if_neg (Bool.not_eq_true _ ▸ h.room), if_neg (h.not_unsent _), if_neg (h.not_unsent _), if_neg hsent, if_neg (Nat.not_le.mpr hmore)]
  simp only [hplace, hbs]

end

theorem engineStep_of_net (h : s.arg.k = 7) : engineStep s = netStep s.arg.t s.arg.v s := by
  simp [engineStep, h]

section
variable {vd e : Nat} (hvd : iodVd s.arg.t = vd) (he : s.rxW s.arg.t s.arg.k 0 = e)
include hvd he

theorem netIncomingWrite_of_refused (hbad : e.testBit 0 = false ∨ s.rxW s.arg.t s.arg.k 2 % 2 ^ 32 < s.arg.v + s.arg.bytes.length) :
    netIncomingWrite s = s.ethOut (.refuse vd s.arg.n) := by
  have hrefused : (!e.testBit 0 || decide (nfld (s.rxW s.arg.t s.arg.k 2) 0 32 < s.arg.v + s.arg.bytes.length)) = true := by
    simpa only [Bool.or_eq_true, Bool.not_eq_true', decide_eq_true_eq, nfld_low] using hbad
  simp only [netIncomingWrite, hvd, he, hrefused, if_true]

theorem netIncomingWrite_of_good (hvalid : e.testBit 0 = true) (hroom : s.arg.v + s.arg.bytes.length ≤ s.rxW s.arg.t s.arg.k 2 % 2 ^ 32)
    {id : Nat} (hid : (s.die vd).netSeq = id) {r : NetReq}
    (hr : { q := 2048 + s.arg.k % 2048, n := s.arg.n, wr := leBytes 64 (if s.arg.ok then 4 else 0), ctx := noCtx, id := id
            off := s.arg.v, at_ := 0, data := s.arg.bytes, sent := true } = r) :
    netIncomingWrite s = (s.modDie vd (fun D => { D with net := D.net ++ [r], netSeq := id + 1 })).emitOnce (netEvent vd id) := by
  have hkind : 4 * b2n s.arg.ok = if s.arg.ok then 4 else 0 := by
    cases s.arg.ok <;> rfl
  subst hid hr
  simp only [netIncomingWrite, hvd, he, hvalid, nfld_low, Nat.not_lt.mpr hroom, hkind, Bool.not_true, decide_false, Bool.or_self, Bool.false_eq_true, if_false]

end

/-! ### Completions (R43, R351) -/

theorem ioAnswer_of_none (hnone : (s.die s.arg.t).ioWait.find? (fun w => w.1 == s.arg.k) = none) : ioAnswer s = s := by
  simp only [ioAnswer, hnone]

section
variable {n pa : Nat} {ev : Ev} {u : State} (hw : (s.die s.arg.t).ioWait.find? (fun w => w.1 == s.arg.k) = some (n, pa, ev))
  (hu : { s.modDie s.arg.t (fun D => { D with ioWait := dropFirst (fun w => w.1 == s.arg.k) D.ioWait }) with arg := ev.arg } = u)
include hw hu

theorem ioAnswer_of_watch (hi : ev.i = .watchInstall) : ioAnswer s = u.watchWith pa (leNat (s.arg.bytes.take 8)) := by
  subst hu
  simp only [ioAnswer, hw, hi]

section
variable {m : Msg} (hm : ev.arg.msg = m)
include hm

theorem ioAnswer_of_post (hi : ev.i = .cwpost) (hok : s.arg.ok = true) :
    ioAnswer s = ((u.performOut (eidDie m.dst) pa (leBytes 8 (postValue (leNat (s.arg.bytes.take 8)) m.aux0.toNat (m.attr.getLsbD 0)))).unreserve pa
      { m with len := 7 }).answer .wrack id := by
  subst hu hm
  simp only [ioAnswer, hw, hi, hok, State.postOutside, Bool.not_true, Bool.false_eq_true, if_false]
  rfl

section
variable {bad : Nat} (hbad : (if s.arg.ok then 0 else if s.arg.v = 0 then 2 ^ cdiv (m.len + 1) 64 - 1 else s.arg.v) = bad)
include hbad

theorem ioAnswer_of_read (hi : ev.i = .rd) : ioAnswer s = u.readAnswer (s.arg.bytes.take (m.len + 1)) bad := by
  subst hu hm hbad
  simp only [ioAnswer, hw, hi]

theorem ioAnswer_of_reservation (hi : ev.i = .rsv) :
    ioAnswer s = if spaceOf pa = 2 then (u.readAnswer (s.arg.bytes.take 4) bad).unreserve pa m
      else u.answer .rsvgnt (fun r => { r with aux0 := BitVec.ofNat 64 (leNat (s.arg.bytes.take 8)), attr := BitVec.ofNat 32 (min bad 1) }) := by
  subst hu hm hbad
  simp only [ioAnswer, hw, hi]

end
end
end

/-! ### Boot (R357, R358) -/

section
variable {b : BootInput} {u : State} (hb : s.arg.boot = b) (hu : { s with boot := b, pkg := b.pkg % 4096 } = u)
include hb hu

theorem boot_of_badSignature (hbad : b.signatureGood = false) : boot s = (u.setReg 0 BOOTST bootFAILED).setReg 1 BOOTST bootFAILED := by
  subst hb hu
  simp only [boot, hbad, Bool.not_false, if_true]

section
variable {dies comp : List Nat} {u0 : State} (hgood : b.signatureGood = true) (hdies : assignedDies b = dies) (hcomp : dies.filter (· < 4) = comp)
  (hu0 : u.extendMr 0 (digestBytes b.imageDigest) = u0)
include hgood hdies hcomp hu0

theorem boot_of_noCompute (hnone : comp = []) : boot s = u0.setReg 0 BOOTST bootFAILED := by
  subst hb hu hdies hu0 hcomp
  simp only [boot, hgood, hnone, Bool.not_true, Bool.false_eq_true, if_false]

/-- The dies are measured, their routes and links set up, the topology table written, and the ends of the boot reported. -/
theorem boot_of_compute {v : Nat} {rest : List Nat} (hfirst : comp = v :: rest) {tab : List Byte} (htab : topoTable u.pkg dies = tab) {u1 u2 : State}
    (hu1 : ((comp.foldl (fun (s : State) d => s.measureFree (2 + d)) (if 9 ∈ dies then u0.measureFree 1 else u0)).extendMr 6 tab).bootDrt dies = u1)
    (hu2 : ((dies.foldl (fun (s : State) d => s.modDie d (fun D => { D with vdAssigned := some (d, u1.pkg), enabled := true })) u1).bootLinks dies).homeWrite
      (v * 2 ^ 37) tab = u2) :
    boot s = (dies.filter (8 ≤ ·)).foldl (fun (s : State) d => (s.setReg (d - 8) BOOTST 3).setReg (d - 8) TOPOPA (v * 2 ^ 37))
      (if 9 ∈ dies then u2 else u2.setReg 1 BOOTST 2) := by
  subst hb hu hdies hu0 hcomp htab hu1 hu2
  simp only [boot, hgood, hfirst, List.contains_iff_mem, Bool.not_true, Bool.false_eq_true, if_false]
  rfl

end
end
end

/-- Settles O52: each clause is the branch of its event's function that a lemma above names. -/
theorem hostAndNetworkEvents : Obligations.HostAndNetworkEvents := by
  unfold Obligations.HostAndNetworkEvents
  intro s a
  refine ⟨?_, ?_, fun h0 h2 h4 => ⟨?_, ?_⟩, rfl, ?_, rfl, rfl, fun hlo hhi hlen => ?_, fun hbad => ?_, rfl, rfl, ?_, ?_, ?_, ?_, rfl, ?_⟩
  · intro o hk hup
    exact congrArg Host.Outcome.next (hostBarRead_of_registers rfl hk rfl hup)
  · intro pa hk hup
    refine ⟨fun hdec hfree hok => ?_, fun c hdec hbad => ?_, fun c hdec hbad => ?_, fun hdec hfree hok => ?_⟩
    · exact congrArg Host.Outcome.next (hostBarRead_of_memory rfl hk rfl hup hdec hfree hok)
    · exact congrArg Host.Outcome.next (hostBarRead_of_refused rfl hk rfl hup hdec hbad)
    · exact congrArg Host.Outcome.next (hostBarWrite_of_refused rfl hk rfl hup hdec hbad)
    · exact congrArg Host.Outcome.next (hostBarWrite_of_memory rfl hk rfl hup hdec hfree hok)
  · exact congrArg Host.Outcome.next (hostBarRead_of_noBar rfl h0 h2 h4)
  · exact congrArg Host.Outcome.next (hostBarWrite_of_noBar rfl h0 h2 h4)
  · intro busy
    refine ⟨fun h3 hidle => ?_, fun hother => ?_⟩
    · exact congrArg Host.Outcome.next (pcieD3hot_of_request (d3 := true) (iff_of_true rfl ⟨h3, hidle⟩))
    · exact congrArg Host.Outcome.next (pcieD3hot_of_request (d3 := false) (iff_of_false Bool.false_ne_true fun h => hother.elim (absurd h.1) h.2))
  · exact congrArg Host.Outcome.next (extend_of_data hlo hhi hlen rfl)
  · exact congrArg Host.Outcome.next (extend_of_bad hbad)
  · intro q vd r hr hsent
    have hop : wrOp r.w = leNat (r.wr.take 64) % 4 := nfld_low _ 2
    refine ⟨?_, fun hwrite => ?_, fun hread hnone => ?_⟩
    · exact congrArg Host.Outcome.next (retransmissionExhaustion_of_sent rfl hr hsent)
    · exact congrArg Host.Outcome.next (netWriteAck_of_write rfl hr hsent (hop.trans hwrite))
    · exact congrArg Host.Outcome.next (netReadData_of_read rfl hr hsent (hop.trans hread) hnone)
  · intro r vd u hk hr hrun hidle hfirst
    refine ⟨fun hnone hroom hsent hend hsome => ?_, fun hnone hroom hsent hmore pa v hplace => ?_⟩
    · have hsteps : r.Steps s vd a.v := ⟨hr, hrun, hidle, hfirst, hnone, hroom, hsent⟩
      exact congrArg Host.Outcome.next ((engineStep_of_net hk).trans ((netStep_of_step hsteps).trans (netNext_of_performed hsteps hend hsome)))
    · have hsteps : r.Steps s vd a.v := ⟨hr, hrun, hidle, hfirst, hnone, hroom, hsent⟩
      exact congrArg Host.Outcome.next ((engineStep_of_net hk).trans ((netStep_of_step hsteps).trans (netNext_of_place hsteps hmore hplace rfl)))
  · intro vd e id_
    exact ⟨fun hbad => congrArg Host.Outcome.next (netIncomingWrite_of_refused rfl rfl hbad),
      fun hvalid hroom => congrArg Host.Outcome.next (netIncomingWrite_of_good rfl rfl hvalid hroom rfl rfl)⟩
  · intro i hi
    have hanswer : exec i s = .next (ioAnswer s) := by
      rcases hi with rfl | rfl
      · rfl
      · rfl
    refine ⟨fun hnone => hanswer.trans (congrArg Host.Outcome.next (ioAnswer_of_none hnone)), fun n pa ev hw => ?_⟩
    intro u m bad
    refine ⟨fun hi => ?_, fun hi hspace => ?_, fun hi hspace => ?_, fun hi hok => ?_, fun hi => ?_⟩
    · exact hanswer.trans (congrArg Host.Outcome.next (ioAnswer_of_read hw rfl rfl rfl hi))
    · exact hanswer.trans (congrArg Host.Outcome.next ((ioAnswer_of_reservation hw rfl rfl rfl hi).trans (if_pos hspace)))
    · exact hanswer.trans (congrArg Host.Outcome.next ((ioAnswer_of_reservation hw rfl rfl rfl hi).trans (if_neg hspace)))
    · exact hanswer.trans (congrArg Host.Outcome.next (ioAnswer_of_post hw rfl rfl hi hok))
    · exact hanswer.trans (congrArg Host.Outcome.next (ioAnswer_of_watch hw rfl hi))
  · intro u
    refine ⟨fun hbad => congrArg Host.Outcome.next (boot_of_badSignature rfl rfl hbad), ?_⟩
    intro dies comp u0 tab
    refine ⟨fun hgood hnone => congrArg Host.Outcome.next (boot_of_noCompute rfl rfl hgood rfl rfl rfl hnone), fun v rest hgood hfirst => ?_⟩
    exact congrArg Host.Outcome.next (boot_of_compute rfl rfl hgood rfl rfl rfl hfirst rfl rfl rfl)

end Sys2Proof.Machine
end
